-- ==== Sys2Proof/Word.lean ====
section
/-! DEFINITION. The word types of the Lysnik and their plainest arithmetic (R6, R7, R13). -/

namespace Sys2Proof

/-- A 32-bit register (R13). -/
abbrev Word := BitVec 32

/-- A byte of memory (R7). -/
abbrev Byte := BitVec 8

/-- The 128 bytes of a coherence block, byte k in bits 8k+7:8k (R265, R7). -/
abbrev BlockData := BitVec 1024

/-- The 64 bytes of a sector (R243). -/
abbrev SectorData := BitVec 512

/-- The 256 bytes of a line or of a launch record (R188, R211). -/
abbrev LineData := BitVec 2048

/-- The 2,048 bytes of a DRAM row (R320). -/
abbrev RowData := BitVec 16384

/-- The value of a word as a natural number: nat(x) of the manual. -/
abbrev nat (x : Word) : Nat := x.toNat

/-- The value of a word as two's complement: sgn(x) of the manual. -/
abbrev sgn (x : Word) : Int := x.toInt

end Sys2Proof
end

