-- ==== Sys2Proof/Fields.lean ====
section
/-! DEFINITION. The operand types of instructions and events: encoded fields turned into names (R29, R30, R38), and the
parties and messages that events name (R266, R269, R279). -/

namespace Sys2Proof

/-- A register field of 6 bits, v0 to v63 (R29). -/
abbrev Reg := BitVec 6
/-- A register field of `movx`, v0 to v255 (R33). -/
abbrev Reg8 := BitVec 8
/-- A predicate, p0 to p7 (R30). -/
abbrev Pred := BitVec 3
/-- A format slot, fmt0 to fmt7 (R110). -/
abbrev Slot := BitVec 3
/-- A record slot, b0 to b31 (R178). -/
abbrev Rec := BitVec 5
/-- A tile handle, h0 to h255 (R140). -/
abbrev Handle := BitVec 8

/-- The guard of a 32-bit instruction (R28). `pos 7` is the unconditional guard; `neg 7` is the reserved one. -/
inductive Guard where
  | pos (p : Pred)
  | neg (p : Pred)
  deriving DecidableEq, Repr

/-- The condition codes of the compares (R96). -/
inductive Cond where
  | eq | ne | lt | le | gt | ge
  deriving DecidableEq, Repr

/-- The condition of `wait` (R227). -/
inductive WaitCond where
  | eq | ne
  deriving DecidableEq, Repr

/-- The waited-party class of a blocking instruction (R17, R30). -/
inductive Class where
  | conc | par | own
  deriving DecidableEq, Repr

/-- The scopes (R12, R30, R242). -/
inductive Scope where
  | fib | grp | team | core | die | pkg | dom | sys
  deriving DecidableEq, Repr

/-- The order-and-scope code (R30); `.rlx` carries no scope. -/
inductive OrdScope where
  | rlx
  | acq (sc : Scope)
  | rel (sc : Scope)
  | ar (sc : Scope)
  deriving DecidableEq, Repr

/-- The state awaited by `hwait`, and the state of a handle (R35, R140). -/
inductive HState where
  | free | filling | full | draining
  deriving DecidableEq, Repr

/-- The access widths of major 0x2E (R183). -/
inductive Width where
  | s8 | n8 | s16 | n16 | w64
  deriving DecidableEq, Repr

/-- The special registers (R38). -/
inductive SpecialReg where
  | fid | lane | hgrp | team | nteam | core | die | dev | depth | cls | ltime | mtime
  | orient | cause | faddr | fmask | epc | rpath
  deriving DecidableEq, Repr

/-- The operations of atomics and reductions (R34, R130, R187). -/
inductive AtomOp where
  | addS32 | addF32 | minS32 | maxS32 | minN32 | maxN32 | and | or | xor | exch | cas
  deriving DecidableEq, Repr

/-- The four parts (R1). -/
inductive Part where
  | tly8P | tly8M | tly8H | tly1E
  deriving DecidableEq, Repr

/-- A place that may hold tokens of a block (R266). -/
inductive Place where
  /-- The memory controller of the block's channel. -/
  | home
  /-- One die: its L2 slices and its cores' L1s. -/
  | die (d : Nat)
  /-- The core of a published window. -/
  | pubCore (c : Nat)
  /-- The row and near-bank engine of one channel of one stack. -/
  | engine (stack channel : Nat)
  /-- The migration puller at the homes of one die. -/
  | puller (d : Nat)
  /-- The host bridge. -/
  | bridge
  deriving DecidableEq, Repr

/-- A party of the token protocol: a place on a device of the domain. -/
structure Party where
  dev : Nat
  place : Place
  deriving DecidableEq, Repr

/-- What a requester asks for: tokens to read, all tokens, or the pole alone (R270, R326). -/
inductive WantKind where
  | read | write | pole
  deriving DecidableEq, Repr

/-- How a remote operation ended (R306 to R316). -/
inductive RemStatus where
  | ok | unreachable | notBacked | dataError | queueFull | queueOff | noWindow | passed | refused | partialLine
  deriving DecidableEq, Repr

/-- Where the flag of a flagged store lies (R312). -/
structure FlagWord where
  dev : Nat
  pa : Nat
  deriving DecidableEq, Repr

/-- The content of a message between parties (R260, R269, R277 to R285, R306 to R316). -/
inductive Body where
  /-- A try of `req` for `blk` under `tag` (R277). -/
  | tryTok (blk : Nat) (kind : WantKind) (req : Party) (tag : Nat)
  /-- A serial notice (R282). -/
  | notice (blk : Nat) (serial : BitVec 8) (tag : Nat)
  /-- Tokens, with the pole and the data when it travels (R269). -/
  | tokens (blk : Nat) (serial : BitVec 8) (n : Nat) (pole dirty : Bool) (data : Option BlockData) (tag : Nat)
  /-- A persistent request of `req` under `tag` (R269, R279). -/
  | persist (blk : Nat) (req : Party) (key : Nat) (tag : Nat)
  /-- The home's table is full: the request is to be sent again (R279). -/
  | persistFull (blk : Nat) (tag : Nat)
  /-- An activation (R279, R280). -/
  | activate (blk : Nat) (req : Party) (key : Nat) (tag : Nat)
  /-- A deactivation (R279). -/
  | deactivate (blk : Nat) (req : Party) (key : Nat) (tag : Nat)
  /-- An audit (R284). -/
  | audit (blk : Nat) (serial : BitVec 8)
  /-- A party's answer to an audit (R284). -/
  | report (blk : Nat) (n : Nat) (pole dirty : Bool) (data shadow : Option BlockData)
  /-- The home drops a party's tokens during a recreation (R285). -/
  | invalidate (blk : Nat)
  | invAck (blk : Nat)
  /-- The end of an audit; `serial` is the home's serial (R284, R318). -/
  | unfreeze (blk : Nat) (serial : BitVec 8)
  /-- The receiver acknowledges a dirty pole (R271). -/
  | poleAck (blk : Nat)
  /-- A publish request and its notice (R132, R209). -/
  | publishReq (blk : Nat) (req : Party) (tag : Nat)
  | publishNotice (blk : Nat)
  /-- A remote load of the sectors `mask` of the line at `pa`, and its response (R306, R307). -/
  | loadReq (pa : Nat) (mask : BitVec 4) (tag : Nat) (epoch : BitVec 4)
  | loadResp (tag : Nat) (epoch : BitVec 4) (st : RemStatus) (data : LineData)
  /-- An atomic or reduction lane sent to its home, and its answer (R281, R306). -/
  | atomReq (pa : Nat) (op : AtomOp) (x y : Word) (tag : Nat) (epoch : BitVec 4)
  | atomResp (tag : Nat) (epoch : BitVec 4) (st : RemStatus) (old : Word)
  /-- A posted line: the bytes of `mask` at `pa` (R308). -/
  | posted (id : Nat) (pa : Nat) (mask : BitVec 256) (data : LineData)
  /-- A posted reduction of one word (R308). -/
  | postedRed (id : Nat) (pa : Nat) (op : AtomOp) (x : Word)
  | postedAck (id : Nat) (st : RemStatus)
  /-- A store line that carries its blocks' tokens (R316). -/
  | storeLine (id : Nat) (blks : List (Nat × BitVec 8 × BlockData)) (num : Option Nat)
  /-- The data word of a flagged store (R312). -/
  | flagData (id : Nat) (pa : Nat) (w : Word) (flag : Option FlagWord)
  /-- The flag update of a flagged store (R312). -/
  | flagUpd (id : Nat) (pa : Nat)
  | flagAck (id : Nat) (isFlag : Bool) (st : RemStatus)
  /-- One line of a push to the window at `pa`; `last` carries the bytes delivered, and `lines` the places of all its lines; none
  with the end of a stopped push (R148, R313). -/
  | push (id : Nat) (pa : Nat) (data : LineData) (last : Option Nat) (lines : List Nat)
  | pushAck (id : Nat) (st : RemStatus)
  /-- A contribution with its index (R155, R156). -/
  | contrib (id : Nat) (pa : Nat) (index : Nat) (words : List Word)
  /-- A noted sender's turn has come (R156). -/
  | wake (id : Nat)
  /-- A launch line with its number from its source to the queue (R315). -/
  | launchLine (id : Nat) (q : Nat) (num : Nat) (rec : LineData)
  /-- The class question of a kind-2 `wait`, and its answer (R227). -/
  | partyAsk (launch : Nat) (cls : Class) (team fib : Nat)
  | partyAns (team fib : Nat) (legal : Bool)
  /-- An outside access to a published block, by its home device and physical address: 2^52 × home + address (R132); a load also asks the owner
  of a block for its current value (R295). -/
  | pubLoad (pa : Nat) (tag : Nat) (epoch : BitVec 4)
  | pubStore (id : Nat) (pa : Nat) (mask : BitVec 256) (data : LineData)
  | pubAtom (pa : Nat) (op : AtomOp) (x y : Word) (tag : Nat) (epoch : BitVec 4)
  deriving DecidableEq, Repr

/-- The blocks whose data a message carries with tokens. -/
def Body.dataBlocks : Body → List Nat
  | .tokens blk _ _ _ _ (some _) _ => [blk]
  | .storeLine _ bs _ => bs.map fun b => b.1
  | _ => []

/-- The block that a message to a home concerns, or that its line begins with. -/
def Body.block? (home : Nat) : Body → Option Nat
  | .tryTok blk _ _ _ => some blk
  | .notice blk _ _ => some blk
  | .tokens blk _ _ _ _ _ _ => some blk
  | .persist blk _ _ _ => some blk
  | .persistFull blk _ => some blk
  | .activate blk _ _ _ => some blk
  | .deactivate blk _ _ _ => some blk
  | .audit blk _ => some blk
  | .report blk _ _ _ _ _ => some blk
  | .invalidate blk => some blk
  | .invAck blk => some blk
  | .unfreeze blk _ => some blk
  | .poleAck blk => some blk
  | .publishReq blk _ _ => some blk
  | .publishNotice blk => some blk
  | .loadReq pa _ _ _ => some (home * 2 ^ 45 + pa / 128)
  | .atomReq pa _ _ _ _ _ => some (home * 2 ^ 45 + pa / 128)
  | .posted _ pa _ _ => some (home * 2 ^ 45 + pa / 128)
  | .postedRed _ pa _ _ => some (home * 2 ^ 45 + pa / 128)
  | .storeLine _ bs _ => bs.head?.map fun b => b.1
  | .flagData _ pa _ _ => some (home * 2 ^ 45 + pa / 128)
  | .flagUpd _ pa => some (home * 2 ^ 45 + pa / 128)
  | .push _ pa _ _ _ => some (pa / 128)
  | .contrib _ pa _ _ => some (pa / 128)
  | .launchLine _ line _ _ => some (home * 2 ^ 45 + 2 * line)
  | .pubLoad pa _ _ => some (pa / 128)
  | .pubStore _ pa _ _ => some (pa / 128)
  | .pubAtom pa _ _ _ _ _ => some (pa / 128)
  | _ => none

/-- A message in flight (R269, R304). -/
structure Msg where
  id : Nat
  src : Party
  dst : Party
  body : Body
  /-- Age in meridian ticks (R304). -/
  age : Nat
  /-- Blocks whose data it carries and that are poisoned (R191, R285). -/
  poison : List Nat
  /-- Halves of a block of host memory: with data, those that are valid; of a try, those asked for (R293). -/
  halves : BitVec 2
  /-- Its party has taken it up within 1 ms: it waits there, and is no longer on its way (R304). -/
  taken : Bool
  /-- A port that it waited at has failed: relay buffers keep places for it (R305). -/
  rerouted : Bool
  /-- The block that an answer concerns, whose body does not say it (R300). -/
  about : Option Nat := none
  deriving DecidableEq, Repr

/-- What one port receives at the start of a slot (R302): nothing, or the peer's device and port numbers, and whether the peer's relay buffer
lacks room (R303). -/
inductive Exchange where
  | silent
  | numbers (dev : BitVec 10) (port : BitVec 5) (full : Bool)
  deriving DecidableEq, Repr

/-- The host's grant of a host line (R293). -/
inductive Grant where
  | i | s | e | m
  deriving DecidableEq, Repr

/-- A core view or a die view (R243). -/
inductive View where
  | core (c : Nat)
  | die (d : Nat)
  deriving DecidableEq, Repr

/-- A location whose corrected errors are counted (R350). -/
inductive Location where
  | dramRow (pa : BitVec 52)
  | laneColumn (core lane : Nat)
  | l2Slice (die slice : Nat)
  | fabricPort (p : Nat)
  | dieLink (d e : Nat)
  deriving DecidableEq, Repr

/-- The two signing keys of the device (R348). -/
inductive SignUse where
  | identity | attestation
  deriving DecidableEq, Repr

/-- What the host asks of a device line it caches (R296). -/
inductive HostCacheReq where
  | shared | exclusive | writeBack
  deriving DecidableEq, Repr

end Sys2Proof
end

