-- ==== Sys2Proof/Syntax.lean ====
section
/-! DEFINITION. The instructions and events of the Lysnik: one constructor for each row of the opcode table. -/

namespace Sys2Proof

/-- One instruction word of a bundle (R25, R27 to R38), or one event of the machine (R10, chapter 95).
A 32-bit instruction carries its guard first; its other operands stand in the order of its word, high bits first. -/
inductive Instr where
  -- Compact instructions (R25, R26).
  | movC16 (b : BitVec 5) (d : Reg)
  | moviC16 (imm : BitVec 5) (d : Reg)
  | addC16 (b : BitVec 5) (d : Reg)
  | addiC16 (imm : BitVec 5) (d : Reg)
  | subC16 (b : BitVec 5) (d : Reg)
  | mulLoC16 (b : BitVec 5) (d : Reg)
  | andC16 (b : BitVec 5) (d : Reg)
  | orC16 (b : BitVec 5) (d : Reg)
  | xorC16 (b : BitVec 5) (d : Reg)
  | shlC16 (b : BitVec 5) (d : Reg)
  | shrC16 (b : BitVec 5) (d : Reg)
  | minS32C16 (b : BitVec 5) (d : Reg)
  | maxS32C16 (b : BitVec 5) (d : Reg)
  | faddC16 (b : BitVec 5) (d : Reg)
  | fmulC16 (b : BitVec 5) (d : Reg)
  | fmaxC16 (b : BitVec 5) (d : Reg)
  -- Integer arithmetic (R99, R100).
  | add (g : Guard) (b : Reg) (a : Reg) (d : Reg)
  | addc (g : Guard) (b : Reg) (a : Reg) (d : Reg)
  | sub (g : Guard) (b : Reg) (a : Reg) (d : Reg)
  | subb (g : Guard) (b : Reg) (a : Reg) (d : Reg)
  | mulLo (g : Guard) (b : Reg) (a : Reg) (d : Reg)
  | mulHiS32 (g : Guard) (b : Reg) (a : Reg) (d : Reg)
  | mulHiN32 (g : Guard) (b : Reg) (a : Reg) (d : Reg)
  | mad (g : Guard) (b : Reg) (a : Reg) (d : Reg)
  -- Logic, minimum and maximum (R99, R101).
  | and (g : Guard) (b : Reg) (a : Reg) (d : Reg)
  | or (g : Guard) (b : Reg) (a : Reg) (d : Reg)
  | xor (g : Guard) (b : Reg) (a : Reg) (d : Reg)
  | andn (g : Guard) (b : Reg) (a : Reg) (d : Reg)
  | minS32 (g : Guard) (b : Reg) (a : Reg) (d : Reg)
  | maxS32 (g : Guard) (b : Reg) (a : Reg) (d : Reg)
  | minN32 (g : Guard) (b : Reg) (a : Reg) (d : Reg)
  | maxN32 (g : Guard) (b : Reg) (a : Reg) (d : Reg)
  -- Shifts and bit counts (R101, R102).
  | shl (g : Guard) (b : Reg) (a : Reg) (d : Reg)
  | shr (g : Guard) (b : Reg) (a : Reg) (d : Reg)
  | sar (g : Guard) (b : Reg) (a : Reg) (d : Reg)
  | rot (g : Guard) (b : Reg) (a : Reg) (d : Reg)
  | popc (g : Guard) (a : Reg) (d : Reg)
  | clz (g : Guard) (a : Reg) (d : Reg)
  | brev (g : Guard) (a : Reg) (d : Reg)
  | abs (g : Guard) (a : Reg) (d : Reg)
  -- Bit fields and moves (R82, R102).
  | bfxS32 (g : Guard) (b : Reg) (a : Reg) (d : Reg)
  | bfxN32 (g : Guard) (b : Reg) (a : Reg) (d : Reg)
  | bfi (g : Guard) (b : Reg) (a : Reg) (d : Reg)
  | mov (g : Guard) (a : Reg) (d : Reg)
  | movKconst (g : Guard) (k : BitVec 4) (d : Reg)
  | movIndirectSrc (g : Guard) (imm : BitVec 6) (a : Reg) (d : Reg)
  | movIndirectDst (g : Guard) (imm : BitVec 6) (a : Reg) (d : Reg)
  -- Select (R98).
  | sel (g : Guard) (n : Pred) (b : Reg) (a : Reg) (d : Reg)
  -- Compares (R96).
  | cmpS32 (g : Guard) (c : Cond) (b : Reg) (a : Reg) (p : Pred)
  | cmpN32 (g : Guard) (c : Cond) (b : Reg) (a : Reg) (p : Pred)
  -- Immediates (R31, R82, R99).
  | movi (g : Guard) (imm : BitVec 15) (d : Reg)
  | imhi (g : Guard) (imm : BitVec 15) (d : Reg)
  | addi (g : Guard) (imm : BitVec 9) (a : Reg) (d : Reg)
  | andi (g : Guard) (imm : BitVec 9) (a : Reg) (d : Reg)
  | ori (g : Guard) (imm : BitVec 9) (a : Reg) (d : Reg)
  | xori (g : Guard) (imm : BitVec 9) (a : Reg) (d : Reg)
  | shli (g : Guard) (cnt : BitVec 5) (a : Reg) (d : Reg)
  | shri (g : Guard) (cnt : BitVec 5) (a : Reg) (d : Reg)
  | sari (g : Guard) (cnt : BitVec 5) (a : Reg) (d : Reg)
  | cmpiS32 (g : Guard) (imm : BitVec 9) (a : Reg) (c : Cond) (p : Pred)
  | cmpiN32 (g : Guard) (imm : BitVec 9) (a : Reg) (c : Cond) (p : Pred)
  -- FP32 (R103 to R107).
  | fadd (g : Guard) (b : Reg) (a : Reg) (d : Reg)
  | fsub (g : Guard) (b : Reg) (a : Reg) (d : Reg)
  | fmul (g : Guard) (b : Reg) (a : Reg) (d : Reg)
  | ffma (g : Guard) (b : Reg) (a : Reg) (d : Reg)
  | fmin (g : Guard) (b : Reg) (a : Reg) (d : Reg)
  | fmax (g : Guard) (b : Reg) (a : Reg) (d : Reg)
  | fdiv (g : Guard) (b : Reg) (a : Reg) (d : Reg)
  | frcp (g : Guard) (a : Reg) (d : Reg)
  | frsq (g : Guard) (a : Reg) (d : Reg)
  | fsqrt (g : Guard) (a : Reg) (d : Reg)
  | fexp2 (g : Guard) (a : Reg) (d : Reg)
  | flog2 (g : Guard) (a : Reg) (d : Reg)
  | fclass (g : Guard) (a : Reg) (d : Reg)
  | fcmpF32 (g : Guard) (c : Cond) (b : Reg) (a : Reg) (p : Pred)
  -- Packed 16-bit (R108).
  | hadd2F16 (g : Guard) (b : Reg) (a : Reg) (d : Reg)
  | hmul2F16 (g : Guard) (b : Reg) (a : Reg) (d : Reg)
  | hfma2F16 (g : Guard) (b : Reg) (a : Reg) (d : Reg)
  | hmax2F16 (g : Guard) (b : Reg) (a : Reg) (d : Reg)
  | hadd2Bf16 (g : Guard) (b : Reg) (a : Reg) (d : Reg)
  | hmul2Bf16 (g : Guard) (b : Reg) (a : Reg) (d : Reg)
  | hfma2Bf16 (g : Guard) (b : Reg) (a : Reg) (d : Reg)
  | hmax2Bf16 (g : Guard) (b : Reg) (a : Reg) (d : Reg)
  -- Conversions and packing (R118 to R122).
  | cvtI2fS32 (g : Guard) (a : Reg) (d : Reg)
  | cvtI2fN32 (g : Guard) (a : Reg) (d : Reg)
  | cvtF2iS32 (g : Guard) (a : Reg) (d : Reg)
  | cvtF2iN32 (g : Guard) (a : Reg) (d : Reg)
  | cvtF2hF16 (g : Guard) (a : Reg) (d : Reg)
  | cvtF2hBf16 (g : Guard) (a : Reg) (d : Reg)
  | cvtH2fF16 (g : Guard) (a : Reg) (d : Reg)
  | cvtH2fBf16 (g : Guard) (a : Reg) (d : Reg)
  | cvtfNar (g : Guard) (n : Slot) (a : Reg) (d : Reg)
  | cvtfWid (g : Guard) (n : Slot) (a : Reg) (d : Reg)
  | pk4 (g : Guard) (n : Slot) (a : Reg) (d : Reg)
  | upk4 (g : Guard) (n : Slot) (a : Reg) (d : Reg)
  | fscale (g : Guard) (b : Reg) (a : Reg) (d : Reg)
  | rgen (g : Guard) (d : Reg)
  -- Predicates (R95).
  | pand (g : Guard) (b : Pred) (a : Pred) (d : Pred)
  | por (g : Guard) (b : Pred) (a : Pred) (d : Pred)
  | pxor (g : Guard) (b : Pred) (a : Pred) (d : Pred)
  | pnot (g : Guard) (a : Pred) (d : Pred)
  | pmov (g : Guard) (a : Pred) (d : Pred)
  -- Control (R57 to R66, R70, R76).
  | br (g : Guard) (off : BitVec 20) (uni : Bool)
  | brRgp (g : Guard) (off : BitVec 20) (uni : Bool)
  | call (g : Guard) (off : BitVec 20) (uni : Bool)
  | fork (g : Guard) (off : BitVec 20)
  | brx (g : Guard) (uni : Bool) (a : Reg)
  | brxRgp (g : Guard) (uni : Bool) (a : Reg)
  | callx (g : Guard) (uni : Bool) (a : Reg)
  | ret (g : Guard) (uni : Bool)
  | exit (g : Guard)
  | fend (g : Guard)
  | home (g : Guard)
  | nop (g : Guard)
  -- Traps (R236, R76).
  | trap (g : Guard) (code : BitVec 10)
  | brk (g : Guard)
  -- Collectives (R72 to R75).
  | voteAll (g : Guard) (a : Pred) (d : Pred)
  | voteAny (g : Guard) (a : Pred) (d : Pred)
  | voteBallot (g : Guard) (a : Pred) (d : Reg)
  | shflIdx (g : Guard) (b : Reg) (a : Reg) (d : Reg)
  | shflUp (g : Guard) (b : Reg) (a : Reg) (d : Reg)
  | shflDown (g : Guard) (b : Reg) (a : Reg) (d : Reg)
  | shflXor (g : Guard) (b : Reg) (a : Reg) (d : Reg)
  | gredAddS32 (g : Guard) (a : Reg) (d : Reg)
  | gredAddF32 (g : Guard) (a : Reg) (d : Reg)
  | gredMinS32 (g : Guard) (a : Reg) (d : Reg)
  | gredMaxS32 (g : Guard) (a : Reg) (d : Reg)
  | gredMinF32 (g : Guard) (a : Reg) (d : Reg)
  | gredMaxF32 (g : Guard) (a : Reg) (d : Reg)
  | gredAnd (g : Guard) (a : Reg) (d : Reg)
  | gredOr (g : Guard) (a : Reg) (d : Reg)
  -- Match and windows (R75, R84 to R88).
  | matchLanes (g : Guard) (a : Reg) (d : Reg)
  | rgrow (g : Guard) (n : BitVec 6)
  | rshrink (g : Guard) (n : BitVec 6)
  | rwin (g : Guard) (d : Reg)
  | movx (g : Guard) (a : Reg8) (d : Reg8)
  -- Global memory (R183 to R187).
  | ld (g : Guard) (m : BitVec 4) (r : Rec) (i : Reg) (d : Reg)
  | st (g : Guard) (m : BitVec 4) (r : Rec) (i : Reg) (d : Reg)
  | ldNarrowWide (g : Guard) (w : Width) (r : Rec) (i : Reg) (d : Reg)
  | stNarrowWide (g : Guard) (w : Width) (r : Rec) (i : Reg) (d : Reg)
  | ldAcq (g : Guard) (sc : Scope) (r : Rec) (i : Reg) (d : Reg)
  | stRel (g : Guard) (sc : Scope) (r : Rec) (i : Reg) (d : Reg)
  | atomAddS32 (g : Guard) (r : Rec) (i : Reg) (d : Reg)
  | atomAddF32 (g : Guard) (r : Rec) (i : Reg) (d : Reg)
  | atomMinS32 (g : Guard) (r : Rec) (i : Reg) (d : Reg)
  | atomMaxS32 (g : Guard) (r : Rec) (i : Reg) (d : Reg)
  | atomMinN32 (g : Guard) (r : Rec) (i : Reg) (d : Reg)
  | atomMaxN32 (g : Guard) (r : Rec) (i : Reg) (d : Reg)
  | atomAnd (g : Guard) (r : Rec) (i : Reg) (d : Reg)
  | atomOr (g : Guard) (r : Rec) (i : Reg) (d : Reg)
  | atomXor (g : Guard) (r : Rec) (i : Reg) (d : Reg)
  | atomExch (g : Guard) (r : Rec) (i : Reg) (d : Reg)
  | atomCas (g : Guard) (r : Rec) (i : Reg) (d : Reg)
  | atomOrdAddS32 (g : Guard) (os : OrdScope) (a : Reg) (d : Reg)
  | atomOrdAddF32 (g : Guard) (os : OrdScope) (a : Reg) (d : Reg)
  | atomOrdMinS32 (g : Guard) (os : OrdScope) (a : Reg) (d : Reg)
  | atomOrdMaxS32 (g : Guard) (os : OrdScope) (a : Reg) (d : Reg)
  | atomOrdAnd (g : Guard) (os : OrdScope) (a : Reg) (d : Reg)
  | atomOrdOr (g : Guard) (os : OrdScope) (a : Reg) (d : Reg)
  | atomOrdExch (g : Guard) (os : OrdScope) (a : Reg) (d : Reg)
  | atomOrdCas (g : Guard) (os : OrdScope) (a : Reg) (d : Reg)
  | redAddS32 (g : Guard) (r : Rec) (i : Reg) (d : Reg)
  | redAddF32 (g : Guard) (r : Rec) (i : Reg) (d : Reg)
  | redMinS32 (g : Guard) (r : Rec) (i : Reg) (d : Reg)
  | redMaxS32 (g : Guard) (r : Rec) (i : Reg) (d : Reg)
  | redMinN32 (g : Guard) (r : Rec) (i : Reg) (d : Reg)
  | redMaxN32 (g : Guard) (r : Rec) (i : Reg) (d : Reg)
  | redAnd (g : Guard) (r : Rec) (i : Reg) (d : Reg)
  | redOr (g : Guard) (r : Rec) (i : Reg) (d : Reg)
  | redXor (g : Guard) (r : Rec) (i : Reg) (d : Reg)
  | pf (g : Guard) (r : Rec) (i : Reg)
  -- Ordering (R252, R227, R208, R209, R312).
  | fence (g : Guard) (os : OrdScope)
  | wait (g : Guard) (c : WaitCond) (k : Class) (a : Reg) (d : Reg)
  | ltime (g : Guard) (d : Reg)
  | lpub (g : Guard) (a : Reg) (d : Reg)
  | stf (g : Guard) (b : Reg) (a : Reg) (d : Reg)
  -- Local memory (R129, R130).
  | lld (g : Guard) (imm : BitVec 9) (a : Reg) (d : Reg)
  | lst (g : Guard) (imm : BitVec 9) (a : Reg) (d : Reg)
  | latomAddS32 (g : Guard) (a : Reg) (d : Reg)
  | latomAddF32 (g : Guard) (a : Reg) (d : Reg)
  | latomMinS32 (g : Guard) (a : Reg) (d : Reg)
  | latomMaxS32 (g : Guard) (a : Reg) (d : Reg)
  | latomAnd (g : Guard) (a : Reg) (d : Reg)
  | latomOr (g : Guard) (a : Reg) (d : Reg)
  | latomExch (g : Guard) (a : Reg) (d : Reg)
  | latomCas (g : Guard) (a : Reg) (d : Reg)
  -- Barriers (R135 to R139).
  | bar (g : Guard) (k : Class)
  | boinit (g : Guard) (b : Reg) (a : Reg)
  | boarr (g : Guard) (b : Reg) (a : Reg)
  | bowait (g : Guard) (k : Class) (a : Reg) (d : Reg)
  | botest (g : Guard) (a : Reg) (p : Pred)
  -- Tile handles and copies (R143 to R156, R313).
  | halloc (g : Guard) (a : Reg) (h : Handle)
  | hfree (g : Guard) (h : Handle)
  | hbind (g : Guard) (n : Rec) (a : Reg) (h : Handle)
  | hstate (g : Guard) (a : Reg) (h : Handle)
  | hwptr (g : Guard) (a : Reg) (h : Handle)
  | hwait (g : Guard) (st : HState) (k : Class) (h : Handle)
  | cpcancel (g : Guard) (h : Handle)
  | cpin (g : Guard) (n : Rec) (a : Reg) (h : Handle)
  | cpout (g : Guard) (n : Rec) (a : Reg) (h : Handle)
  | cppush (g : Guard) (a : Reg) (h : Handle)
  | cpred (g : Guard) (a : Reg) (h : Handle)
  | cpfill (g : Guard) (a : Reg) (h : Handle)
  -- Matrix quarters (R160 to R173).
  | qmmaHandle (g : Guard) (reuse : Bool) (half : Bool) (f : Slot) (h : Handle) (ab : BitVec 4) (db : BitVec 4)
  | qmmaReg (g : Guard) (reuse : Bool) (half : Bool) (f : Slot) (bb : BitVec 4) (ab : BitVec 4) (db : BitVec 4)
  | qpro (g : Guard) (b : Reg) (a : Reg) (db : BitVec 4)
  | qzero (g : Guard) (db : BitVec 4)
  | smx (g : Guard) (sb : BitVec 4) (db : BitVec 4)
  | smxCvt (g : Guard) (f : Slot) (sb : BitVec 4) (db : BitVec 4)
  | qsr (g : Guard) (l : Bool) (d : Reg)
  | qsw (g : Guard) (l : Bool) (a : Reg)
  -- Rows and near-bank units (R321, R333 to R336).
  | rcopy (g : Guard) (d : Reg)
  | rfill (g : Guard) (d : Reg)
  | rand (g : Guard) (d : Reg)
  | ror (g : Guard) (d : Reg)
  | rxor (g : Guard) (d : Reg)
  | rnot (g : Guard) (d : Reg)
  | nbload (g : Guard) (d : Reg)
  | nbrun (g : Guard) (d : Reg)
  | nbstat (g : Guard) (d : Reg)
  | nbcancel (g : Guard) (d : Reg)
  -- System (R219, R224, R237, R235, R311, R206, R207).
  | launch (g : Guard) (d : Reg)
  | wchild (g : Guard) (k : Class)
  | srd (g : Guard) (sr : SpecialReg) (d : Reg)
  | swr (g : Guard) (sr : SpecialReg) (d : Reg)
  | tret (g : Guard)
  | errq (g : Guard) (d : Reg)
  | asgen (g : Guard) (d : Reg)
  | sflush (g : Guard) (d : Reg)
  | halt (g : Guard)
  -- Events.
  | groupingStagePass (core : Nat)
  | gatheringPoolClose (team : Nat) (target : Word)
  | pendingWriteComplete (team : Nat) (fib : Nat) (reg : Nat)
  | grantRequestGranted (core : Nat) (lane : Nat)
  | registerDeadlockEvict (core : Nat)
  | starvationTimeout (team : Nat) (fib : Nat)
  | armedLaunchEnqueue (core : Nat) (slot : Nat)
  | copyCommandStart (core : Nat) (id : Nat)
  | copyLineTransfer (core : Nat) (id : Nat)
  | copyCommandComplete (core : Nat) (id : Nat)
  | pushLineWrite (id : Nat)
  | pushAck (id : Nat)
  | pushRetry (core : Nat) (id : Nat)
  | contributionArrival (id : Nat)
  | contributionRetry (core : Nat) (id : Nat)
  | publishedAccess (id : Nat)
  | publishRequest (id : Nat)
  | windowWriteback (core : Nat) (blk : Nat)
  | pageWalk (core : Nat) (asid : Nat) (va : Nat)
  | lineFill (core : Nat) (blk : Nat)
  | openAccessFault (core : Nat) (id : Nat)
  | performLoad (core : Nat) (id : Nat)
  | enqueueStore (core : Nat) (id : Nat)
  | drain (core : Nat) (id : Nat)
  | writeBack (view : View) (sector : Nat)
  | sectorDrop (view : View) (sector : Nat)
  | deliver (m : Msg)
  | generationSweep
  | migrationPull (entry : Nat) (block : Nat)
  | errorQueueOverflowTrap (team : Nat)
  | pagingQueueWrite (team : Nat)
  | pagingReadIndexWrite (rd : BitVec 16)
  | resumeTicketWrite (ticket : BitVec 16)
  | hostLaunchWrite (q : Nat) (rec : LineData)
  | launchLine (id : Nat)
  | launchLinePassOver (src : Nat) (q : Nat)
  | launchTake (launch : Nat)
  | teamAdmit (launch : Nat) (core : Nat)
  | gridWholeAdmit (launch : Nat)
  | queueHeadStarve (q : Nat)
  | teamReadmit (team : Nat) (core : Nat)
  | teamEndFree (team : Nat)
  | teamRetire (team : Nat)
  | launchRetire (launch : Nat)
  | completionWriteFail (launch : Nat)
  | preempt (q : Nat) (team : Nat)
  | preemptStopTimeout (team : Nat)
  | saveRequestWrite (core : Nat) (v : Bool)
  | teamSaveComplete (team : Nat)
  | trapHandlerEntry (core : Nat)
  | tryArrive (id : Nat)
  | tryTimeout (want : Nat)
  | persistentRequestIssue (want : Nat)
  | persistentRequest (id : Nat)
  | persistentRetry (want : Nat)
  | activation (id : Nat)
  | deactivation (id : Nat)
  | tokenMessage (id : Nat)
  | eviction (place : Place) (blk : Nat)
  | poleAck (id : Nat)
  | peerProbe (core : Nat) (blk : Nat)
  | tokenRecall (die : Nat) (blk : Nat)
  | auditStart (blk : Nat)
  | audit (id : Nat)
  | auditRepeat (blk : Nat) (party : Party)
  | auditReport (id : Nat)
  | recreationAck (id : Nat)
  | auditHoldoffExpire (blk : Nat)
  | unfreeze (id : Nat)
  | formConversion (blk : Nat) (toLease : Bool)
  | homeAtomic (id : Nat)
  | atomicReply (id : Nat)
  | leaseRead (core : Nat) (id : Nat)
  | leaseWrite (core : Nat) (id : Nat)
  | leaseWriteHeld (core : Nat) (id : Nat)
  | meridianTick
  | homeLeaseSweep (blk : Nat)
  | cacheLeaseSweep (view : View)
  | waitReload (team : Nat) (fib : Nat)
  | partyQuery (id : Nat)
  | hostSnpInv (line : Nat)
  | hostSnpData (line : Nat)
  | hostSnpCur (line : Nat)
  | hostLineGrant (line : Nat) (grant : Grant) (data : SectorData)
  | backInvalidate (line : Nat) (inv : Bool) (data : SectorData)
  | biConflict (line : Nat)
  | hostUncachedRead (pa : Nat)
  | hostUncachedWrite (pa : Nat) (bytes : List Byte)
  | frameReplay (d : Nat) (e : Nat)
  | linkDead (d : Nat) (e : Nat)
  | rotorSlotStart (xs : List Exchange)
  | orbitStart
  | scheduleDigest (peer : Nat) (entries : List Word)
  | digestDiscard (peer : Nat)
  | relayForward (m : Msg)
  | messageAgeDrop (id : Nat)
  | portFailure (p : Nat)
  | remoteLoadTimeout (core : Nat) (id : Nat)
  | remoteResponse (id : Nat)
  | postedWrite (id : Nat)
  | postedWriteAck (id : Nat)
  | postedWriteTimeout (post : Nat)
  | storeLinePost (post : Nat)
  | storeLineTimeout (post : Nat)
  | storeAckTimeout (post : Nat)
  | flaggedData (id : Nat)
  | flagUpdate (id : Nat)
  | rowOperation (core : Nat) (id : Nat)
  | rowSlotAcquire (core : Nat)
  | nearBankStep (stack : Nat) (channel : Nat)
  | arbitrationWindow (stack : Nat) (channel : Nat)
  | reset (part : Part)
  | hostLinkTrain (rate : Nat)
  | goWrite (v : Bool)
  | featureAcceptWrite (v : BitVec 256)
  | linkRetrainWrite (die : Nat) (bits : BitVec 4)
  | linkRetrainDone (die : Nat) (e : Nat) (ok : Bool)
  | umissClear (core : Nat) (v : Word)
  | staleCounterClear (die : Nat) (v : Word)
  | seedWrite (core : Nat) (v : Word)
  | mismatchCounterClear (port : Nat) (v : Word)
  | queueOvfClear (q : Nat) (v : BitVec 16)
  | registerWrite (off : Nat) (bytes : Nat) (v : Nat)
  | correctedError (loc : Location)
  | wearRefresh (values : List Word) (eols : List Word)
  | thermalStep (die : Nat) (up : Bool)
  | thermalStop (die : Nat)
  | signRequest (use : SignUse) (flashOk : Bool)
  | hostCachedMemRequest (line : Nat) (req : HostCacheReq) (data : SectorData)
  | partyQueryAnswer (id : Nat)
  | partyQueryTimeout (team : Nat) (fib : Nat)
  | launchLineResend (id : Nat)
  deriving DecidableEq, Repr

end Sys2Proof
end

