-- ==== Sys2Proof/Decode.lean ====
section
/-! DEFINITION. The decoder of instruction words, total on any bytes (R23 to R40), and the encoder written from the same
tables. -/

namespace Sys2Proof

/-- Why bytes are no instruction. -/
inductive DecodeError where
  /-- The guard code 1111: cause 0x02 in every fibre of the bundle (R28, R39). -/
  | reservedGuard
  /-- An unassigned encoding or a reserved bit set: cause 0x01 where the guard holds (R39, check 4). -/
  | illegal (g : Guard)
  /-- Fewer bytes than the instruction has. -/
  | short
  deriving DecidableEq, Repr

/-- The code of one instruction: a unit, or a word of two units (R23). -/
inductive Code where
  | unit (u : BitVec 16)
  | word (w : BitVec 32)
  deriving DecidableEq, Repr

/-- The guard from bits 10:7, bit 10 negating; none for 1111 (R28). -/
def guardOfBits (b : BitVec 4) : Option Guard :=
  if b = 15#4 then none
  else if b.extractLsb' 3 1 = 1#1 then some (.neg (b.extractLsb' 0 3)) else some (.pos (b.extractLsb' 0 3))

def guardBits : Guard → BitVec 4
  | .pos p => 0#1 ++ p
  | .neg p => 1#1 ++ p

/-- Condition codes (R32, major 0x05). -/
def condOfBits (b : BitVec 3) : Option Cond :=
  match b.toNat with
  | 0 => some .eq | 1 => some .ne | 2 => some .lt | 3 => some .le | 4 => some .gt | 5 => some .ge
  | _ => none

def condBits : Cond → BitVec 3
  | .eq => 0 | .ne => 1 | .lt => 2 | .le => 3 | .gt => 4 | .ge => 5

/-- The condition of `wait` (R32, major 0x33). -/
def waitCondOfBits (b : BitVec 3) : Option WaitCond :=
  match b.toNat with
  | 0 => some .eq | 1 => some .ne | _ => none

def waitCondBits : WaitCond → BitVec 3
  | .eq => 0 | .ne => 1

/-- The waited-party class code (R30). -/
def classOfBits (b : BitVec 2) : Option Class :=
  match b.toNat with
  | 0 => some .conc | 1 => some .par | 2 => some .own | _ => none

def classBits : Class → BitVec 2
  | .conc => 0 | .par => 1 | .own => 2

/-- The scope code (R30). -/
def scopeOfBits (b : BitVec 3) : Option Scope :=
  match b.toNat with
  | 0 => some .fib | 1 => some .grp | 2 => some .team | 3 => some .core
  | 4 => some .die | 5 => some .pkg | 6 => some .dom | _ => some .sys

def scopeBits : Scope → BitVec 3
  | .fib => 0 | .grp => 1 | .team => 2 | .core => 3 | .die => 4 | .pkg => 5 | .dom => 6 | .sys => 7

/-- The order-and-scope code (R30): the scope bits are reserved with `.rlx`. -/
def ordScopeOfBits (b : BitVec 5) : Option OrdScope :=
  match (b.extractLsb' 3 2).toNat with
  | 0 => if b.extractLsb' 0 3 = 0#3 then some .rlx else none
  | 1 => (scopeOfBits (b.extractLsb' 0 3)).map .acq
  | 2 => (scopeOfBits (b.extractLsb' 0 3)).map .rel
  | _ => (scopeOfBits (b.extractLsb' 0 3)).map .ar

def ordScopeBits : OrdScope → BitVec 5
  | .rlx => 0
  | .acq sc => 1#2 ++ scopeBits sc
  | .rel sc => 2#2 ++ scopeBits sc
  | .ar sc => 3#2 ++ scopeBits sc

/-- The state code of handles (R35). -/
def hstateOfBits (b : BitVec 2) : Option HState :=
  match b.toNat with
  | 0 => some .free | 1 => some .filling | 2 => some .full | _ => some .draining

def hstateBits : HState → BitVec 2
  | .free => 0 | .filling => 1 | .full => 2 | .draining => 3

/-- The width code of major 0x2E (R32). -/
def widthOfBits (b : BitVec 3) : Option Width :=
  match b.toNat with
  | 0 => some .s8 | 1 => some .n8 | 2 => some .s16 | 3 => some .n16 | 4 => some .w64 | _ => none

def widthBits : Width → BitVec 3
  | .s8 => 0 | .n8 => 1 | .s16 => 2 | .n16 => 3 | .w64 => 4

/-- The special-register numbers (R38). -/
def specialRegOfBits (b : BitVec 10) : Option SpecialReg :=
  match b.toNat with
  | 0 => some .fid | 1 => some .lane | 2 => some .hgrp | 3 => some .team | 4 => some .nteam
  | 5 => some .core | 6 => some .die | 7 => some .dev | 8 => some .depth | 9 => some .cls
  | 10 => some .ltime | 11 => some .mtime | 12 => some .orient | 13 => some .cause
  | 14 => some .faddr | 15 => some .fmask | 16 => some .epc | 17 => some .rpath
  | _ => none

def specialRegBits : SpecialReg → BitVec 10
  | .fid => 0 | .lane => 1 | .hgrp => 2 | .team => 3 | .nteam => 4 | .core => 5 | .die => 6
  | .dev => 7 | .depth => 8 | .cls => 9 | .ltime => 10 | .mtime => 11 | .orient => 12
  | .cause => 13 | .faddr => 14 | .fmask => 15 | .epc => 16 | .rpath => 17

/-- The fields of ADD in its operand field. -/
def rowAdd (g : Guard) (f : BitVec 21) : Option Instr :=
  if f.extractLsb' 18 3 = 0#3 then some (.add g (f.extractLsb' 12 6) (f.extractLsb' 6 6) (f.extractLsb' 0 6)) else none

/-- The fields of ADDC in its operand field. -/
def rowAddc (g : Guard) (f : BitVec 21) : Option Instr :=
  if f.extractLsb' 18 3 = 1#3 then some (.addc g (f.extractLsb' 12 6) (f.extractLsb' 6 6) (f.extractLsb' 0 6)) else none

/-- The fields of SUB in its operand field. -/
def rowSub (g : Guard) (f : BitVec 21) : Option Instr :=
  if f.extractLsb' 18 3 = 2#3 then some (.sub g (f.extractLsb' 12 6) (f.extractLsb' 6 6) (f.extractLsb' 0 6)) else none

/-- The fields of SUBB in its operand field. -/
def rowSubb (g : Guard) (f : BitVec 21) : Option Instr :=
  if f.extractLsb' 18 3 = 3#3 then some (.subb g (f.extractLsb' 12 6) (f.extractLsb' 6 6) (f.extractLsb' 0 6)) else none

/-- The fields of MUL_LO in its operand field. -/
def rowMulLo (g : Guard) (f : BitVec 21) : Option Instr :=
  if f.extractLsb' 18 3 = 4#3 then some (.mulLo g (f.extractLsb' 12 6) (f.extractLsb' 6 6) (f.extractLsb' 0 6)) else none

/-- The fields of MUL_HI_S32 in its operand field. -/
def rowMulHiS32 (g : Guard) (f : BitVec 21) : Option Instr :=
  if f.extractLsb' 18 3 = 5#3 then some (.mulHiS32 g (f.extractLsb' 12 6) (f.extractLsb' 6 6) (f.extractLsb' 0 6)) else none

/-- The fields of MUL_HI_N32 in its operand field. -/
def rowMulHiN32 (g : Guard) (f : BitVec 21) : Option Instr :=
  if f.extractLsb' 18 3 = 6#3 then some (.mulHiN32 g (f.extractLsb' 12 6) (f.extractLsb' 6 6) (f.extractLsb' 0 6)) else none

/-- The fields of MAD in its operand field. -/
def rowMad (g : Guard) (f : BitVec 21) : Option Instr :=
  if f.extractLsb' 18 3 = 7#3 then some (.mad g (f.extractLsb' 12 6) (f.extractLsb' 6 6) (f.extractLsb' 0 6)) else none

/-- The fields of AND in its operand field. -/
def rowAnd (g : Guard) (f : BitVec 21) : Option Instr :=
  if f.extractLsb' 18 3 = 0#3 then some (.and g (f.extractLsb' 12 6) (f.extractLsb' 6 6) (f.extractLsb' 0 6)) else none

/-- The fields of OR in its operand field. -/
def rowOr (g : Guard) (f : BitVec 21) : Option Instr :=
  if f.extractLsb' 18 3 = 1#3 then some (.or g (f.extractLsb' 12 6) (f.extractLsb' 6 6) (f.extractLsb' 0 6)) else none

/-- The fields of XOR in its operand field. -/
def rowXor (g : Guard) (f : BitVec 21) : Option Instr :=
  if f.extractLsb' 18 3 = 2#3 then some (.xor g (f.extractLsb' 12 6) (f.extractLsb' 6 6) (f.extractLsb' 0 6)) else none

/-- The fields of ANDN in its operand field. -/
def rowAndn (g : Guard) (f : BitVec 21) : Option Instr :=
  if f.extractLsb' 18 3 = 3#3 then some (.andn g (f.extractLsb' 12 6) (f.extractLsb' 6 6) (f.extractLsb' 0 6)) else none

/-- The fields of MIN_S32 in its operand field. -/
def rowMinS32 (g : Guard) (f : BitVec 21) : Option Instr :=
  if f.extractLsb' 18 3 = 4#3 then some (.minS32 g (f.extractLsb' 12 6) (f.extractLsb' 6 6) (f.extractLsb' 0 6)) else none

/-- The fields of MAX_S32 in its operand field. -/
def rowMaxS32 (g : Guard) (f : BitVec 21) : Option Instr :=
  if f.extractLsb' 18 3 = 5#3 then some (.maxS32 g (f.extractLsb' 12 6) (f.extractLsb' 6 6) (f.extractLsb' 0 6)) else none

/-- The fields of MIN_N32 in its operand field. -/
def rowMinN32 (g : Guard) (f : BitVec 21) : Option Instr :=
  if f.extractLsb' 18 3 = 6#3 then some (.minN32 g (f.extractLsb' 12 6) (f.extractLsb' 6 6) (f.extractLsb' 0 6)) else none

/-- The fields of MAX_N32 in its operand field. -/
def rowMaxN32 (g : Guard) (f : BitVec 21) : Option Instr :=
  if f.extractLsb' 18 3 = 7#3 then some (.maxN32 g (f.extractLsb' 12 6) (f.extractLsb' 6 6) (f.extractLsb' 0 6)) else none

/-- The fields of SHL in its operand field. -/
def rowShl (g : Guard) (f : BitVec 21) : Option Instr :=
  if f.extractLsb' 18 3 = 0#3 then some (.shl g (f.extractLsb' 12 6) (f.extractLsb' 6 6) (f.extractLsb' 0 6)) else none

/-- The fields of SHR in its operand field. -/
def rowShr (g : Guard) (f : BitVec 21) : Option Instr :=
  if f.extractLsb' 18 3 = 1#3 then some (.shr g (f.extractLsb' 12 6) (f.extractLsb' 6 6) (f.extractLsb' 0 6)) else none

/-- The fields of SAR in its operand field. -/
def rowSar (g : Guard) (f : BitVec 21) : Option Instr :=
  if f.extractLsb' 18 3 = 2#3 then some (.sar g (f.extractLsb' 12 6) (f.extractLsb' 6 6) (f.extractLsb' 0 6)) else none

/-- The fields of ROT in its operand field. -/
def rowRot (g : Guard) (f : BitVec 21) : Option Instr :=
  if f.extractLsb' 18 3 = 3#3 then some (.rot g (f.extractLsb' 12 6) (f.extractLsb' 6 6) (f.extractLsb' 0 6)) else none

/-- The fields of POPC in its operand field. -/
def rowPopc (g : Guard) (f : BitVec 21) : Option Instr :=
  if f.extractLsb' 18 3 = 4#3 ∧ f.extractLsb' 12 6 = 0#6 then some (.popc g (f.extractLsb' 6 6) (f.extractLsb' 0 6)) else none

/-- The fields of CLZ in its operand field. -/
def rowClz (g : Guard) (f : BitVec 21) : Option Instr :=
  if f.extractLsb' 18 3 = 5#3 ∧ f.extractLsb' 12 6 = 0#6 then some (.clz g (f.extractLsb' 6 6) (f.extractLsb' 0 6)) else none

/-- The fields of BREV in its operand field. -/
def rowBrev (g : Guard) (f : BitVec 21) : Option Instr :=
  if f.extractLsb' 18 3 = 6#3 ∧ f.extractLsb' 12 6 = 0#6 then some (.brev g (f.extractLsb' 6 6) (f.extractLsb' 0 6)) else none

/-- The fields of ABS in its operand field. -/
def rowAbs (g : Guard) (f : BitVec 21) : Option Instr :=
  if f.extractLsb' 18 3 = 7#3 ∧ f.extractLsb' 12 6 = 0#6 then some (.abs g (f.extractLsb' 6 6) (f.extractLsb' 0 6)) else none

/-- The fields of BFX_S32 in its operand field. -/
def rowBfxS32 (g : Guard) (f : BitVec 21) : Option Instr :=
  if f.extractLsb' 18 3 = 0#3 then some (.bfxS32 g (f.extractLsb' 12 6) (f.extractLsb' 6 6) (f.extractLsb' 0 6)) else none

/-- The fields of BFX_N32 in its operand field. -/
def rowBfxN32 (g : Guard) (f : BitVec 21) : Option Instr :=
  if f.extractLsb' 18 3 = 1#3 then some (.bfxN32 g (f.extractLsb' 12 6) (f.extractLsb' 6 6) (f.extractLsb' 0 6)) else none

/-- The fields of BFI in its operand field. -/
def rowBfi (g : Guard) (f : BitVec 21) : Option Instr :=
  if f.extractLsb' 18 3 = 2#3 then some (.bfi g (f.extractLsb' 12 6) (f.extractLsb' 6 6) (f.extractLsb' 0 6)) else none

/-- The fields of MOV in its operand field. -/
def rowMov (g : Guard) (f : BitVec 21) : Option Instr :=
  if f.extractLsb' 18 3 = 3#3 ∧ f.extractLsb' 12 6 = 0#6 then some (.mov g (f.extractLsb' 6 6) (f.extractLsb' 0 6)) else none

/-- The fields of MOV_KCONST in its operand field. -/
def rowMovKconst (g : Guard) (f : BitVec 21) : Option Instr :=
  if f.extractLsb' 18 3 = 4#3 ∧ f.extractLsb' 16 2 = 0#2 ∧ f.extractLsb' 6 6 = 0#6 then some (.movKconst g (f.extractLsb' 12 4) (f.extractLsb' 0 6)) else none

/-- The fields of MOV_INDIRECT_SRC in its operand field. -/
def rowMovIndirectSrc (g : Guard) (f : BitVec 21) : Option Instr :=
  if f.extractLsb' 18 3 = 5#3 then some (.movIndirectSrc g (f.extractLsb' 12 6) (f.extractLsb' 6 6) (f.extractLsb' 0 6)) else none

/-- The fields of MOV_INDIRECT_DST in its operand field. -/
def rowMovIndirectDst (g : Guard) (f : BitVec 21) : Option Instr :=
  if f.extractLsb' 18 3 = 6#3 then some (.movIndirectDst g (f.extractLsb' 12 6) (f.extractLsb' 6 6) (f.extractLsb' 0 6)) else none

/-- The fields of SEL in its operand field. -/
def rowSel (g : Guard) (f : BitVec 21) : Option Instr :=
  some (.sel g (f.extractLsb' 18 3) (f.extractLsb' 12 6) (f.extractLsb' 6 6) (f.extractLsb' 0 6))

/-- The fields of CMP_S32 in its operand field. -/
def rowCmpS32 (g : Guard) (f : BitVec 21) : Option Instr :=
  if f.extractLsb' 3 3 = 0#3 then (condOfBits (f.extractLsb' 18 3)).bind fun c => some (.cmpS32 g c (f.extractLsb' 12 6) (f.extractLsb' 6 6) (f.extractLsb' 0 3)) else none

/-- The fields of CMP_N32 in its operand field. -/
def rowCmpN32 (g : Guard) (f : BitVec 21) : Option Instr :=
  if f.extractLsb' 3 3 = 0#3 then (condOfBits (f.extractLsb' 18 3)).bind fun c => some (.cmpN32 g c (f.extractLsb' 12 6) (f.extractLsb' 6 6) (f.extractLsb' 0 3)) else none

/-- The fields of MOVI in its operand field. -/
def rowMovi (g : Guard) (f : BitVec 21) : Option Instr :=
  some (.movi g (f.extractLsb' 6 15) (f.extractLsb' 0 6))

/-- The fields of IMHI in its operand field. -/
def rowImhi (g : Guard) (f : BitVec 21) : Option Instr :=
  some (.imhi g (f.extractLsb' 6 15) (f.extractLsb' 0 6))

/-- The fields of ADDI in its operand field. -/
def rowAddi (g : Guard) (f : BitVec 21) : Option Instr :=
  some (.addi g (f.extractLsb' 12 9) (f.extractLsb' 6 6) (f.extractLsb' 0 6))

/-- The fields of ANDI in its operand field. -/
def rowAndi (g : Guard) (f : BitVec 21) : Option Instr :=
  some (.andi g (f.extractLsb' 12 9) (f.extractLsb' 6 6) (f.extractLsb' 0 6))

/-- The fields of ORI in its operand field. -/
def rowOri (g : Guard) (f : BitVec 21) : Option Instr :=
  some (.ori g (f.extractLsb' 12 9) (f.extractLsb' 6 6) (f.extractLsb' 0 6))

/-- The fields of XORI in its operand field. -/
def rowXori (g : Guard) (f : BitVec 21) : Option Instr :=
  some (.xori g (f.extractLsb' 12 9) (f.extractLsb' 6 6) (f.extractLsb' 0 6))

/-- The fields of SHLI in its operand field. -/
def rowShli (g : Guard) (f : BitVec 21) : Option Instr :=
  if f.extractLsb' 19 2 = 0#2 ∧ f.extractLsb' 17 2 = 0#2 then some (.shli g (f.extractLsb' 12 5) (f.extractLsb' 6 6) (f.extractLsb' 0 6)) else none

/-- The fields of SHRI in its operand field. -/
def rowShri (g : Guard) (f : BitVec 21) : Option Instr :=
  if f.extractLsb' 19 2 = 0#2 ∧ f.extractLsb' 17 2 = 1#2 then some (.shri g (f.extractLsb' 12 5) (f.extractLsb' 6 6) (f.extractLsb' 0 6)) else none

/-- The fields of SARI in its operand field. -/
def rowSari (g : Guard) (f : BitVec 21) : Option Instr :=
  if f.extractLsb' 19 2 = 0#2 ∧ f.extractLsb' 17 2 = 2#2 then some (.sari g (f.extractLsb' 12 5) (f.extractLsb' 6 6) (f.extractLsb' 0 6)) else none

/-- The fields of CMPI_S32 in its operand field. -/
def rowCmpiS32 (g : Guard) (f : BitVec 21) : Option Instr :=
  (condOfBits (f.extractLsb' 3 3)).bind fun c => some (.cmpiS32 g (f.extractLsb' 12 9) (f.extractLsb' 6 6) c (f.extractLsb' 0 3))

/-- The fields of CMPI_N32 in its operand field. -/
def rowCmpiN32 (g : Guard) (f : BitVec 21) : Option Instr :=
  (condOfBits (f.extractLsb' 3 3)).bind fun c => some (.cmpiN32 g (f.extractLsb' 12 9) (f.extractLsb' 6 6) c (f.extractLsb' 0 3))

/-- The fields of FADD in its operand field. -/
def rowFadd (g : Guard) (f : BitVec 21) : Option Instr :=
  if f.extractLsb' 18 3 = 0#3 then some (.fadd g (f.extractLsb' 12 6) (f.extractLsb' 6 6) (f.extractLsb' 0 6)) else none

/-- The fields of FSUB in its operand field. -/
def rowFsub (g : Guard) (f : BitVec 21) : Option Instr :=
  if f.extractLsb' 18 3 = 1#3 then some (.fsub g (f.extractLsb' 12 6) (f.extractLsb' 6 6) (f.extractLsb' 0 6)) else none

/-- The fields of FMUL in its operand field. -/
def rowFmul (g : Guard) (f : BitVec 21) : Option Instr :=
  if f.extractLsb' 18 3 = 2#3 then some (.fmul g (f.extractLsb' 12 6) (f.extractLsb' 6 6) (f.extractLsb' 0 6)) else none

/-- The fields of FFMA in its operand field. -/
def rowFfma (g : Guard) (f : BitVec 21) : Option Instr :=
  if f.extractLsb' 18 3 = 3#3 then some (.ffma g (f.extractLsb' 12 6) (f.extractLsb' 6 6) (f.extractLsb' 0 6)) else none

/-- The fields of FMIN in its operand field. -/
def rowFmin (g : Guard) (f : BitVec 21) : Option Instr :=
  if f.extractLsb' 18 3 = 4#3 then some (.fmin g (f.extractLsb' 12 6) (f.extractLsb' 6 6) (f.extractLsb' 0 6)) else none

/-- The fields of FMAX in its operand field. -/
def rowFmax (g : Guard) (f : BitVec 21) : Option Instr :=
  if f.extractLsb' 18 3 = 5#3 then some (.fmax g (f.extractLsb' 12 6) (f.extractLsb' 6 6) (f.extractLsb' 0 6)) else none

/-- The fields of FDIV in its operand field. -/
def rowFdiv (g : Guard) (f : BitVec 21) : Option Instr :=
  if f.extractLsb' 18 3 = 6#3 then some (.fdiv g (f.extractLsb' 12 6) (f.extractLsb' 6 6) (f.extractLsb' 0 6)) else none

/-- The fields of FRCP in its operand field. -/
def rowFrcp (g : Guard) (f : BitVec 21) : Option Instr :=
  if f.extractLsb' 18 3 = 0#3 ∧ f.extractLsb' 12 6 = 0#6 then some (.frcp g (f.extractLsb' 6 6) (f.extractLsb' 0 6)) else none

/-- The fields of FRSQ in its operand field. -/
def rowFrsq (g : Guard) (f : BitVec 21) : Option Instr :=
  if f.extractLsb' 18 3 = 1#3 ∧ f.extractLsb' 12 6 = 0#6 then some (.frsq g (f.extractLsb' 6 6) (f.extractLsb' 0 6)) else none

/-- The fields of FSQRT in its operand field. -/
def rowFsqrt (g : Guard) (f : BitVec 21) : Option Instr :=
  if f.extractLsb' 18 3 = 2#3 ∧ f.extractLsb' 12 6 = 0#6 then some (.fsqrt g (f.extractLsb' 6 6) (f.extractLsb' 0 6)) else none

/-- The fields of FEXP2 in its operand field. -/
def rowFexp2 (g : Guard) (f : BitVec 21) : Option Instr :=
  if f.extractLsb' 18 3 = 3#3 ∧ f.extractLsb' 12 6 = 0#6 then some (.fexp2 g (f.extractLsb' 6 6) (f.extractLsb' 0 6)) else none

/-- The fields of FLOG2 in its operand field. -/
def rowFlog2 (g : Guard) (f : BitVec 21) : Option Instr :=
  if f.extractLsb' 18 3 = 4#3 ∧ f.extractLsb' 12 6 = 0#6 then some (.flog2 g (f.extractLsb' 6 6) (f.extractLsb' 0 6)) else none

/-- The fields of FCLASS in its operand field. -/
def rowFclass (g : Guard) (f : BitVec 21) : Option Instr :=
  if f.extractLsb' 18 3 = 5#3 ∧ f.extractLsb' 12 6 = 0#6 then some (.fclass g (f.extractLsb' 6 6) (f.extractLsb' 0 6)) else none

/-- The fields of FCMP_F32 in its operand field. -/
def rowFcmpF32 (g : Guard) (f : BitVec 21) : Option Instr :=
  if f.extractLsb' 3 3 = 0#3 then (condOfBits (f.extractLsb' 18 3)).bind fun c => some (.fcmpF32 g c (f.extractLsb' 12 6) (f.extractLsb' 6 6) (f.extractLsb' 0 3)) else none

/-- The fields of HADD2_F16 in its operand field. -/
def rowHadd2F16 (g : Guard) (f : BitVec 21) : Option Instr :=
  if f.extractLsb' 18 3 = 0#3 then some (.hadd2F16 g (f.extractLsb' 12 6) (f.extractLsb' 6 6) (f.extractLsb' 0 6)) else none

/-- The fields of HMUL2_F16 in its operand field. -/
def rowHmul2F16 (g : Guard) (f : BitVec 21) : Option Instr :=
  if f.extractLsb' 18 3 = 1#3 then some (.hmul2F16 g (f.extractLsb' 12 6) (f.extractLsb' 6 6) (f.extractLsb' 0 6)) else none

/-- The fields of HFMA2_F16 in its operand field. -/
def rowHfma2F16 (g : Guard) (f : BitVec 21) : Option Instr :=
  if f.extractLsb' 18 3 = 2#3 then some (.hfma2F16 g (f.extractLsb' 12 6) (f.extractLsb' 6 6) (f.extractLsb' 0 6)) else none

/-- The fields of HMAX2_F16 in its operand field. -/
def rowHmax2F16 (g : Guard) (f : BitVec 21) : Option Instr :=
  if f.extractLsb' 18 3 = 3#3 then some (.hmax2F16 g (f.extractLsb' 12 6) (f.extractLsb' 6 6) (f.extractLsb' 0 6)) else none

/-- The fields of HADD2_BF16 in its operand field. -/
def rowHadd2Bf16 (g : Guard) (f : BitVec 21) : Option Instr :=
  if f.extractLsb' 18 3 = 4#3 then some (.hadd2Bf16 g (f.extractLsb' 12 6) (f.extractLsb' 6 6) (f.extractLsb' 0 6)) else none

/-- The fields of HMUL2_BF16 in its operand field. -/
def rowHmul2Bf16 (g : Guard) (f : BitVec 21) : Option Instr :=
  if f.extractLsb' 18 3 = 5#3 then some (.hmul2Bf16 g (f.extractLsb' 12 6) (f.extractLsb' 6 6) (f.extractLsb' 0 6)) else none

/-- The fields of HFMA2_BF16 in its operand field. -/
def rowHfma2Bf16 (g : Guard) (f : BitVec 21) : Option Instr :=
  if f.extractLsb' 18 3 = 6#3 then some (.hfma2Bf16 g (f.extractLsb' 12 6) (f.extractLsb' 6 6) (f.extractLsb' 0 6)) else none

/-- The fields of HMAX2_BF16 in its operand field. -/
def rowHmax2Bf16 (g : Guard) (f : BitVec 21) : Option Instr :=
  if f.extractLsb' 18 3 = 7#3 then some (.hmax2Bf16 g (f.extractLsb' 12 6) (f.extractLsb' 6 6) (f.extractLsb' 0 6)) else none

/-- The fields of CVT_I2F_S32 in its operand field. -/
def rowCvtI2fS32 (g : Guard) (f : BitVec 21) : Option Instr :=
  if f.extractLsb' 18 3 = 0#3 ∧ f.extractLsb' 12 6 = 0#6 then some (.cvtI2fS32 g (f.extractLsb' 6 6) (f.extractLsb' 0 6)) else none

/-- The fields of CVT_I2F_N32 in its operand field. -/
def rowCvtI2fN32 (g : Guard) (f : BitVec 21) : Option Instr :=
  if f.extractLsb' 18 3 = 1#3 ∧ f.extractLsb' 12 6 = 0#6 then some (.cvtI2fN32 g (f.extractLsb' 6 6) (f.extractLsb' 0 6)) else none

/-- The fields of CVT_F2I_S32 in its operand field. -/
def rowCvtF2iS32 (g : Guard) (f : BitVec 21) : Option Instr :=
  if f.extractLsb' 18 3 = 2#3 ∧ f.extractLsb' 12 6 = 0#6 then some (.cvtF2iS32 g (f.extractLsb' 6 6) (f.extractLsb' 0 6)) else none

/-- The fields of CVT_F2I_N32 in its operand field. -/
def rowCvtF2iN32 (g : Guard) (f : BitVec 21) : Option Instr :=
  if f.extractLsb' 18 3 = 3#3 ∧ f.extractLsb' 12 6 = 0#6 then some (.cvtF2iN32 g (f.extractLsb' 6 6) (f.extractLsb' 0 6)) else none

/-- The fields of CVT_F2H_F16 in its operand field. -/
def rowCvtF2hF16 (g : Guard) (f : BitVec 21) : Option Instr :=
  if f.extractLsb' 18 3 = 4#3 ∧ f.extractLsb' 12 6 = 0#6 then some (.cvtF2hF16 g (f.extractLsb' 6 6) (f.extractLsb' 0 6)) else none

/-- The fields of CVT_F2H_BF16 in its operand field. -/
def rowCvtF2hBf16 (g : Guard) (f : BitVec 21) : Option Instr :=
  if f.extractLsb' 18 3 = 5#3 ∧ f.extractLsb' 12 6 = 0#6 then some (.cvtF2hBf16 g (f.extractLsb' 6 6) (f.extractLsb' 0 6)) else none

/-- The fields of CVT_H2F_F16 in its operand field. -/
def rowCvtH2fF16 (g : Guard) (f : BitVec 21) : Option Instr :=
  if f.extractLsb' 18 3 = 6#3 ∧ f.extractLsb' 12 6 = 0#6 then some (.cvtH2fF16 g (f.extractLsb' 6 6) (f.extractLsb' 0 6)) else none

/-- The fields of CVT_H2F_BF16 in its operand field. -/
def rowCvtH2fBf16 (g : Guard) (f : BitVec 21) : Option Instr :=
  if f.extractLsb' 18 3 = 7#3 ∧ f.extractLsb' 12 6 = 0#6 then some (.cvtH2fBf16 g (f.extractLsb' 6 6) (f.extractLsb' 0 6)) else none

/-- The fields of CVTF_NAR in its operand field. -/
def rowCvtfNar (g : Guard) (f : BitVec 21) : Option Instr :=
  if f.extractLsb' 13 5 = 0#5 ∧ f.extractLsb' 12 1 = 0#1 then some (.cvtfNar g (f.extractLsb' 18 3) (f.extractLsb' 6 6) (f.extractLsb' 0 6)) else none

/-- The fields of CVTF_WID in its operand field. -/
def rowCvtfWid (g : Guard) (f : BitVec 21) : Option Instr :=
  if f.extractLsb' 13 5 = 0#5 ∧ f.extractLsb' 12 1 = 1#1 then some (.cvtfWid g (f.extractLsb' 18 3) (f.extractLsb' 6 6) (f.extractLsb' 0 6)) else none

/-- The fields of PK4 in its operand field. -/
def rowPk4 (g : Guard) (f : BitVec 21) : Option Instr :=
  if f.extractLsb' 18 3 = 0#3 ∧ f.extractLsb' 15 3 = 0#3 then some (.pk4 g (f.extractLsb' 12 3) (f.extractLsb' 6 6) (f.extractLsb' 0 6)) else none

/-- The fields of UPK4 in its operand field. -/
def rowUpk4 (g : Guard) (f : BitVec 21) : Option Instr :=
  if f.extractLsb' 18 3 = 1#3 ∧ f.extractLsb' 15 3 = 0#3 then some (.upk4 g (f.extractLsb' 12 3) (f.extractLsb' 6 6) (f.extractLsb' 0 6)) else none

/-- The fields of FSCALE in its operand field. -/
def rowFscale (g : Guard) (f : BitVec 21) : Option Instr :=
  if f.extractLsb' 18 3 = 2#3 then some (.fscale g (f.extractLsb' 12 6) (f.extractLsb' 6 6) (f.extractLsb' 0 6)) else none

/-- The fields of RGEN in its operand field. -/
def rowRgen (g : Guard) (f : BitVec 21) : Option Instr :=
  if f.extractLsb' 18 3 = 3#3 ∧ f.extractLsb' 12 6 = 0#6 ∧ f.extractLsb' 6 6 = 0#6 then some (.rgen g (f.extractLsb' 0 6)) else none

/-- The fields of PAND in its operand field. -/
def rowPand (g : Guard) (f : BitVec 21) : Option Instr :=
  if f.extractLsb' 18 3 = 0#3 ∧ f.extractLsb' 15 3 = 0#3 ∧ f.extractLsb' 9 3 = 0#3 ∧ f.extractLsb' 3 3 = 0#3 then some (.pand g (f.extractLsb' 12 3) (f.extractLsb' 6 3) (f.extractLsb' 0 3)) else none

/-- The fields of POR in its operand field. -/
def rowPor (g : Guard) (f : BitVec 21) : Option Instr :=
  if f.extractLsb' 18 3 = 1#3 ∧ f.extractLsb' 15 3 = 0#3 ∧ f.extractLsb' 9 3 = 0#3 ∧ f.extractLsb' 3 3 = 0#3 then some (.por g (f.extractLsb' 12 3) (f.extractLsb' 6 3) (f.extractLsb' 0 3)) else none

/-- The fields of PXOR in its operand field. -/
def rowPxor (g : Guard) (f : BitVec 21) : Option Instr :=
  if f.extractLsb' 18 3 = 2#3 ∧ f.extractLsb' 15 3 = 0#3 ∧ f.extractLsb' 9 3 = 0#3 ∧ f.extractLsb' 3 3 = 0#3 then some (.pxor g (f.extractLsb' 12 3) (f.extractLsb' 6 3) (f.extractLsb' 0 3)) else none

/-- The fields of PNOT in its operand field. -/
def rowPnot (g : Guard) (f : BitVec 21) : Option Instr :=
  if f.extractLsb' 18 3 = 3#3 ∧ f.extractLsb' 12 6 = 0#6 ∧ f.extractLsb' 9 3 = 0#3 ∧ f.extractLsb' 3 3 = 0#3 then some (.pnot g (f.extractLsb' 6 3) (f.extractLsb' 0 3)) else none

/-- The fields of PMOV in its operand field. -/
def rowPmov (g : Guard) (f : BitVec 21) : Option Instr :=
  if f.extractLsb' 18 3 = 4#3 ∧ f.extractLsb' 12 6 = 0#6 ∧ f.extractLsb' 9 3 = 0#3 ∧ f.extractLsb' 3 3 = 0#3 then some (.pmov g (f.extractLsb' 6 3) (f.extractLsb' 0 3)) else none

/-- The fields of BR in its operand field. -/
def rowBr (g : Guard) (f : BitVec 21) : Option Instr :=
  some (.br g (f.extractLsb' 1 20) ((f.extractLsb' 0 1 == 1#1)))

/-- The fields of BR_RGP in its operand field. -/
def rowBrRgp (g : Guard) (f : BitVec 21) : Option Instr :=
  some (.brRgp g (f.extractLsb' 1 20) ((f.extractLsb' 0 1 == 1#1)))

/-- The fields of CALL in its operand field. -/
def rowCall (g : Guard) (f : BitVec 21) : Option Instr :=
  some (.call g (f.extractLsb' 1 20) ((f.extractLsb' 0 1 == 1#1)))

/-- The fields of FORK in its operand field. -/
def rowFork (g : Guard) (f : BitVec 21) : Option Instr :=
  if f.extractLsb' 0 1 = 0#1 then some (.fork g (f.extractLsb' 1 20)) else none

/-- The fields of BRX in its operand field. -/
def rowBrx (g : Guard) (f : BitVec 21) : Option Instr :=
  if f.extractLsb' 18 3 = 0#3 ∧ f.extractLsb' 13 5 = 0#5 ∧ f.extractLsb' 0 6 = 0#6 then some (.brx g ((f.extractLsb' 12 1 == 1#1)) (f.extractLsb' 6 6)) else none

/-- The fields of BRX_RGP in its operand field. -/
def rowBrxRgp (g : Guard) (f : BitVec 21) : Option Instr :=
  if f.extractLsb' 18 3 = 1#3 ∧ f.extractLsb' 13 5 = 0#5 ∧ f.extractLsb' 0 6 = 0#6 then some (.brxRgp g ((f.extractLsb' 12 1 == 1#1)) (f.extractLsb' 6 6)) else none

/-- The fields of CALLX in its operand field. -/
def rowCallx (g : Guard) (f : BitVec 21) : Option Instr :=
  if f.extractLsb' 18 3 = 2#3 ∧ f.extractLsb' 13 5 = 0#5 ∧ f.extractLsb' 0 6 = 0#6 then some (.callx g ((f.extractLsb' 12 1 == 1#1)) (f.extractLsb' 6 6)) else none

/-- The fields of RET in its operand field. -/
def rowRet (g : Guard) (f : BitVec 21) : Option Instr :=
  if f.extractLsb' 18 3 = 3#3 ∧ f.extractLsb' 13 5 = 0#5 ∧ f.extractLsb' 6 6 = 0#6 ∧ f.extractLsb' 0 6 = 0#6 then some (.ret g ((f.extractLsb' 12 1 == 1#1))) else none

/-- The fields of EXIT in its operand field. -/
def rowExit (g : Guard) (f : BitVec 21) : Option Instr :=
  if f.extractLsb' 18 3 = 4#3 ∧ f.extractLsb' 12 6 = 0#6 ∧ f.extractLsb' 6 6 = 0#6 ∧ f.extractLsb' 0 6 = 0#6 then some (.exit g) else none

/-- The fields of FEND in its operand field. -/
def rowFend (g : Guard) (f : BitVec 21) : Option Instr :=
  if f.extractLsb' 18 3 = 5#3 ∧ f.extractLsb' 12 6 = 0#6 ∧ f.extractLsb' 6 6 = 0#6 ∧ f.extractLsb' 0 6 = 0#6 then some (.fend g) else none

/-- The fields of HOME in its operand field. -/
def rowHome (g : Guard) (f : BitVec 21) : Option Instr :=
  if f.extractLsb' 18 3 = 6#3 ∧ f.extractLsb' 12 6 = 0#6 ∧ f.extractLsb' 6 6 = 0#6 ∧ f.extractLsb' 0 6 = 0#6 then some (.home g) else none

/-- The fields of NOP in its operand field. -/
def rowNop (g : Guard) (f : BitVec 21) : Option Instr :=
  if f.extractLsb' 18 3 = 7#3 ∧ f.extractLsb' 12 6 = 0#6 ∧ f.extractLsb' 6 6 = 0#6 ∧ f.extractLsb' 0 6 = 0#6 then some (.nop g) else none

/-- The fields of TRAP in its operand field. -/
def rowTrap (g : Guard) (f : BitVec 21) : Option Instr :=
  if f.extractLsb' 16 5 = 0#5 ∧ f.extractLsb' 0 6 = 0#6 then some (.trap g (f.extractLsb' 6 10)) else none

/-- The fields of BRK in its operand field. -/
def rowBrk (g : Guard) (f : BitVec 21) : Option Instr :=
  if f.extractLsb' 16 5 = 1#5 ∧ f.extractLsb' 6 10 = 0#10 ∧ f.extractLsb' 0 6 = 0#6 then some (.brk g) else none

/-- The fields of VOTE_ALL in its operand field. -/
def rowVoteAll (g : Guard) (f : BitVec 21) : Option Instr :=
  if f.extractLsb' 18 3 = 0#3 ∧ f.extractLsb' 12 6 = 0#6 ∧ f.extractLsb' 9 3 = 0#3 ∧ f.extractLsb' 3 3 = 0#3 then some (.voteAll g (f.extractLsb' 6 3) (f.extractLsb' 0 3)) else none

/-- The fields of VOTE_ANY in its operand field. -/
def rowVoteAny (g : Guard) (f : BitVec 21) : Option Instr :=
  if f.extractLsb' 18 3 = 1#3 ∧ f.extractLsb' 12 6 = 0#6 ∧ f.extractLsb' 9 3 = 0#3 ∧ f.extractLsb' 3 3 = 0#3 then some (.voteAny g (f.extractLsb' 6 3) (f.extractLsb' 0 3)) else none

/-- The fields of VOTE_BALLOT in its operand field. -/
def rowVoteBallot (g : Guard) (f : BitVec 21) : Option Instr :=
  if f.extractLsb' 18 3 = 2#3 ∧ f.extractLsb' 12 6 = 0#6 ∧ f.extractLsb' 9 3 = 0#3 then some (.voteBallot g (f.extractLsb' 6 3) (f.extractLsb' 0 6)) else none

/-- The fields of SHFL_IDX in its operand field. -/
def rowShflIdx (g : Guard) (f : BitVec 21) : Option Instr :=
  if f.extractLsb' 18 3 = 0#3 then some (.shflIdx g (f.extractLsb' 12 6) (f.extractLsb' 6 6) (f.extractLsb' 0 6)) else none

/-- The fields of SHFL_UP in its operand field. -/
def rowShflUp (g : Guard) (f : BitVec 21) : Option Instr :=
  if f.extractLsb' 18 3 = 1#3 then some (.shflUp g (f.extractLsb' 12 6) (f.extractLsb' 6 6) (f.extractLsb' 0 6)) else none

/-- The fields of SHFL_DOWN in its operand field. -/
def rowShflDown (g : Guard) (f : BitVec 21) : Option Instr :=
  if f.extractLsb' 18 3 = 2#3 then some (.shflDown g (f.extractLsb' 12 6) (f.extractLsb' 6 6) (f.extractLsb' 0 6)) else none

/-- The fields of SHFL_XOR in its operand field. -/
def rowShflXor (g : Guard) (f : BitVec 21) : Option Instr :=
  if f.extractLsb' 18 3 = 3#3 then some (.shflXor g (f.extractLsb' 12 6) (f.extractLsb' 6 6) (f.extractLsb' 0 6)) else none

/-- The fields of GRED_ADD_S32 in its operand field. -/
def rowGredAddS32 (g : Guard) (f : BitVec 21) : Option Instr :=
  if f.extractLsb' 18 3 = 0#3 ∧ f.extractLsb' 12 6 = 0#6 then some (.gredAddS32 g (f.extractLsb' 6 6) (f.extractLsb' 0 6)) else none

/-- The fields of GRED_ADD_F32 in its operand field. -/
def rowGredAddF32 (g : Guard) (f : BitVec 21) : Option Instr :=
  if f.extractLsb' 18 3 = 1#3 ∧ f.extractLsb' 12 6 = 0#6 then some (.gredAddF32 g (f.extractLsb' 6 6) (f.extractLsb' 0 6)) else none

/-- The fields of GRED_MIN_S32 in its operand field. -/
def rowGredMinS32 (g : Guard) (f : BitVec 21) : Option Instr :=
  if f.extractLsb' 18 3 = 2#3 ∧ f.extractLsb' 12 6 = 0#6 then some (.gredMinS32 g (f.extractLsb' 6 6) (f.extractLsb' 0 6)) else none

/-- The fields of GRED_MAX_S32 in its operand field. -/
def rowGredMaxS32 (g : Guard) (f : BitVec 21) : Option Instr :=
  if f.extractLsb' 18 3 = 3#3 ∧ f.extractLsb' 12 6 = 0#6 then some (.gredMaxS32 g (f.extractLsb' 6 6) (f.extractLsb' 0 6)) else none

/-- The fields of GRED_MIN_F32 in its operand field. -/
def rowGredMinF32 (g : Guard) (f : BitVec 21) : Option Instr :=
  if f.extractLsb' 18 3 = 4#3 ∧ f.extractLsb' 12 6 = 0#6 then some (.gredMinF32 g (f.extractLsb' 6 6) (f.extractLsb' 0 6)) else none

/-- The fields of GRED_MAX_F32 in its operand field. -/
def rowGredMaxF32 (g : Guard) (f : BitVec 21) : Option Instr :=
  if f.extractLsb' 18 3 = 5#3 ∧ f.extractLsb' 12 6 = 0#6 then some (.gredMaxF32 g (f.extractLsb' 6 6) (f.extractLsb' 0 6)) else none

/-- The fields of GRED_AND in its operand field. -/
def rowGredAnd (g : Guard) (f : BitVec 21) : Option Instr :=
  if f.extractLsb' 18 3 = 6#3 ∧ f.extractLsb' 12 6 = 0#6 then some (.gredAnd g (f.extractLsb' 6 6) (f.extractLsb' 0 6)) else none

/-- The fields of GRED_OR in its operand field. -/
def rowGredOr (g : Guard) (f : BitVec 21) : Option Instr :=
  if f.extractLsb' 18 3 = 7#3 ∧ f.extractLsb' 12 6 = 0#6 then some (.gredOr g (f.extractLsb' 6 6) (f.extractLsb' 0 6)) else none

/-- The fields of MATCH in its operand field. -/
def rowMatchLanes (g : Guard) (f : BitVec 21) : Option Instr :=
  if f.extractLsb' 18 3 = 0#3 ∧ f.extractLsb' 12 6 = 0#6 then some (.matchLanes g (f.extractLsb' 6 6) (f.extractLsb' 0 6)) else none

/-- The fields of RGROW in its operand field. -/
def rowRgrow (g : Guard) (f : BitVec 21) : Option Instr :=
  if f.extractLsb' 18 3 = 1#3 ∧ f.extractLsb' 6 6 = 0#6 ∧ f.extractLsb' 0 6 = 0#6 then some (.rgrow g (f.extractLsb' 12 6)) else none

/-- The fields of RSHRINK in its operand field. -/
def rowRshrink (g : Guard) (f : BitVec 21) : Option Instr :=
  if f.extractLsb' 18 3 = 2#3 ∧ f.extractLsb' 6 6 = 0#6 ∧ f.extractLsb' 0 6 = 0#6 then some (.rshrink g (f.extractLsb' 12 6)) else none

/-- The fields of RWIN in its operand field. -/
def rowRwin (g : Guard) (f : BitVec 21) : Option Instr :=
  if f.extractLsb' 18 3 = 3#3 ∧ f.extractLsb' 12 6 = 0#6 ∧ f.extractLsb' 6 6 = 0#6 then some (.rwin g (f.extractLsb' 0 6)) else none

/-- The fields of MOVX in its operand field. -/
def rowMovx (g : Guard) (f : BitVec 21) : Option Instr :=
  if f.extractLsb' 18 3 = 4#3 ∧ f.extractLsb' 16 2 = 0#2 then some (.movx g (f.extractLsb' 8 8) (f.extractLsb' 0 8)) else none

/-- The fields of LD in its operand field. -/
def rowLd (g : Guard) (f : BitVec 21) : Option Instr :=
  some (.ld g (f.extractLsb' 17 4) (f.extractLsb' 12 5) (f.extractLsb' 6 6) (f.extractLsb' 0 6))

/-- The fields of ST in its operand field. -/
def rowSt (g : Guard) (f : BitVec 21) : Option Instr :=
  some (.st g (f.extractLsb' 17 4) (f.extractLsb' 12 5) (f.extractLsb' 6 6) (f.extractLsb' 0 6))

/-- The fields of LD_NARROW_WIDE in its operand field. -/
def rowLdNarrowWide (g : Guard) (f : BitVec 21) : Option Instr :=
  if f.extractLsb' 20 1 = 0#1 then (widthOfBits (f.extractLsb' 17 3)).bind fun w => some (.ldNarrowWide g w (f.extractLsb' 12 5) (f.extractLsb' 6 6) (f.extractLsb' 0 6)) else none

/-- The fields of ST_NARROW_WIDE in its operand field. -/
def rowStNarrowWide (g : Guard) (f : BitVec 21) : Option Instr :=
  if f.extractLsb' 20 1 = 1#1 then (widthOfBits (f.extractLsb' 17 3)).bind fun w => some (.stNarrowWide g w (f.extractLsb' 12 5) (f.extractLsb' 6 6) (f.extractLsb' 0 6)) else none

/-- The fields of LD_ACQ in its operand field. -/
def rowLdAcq (g : Guard) (f : BitVec 21) : Option Instr :=
  if f.extractLsb' 20 1 = 0#1 then (scopeOfBits (f.extractLsb' 17 3)).bind fun sc => some (.ldAcq g sc (f.extractLsb' 12 5) (f.extractLsb' 6 6) (f.extractLsb' 0 6)) else none

/-- The fields of ST_REL in its operand field. -/
def rowStRel (g : Guard) (f : BitVec 21) : Option Instr :=
  if f.extractLsb' 20 1 = 1#1 then (scopeOfBits (f.extractLsb' 17 3)).bind fun sc => some (.stRel g sc (f.extractLsb' 12 5) (f.extractLsb' 6 6) (f.extractLsb' 0 6)) else none

/-- The fields of ATOM_ADD_S32 in its operand field. -/
def rowAtomAddS32 (g : Guard) (f : BitVec 21) : Option Instr :=
  if f.extractLsb' 17 4 = 0#4 then some (.atomAddS32 g (f.extractLsb' 12 5) (f.extractLsb' 6 6) (f.extractLsb' 0 6)) else none

/-- The fields of ATOM_ADD_F32 in its operand field. -/
def rowAtomAddF32 (g : Guard) (f : BitVec 21) : Option Instr :=
  if f.extractLsb' 17 4 = 1#4 then some (.atomAddF32 g (f.extractLsb' 12 5) (f.extractLsb' 6 6) (f.extractLsb' 0 6)) else none

/-- The fields of ATOM_MIN_S32 in its operand field. -/
def rowAtomMinS32 (g : Guard) (f : BitVec 21) : Option Instr :=
  if f.extractLsb' 17 4 = 2#4 then some (.atomMinS32 g (f.extractLsb' 12 5) (f.extractLsb' 6 6) (f.extractLsb' 0 6)) else none

/-- The fields of ATOM_MAX_S32 in its operand field. -/
def rowAtomMaxS32 (g : Guard) (f : BitVec 21) : Option Instr :=
  if f.extractLsb' 17 4 = 3#4 then some (.atomMaxS32 g (f.extractLsb' 12 5) (f.extractLsb' 6 6) (f.extractLsb' 0 6)) else none

/-- The fields of ATOM_MIN_N32 in its operand field. -/
def rowAtomMinN32 (g : Guard) (f : BitVec 21) : Option Instr :=
  if f.extractLsb' 17 4 = 4#4 then some (.atomMinN32 g (f.extractLsb' 12 5) (f.extractLsb' 6 6) (f.extractLsb' 0 6)) else none

/-- The fields of ATOM_MAX_N32 in its operand field. -/
def rowAtomMaxN32 (g : Guard) (f : BitVec 21) : Option Instr :=
  if f.extractLsb' 17 4 = 5#4 then some (.atomMaxN32 g (f.extractLsb' 12 5) (f.extractLsb' 6 6) (f.extractLsb' 0 6)) else none

/-- The fields of ATOM_AND in its operand field. -/
def rowAtomAnd (g : Guard) (f : BitVec 21) : Option Instr :=
  if f.extractLsb' 17 4 = 6#4 then some (.atomAnd g (f.extractLsb' 12 5) (f.extractLsb' 6 6) (f.extractLsb' 0 6)) else none

/-- The fields of ATOM_OR in its operand field. -/
def rowAtomOr (g : Guard) (f : BitVec 21) : Option Instr :=
  if f.extractLsb' 17 4 = 7#4 then some (.atomOr g (f.extractLsb' 12 5) (f.extractLsb' 6 6) (f.extractLsb' 0 6)) else none

/-- The fields of ATOM_XOR in its operand field. -/
def rowAtomXor (g : Guard) (f : BitVec 21) : Option Instr :=
  if f.extractLsb' 17 4 = 8#4 then some (.atomXor g (f.extractLsb' 12 5) (f.extractLsb' 6 6) (f.extractLsb' 0 6)) else none

/-- The fields of ATOM_EXCH in its operand field. -/
def rowAtomExch (g : Guard) (f : BitVec 21) : Option Instr :=
  if f.extractLsb' 17 4 = 9#4 then some (.atomExch g (f.extractLsb' 12 5) (f.extractLsb' 6 6) (f.extractLsb' 0 6)) else none

/-- The fields of ATOM_CAS in its operand field. -/
def rowAtomCas (g : Guard) (f : BitVec 21) : Option Instr :=
  if f.extractLsb' 17 4 = 10#4 ∧ f.extractLsb' 0 1 = 0#1 then some (.atomCas g (f.extractLsb' 12 5) (f.extractLsb' 6 6) (f.extractLsb' 0 6)) else none

/-- The fields of ATOM_ORD_ADD_S32 in its operand field. -/
def rowAtomOrdAddS32 (g : Guard) (f : BitVec 21) : Option Instr :=
  if f.extractLsb' 18 3 = 0#3 ∧ f.extractLsb' 17 1 = 0#1 ∧ f.extractLsb' 6 1 = 0#1 then (ordScopeOfBits (f.extractLsb' 12 5)).bind fun os => some (.atomOrdAddS32 g os (f.extractLsb' 6 6) (f.extractLsb' 0 6)) else none

/-- The fields of ATOM_ORD_ADD_F32 in its operand field. -/
def rowAtomOrdAddF32 (g : Guard) (f : BitVec 21) : Option Instr :=
  if f.extractLsb' 18 3 = 1#3 ∧ f.extractLsb' 17 1 = 0#1 ∧ f.extractLsb' 6 1 = 0#1 then (ordScopeOfBits (f.extractLsb' 12 5)).bind fun os => some (.atomOrdAddF32 g os (f.extractLsb' 6 6) (f.extractLsb' 0 6)) else none

/-- The fields of ATOM_ORD_MIN_S32 in its operand field. -/
def rowAtomOrdMinS32 (g : Guard) (f : BitVec 21) : Option Instr :=
  if f.extractLsb' 18 3 = 2#3 ∧ f.extractLsb' 17 1 = 0#1 ∧ f.extractLsb' 6 1 = 0#1 then (ordScopeOfBits (f.extractLsb' 12 5)).bind fun os => some (.atomOrdMinS32 g os (f.extractLsb' 6 6) (f.extractLsb' 0 6)) else none

/-- The fields of ATOM_ORD_MAX_S32 in its operand field. -/
def rowAtomOrdMaxS32 (g : Guard) (f : BitVec 21) : Option Instr :=
  if f.extractLsb' 18 3 = 3#3 ∧ f.extractLsb' 17 1 = 0#1 ∧ f.extractLsb' 6 1 = 0#1 then (ordScopeOfBits (f.extractLsb' 12 5)).bind fun os => some (.atomOrdMaxS32 g os (f.extractLsb' 6 6) (f.extractLsb' 0 6)) else none

/-- The fields of ATOM_ORD_AND in its operand field. -/
def rowAtomOrdAnd (g : Guard) (f : BitVec 21) : Option Instr :=
  if f.extractLsb' 18 3 = 4#3 ∧ f.extractLsb' 17 1 = 0#1 ∧ f.extractLsb' 6 1 = 0#1 then (ordScopeOfBits (f.extractLsb' 12 5)).bind fun os => some (.atomOrdAnd g os (f.extractLsb' 6 6) (f.extractLsb' 0 6)) else none

/-- The fields of ATOM_ORD_OR in its operand field. -/
def rowAtomOrdOr (g : Guard) (f : BitVec 21) : Option Instr :=
  if f.extractLsb' 18 3 = 5#3 ∧ f.extractLsb' 17 1 = 0#1 ∧ f.extractLsb' 6 1 = 0#1 then (ordScopeOfBits (f.extractLsb' 12 5)).bind fun os => some (.atomOrdOr g os (f.extractLsb' 6 6) (f.extractLsb' 0 6)) else none

/-- The fields of ATOM_ORD_EXCH in its operand field. -/
def rowAtomOrdExch (g : Guard) (f : BitVec 21) : Option Instr :=
  if f.extractLsb' 18 3 = 6#3 ∧ f.extractLsb' 17 1 = 0#1 ∧ f.extractLsb' 6 1 = 0#1 then (ordScopeOfBits (f.extractLsb' 12 5)).bind fun os => some (.atomOrdExch g os (f.extractLsb' 6 6) (f.extractLsb' 0 6)) else none

/-- The fields of ATOM_ORD_CAS in its operand field. -/
def rowAtomOrdCas (g : Guard) (f : BitVec 21) : Option Instr :=
  if f.extractLsb' 18 3 = 7#3 ∧ f.extractLsb' 17 1 = 0#1 ∧ f.extractLsb' 6 1 = 0#1 ∧ f.extractLsb' 0 1 = 0#1 then (ordScopeOfBits (f.extractLsb' 12 5)).bind fun os => some (.atomOrdCas g os (f.extractLsb' 6 6) (f.extractLsb' 0 6)) else none

/-- The fields of RED_ADD_S32 in its operand field. -/
def rowRedAddS32 (g : Guard) (f : BitVec 21) : Option Instr :=
  if f.extractLsb' 17 4 = 0#4 then some (.redAddS32 g (f.extractLsb' 12 5) (f.extractLsb' 6 6) (f.extractLsb' 0 6)) else none

/-- The fields of RED_ADD_F32 in its operand field. -/
def rowRedAddF32 (g : Guard) (f : BitVec 21) : Option Instr :=
  if f.extractLsb' 17 4 = 1#4 then some (.redAddF32 g (f.extractLsb' 12 5) (f.extractLsb' 6 6) (f.extractLsb' 0 6)) else none

/-- The fields of RED_MIN_S32 in its operand field. -/
def rowRedMinS32 (g : Guard) (f : BitVec 21) : Option Instr :=
  if f.extractLsb' 17 4 = 2#4 then some (.redMinS32 g (f.extractLsb' 12 5) (f.extractLsb' 6 6) (f.extractLsb' 0 6)) else none

/-- The fields of RED_MAX_S32 in its operand field. -/
def rowRedMaxS32 (g : Guard) (f : BitVec 21) : Option Instr :=
  if f.extractLsb' 17 4 = 3#4 then some (.redMaxS32 g (f.extractLsb' 12 5) (f.extractLsb' 6 6) (f.extractLsb' 0 6)) else none

/-- The fields of RED_MIN_N32 in its operand field. -/
def rowRedMinN32 (g : Guard) (f : BitVec 21) : Option Instr :=
  if f.extractLsb' 17 4 = 4#4 then some (.redMinN32 g (f.extractLsb' 12 5) (f.extractLsb' 6 6) (f.extractLsb' 0 6)) else none

/-- The fields of RED_MAX_N32 in its operand field. -/
def rowRedMaxN32 (g : Guard) (f : BitVec 21) : Option Instr :=
  if f.extractLsb' 17 4 = 5#4 then some (.redMaxN32 g (f.extractLsb' 12 5) (f.extractLsb' 6 6) (f.extractLsb' 0 6)) else none

/-- The fields of RED_AND in its operand field. -/
def rowRedAnd (g : Guard) (f : BitVec 21) : Option Instr :=
  if f.extractLsb' 17 4 = 6#4 then some (.redAnd g (f.extractLsb' 12 5) (f.extractLsb' 6 6) (f.extractLsb' 0 6)) else none

/-- The fields of RED_OR in its operand field. -/
def rowRedOr (g : Guard) (f : BitVec 21) : Option Instr :=
  if f.extractLsb' 17 4 = 7#4 then some (.redOr g (f.extractLsb' 12 5) (f.extractLsb' 6 6) (f.extractLsb' 0 6)) else none

/-- The fields of RED_XOR in its operand field. -/
def rowRedXor (g : Guard) (f : BitVec 21) : Option Instr :=
  if f.extractLsb' 17 4 = 8#4 then some (.redXor g (f.extractLsb' 12 5) (f.extractLsb' 6 6) (f.extractLsb' 0 6)) else none

/-- The fields of PF in its operand field. -/
def rowPf (g : Guard) (f : BitVec 21) : Option Instr :=
  if f.extractLsb' 17 4 = 15#4 ∧ f.extractLsb' 0 6 = 0#6 then some (.pf g (f.extractLsb' 12 5) (f.extractLsb' 6 6)) else none

/-- The fields of FENCE in its operand field. -/
def rowFence (g : Guard) (f : BitVec 21) : Option Instr :=
  if f.extractLsb' 18 3 = 0#3 ∧ f.extractLsb' 17 1 = 0#1 ∧ f.extractLsb' 6 6 = 0#6 ∧ f.extractLsb' 0 6 = 0#6 then (ordScopeOfBits (f.extractLsb' 12 5)).bind fun os => some (.fence g os) else none

/-- The fields of WAIT in its operand field. -/
def rowWait (g : Guard) (f : BitVec 21) : Option Instr :=
  if f.extractLsb' 18 3 = 1#3 ∧ f.extractLsb' 17 1 = 0#1 ∧ f.extractLsb' 6 1 = 0#1 ∧ f.extractLsb' 0 1 = 0#1 then (waitCondOfBits (f.extractLsb' 14 3)).bind fun c => (classOfBits (f.extractLsb' 12 2)).bind fun k => some (.wait g c k (f.extractLsb' 6 6) (f.extractLsb' 0 6)) else none

/-- The fields of LTIME in its operand field. -/
def rowLtime (g : Guard) (f : BitVec 21) : Option Instr :=
  if f.extractLsb' 18 3 = 2#3 ∧ f.extractLsb' 12 6 = 0#6 ∧ f.extractLsb' 6 6 = 0#6 then some (.ltime g (f.extractLsb' 0 6)) else none

/-- The fields of LPUB in its operand field. -/
def rowLpub (g : Guard) (f : BitVec 21) : Option Instr :=
  if f.extractLsb' 18 3 = 3#3 ∧ f.extractLsb' 12 6 = 0#6 ∧ f.extractLsb' 6 1 = 0#1 ∧ f.extractLsb' 0 1 = 0#1 then some (.lpub g (f.extractLsb' 6 6) (f.extractLsb' 0 6)) else none

/-- The fields of STF in its operand field. -/
def rowStf (g : Guard) (f : BitVec 21) : Option Instr :=
  if f.extractLsb' 18 3 = 4#3 ∧ f.extractLsb' 12 1 = 0#1 ∧ f.extractLsb' 6 1 = 0#1 then some (.stf g (f.extractLsb' 12 6) (f.extractLsb' 6 6) (f.extractLsb' 0 6)) else none

/-- The fields of LLD in its operand field. -/
def rowLld (g : Guard) (f : BitVec 21) : Option Instr :=
  some (.lld g (f.extractLsb' 12 9) (f.extractLsb' 6 6) (f.extractLsb' 0 6))

/-- The fields of LST in its operand field. -/
def rowLst (g : Guard) (f : BitVec 21) : Option Instr :=
  some (.lst g (f.extractLsb' 12 9) (f.extractLsb' 6 6) (f.extractLsb' 0 6))

/-- The fields of LATOM_ADD_S32 in its operand field. -/
def rowLatomAddS32 (g : Guard) (f : BitVec 21) : Option Instr :=
  if f.extractLsb' 18 3 = 0#3 ∧ f.extractLsb' 12 6 = 0#6 then some (.latomAddS32 g (f.extractLsb' 6 6) (f.extractLsb' 0 6)) else none

/-- The fields of LATOM_ADD_F32 in its operand field. -/
def rowLatomAddF32 (g : Guard) (f : BitVec 21) : Option Instr :=
  if f.extractLsb' 18 3 = 1#3 ∧ f.extractLsb' 12 6 = 0#6 then some (.latomAddF32 g (f.extractLsb' 6 6) (f.extractLsb' 0 6)) else none

/-- The fields of LATOM_MIN_S32 in its operand field. -/
def rowLatomMinS32 (g : Guard) (f : BitVec 21) : Option Instr :=
  if f.extractLsb' 18 3 = 2#3 ∧ f.extractLsb' 12 6 = 0#6 then some (.latomMinS32 g (f.extractLsb' 6 6) (f.extractLsb' 0 6)) else none

/-- The fields of LATOM_MAX_S32 in its operand field. -/
def rowLatomMaxS32 (g : Guard) (f : BitVec 21) : Option Instr :=
  if f.extractLsb' 18 3 = 3#3 ∧ f.extractLsb' 12 6 = 0#6 then some (.latomMaxS32 g (f.extractLsb' 6 6) (f.extractLsb' 0 6)) else none

/-- The fields of LATOM_AND in its operand field. -/
def rowLatomAnd (g : Guard) (f : BitVec 21) : Option Instr :=
  if f.extractLsb' 18 3 = 4#3 ∧ f.extractLsb' 12 6 = 0#6 then some (.latomAnd g (f.extractLsb' 6 6) (f.extractLsb' 0 6)) else none

/-- The fields of LATOM_OR in its operand field. -/
def rowLatomOr (g : Guard) (f : BitVec 21) : Option Instr :=
  if f.extractLsb' 18 3 = 5#3 ∧ f.extractLsb' 12 6 = 0#6 then some (.latomOr g (f.extractLsb' 6 6) (f.extractLsb' 0 6)) else none

/-- The fields of LATOM_EXCH in its operand field. -/
def rowLatomExch (g : Guard) (f : BitVec 21) : Option Instr :=
  if f.extractLsb' 18 3 = 6#3 ∧ f.extractLsb' 12 6 = 0#6 then some (.latomExch g (f.extractLsb' 6 6) (f.extractLsb' 0 6)) else none

/-- The fields of LATOM_CAS in its operand field. -/
def rowLatomCas (g : Guard) (f : BitVec 21) : Option Instr :=
  if f.extractLsb' 18 3 = 7#3 ∧ f.extractLsb' 12 6 = 0#6 ∧ f.extractLsb' 0 1 = 0#1 then some (.latomCas g (f.extractLsb' 6 6) (f.extractLsb' 0 6)) else none

/-- The fields of BAR in its operand field. -/
def rowBar (g : Guard) (f : BitVec 21) : Option Instr :=
  if f.extractLsb' 18 3 = 0#3 ∧ f.extractLsb' 14 4 = 0#4 ∧ f.extractLsb' 6 6 = 0#6 ∧ f.extractLsb' 0 6 = 0#6 then (classOfBits (f.extractLsb' 12 2)).bind fun k => some (.bar g k) else none

/-- The fields of BOINIT in its operand field. -/
def rowBoinit (g : Guard) (f : BitVec 21) : Option Instr :=
  if f.extractLsb' 18 3 = 1#3 ∧ f.extractLsb' 12 1 = 0#1 ∧ f.extractLsb' 0 6 = 0#6 then some (.boinit g (f.extractLsb' 12 6) (f.extractLsb' 6 6)) else none

/-- The fields of BOARR in its operand field. -/
def rowBoarr (g : Guard) (f : BitVec 21) : Option Instr :=
  if f.extractLsb' 18 3 = 2#3 ∧ f.extractLsb' 0 6 = 0#6 then some (.boarr g (f.extractLsb' 12 6) (f.extractLsb' 6 6)) else none

/-- The fields of BOWAIT in its operand field. -/
def rowBowait (g : Guard) (f : BitVec 21) : Option Instr :=
  if f.extractLsb' 18 3 = 3#3 ∧ f.extractLsb' 14 4 = 0#4 then (classOfBits (f.extractLsb' 12 2)).bind fun k => some (.bowait g k (f.extractLsb' 6 6) (f.extractLsb' 0 6)) else none

/-- The fields of BOTEST in its operand field. -/
def rowBotest (g : Guard) (f : BitVec 21) : Option Instr :=
  if f.extractLsb' 18 3 = 4#3 ∧ f.extractLsb' 12 6 = 0#6 ∧ f.extractLsb' 3 3 = 0#3 then some (.botest g (f.extractLsb' 6 6) (f.extractLsb' 0 3)) else none

/-- The fields of HALLOC in its operand field. -/
def rowHalloc (g : Guard) (f : BitVec 21) : Option Instr :=
  if f.extractLsb' 19 2 = 0#2 ∧ f.extractLsb' 14 5 = 0#5 then some (.halloc g (f.extractLsb' 8 6) (f.extractLsb' 0 8)) else none

/-- The fields of HFREE in its operand field. -/
def rowHfree (g : Guard) (f : BitVec 21) : Option Instr :=
  if f.extractLsb' 19 2 = 1#2 ∧ f.extractLsb' 14 5 = 0#5 ∧ f.extractLsb' 8 6 = 0#6 then some (.hfree g (f.extractLsb' 0 8)) else none

/-- The fields of HBIND in its operand field. -/
def rowHbind (g : Guard) (f : BitVec 21) : Option Instr :=
  if f.extractLsb' 19 2 = 2#2 then some (.hbind g (f.extractLsb' 14 5) (f.extractLsb' 8 6) (f.extractLsb' 0 8)) else none

/-- The fields of HSTATE in its operand field. -/
def rowHstate (g : Guard) (f : BitVec 21) : Option Instr :=
  if f.extractLsb' 19 2 = 3#2 ∧ f.extractLsb' 14 5 = 0#5 then some (.hstate g (f.extractLsb' 8 6) (f.extractLsb' 0 8)) else none

/-- The fields of HWPTR in its operand field. -/
def rowHwptr (g : Guard) (f : BitVec 21) : Option Instr :=
  if f.extractLsb' 19 2 = 0#2 ∧ f.extractLsb' 14 5 = 0#5 then some (.hwptr g (f.extractLsb' 8 6) (f.extractLsb' 0 8)) else none

/-- The fields of HWAIT in its operand field. -/
def rowHwait (g : Guard) (f : BitVec 21) : Option Instr :=
  if f.extractLsb' 19 2 = 1#2 ∧ f.extractLsb' 18 1 = 0#1 ∧ f.extractLsb' 8 6 = 0#6 then (hstateOfBits (f.extractLsb' 16 2)).bind fun st => (classOfBits (f.extractLsb' 14 2)).bind fun k => some (.hwait g st k (f.extractLsb' 0 8)) else none

/-- The fields of CPCANCEL in its operand field. -/
def rowCpcancel (g : Guard) (f : BitVec 21) : Option Instr :=
  if f.extractLsb' 19 2 = 2#2 ∧ f.extractLsb' 14 5 = 0#5 ∧ f.extractLsb' 8 6 = 0#6 then some (.cpcancel g (f.extractLsb' 0 8)) else none

/-- The fields of CPIN in its operand field. -/
def rowCpin (g : Guard) (f : BitVec 21) : Option Instr :=
  if f.extractLsb' 19 2 = 0#2 then some (.cpin g (f.extractLsb' 14 5) (f.extractLsb' 8 6) (f.extractLsb' 0 8)) else none

/-- The fields of CPOUT in its operand field. -/
def rowCpout (g : Guard) (f : BitVec 21) : Option Instr :=
  if f.extractLsb' 19 2 = 1#2 then some (.cpout g (f.extractLsb' 14 5) (f.extractLsb' 8 6) (f.extractLsb' 0 8)) else none

/-- The fields of CPPUSH in its operand field. -/
def rowCppush (g : Guard) (f : BitVec 21) : Option Instr :=
  if f.extractLsb' 19 2 = 2#2 ∧ f.extractLsb' 14 5 = 0#5 ∧ f.extractLsb' 8 1 = 0#1 then some (.cppush g (f.extractLsb' 8 6) (f.extractLsb' 0 8)) else none

/-- The fields of CPRED in its operand field. -/
def rowCpred (g : Guard) (f : BitVec 21) : Option Instr :=
  if f.extractLsb' 19 2 = 3#2 ∧ f.extractLsb' 14 5 = 0#5 ∧ f.extractLsb' 8 1 = 0#1 then some (.cpred g (f.extractLsb' 8 6) (f.extractLsb' 0 8)) else none

/-- The fields of CPFILL in its operand field. -/
def rowCpfill (g : Guard) (f : BitVec 21) : Option Instr :=
  if f.extractLsb' 19 2 = 0#2 ∧ f.extractLsb' 14 5 = 0#5 then some (.cpfill g (f.extractLsb' 8 6) (f.extractLsb' 0 8)) else none

/-- The fields of QMMA_HANDLE in its operand field. -/
def rowQmmaHandle (g : Guard) (f : BitVec 21) : Option Instr :=
  some (.qmmaHandle g ((f.extractLsb' 20 1 == 1#1)) ((f.extractLsb' 19 1 == 1#1)) (f.extractLsb' 16 3) (f.extractLsb' 8 8) (f.extractLsb' 4 4) (f.extractLsb' 0 4))

/-- The fields of QMMA_REG in its operand field. -/
def rowQmmaReg (g : Guard) (f : BitVec 21) : Option Instr :=
  if f.extractLsb' 18 3 = 0#3 ∧ f.extractLsb' 17 1 = 0#1 then some (.qmmaReg g ((f.extractLsb' 16 1 == 1#1)) ((f.extractLsb' 15 1 == 1#1)) (f.extractLsb' 12 3) (f.extractLsb' 8 4) (f.extractLsb' 4 4) (f.extractLsb' 0 4)) else none

/-- The fields of QPRO in its operand field. -/
def rowQpro (g : Guard) (f : BitVec 21) : Option Instr :=
  if f.extractLsb' 18 3 = 1#3 ∧ f.extractLsb' 16 2 = 0#2 then some (.qpro g (f.extractLsb' 10 6) (f.extractLsb' 4 6) (f.extractLsb' 0 4)) else none

/-- The fields of QZERO in its operand field. -/
def rowQzero (g : Guard) (f : BitVec 21) : Option Instr :=
  if f.extractLsb' 18 3 = 2#3 ∧ f.extractLsb' 4 14 = 0#14 then some (.qzero g (f.extractLsb' 0 4)) else none

/-- The fields of SMX in its operand field. -/
def rowSmx (g : Guard) (f : BitVec 21) : Option Instr :=
  if f.extractLsb' 18 3 = 3#3 ∧ f.extractLsb' 12 6 = 0#6 ∧ f.extractLsb' 11 1 = 0#1 ∧ f.extractLsb' 8 3 = 0#3 then some (.smx g (f.extractLsb' 4 4) (f.extractLsb' 0 4)) else none

/-- The fields of SMX_CVT in its operand field. -/
def rowSmxCvt (g : Guard) (f : BitVec 21) : Option Instr :=
  if f.extractLsb' 18 3 = 3#3 ∧ f.extractLsb' 12 6 = 0#6 ∧ f.extractLsb' 11 1 = 1#1 then some (.smxCvt g (f.extractLsb' 8 3) (f.extractLsb' 4 4) (f.extractLsb' 0 4)) else none

/-- The fields of QSR in its operand field. -/
def rowQsr (g : Guard) (f : BitVec 21) : Option Instr :=
  if f.extractLsb' 18 3 = 4#3 ∧ f.extractLsb' 7 11 = 0#11 then some (.qsr g ((f.extractLsb' 6 1 == 1#1)) (f.extractLsb' 0 6)) else none

/-- The fields of QSW in its operand field. -/
def rowQsw (g : Guard) (f : BitVec 21) : Option Instr :=
  if f.extractLsb' 18 3 = 5#3 ∧ f.extractLsb' 7 11 = 0#11 then some (.qsw g ((f.extractLsb' 6 1 == 1#1)) (f.extractLsb' 0 6)) else none

/-- The fields of RCOPY in its operand field. -/
def rowRcopy (g : Guard) (f : BitVec 21) : Option Instr :=
  if f.extractLsb' 17 4 = 0#4 ∧ f.extractLsb' 6 11 = 0#11 ∧ f.extractLsb' 0 1 = 0#1 then some (.rcopy g (f.extractLsb' 0 6)) else none

/-- The fields of RFILL in its operand field. -/
def rowRfill (g : Guard) (f : BitVec 21) : Option Instr :=
  if f.extractLsb' 17 4 = 1#4 ∧ f.extractLsb' 6 11 = 0#11 ∧ f.extractLsb' 0 1 = 0#1 then some (.rfill g (f.extractLsb' 0 6)) else none

/-- The fields of RAND in its operand field. -/
def rowRand (g : Guard) (f : BitVec 21) : Option Instr :=
  if f.extractLsb' 17 4 = 2#4 ∧ f.extractLsb' 6 11 = 0#11 ∧ f.extractLsb' 0 1 = 0#1 then some (.rand g (f.extractLsb' 0 6)) else none

/-- The fields of ROR in its operand field. -/
def rowRor (g : Guard) (f : BitVec 21) : Option Instr :=
  if f.extractLsb' 17 4 = 3#4 ∧ f.extractLsb' 6 11 = 0#11 ∧ f.extractLsb' 0 1 = 0#1 then some (.ror g (f.extractLsb' 0 6)) else none

/-- The fields of RXOR in its operand field. -/
def rowRxor (g : Guard) (f : BitVec 21) : Option Instr :=
  if f.extractLsb' 17 4 = 4#4 ∧ f.extractLsb' 6 11 = 0#11 ∧ f.extractLsb' 0 1 = 0#1 then some (.rxor g (f.extractLsb' 0 6)) else none

/-- The fields of RNOT in its operand field. -/
def rowRnot (g : Guard) (f : BitVec 21) : Option Instr :=
  if f.extractLsb' 17 4 = 5#4 ∧ f.extractLsb' 6 11 = 0#11 ∧ f.extractLsb' 0 1 = 0#1 then some (.rnot g (f.extractLsb' 0 6)) else none

/-- The fields of NBLOAD in its operand field. -/
def rowNbload (g : Guard) (f : BitVec 21) : Option Instr :=
  if f.extractLsb' 17 4 = 6#4 ∧ f.extractLsb' 6 11 = 0#11 ∧ f.extractLsb' 0 1 = 0#1 then some (.nbload g (f.extractLsb' 0 6)) else none

/-- The fields of NBRUN in its operand field. -/
def rowNbrun (g : Guard) (f : BitVec 21) : Option Instr :=
  if f.extractLsb' 17 4 = 7#4 ∧ f.extractLsb' 6 11 = 0#11 ∧ f.extractLsb' 0 1 = 0#1 then some (.nbrun g (f.extractLsb' 0 6)) else none

/-- The fields of NBSTAT in its operand field. -/
def rowNbstat (g : Guard) (f : BitVec 21) : Option Instr :=
  if f.extractLsb' 17 4 = 8#4 ∧ f.extractLsb' 6 11 = 0#11 ∧ f.extractLsb' 0 1 = 0#1 then some (.nbstat g (f.extractLsb' 0 6)) else none

/-- The fields of NBCANCEL in its operand field. -/
def rowNbcancel (g : Guard) (f : BitVec 21) : Option Instr :=
  if f.extractLsb' 17 4 = 9#4 ∧ f.extractLsb' 6 11 = 0#11 ∧ f.extractLsb' 0 1 = 0#1 then some (.nbcancel g (f.extractLsb' 0 6)) else none

/-- The fields of LAUNCH in its operand field. -/
def rowLaunch (g : Guard) (f : BitVec 21) : Option Instr :=
  if f.extractLsb' 16 5 = 0#5 ∧ f.extractLsb' 6 10 = 0#10 ∧ f.extractLsb' 0 1 = 0#1 then some (.launch g (f.extractLsb' 0 6)) else none

/-- The fields of WCHILD in its operand field. -/
def rowWchild (g : Guard) (f : BitVec 21) : Option Instr :=
  if f.extractLsb' 16 5 = 1#5 ∧ f.extractLsb' 8 8 = 0#8 ∧ f.extractLsb' 0 6 = 0#6 then (classOfBits (f.extractLsb' 6 2)).bind fun k => some (.wchild g k) else none

/-- The fields of SRD in its operand field. -/
def rowSrd (g : Guard) (f : BitVec 21) : Option Instr :=
  if f.extractLsb' 16 5 = 2#5 then (specialRegOfBits (f.extractLsb' 6 10)).bind fun sr => some (.srd g sr (f.extractLsb' 0 6)) else none

/-- The fields of SWR in its operand field. -/
def rowSwr (g : Guard) (f : BitVec 21) : Option Instr :=
  if f.extractLsb' 16 5 = 3#5 then (specialRegOfBits (f.extractLsb' 6 10)).bind fun sr => some (.swr g sr (f.extractLsb' 0 6)) else none

/-- The fields of TRET in its operand field. -/
def rowTret (g : Guard) (f : BitVec 21) : Option Instr :=
  if f.extractLsb' 16 5 = 4#5 ∧ f.extractLsb' 6 10 = 0#10 ∧ f.extractLsb' 0 6 = 0#6 then some (.tret g) else none

/-- The fields of ERRQ in its operand field. -/
def rowErrq (g : Guard) (f : BitVec 21) : Option Instr :=
  if f.extractLsb' 16 5 = 5#5 ∧ f.extractLsb' 6 10 = 0#10 then some (.errq g (f.extractLsb' 0 6)) else none

/-- The fields of ASGEN in its operand field. -/
def rowAsgen (g : Guard) (f : BitVec 21) : Option Instr :=
  if f.extractLsb' 16 5 = 6#5 ∧ f.extractLsb' 6 10 = 0#10 then some (.asgen g (f.extractLsb' 0 6)) else none

/-- The fields of SFLUSH in its operand field. -/
def rowSflush (g : Guard) (f : BitVec 21) : Option Instr :=
  if f.extractLsb' 16 5 = 7#5 ∧ f.extractLsb' 6 10 = 0#10 then some (.sflush g (f.extractLsb' 0 6)) else none

/-- The fields of HALT in its operand field. -/
def rowHalt (g : Guard) (f : BitVec 21) : Option Instr :=
  if f.extractLsb' 16 5 = 8#5 ∧ f.extractLsb' 6 10 = 0#10 ∧ f.extractLsb' 0 6 = 0#6 then some (.halt g) else none

/-- The operand field `f` of the major opcode `m` (R32 to R38): the instruction, or none where the encoding is unassigned or a
reserved field is not zero (check 4 of R39). -/
def decodeMajor (m : BitVec 6) (g : Guard) (f : BitVec 21) : Option Instr :=
  match m.toNat with
  | 0 =>
    match (f.extractLsb' 18 3).toNat with
    | 0 => rowAdd g f
    | 1 => rowAddc g f
    | 2 => rowSub g f
    | 3 => rowSubb g f
    | 4 => rowMulLo g f
    | 5 => rowMulHiS32 g f
    | 6 => rowMulHiN32 g f
    | 7 => rowMad g f
    | _ => none
  | 1 =>
    match (f.extractLsb' 18 3).toNat with
    | 0 => rowAnd g f
    | 1 => rowOr g f
    | 2 => rowXor g f
    | 3 => rowAndn g f
    | 4 => rowMinS32 g f
    | 5 => rowMaxS32 g f
    | 6 => rowMinN32 g f
    | 7 => rowMaxN32 g f
    | _ => none
  | 2 =>
    match (f.extractLsb' 18 3).toNat with
    | 0 => rowShl g f
    | 1 => rowShr g f
    | 2 => rowSar g f
    | 3 => rowRot g f
    | 4 => rowPopc g f
    | 5 => rowClz g f
    | 6 => rowBrev g f
    | 7 => rowAbs g f
    | _ => none
  | 3 =>
    match (f.extractLsb' 18 3).toNat with
    | 0 => rowBfxS32 g f
    | 1 => rowBfxN32 g f
    | 2 => rowBfi g f
    | 3 => rowMov g f
    | 4 => rowMovKconst g f
    | 5 => rowMovIndirectSrc g f
    | 6 => rowMovIndirectDst g f
    | _ => none
  | 4 => rowSel g f
  | 5 => rowCmpS32 g f
  | 6 => rowCmpN32 g f
  | 7 => rowMovi g f
  | 8 => rowImhi g f
  | 9 => rowAddi g f
  | 10 => rowAndi g f
  | 11 => rowOri g f
  | 12 => rowXori g f
  | 13 => rowShli g f <|> rowShri g f <|> rowSari g f
  | 14 => rowCmpiS32 g f
  | 15 => rowCmpiN32 g f
  | 16 =>
    match (f.extractLsb' 18 3).toNat with
    | 0 => rowFadd g f
    | 1 => rowFsub g f
    | 2 => rowFmul g f
    | 3 => rowFfma g f
    | 4 => rowFmin g f
    | 5 => rowFmax g f
    | 6 => rowFdiv g f
    | _ => none
  | 17 =>
    match (f.extractLsb' 18 3).toNat with
    | 0 => rowFrcp g f
    | 1 => rowFrsq g f
    | 2 => rowFsqrt g f
    | 3 => rowFexp2 g f
    | 4 => rowFlog2 g f
    | 5 => rowFclass g f
    | _ => none
  | 18 => rowFcmpF32 g f
  | 19 =>
    match (f.extractLsb' 18 3).toNat with
    | 0 => rowHadd2F16 g f
    | 1 => rowHmul2F16 g f
    | 2 => rowHfma2F16 g f
    | 3 => rowHmax2F16 g f
    | 4 => rowHadd2Bf16 g f
    | 5 => rowHmul2Bf16 g f
    | 6 => rowHfma2Bf16 g f
    | 7 => rowHmax2Bf16 g f
    | _ => none
  | 24 =>
    match (f.extractLsb' 18 3).toNat with
    | 0 => rowCvtI2fS32 g f
    | 1 => rowCvtI2fN32 g f
    | 2 => rowCvtF2iS32 g f
    | 3 => rowCvtF2iN32 g f
    | 4 => rowCvtF2hF16 g f
    | 5 => rowCvtF2hBf16 g f
    | 6 => rowCvtH2fF16 g f
    | 7 => rowCvtH2fBf16 g f
    | _ => none
  | 25 => rowCvtfNar g f <|> rowCvtfWid g f
  | 26 =>
    match (f.extractLsb' 18 3).toNat with
    | 0 => rowPk4 g f
    | 1 => rowUpk4 g f
    | 2 => rowFscale g f
    | 3 => rowRgen g f
    | _ => none
  | 28 =>
    match (f.extractLsb' 18 3).toNat with
    | 0 => rowPand g f
    | 1 => rowPor g f
    | 2 => rowPxor g f
    | 3 => rowPnot g f
    | 4 => rowPmov g f
    | _ => none
  | 32 => rowBr g f
  | 33 => rowBrRgp g f
  | 34 => rowCall g f
  | 35 => rowFork g f
  | 36 =>
    match (f.extractLsb' 18 3).toNat with
    | 0 => rowBrx g f
    | 1 => rowBrxRgp g f
    | 2 => rowCallx g f
    | 3 => rowRet g f
    | 4 => rowExit g f
    | 5 => rowFend g f
    | 6 => rowHome g f
    | 7 => rowNop g f
    | _ => none
  | 37 =>
    match (f.extractLsb' 16 5).toNat with
    | 0 => rowTrap g f
    | 1 => rowBrk g f
    | _ => none
  | 40 =>
    match (f.extractLsb' 18 3).toNat with
    | 0 => rowVoteAll g f
    | 1 => rowVoteAny g f
    | 2 => rowVoteBallot g f
    | _ => none
  | 41 =>
    match (f.extractLsb' 18 3).toNat with
    | 0 => rowShflIdx g f
    | 1 => rowShflUp g f
    | 2 => rowShflDown g f
    | 3 => rowShflXor g f
    | _ => none
  | 42 =>
    match (f.extractLsb' 18 3).toNat with
    | 0 => rowGredAddS32 g f
    | 1 => rowGredAddF32 g f
    | 2 => rowGredMinS32 g f
    | 3 => rowGredMaxS32 g f
    | 4 => rowGredMinF32 g f
    | 5 => rowGredMaxF32 g f
    | 6 => rowGredAnd g f
    | 7 => rowGredOr g f
    | _ => none
  | 43 =>
    match (f.extractLsb' 18 3).toNat with
    | 0 => rowMatchLanes g f
    | 1 => rowRgrow g f
    | 2 => rowRshrink g f
    | 3 => rowRwin g f
    | 4 => rowMovx g f
    | _ => none
  | 44 => rowLd g f
  | 45 => rowSt g f
  | 46 =>
    match (f.extractLsb' 20 1).toNat with
    | 0 => rowLdNarrowWide g f
    | 1 => rowStNarrowWide g f
    | _ => none
  | 47 =>
    match (f.extractLsb' 20 1).toNat with
    | 0 => rowLdAcq g f
    | 1 => rowStRel g f
    | _ => none
  | 48 =>
    match (f.extractLsb' 17 4).toNat with
    | 0 => rowAtomAddS32 g f
    | 1 => rowAtomAddF32 g f
    | 2 => rowAtomMinS32 g f
    | 3 => rowAtomMaxS32 g f
    | 4 => rowAtomMinN32 g f
    | 5 => rowAtomMaxN32 g f
    | 6 => rowAtomAnd g f
    | 7 => rowAtomOr g f
    | 8 => rowAtomXor g f
    | 9 => rowAtomExch g f
    | 10 => rowAtomCas g f
    | _ => none
  | 49 =>
    match (f.extractLsb' 18 3).toNat with
    | 0 => rowAtomOrdAddS32 g f
    | 1 => rowAtomOrdAddF32 g f
    | 2 => rowAtomOrdMinS32 g f
    | 3 => rowAtomOrdMaxS32 g f
    | 4 => rowAtomOrdAnd g f
    | 5 => rowAtomOrdOr g f
    | 6 => rowAtomOrdExch g f
    | 7 => rowAtomOrdCas g f
    | _ => none
  | 50 =>
    match (f.extractLsb' 17 4).toNat with
    | 0 => rowRedAddS32 g f
    | 1 => rowRedAddF32 g f
    | 2 => rowRedMinS32 g f
    | 3 => rowRedMaxS32 g f
    | 4 => rowRedMinN32 g f
    | 5 => rowRedMaxN32 g f
    | 6 => rowRedAnd g f
    | 7 => rowRedOr g f
    | 8 => rowRedXor g f
    | 15 => rowPf g f
    | _ => none
  | 51 =>
    match (f.extractLsb' 18 3).toNat with
    | 0 => rowFence g f
    | 1 => rowWait g f
    | 2 => rowLtime g f
    | 3 => rowLpub g f
    | 4 => rowStf g f
    | _ => none
  | 52 => rowLld g f
  | 53 => rowLst g f
  | 54 =>
    match (f.extractLsb' 18 3).toNat with
    | 0 => rowLatomAddS32 g f
    | 1 => rowLatomAddF32 g f
    | 2 => rowLatomMinS32 g f
    | 3 => rowLatomMaxS32 g f
    | 4 => rowLatomAnd g f
    | 5 => rowLatomOr g f
    | 6 => rowLatomExch g f
    | 7 => rowLatomCas g f
    | _ => none
  | 55 =>
    match (f.extractLsb' 18 3).toNat with
    | 0 => rowBar g f
    | 1 => rowBoinit g f
    | 2 => rowBoarr g f
    | 3 => rowBowait g f
    | 4 => rowBotest g f
    | _ => none
  | 56 =>
    match (f.extractLsb' 19 2).toNat with
    | 0 => rowHalloc g f
    | 1 => rowHfree g f
    | 2 => rowHbind g f
    | 3 => rowHstate g f
    | _ => none
  | 57 =>
    match (f.extractLsb' 19 2).toNat with
    | 0 => rowHwptr g f
    | 1 => rowHwait g f
    | 2 => rowCpcancel g f
    | _ => none
  | 58 =>
    match (f.extractLsb' 19 2).toNat with
    | 0 => rowCpin g f
    | 1 => rowCpout g f
    | 2 => rowCppush g f
    | 3 => rowCpred g f
    | _ => none
  | 59 => rowCpfill g f
  | 60 => rowQmmaHandle g f
  | 61 =>
    match (f.extractLsb' 18 3).toNat with
    | 0 => rowQmmaReg g f
    | 1 => rowQpro g f
    | 2 => rowQzero g f
    | 3 => rowSmx g f <|> rowSmxCvt g f
    | 4 => rowQsr g f
    | 5 => rowQsw g f
    | _ => none
  | 62 =>
    match (f.extractLsb' 17 4).toNat with
    | 0 => rowRcopy g f
    | 1 => rowRfill g f
    | 2 => rowRand g f
    | 3 => rowRor g f
    | 4 => rowRxor g f
    | 5 => rowRnot g f
    | 6 => rowNbload g f
    | 7 => rowNbrun g f
    | 8 => rowNbstat g f
    | 9 => rowNbcancel g f
    | _ => none
  | 63 =>
    match (f.extractLsb' 16 5).toNat with
    | 0 => rowLaunch g f
    | 1 => rowWchild g f
    | 2 => rowSrd g f
    | 3 => rowSwr g f
    | 4 => rowTret g f
    | 5 => rowErrq g f
    | 6 => rowAsgen g f
    | 7 => rowSflush g f
    | 8 => rowHalt g f
    | _ => none
  | _ => none

/-- The compact instruction of a unit whose bit 0 is 0 (R25, R26). -/
def decodeCompact (u : BitVec 16) : Instr :=
  let b := u.extractLsb' 11 5
  let d := u.extractLsb' 5 6
  match (u.extractLsb' 1 4).toNat with
  | 0 => .movC16 b d
  | 1 => .moviC16 b d
  | 2 => .addC16 b d
  | 3 => .addiC16 b d
  | 4 => .subC16 b d
  | 5 => .mulLoC16 b d
  | 6 => .andC16 b d
  | 7 => .orC16 b d
  | 8 => .xorC16 b d
  | 9 => .shlC16 b d
  | 10 => .shrC16 b d
  | 11 => .minS32C16 b d
  | 12 => .maxS32C16 b d
  | 13 => .faddC16 b d
  | 14 => .fmulC16 b d
  | _ => .fmaxC16 b d

/-- The word of a 32-bit instruction from its operand field, guard and major opcode (R27). -/
def word32 (f : BitVec 21) (g : Guard) (m : BitVec 6) : BitVec 32 := f ++ guardBits g ++ m ++ 1#1

/-- The unit of a compact instruction (R25). -/
def unit16 (b : BitVec 5) (d : Reg) (op : BitVec 4) : BitVec 16 := b ++ d ++ op ++ 0#1

/-- The code of an instruction, written from the same tables as the decoder (R25 to R38); an event has none. -/
def encode : Instr → Option Code
  | .movC16 b d => some (.unit (unit16 b d 0))
  | .moviC16 b d => some (.unit (unit16 b d 1))
  | .addC16 b d => some (.unit (unit16 b d 2))
  | .addiC16 b d => some (.unit (unit16 b d 3))
  | .subC16 b d => some (.unit (unit16 b d 4))
  | .mulLoC16 b d => some (.unit (unit16 b d 5))
  | .andC16 b d => some (.unit (unit16 b d 6))
  | .orC16 b d => some (.unit (unit16 b d 7))
  | .xorC16 b d => some (.unit (unit16 b d 8))
  | .shlC16 b d => some (.unit (unit16 b d 9))
  | .shrC16 b d => some (.unit (unit16 b d 10))
  | .minS32C16 b d => some (.unit (unit16 b d 11))
  | .maxS32C16 b d => some (.unit (unit16 b d 12))
  | .faddC16 b d => some (.unit (unit16 b d 13))
  | .fmulC16 b d => some (.unit (unit16 b d 14))
  | .fmaxC16 b d => some (.unit (unit16 b d 15))
  | .add g b a d => some (.word (word32 (0#3 ++ b ++ a ++ d) g 0))
  | .addc g b a d => some (.word (word32 (1#3 ++ b ++ a ++ d) g 0))
  | .sub g b a d => some (.word (word32 (2#3 ++ b ++ a ++ d) g 0))
  | .subb g b a d => some (.word (word32 (3#3 ++ b ++ a ++ d) g 0))
  | .mulLo g b a d => some (.word (word32 (4#3 ++ b ++ a ++ d) g 0))
  | .mulHiS32 g b a d => some (.word (word32 (5#3 ++ b ++ a ++ d) g 0))
  | .mulHiN32 g b a d => some (.word (word32 (6#3 ++ b ++ a ++ d) g 0))
  | .mad g b a d => some (.word (word32 (7#3 ++ b ++ a ++ d) g 0))
  | .and g b a d => some (.word (word32 (0#3 ++ b ++ a ++ d) g 1))
  | .or g b a d => some (.word (word32 (1#3 ++ b ++ a ++ d) g 1))
  | .xor g b a d => some (.word (word32 (2#3 ++ b ++ a ++ d) g 1))
  | .andn g b a d => some (.word (word32 (3#3 ++ b ++ a ++ d) g 1))
  | .minS32 g b a d => some (.word (word32 (4#3 ++ b ++ a ++ d) g 1))
  | .maxS32 g b a d => some (.word (word32 (5#3 ++ b ++ a ++ d) g 1))
  | .minN32 g b a d => some (.word (word32 (6#3 ++ b ++ a ++ d) g 1))
  | .maxN32 g b a d => some (.word (word32 (7#3 ++ b ++ a ++ d) g 1))
  | .shl g b a d => some (.word (word32 (0#3 ++ b ++ a ++ d) g 2))
  | .shr g b a d => some (.word (word32 (1#3 ++ b ++ a ++ d) g 2))
  | .sar g b a d => some (.word (word32 (2#3 ++ b ++ a ++ d) g 2))
  | .rot g b a d => some (.word (word32 (3#3 ++ b ++ a ++ d) g 2))
  | .popc g a d => some (.word (word32 (4#3 ++ 0#6 ++ a ++ d) g 2))
  | .clz g a d => some (.word (word32 (5#3 ++ 0#6 ++ a ++ d) g 2))
  | .brev g a d => some (.word (word32 (6#3 ++ 0#6 ++ a ++ d) g 2))
  | .abs g a d => some (.word (word32 (7#3 ++ 0#6 ++ a ++ d) g 2))
  | .bfxS32 g b a d => some (.word (word32 (0#3 ++ b ++ a ++ d) g 3))
  | .bfxN32 g b a d => some (.word (word32 (1#3 ++ b ++ a ++ d) g 3))
  | .bfi g b a d => some (.word (word32 (2#3 ++ b ++ a ++ d) g 3))
  | .mov g a d => some (.word (word32 (3#3 ++ 0#6 ++ a ++ d) g 3))
  | .movKconst g k d => some (.word (word32 (4#3 ++ 0#2 ++ k ++ 0#6 ++ d) g 3))
  | .movIndirectSrc g imm a d => some (.word (word32 (5#3 ++ imm ++ a ++ d) g 3))
  | .movIndirectDst g imm a d => some (.word (word32 (6#3 ++ imm ++ a ++ d) g 3))
  | .sel g n b a d => some (.word (word32 (n ++ b ++ a ++ d) g 4))
  | .cmpS32 g c b a p => some (.word (word32 (condBits c ++ b ++ a ++ 0#3 ++ p) g 5))
  | .cmpN32 g c b a p => some (.word (word32 (condBits c ++ b ++ a ++ 0#3 ++ p) g 6))
  | .movi g imm d => some (.word (word32 (imm ++ d) g 7))
  | .imhi g imm d => some (.word (word32 (imm ++ d) g 8))
  | .addi g imm a d => some (.word (word32 (imm ++ a ++ d) g 9))
  | .andi g imm a d => some (.word (word32 (imm ++ a ++ d) g 10))
  | .ori g imm a d => some (.word (word32 (imm ++ a ++ d) g 11))
  | .xori g imm a d => some (.word (word32 (imm ++ a ++ d) g 12))
  | .shli g cnt a d => some (.word (word32 (0#2 ++ 0#2 ++ cnt ++ a ++ d) g 13))
  | .shri g cnt a d => some (.word (word32 (0#2 ++ 1#2 ++ cnt ++ a ++ d) g 13))
  | .sari g cnt a d => some (.word (word32 (0#2 ++ 2#2 ++ cnt ++ a ++ d) g 13))
  | .cmpiS32 g imm a c p => some (.word (word32 (imm ++ a ++ condBits c ++ p) g 14))
  | .cmpiN32 g imm a c p => some (.word (word32 (imm ++ a ++ condBits c ++ p) g 15))
  | .fadd g b a d => some (.word (word32 (0#3 ++ b ++ a ++ d) g 16))
  | .fsub g b a d => some (.word (word32 (1#3 ++ b ++ a ++ d) g 16))
  | .fmul g b a d => some (.word (word32 (2#3 ++ b ++ a ++ d) g 16))
  | .ffma g b a d => some (.word (word32 (3#3 ++ b ++ a ++ d) g 16))
  | .fmin g b a d => some (.word (word32 (4#3 ++ b ++ a ++ d) g 16))
  | .fmax g b a d => some (.word (word32 (5#3 ++ b ++ a ++ d) g 16))
  | .fdiv g b a d => some (.word (word32 (6#3 ++ b ++ a ++ d) g 16))
  | .frcp g a d => some (.word (word32 (0#3 ++ 0#6 ++ a ++ d) g 17))
  | .frsq g a d => some (.word (word32 (1#3 ++ 0#6 ++ a ++ d) g 17))
  | .fsqrt g a d => some (.word (word32 (2#3 ++ 0#6 ++ a ++ d) g 17))
  | .fexp2 g a d => some (.word (word32 (3#3 ++ 0#6 ++ a ++ d) g 17))
  | .flog2 g a d => some (.word (word32 (4#3 ++ 0#6 ++ a ++ d) g 17))
  | .fclass g a d => some (.word (word32 (5#3 ++ 0#6 ++ a ++ d) g 17))
  | .fcmpF32 g c b a p => some (.word (word32 (condBits c ++ b ++ a ++ 0#3 ++ p) g 18))
  | .hadd2F16 g b a d => some (.word (word32 (0#3 ++ b ++ a ++ d) g 19))
  | .hmul2F16 g b a d => some (.word (word32 (1#3 ++ b ++ a ++ d) g 19))
  | .hfma2F16 g b a d => some (.word (word32 (2#3 ++ b ++ a ++ d) g 19))
  | .hmax2F16 g b a d => some (.word (word32 (3#3 ++ b ++ a ++ d) g 19))
  | .hadd2Bf16 g b a d => some (.word (word32 (4#3 ++ b ++ a ++ d) g 19))
  | .hmul2Bf16 g b a d => some (.word (word32 (5#3 ++ b ++ a ++ d) g 19))
  | .hfma2Bf16 g b a d => some (.word (word32 (6#3 ++ b ++ a ++ d) g 19))
  | .hmax2Bf16 g b a d => some (.word (word32 (7#3 ++ b ++ a ++ d) g 19))
  | .cvtI2fS32 g a d => some (.word (word32 (0#3 ++ 0#6 ++ a ++ d) g 24))
  | .cvtI2fN32 g a d => some (.word (word32 (1#3 ++ 0#6 ++ a ++ d) g 24))
  | .cvtF2iS32 g a d => some (.word (word32 (2#3 ++ 0#6 ++ a ++ d) g 24))
  | .cvtF2iN32 g a d => some (.word (word32 (3#3 ++ 0#6 ++ a ++ d) g 24))
  | .cvtF2hF16 g a d => some (.word (word32 (4#3 ++ 0#6 ++ a ++ d) g 24))
  | .cvtF2hBf16 g a d => some (.word (word32 (5#3 ++ 0#6 ++ a ++ d) g 24))
  | .cvtH2fF16 g a d => some (.word (word32 (6#3 ++ 0#6 ++ a ++ d) g 24))
  | .cvtH2fBf16 g a d => some (.word (word32 (7#3 ++ 0#6 ++ a ++ d) g 24))
  | .cvtfNar g n a d => some (.word (word32 (n ++ 0#5 ++ 0#1 ++ a ++ d) g 25))
  | .cvtfWid g n a d => some (.word (word32 (n ++ 0#5 ++ 1#1 ++ a ++ d) g 25))
  | .pk4 g n a d => some (.word (word32 (0#3 ++ 0#3 ++ n ++ a ++ d) g 26))
  | .upk4 g n a d => some (.word (word32 (1#3 ++ 0#3 ++ n ++ a ++ d) g 26))
  | .fscale g b a d => some (.word (word32 (2#3 ++ b ++ a ++ d) g 26))
  | .rgen g d => some (.word (word32 (3#3 ++ 0#6 ++ 0#6 ++ d) g 26))
  | .pand g b a d => some (.word (word32 (0#3 ++ 0#3 ++ b ++ 0#3 ++ a ++ 0#3 ++ d) g 28))
  | .por g b a d => some (.word (word32 (1#3 ++ 0#3 ++ b ++ 0#3 ++ a ++ 0#3 ++ d) g 28))
  | .pxor g b a d => some (.word (word32 (2#3 ++ 0#3 ++ b ++ 0#3 ++ a ++ 0#3 ++ d) g 28))
  | .pnot g a d => some (.word (word32 (3#3 ++ 0#6 ++ 0#3 ++ a ++ 0#3 ++ d) g 28))
  | .pmov g a d => some (.word (word32 (4#3 ++ 0#6 ++ 0#3 ++ a ++ 0#3 ++ d) g 28))
  | .br g off uni => some (.word (word32 (off ++ BitVec.ofBool uni) g 32))
  | .brRgp g off uni => some (.word (word32 (off ++ BitVec.ofBool uni) g 33))
  | .call g off uni => some (.word (word32 (off ++ BitVec.ofBool uni) g 34))
  | .fork g off => some (.word (word32 (off ++ 0#1) g 35))
  | .brx g uni a => some (.word (word32 (0#3 ++ 0#5 ++ BitVec.ofBool uni ++ a ++ 0#6) g 36))
  | .brxRgp g uni a => some (.word (word32 (1#3 ++ 0#5 ++ BitVec.ofBool uni ++ a ++ 0#6) g 36))
  | .callx g uni a => some (.word (word32 (2#3 ++ 0#5 ++ BitVec.ofBool uni ++ a ++ 0#6) g 36))
  | .ret g uni => some (.word (word32 (3#3 ++ 0#5 ++ BitVec.ofBool uni ++ 0#6 ++ 0#6) g 36))
  | .exit g => some (.word (word32 (4#3 ++ 0#6 ++ 0#6 ++ 0#6) g 36))
  | .fend g => some (.word (word32 (5#3 ++ 0#6 ++ 0#6 ++ 0#6) g 36))
  | .home g => some (.word (word32 (6#3 ++ 0#6 ++ 0#6 ++ 0#6) g 36))
  | .nop g => some (.word (word32 (7#3 ++ 0#6 ++ 0#6 ++ 0#6) g 36))
  | .trap g code => some (.word (word32 (0#5 ++ code ++ 0#6) g 37))
  | .brk g => some (.word (word32 (1#5 ++ 0#10 ++ 0#6) g 37))
  | .voteAll g a d => some (.word (word32 (0#3 ++ 0#6 ++ 0#3 ++ a ++ 0#3 ++ d) g 40))
  | .voteAny g a d => some (.word (word32 (1#3 ++ 0#6 ++ 0#3 ++ a ++ 0#3 ++ d) g 40))
  | .voteBallot g a d => some (.word (word32 (2#3 ++ 0#6 ++ 0#3 ++ a ++ d) g 40))
  | .shflIdx g b a d => some (.word (word32 (0#3 ++ b ++ a ++ d) g 41))
  | .shflUp g b a d => some (.word (word32 (1#3 ++ b ++ a ++ d) g 41))
  | .shflDown g b a d => some (.word (word32 (2#3 ++ b ++ a ++ d) g 41))
  | .shflXor g b a d => some (.word (word32 (3#3 ++ b ++ a ++ d) g 41))
  | .gredAddS32 g a d => some (.word (word32 (0#3 ++ 0#6 ++ a ++ d) g 42))
  | .gredAddF32 g a d => some (.word (word32 (1#3 ++ 0#6 ++ a ++ d) g 42))
  | .gredMinS32 g a d => some (.word (word32 (2#3 ++ 0#6 ++ a ++ d) g 42))
  | .gredMaxS32 g a d => some (.word (word32 (3#3 ++ 0#6 ++ a ++ d) g 42))
  | .gredMinF32 g a d => some (.word (word32 (4#3 ++ 0#6 ++ a ++ d) g 42))
  | .gredMaxF32 g a d => some (.word (word32 (5#3 ++ 0#6 ++ a ++ d) g 42))
  | .gredAnd g a d => some (.word (word32 (6#3 ++ 0#6 ++ a ++ d) g 42))
  | .gredOr g a d => some (.word (word32 (7#3 ++ 0#6 ++ a ++ d) g 42))
  | .matchLanes g a d => some (.word (word32 (0#3 ++ 0#6 ++ a ++ d) g 43))
  | .rgrow g n => some (.word (word32 (1#3 ++ n ++ 0#6 ++ 0#6) g 43))
  | .rshrink g n => some (.word (word32 (2#3 ++ n ++ 0#6 ++ 0#6) g 43))
  | .rwin g d => some (.word (word32 (3#3 ++ 0#6 ++ 0#6 ++ d) g 43))
  | .movx g a d => some (.word (word32 (4#3 ++ 0#2 ++ a ++ d) g 43))
  | .ld g m r i d => some (.word (word32 (m ++ r ++ i ++ d) g 44))
  | .st g m r i d => some (.word (word32 (m ++ r ++ i ++ d) g 45))
  | .ldNarrowWide g w r i d => some (.word (word32 (0#1 ++ widthBits w ++ r ++ i ++ d) g 46))
  | .stNarrowWide g w r i d => some (.word (word32 (1#1 ++ widthBits w ++ r ++ i ++ d) g 46))
  | .ldAcq g sc r i d => some (.word (word32 (0#1 ++ scopeBits sc ++ r ++ i ++ d) g 47))
  | .stRel g sc r i d => some (.word (word32 (1#1 ++ scopeBits sc ++ r ++ i ++ d) g 47))
  | .atomAddS32 g r i d => some (.word (word32 (0#4 ++ r ++ i ++ d) g 48))
  | .atomAddF32 g r i d => some (.word (word32 (1#4 ++ r ++ i ++ d) g 48))
  | .atomMinS32 g r i d => some (.word (word32 (2#4 ++ r ++ i ++ d) g 48))
  | .atomMaxS32 g r i d => some (.word (word32 (3#4 ++ r ++ i ++ d) g 48))
  | .atomMinN32 g r i d => some (.word (word32 (4#4 ++ r ++ i ++ d) g 48))
  | .atomMaxN32 g r i d => some (.word (word32 (5#4 ++ r ++ i ++ d) g 48))
  | .atomAnd g r i d => some (.word (word32 (6#4 ++ r ++ i ++ d) g 48))
  | .atomOr g r i d => some (.word (word32 (7#4 ++ r ++ i ++ d) g 48))
  | .atomXor g r i d => some (.word (word32 (8#4 ++ r ++ i ++ d) g 48))
  | .atomExch g r i d => some (.word (word32 (9#4 ++ r ++ i ++ d) g 48))
  | .atomCas g r i d => some (.word (word32 (10#4 ++ r ++ i ++ d) g 48))
  | .atomOrdAddS32 g os a d => some (.word (word32 (0#3 ++ 0#1 ++ ordScopeBits os ++ a ++ d) g 49))
  | .atomOrdAddF32 g os a d => some (.word (word32 (1#3 ++ 0#1 ++ ordScopeBits os ++ a ++ d) g 49))
  | .atomOrdMinS32 g os a d => some (.word (word32 (2#3 ++ 0#1 ++ ordScopeBits os ++ a ++ d) g 49))
  | .atomOrdMaxS32 g os a d => some (.word (word32 (3#3 ++ 0#1 ++ ordScopeBits os ++ a ++ d) g 49))
  | .atomOrdAnd g os a d => some (.word (word32 (4#3 ++ 0#1 ++ ordScopeBits os ++ a ++ d) g 49))
  | .atomOrdOr g os a d => some (.word (word32 (5#3 ++ 0#1 ++ ordScopeBits os ++ a ++ d) g 49))
  | .atomOrdExch g os a d => some (.word (word32 (6#3 ++ 0#1 ++ ordScopeBits os ++ a ++ d) g 49))
  | .atomOrdCas g os a d => some (.word (word32 (7#3 ++ 0#1 ++ ordScopeBits os ++ a ++ d) g 49))
  | .redAddS32 g r i d => some (.word (word32 (0#4 ++ r ++ i ++ d) g 50))
  | .redAddF32 g r i d => some (.word (word32 (1#4 ++ r ++ i ++ d) g 50))
  | .redMinS32 g r i d => some (.word (word32 (2#4 ++ r ++ i ++ d) g 50))
  | .redMaxS32 g r i d => some (.word (word32 (3#4 ++ r ++ i ++ d) g 50))
  | .redMinN32 g r i d => some (.word (word32 (4#4 ++ r ++ i ++ d) g 50))
  | .redMaxN32 g r i d => some (.word (word32 (5#4 ++ r ++ i ++ d) g 50))
  | .redAnd g r i d => some (.word (word32 (6#4 ++ r ++ i ++ d) g 50))
  | .redOr g r i d => some (.word (word32 (7#4 ++ r ++ i ++ d) g 50))
  | .redXor g r i d => some (.word (word32 (8#4 ++ r ++ i ++ d) g 50))
  | .pf g r i => some (.word (word32 (15#4 ++ r ++ i ++ 0#6) g 50))
  | .fence g os => some (.word (word32 (0#3 ++ 0#1 ++ ordScopeBits os ++ 0#6 ++ 0#6) g 51))
  | .wait g c k a d => some (.word (word32 (1#3 ++ 0#1 ++ waitCondBits c ++ classBits k ++ a ++ d) g 51))
  | .ltime g d => some (.word (word32 (2#3 ++ 0#6 ++ 0#6 ++ d) g 51))
  | .lpub g a d => some (.word (word32 (3#3 ++ 0#6 ++ a ++ d) g 51))
  | .stf g b a d => some (.word (word32 (4#3 ++ b ++ a ++ d) g 51))
  | .lld g imm a d => some (.word (word32 (imm ++ a ++ d) g 52))
  | .lst g imm a d => some (.word (word32 (imm ++ a ++ d) g 53))
  | .latomAddS32 g a d => some (.word (word32 (0#3 ++ 0#6 ++ a ++ d) g 54))
  | .latomAddF32 g a d => some (.word (word32 (1#3 ++ 0#6 ++ a ++ d) g 54))
  | .latomMinS32 g a d => some (.word (word32 (2#3 ++ 0#6 ++ a ++ d) g 54))
  | .latomMaxS32 g a d => some (.word (word32 (3#3 ++ 0#6 ++ a ++ d) g 54))
  | .latomAnd g a d => some (.word (word32 (4#3 ++ 0#6 ++ a ++ d) g 54))
  | .latomOr g a d => some (.word (word32 (5#3 ++ 0#6 ++ a ++ d) g 54))
  | .latomExch g a d => some (.word (word32 (6#3 ++ 0#6 ++ a ++ d) g 54))
  | .latomCas g a d => some (.word (word32 (7#3 ++ 0#6 ++ a ++ d) g 54))
  | .bar g k => some (.word (word32 (0#3 ++ 0#4 ++ classBits k ++ 0#6 ++ 0#6) g 55))
  | .boinit g b a => some (.word (word32 (1#3 ++ b ++ a ++ 0#6) g 55))
  | .boarr g b a => some (.word (word32 (2#3 ++ b ++ a ++ 0#6) g 55))
  | .bowait g k a d => some (.word (word32 (3#3 ++ 0#4 ++ classBits k ++ a ++ d) g 55))
  | .botest g a p => some (.word (word32 (4#3 ++ 0#6 ++ a ++ 0#3 ++ p) g 55))
  | .halloc g a h => some (.word (word32 (0#2 ++ 0#5 ++ a ++ h) g 56))
  | .hfree g h => some (.word (word32 (1#2 ++ 0#5 ++ 0#6 ++ h) g 56))
  | .hbind g n a h => some (.word (word32 (2#2 ++ n ++ a ++ h) g 56))
  | .hstate g a h => some (.word (word32 (3#2 ++ 0#5 ++ a ++ h) g 56))
  | .hwptr g a h => some (.word (word32 (0#2 ++ 0#5 ++ a ++ h) g 57))
  | .hwait g st k h => some (.word (word32 (1#2 ++ 0#1 ++ hstateBits st ++ classBits k ++ 0#6 ++ h) g 57))
  | .cpcancel g h => some (.word (word32 (2#2 ++ 0#5 ++ 0#6 ++ h) g 57))
  | .cpin g n a h => some (.word (word32 (0#2 ++ n ++ a ++ h) g 58))
  | .cpout g n a h => some (.word (word32 (1#2 ++ n ++ a ++ h) g 58))
  | .cppush g a h => some (.word (word32 (2#2 ++ 0#5 ++ a ++ h) g 58))
  | .cpred g a h => some (.word (word32 (3#2 ++ 0#5 ++ a ++ h) g 58))
  | .cpfill g a h => some (.word (word32 (0#2 ++ 0#5 ++ a ++ h) g 59))
  | .qmmaHandle g reuse half f h ab db => some (.word (word32 (BitVec.ofBool reuse ++ BitVec.ofBool half ++ f ++ h ++ ab ++ db) g 60))
  | .qmmaReg g reuse half f bb ab db => some (.word (word32 (0#3 ++ 0#1 ++ BitVec.ofBool reuse ++ BitVec.ofBool half ++ f ++ bb ++ ab ++ db) g 61))
  | .qpro g b a db => some (.word (word32 (1#3 ++ 0#2 ++ b ++ a ++ db) g 61))
  | .qzero g db => some (.word (word32 (2#3 ++ 0#14 ++ db) g 61))
  | .smx g sb db => some (.word (word32 (3#3 ++ 0#6 ++ 0#1 ++ 0#3 ++ sb ++ db) g 61))
  | .smxCvt g f sb db => some (.word (word32 (3#3 ++ 0#6 ++ 1#1 ++ f ++ sb ++ db) g 61))
  | .qsr g l d => some (.word (word32 (4#3 ++ 0#11 ++ BitVec.ofBool l ++ d) g 61))
  | .qsw g l a => some (.word (word32 (5#3 ++ 0#11 ++ BitVec.ofBool l ++ a) g 61))
  | .rcopy g d => some (.word (word32 (0#4 ++ 0#11 ++ d) g 62))
  | .rfill g d => some (.word (word32 (1#4 ++ 0#11 ++ d) g 62))
  | .rand g d => some (.word (word32 (2#4 ++ 0#11 ++ d) g 62))
  | .ror g d => some (.word (word32 (3#4 ++ 0#11 ++ d) g 62))
  | .rxor g d => some (.word (word32 (4#4 ++ 0#11 ++ d) g 62))
  | .rnot g d => some (.word (word32 (5#4 ++ 0#11 ++ d) g 62))
  | .nbload g d => some (.word (word32 (6#4 ++ 0#11 ++ d) g 62))
  | .nbrun g d => some (.word (word32 (7#4 ++ 0#11 ++ d) g 62))
  | .nbstat g d => some (.word (word32 (8#4 ++ 0#11 ++ d) g 62))
  | .nbcancel g d => some (.word (word32 (9#4 ++ 0#11 ++ d) g 62))
  | .launch g d => some (.word (word32 (0#5 ++ 0#10 ++ d) g 63))
  | .wchild g k => some (.word (word32 (1#5 ++ 0#8 ++ classBits k ++ 0#6) g 63))
  | .srd g sr d => some (.word (word32 (2#5 ++ specialRegBits sr ++ d) g 63))
  | .swr g sr d => some (.word (word32 (3#5 ++ specialRegBits sr ++ d) g 63))
  | .tret g => some (.word (word32 (4#5 ++ 0#10 ++ 0#6) g 63))
  | .errq g d => some (.word (word32 (5#5 ++ 0#10 ++ d) g 63))
  | .asgen g d => some (.word (word32 (6#5 ++ 0#10 ++ d) g 63))
  | .sflush g d => some (.word (word32 (7#5 ++ 0#10 ++ d) g 63))
  | .halt g => some (.word (word32 (8#5 ++ 0#10 ++ 0#6) g 63))
  | .groupingStagePass _ => none
  | .gatheringPoolClose _ _ => none
  | .pendingWriteComplete _ _ _ => none
  | .grantRequestGranted _ _ => none
  | .registerDeadlockEvict _ => none
  | .starvationTimeout _ _ => none
  | .armedLaunchEnqueue _ _ => none
  | .copyCommandStart _ _ => none
  | .copyLineTransfer _ _ => none
  | .copyCommandComplete _ _ => none
  | .pushLineWrite _ => none
  | .pushAck _ => none
  | .pushRetry _ _ => none
  | .contributionArrival _ => none
  | .contributionRetry _ _ => none
  | .publishedAccess _ => none
  | .publishRequest _ => none
  | .windowWriteback _ _ => none
  | .pageWalk _ _ _ => none
  | .lineFill _ _ => none
  | .openAccessFault _ _ => none
  | .performLoad _ _ => none
  | .enqueueStore _ _ => none
  | .drain _ _ => none
  | .writeBack _ _ => none
  | .sectorDrop _ _ => none
  | .deliver _ => none
  | .generationSweep => none
  | .migrationPull _ _ => none
  | .errorQueueOverflowTrap _ => none
  | .pagingQueueWrite _ => none
  | .pagingReadIndexWrite _ => none
  | .resumeTicketWrite _ => none
  | .hostLaunchWrite _ _ => none
  | .launchLine _ => none
  | .launchLinePassOver _ _ => none
  | .launchTake _ => none
  | .teamAdmit _ _ => none
  | .gridWholeAdmit _ => none
  | .queueHeadStarve _ => none
  | .teamReadmit _ _ => none
  | .teamEndFree _ => none
  | .teamRetire _ => none
  | .launchRetire _ => none
  | .completionWriteFail _ => none
  | .preempt _ _ => none
  | .preemptStopTimeout _ => none
  | .saveRequestWrite _ _ => none
  | .teamSaveComplete _ => none
  | .trapHandlerEntry _ => none
  | .tryArrive _ => none
  | .tryTimeout _ => none
  | .persistentRequestIssue _ => none
  | .persistentRequest _ => none
  | .persistentRetry _ => none
  | .activation _ => none
  | .deactivation _ => none
  | .tokenMessage _ => none
  | .eviction _ _ => none
  | .poleAck _ => none
  | .peerProbe _ _ => none
  | .tokenRecall _ _ => none
  | .auditStart _ => none
  | .audit _ => none
  | .auditRepeat _ _ => none
  | .auditReport _ => none
  | .recreationAck _ => none
  | .auditHoldoffExpire _ => none
  | .unfreeze _ => none
  | .formConversion _ _ => none
  | .homeAtomic _ => none
  | .atomicReply _ => none
  | .leaseRead _ _ => none
  | .leaseWrite _ _ => none
  | .leaseWriteHeld _ _ => none
  | .meridianTick => none
  | .homeLeaseSweep _ => none
  | .cacheLeaseSweep _ => none
  | .waitReload _ _ => none
  | .partyQuery _ => none
  | .hostSnpInv _ => none
  | .hostSnpData _ => none
  | .hostSnpCur _ => none
  | .hostLineGrant _ _ _ => none
  | .backInvalidate _ _ _ => none
  | .biConflict _ => none
  | .hostUncachedRead _ => none
  | .hostUncachedWrite _ _ => none
  | .frameReplay _ _ => none
  | .linkDead _ _ => none
  | .rotorSlotStart _ => none
  | .orbitStart => none
  | .scheduleDigest _ _ => none
  | .digestDiscard _ => none
  | .relayForward _ => none
  | .messageAgeDrop _ => none
  | .portFailure _ => none
  | .remoteLoadTimeout _ _ => none
  | .remoteResponse _ => none
  | .postedWrite _ => none
  | .postedWriteAck _ => none
  | .postedWriteTimeout _ => none
  | .storeLinePost _ => none
  | .storeLineTimeout _ => none
  | .storeAckTimeout _ => none
  | .flaggedData _ => none
  | .flagUpdate _ => none
  | .rowOperation _ _ => none
  | .rowSlotAcquire _ => none
  | .nearBankStep _ _ => none
  | .arbitrationWindow _ _ => none
  | .reset _ => none
  | .hostLinkTrain _ => none
  | .goWrite _ => none
  | .featureAcceptWrite _ => none
  | .linkRetrainWrite _ _ => none
  | .linkRetrainDone _ _ _ => none
  | .umissClear _ _ => none
  | .staleCounterClear _ _ => none
  | .seedWrite _ _ => none
  | .mismatchCounterClear _ _ => none
  | .queueOvfClear _ _ => none
  | .registerWrite _ _ _ => none
  | .correctedError _ => none
  | .wearRefresh _ _ => none
  | .thermalStep _ _ => none
  | .thermalStop _ => none
  | .signRequest _ _ => none
  | .hostCachedMemRequest _ _ _ => none
  | .partyQueryAnswer _ => none
  | .partyQueryTimeout _ _ => none
  | .launchLineResend _ => none

/-- The fate of a 32-bit word (R39, checks 2 to 4). -/
def decodeWord (w : BitVec 32) : Except DecodeError Instr :=
  match guardOfBits (w.extractLsb' 7 4) with
  | none => .error .reservedGuard
  | some g =>
    match decodeMajor (w.extractLsb' 1 6) g (w.extractLsb' 11 21) with
    | some i => .ok i
    | none => .error (.illegal g)

/-- The fate of the code of one instruction. -/
def decodeCode : Code → Except DecodeError Instr
  | .unit u => .ok (decodeCompact u)
  | .word w => decodeWord w

/-- Bit 0 of the first unit gives the length: 2 or 4 bytes (R23). -/
def isCompact (u : BitVec 16) : Bool := !u.getLsbD 0

/-- The bytes of code as memory stores them, little-endian (R23, R7). -/
def Code.bytes : Code → List Byte
  | .unit u => [u.extractLsb' 0 8, u.extractLsb' 8 8]
  | .word w => [w.extractLsb' 0 8, w.extractLsb' 8 8, w.extractLsb' 16 8, w.extractLsb' 24 8]

/-- The bytes an instruction has in memory: 2 or 4, and none for an event (R23). -/
def Instr.size (i : Instr) : Nat :=
  match encode i with
  | some (.unit _) => 2
  | some (.word _) => 4
  | none => 0

/-- The instruction at the head of a list of bytes, with the rest (R23, R39). -/
def decode : List Byte → Except DecodeError (Instr × List Byte)
  | b0 :: b1 :: bs =>
    let u : BitVec 16 := b1 ++ b0
    if isCompact u then .ok (decodeCompact u, bs)
    else
      match bs with
      | b2 :: b3 :: rest =>
        match decodeWord (b3 ++ b2 ++ u) with
        | .ok i => .ok (i, rest)
        | .error e => .error e
      | _ => .error .short
  | _ => .error .short

/-- `k` bytes of a natural number, the low byte first. -/
def natBytes : Nat → Nat → List Byte
  | 0, _ => []
  | k + 1, w => BitVec.ofNat 8 w :: natBytes k (w / 256)

/-- The instruction the decoder reads from the bits `w` of an opcode-table row of `nbits` bits; bits above `nbits` are 0. -/
def decodeTableWord (nbits w : Nat) : Option Instr :=
  match decode (natBytes 4 (w % 2 ^ nbits)) with
  | .ok (i, _) => some i
  | .error _ => none

end Sys2Proof
end

