-- ==== Sys2Proof/Config.lean ====
section
/-! DEFINITION. What the manual fixes for the parts, and the values it leaves open: free values with no body, which no proof
can see. -/

namespace Sys2Proof.Config

/-! ## Figures (R5, R78, R126, R140, R267) -/

/-- Lanes of a bundle. -/
abbrev lanes : Nat := 32
/-- Register blocks of one lane column (R78). -/
abbrev columnBlocks : Nat := 768
/-- Home-group slots of one core (R217). -/
abbrev groupSlots : Nat := 128
/-- Local memory of one core in bytes (R125). -/
abbrev localBytes : Nat := 524288
/-- Tile handles and engine commands of one core (R140, R150). -/
abbrev coreHandles : Nat := 256
/-- Entries of the publication table (R131), the arm table (R220), the row slots (R322), the remote tags (R307). -/
abbrev pubEntries : Nat := 16
abbrev armSlots : Nat := 64
abbrev rowSlots : Nat := 64
abbrev remoteTags : Nat := 512
/-- Miss-status entries and the ingress queue of a core's L1, and its bytes (R5, R275). -/
abbrev missEntries : Nat := 256
abbrev ingressEntries : Nat := 64
abbrev l1Bytes : Nat := 262144
/-- Bytes of a die's L2, and those of it that are relay buffer while fabric ports are enabled (R5, R301). -/
abbrev l2Bytes : Nat := 100663296
abbrev relayBytes : Nat := 8388608
/-- Tokens of a block, the pole included (R267). -/
abbrev tokens : Nat := 4096
/-- Bytes of a block (R265). -/
abbrev blockBytes : Nat := 128

/-! ## Free values

Each is applied to a counter of the state (`State.draws`), which grows at every use, or to what it depends on; log entry 2. -/

/-- The order among bundles that have gone equally long without issuing (R54): an index, taken modulo the candidates. -/
opaque freeIndex : Nat → Nat
/-- A bit that reads a condition outside the model: condition 3 of a near-bank entry (R335). -/
opaque freeBit : Nat → Bool
/-- A paging ticket (R345): any number; the device takes the first number from it on that is not in use. -/
opaque freeTicket : Nat → BitVec 16
/-- The core that is offered a team, where several can take it (R216): an index modulo the candidates. -/
opaque freeCore : Nat → Nat
/-- The link between two dies, lower die first, is in service after start-up stage 2 (R344, R354); log entry 5. -/
opaque linkState : Nat → Nat → Bool
/-- The start-up stage that fails at a reset: 1 to 5, or another number where none does (R344). -/
opaque freeStage : Nat → BitVec 3
/-- The cycles that the result of a vote, a shuffle, a group reduction or a match takes after the first (R89); log entry 91. -/
opaque collectiveCycles : Nat
/-- The value of an LMS signature (R348) for a use, a top-level index and a leaf index. -/
opaque freeSignature : Bool → Nat → Nat → BitVec 256

end Sys2Proof.Config
end

