-- ==== Sys2Proof/Machine/State.lean ====
section
/-! DEFINITION. The state of one Lysnik device: every piece of state the manual names, as plain data, and its reset. -/

namespace Sys2Proof.Machine

/-! ## Faults and refusals -/

/-- Why the machine stops. -/
inductive Fault where
  /-- Raised by `step` after a start-up stage has failed: the device has stopped (R344). Safe: the manual stops it too. -/
  | startupFailed (stage : Nat)
  deriving DecidableEq, Repr

/-- Why a step has no meaning. -/
inductive Refusal where
  /-- An instruction or event rejected by name, because it has no meaning yet. Safe: nothing is claimed of it. -/
  | notModelled (mnemonic : String)
  deriving DecidableEq, Repr

/-! ## Memory -/

/-- Bytes by address in canonical form: addresses rise strictly and no listed byte is 0, which is what an unlisted address
reads as (R344 stage 3 for DRAM; log entries 4 and 6 for local and host memory). -/
abbrev Mem := List Host.Cell

/-- The byte at an address. -/
def Mem.get : Mem → Nat → Byte
  | [], _ => 0
  | (a, b) :: m, x => if a = x then b else if x < a then 0 else Mem.get m x

/-- The canonical form, above a lower bound of the addresses. -/
def Mem.wfFrom : Nat → Mem → Bool
  | _, [] => true
  | lo, (a, b) :: m => lo ≤ a && b != 0 && Mem.wfFrom (a + 1) m

/-- The canonical form. -/
def Mem.wf (m : Mem) : Bool := Mem.wfFrom 0 m

/-! ## Fibres (R48, R50, R79, R89, R159) -/

inductive FCond where
  | live | dormant | ended
  deriving DecidableEq, Repr

/-- What a `wait` compares and loads (R227). -/
structure WaitWord where
  cc : WaitCond
  value : Word
  va : Nat
  asid : BitVec 10
  /-- Cycles since the last load, in tenths; used by the 64-cycle reloads. -/
  since : Nat
  /-- The block or sector that answered, and the rts of a leased copy (R298). -/
  blk : Nat
  rts : Option (BitVec 24)
  /-- The word may have changed since the last load. -/
  again : Bool
  /-- The load is dropped (R181): it reads 0, which never changes. -/
  dropped : Bool
  deriving DecidableEq, Repr

/-- Why a fibre is blocked. -/
inductive Wait where
  /-- At `home`, at its own pc (R70). -/
  | home
  /-- At `bar` (R139). -/
  | bar
  /-- At `bowait` on the object at a team local address, until its phase differs (R137). -/
  | bowait (obj : Nat) (phase : Bool)
  /-- At `hwait` (R145). -/
  | hwait (h : Nat) (st : HState)
  /-- At `wchild` (R224). -/
  | wchild
  /-- At `wait`, loading or sleeping (R227). -/
  | word (w : WaitWord)
  /-- At a kind-2 `wait` whose class question is under way, with the pointer that it then loads through (R227). -/
  | query (w : WaitWord) (ptr : BitVec 64) (dev launch : Nat) (cls : Class) (age : Nat)
  /-- At `rgrow` of so many blocks (R85). -/
  | grow (need : Nat)
  /-- At `fork`, for a child at a code offset (R64). -/
  | fork (target : Word)
  deriving DecidableEq, Repr

/-- A register whose write is pending (R89): the request that will write it, and the value once it is known. -/
structure Pend where
  reg : Nat
  req : Nat
  value : Option Word
  deriving DecidableEq, Repr

/-- What an instruction can read or write in a fibre and find pending: a register, a predicate, or m or l of the matrix state (R89, R173). -/
inductive Name where
  | reg (n : Nat)
  | pred (p : Pred)
  | side (l : Bool)
  deriving DecidableEq, Repr

/-- A mark of the scoreboard (R89, R166): what is marked, the hundredths of a cycle until the mark clears, whether it waits to be read and not
to be written, and the dbase of the chain that will write it. -/
structure Late where
  name : Name
  left : Nat
  held : Bool
  chain : Option Nat
  deriving DecidableEq, Repr

/-- The special mark of an exact partial (R159). -/
inductive Mark where
  | none | nan | pinf | ninf
  deriving DecidableEq, Repr

/-- One entry of the exact partial: 80 bits of two's complement with the last place 2^−32 (R159). -/
structure Partial where
  sum : BitVec 80
  mark : Mark
  deriving DecidableEq, Repr

/-- The matrix state of a fibre (R159). -/
structure MatrixState where
  part : List Partial
  isOpen : Bool
  lo : Bool
  hi : Bool
  tag : BitVec 4
  m : Word
  l : Word
  deriving DecidableEq, Repr

/-- The reset values of R159. -/
def MatrixState.reset : MatrixState :=
  { part := List.replicate 16 ⟨0, .none⟩, isOpen := false, lo := false, hi := false, tag := 0, m := 0xFF800000, l := 0 }

structure Fibre where
  cond : FCond
  wait : Option Wait
  /-- Starvation timer in tenths of a cycle (R228). -/
  timer : Nat
  pc : Word
  /-- p0 to p6 in bits 0 to 6; bit 7 is never read (R94). -/
  preds : BitVec 8
  /-- The window registers; the length is the window size (R79). -/
  regs : List Word
  /-- The block map: block numbers of the home lane's column (R79). -/
  blocks : List Nat
  cd : Nat
  /-- Link entries 0 to 7 (R60). -/
  links : List Word
  pend : List Pend
  /-- Registers and predicates whose result is still to come, or that a quarter has still to read (R89, R94, R166). -/
  late : List Late
  /-- How often each register has been written; a register that is not listed, never (R167). -/
  counts : List (Nat × Nat)
  mat : MatrixState
  deriving DecidableEq, Repr

/-- A slot that holds no fibre (R50). -/
def Fibre.empty (c : FCond) : Fibre :=
  { cond := c, wait := none, timer := 0, pc := 0, preds := 0, regs := [], blocks := [], cd := 0
    links := List.replicate 8 0, pend := [], late := [], counts := [], mat := .reset }

/-! ## Teams (R51, R59, R140, R177, R217, R229 to R233) -/

/-- Fibres of one program counter (R51), the cycle of their last issue (R54), whether the next instruction found an interlock or a full
resource since the last event, and whether that instruction, an `lpub`, has begun to collect its blocks (R52, R209). -/
structure Bundle where
  fibs : List Nat
  last : Nat
  stalled : Bool
  begun : Bool
  deriving DecidableEq, Repr

/-- A gathering pool: its target, the fibres with their arrival stamps, and its age in tenths of a cycle (R59). -/
structure Pool where
  target : Word
  fibs : List (Nat × Nat)
  age : Nat
  deriving DecidableEq, Repr

/-- The image facts of a kernel (R41). -/
structure Kernel where
  /-- Virtual address of the code, and its size. -/
  code : Nat
  codeBytes : Nat
  fibres : Nat
  team : Nat
  /-- Window sizes in blocks of eight registers. -/
  winMax : Nat
  winInit : Nat
  localBlocks : Nat
  handles : Nat
  progress : Nat
  hasData : Bool
  dataRec : Nat
  /-- Virtual address of the image header. -/
  img : Nat
  /-- Target tables: sites with their targets (R42). -/
  targets : List (Nat × List Nat)
  /-- Pre-emption table: offset, vmask, pmask (R44). -/
  points : List (Nat × BitVec 256 × BitVec 8)
  deriving DecidableEq, Repr

/-- A tile handle (R140, R144, R151). -/
structure HandleState where
  allotted : Bool
  /-- Region: team local address and size in bytes. -/
  base : Nat
  size : Nat
  st : HState
  hwptr : Nat
  /-- Record and element offset of the binding. -/
  bound : Option (Nat × Nat)
  fault : Bool
  /-- Inner cause and address of the recorded engine fault. -/
  inner : Nat
  faddr : Nat
  deriving DecidableEq, Repr

def HandleState.unallotted : HandleState :=
  { allotted := false, base := 0, size := 0, st := .free, hwptr := 0, bound := none, fault := false, inner := 0, faddr := 0 }

/-- The fault record of a save (R232). -/
structure FaultRec where
  cause : Word
  fmask : Word
  addr : BitVec 64
  epc : Word
  /-- The fibre in each lane of the faulting bundle. -/
  lanes : List (Option Nat)
  deriving DecidableEq, Repr

/-- A publication-table entry with its owner (R131): the 128 bits as R131 lays them out. -/
structure PubEntry where
  team : Nat
  bits : BitVec 128
  /-- Blocks of the window's pages: the first block of each 8 KiB page, as translated when it was published (R209). -/
  pages : List Nat
  /-- The window's bytes are moving: outside writes are refused (R157). -/
  moving : Bool
  deriving DecidableEq, Repr

/-- Why a team is saved (R229, R309). -/
inductive SaveWhy where
  /-- A precise cause other than 0x30, or the imprecise 0x42: the handler is entered (R233, R309). -/
  | trap
  /-- Cause 0x30: reported through the paging queue; the paging entry's kind (R345). -/
  | page (kind : BitVec 2)
  /-- Pre-emption (R230). -/
  | preempt
  /-- Register deadlock (R93). -/
  | evict
  /-- A save request of system software (R229). -/
  | request
  deriving DecidableEq, Repr

/-- Where a team stands. -/
inductive TeamCond where
  | resident
  /-- A save is under way; `points` while its fibres run to listed points (R230), with the age in tenths of a cycle. -/
  | saving (why : SaveWhy) (points : Bool) (age : Nat)
  /-- The frame is written, and writes of it to another device's memory are not yet acknowledged (R231). -/
  | written (why : SaveWhy) (points : Bool)
  /-- Saved, waiting for re-admission (R216); a paging ticket may still be owed (R345). -/
  | saved (why : SaveWhy) (ticket : Option (BitVec 16)) (ready : Bool)
  /-- Saved for the handler, waiting for it to start or to end (R234). -/
  | trapped
  /-- All fibres ended and resources freed, children outstanding (R222). -/
  | ended
  /-- Reserved with its grid, not started (R218). -/
  | reserved
  deriving DecidableEq, Repr

structure Team where
  id : Nat
  /-- The launch, by the model's number of the launch in `State.launches`. -/
  launch : Nat
  /-- sr.team. -/
  num : Nat
  core : Nat
  cond : TeamCond
  /-- A trap handler running for the trapped team of that id (R234). -/
  handlerFor : Option Nat
  asid : BitVec 10
  /-- 0 concurrent, 1 parallel, 2 weakly parallel (R225). -/
  cls : Nat
  depth : Nat
  nteam : Word
  /-- Starvation limit exponent (R211). -/
  starve : Nat
  kernel : Kernel
  records : List (BitVec 256)
  fmts : List (BitVec 128)
  consts : List Word
  fibres : List Fibre
  bundles : List Bundle
  /-- Blocked fibres, those together that one instruction of a bundle has blocked (R53). -/
  parked : List (List Nat)
  pools : List Pool
  /-- Core byte base of the local range and its size; none while it holds no range (R125). -/
  lbase : Option Nat
  lsize : Nat
  handles : List HandleState
  /-- Frame slot and its virtual address (R217, R232). -/
  frame : Nat
  frameVa : Nat
  faultRec : Option FaultRec
  /-- Blocks per lane column that a concurrent team holds in reserve and no fibre uses (R80). -/
  reserve : List (List Nat)
  /-- Blocks left lingering by a save at listed points: lane, block, fibre and first register (R92). -/
  linger : List (Nat × Nat × Nat × Nat)
  /-- Order of admission and age since it, in tenths of a cycle (R93, R229). -/
  admitted : Nat
  age : Nat
  /-- For barrier objects by local address: the largest wts that arrivals of the current phase, and of completed phases, carried
  (R329). -/
  objTimes : List (Nat × Option (BitVec 24) × Option (BitVec 24))
  /-- Windows that a claim of the team's local bytes has closed, to be opened again when it resumes (R157). -/
  reopen : List PubEntry
  /-- Cause 0x42 waits for the next instruction boundary, with the discarded entry's address (R309). -/
  overflow : Option (BitVec 64)
  /-- A write of the core to the team's frame on another device has failed (R231). -/
  lost : Bool
  deriving DecidableEq, Repr

/-- A team removed without saving: what the reports of its accesses that go on name (R222, R308, R309). -/
structure Gone where
  team : Nat
  launch : Nat
  core : Nat
  asid : BitVec 10
  /-- The launch number (R215), and sr.team. -/
  number : Nat
  num : Nat
  deriving DecidableEq, Repr

/-! ## Global accesses of a core (R188, R243, R353) -/

/-- Memory types (R199, R202) and classes (R203) of a page. -/
inductive MemType where
  | normal | writeCombining | device | stronglyOrdered
  deriving DecidableEq, Repr

inductive PageClass where
  | priv | leased | token
  deriving DecidableEq, Repr

/-- A translated page or line: where it lies and how it is kept. -/
structure Page where
  /-- Physical address of the byte translated. -/
  pa : Nat
  home : Nat
  ty : MemType
  cls : PageClass
  migrating : Bool
  asid : BitVec 10
  deriving DecidableEq, Repr

/-- What one request of a queue does. -/
inductive ReqKind where
  /-- A load; narrow loads extend by the sign or by zeros (R184). -/
  | load (signed : Bool)
  | store
  | atom (op : AtomOp)
  | red (op : AtomOp)
  /-- A read of another device's memory that `launch`, `ret` or `wait` waits for; its data stay here until it is used. -/
  | fetch
  /-- `pf`: a line comes to L1, and no fibre waits for it (R184). -/
  | prefetch
  /-- `stf`: each lane's flag word by virtual address and page; none where no flag update is made (R312). -/
  | flagged
  deriving DecidableEq, Repr

/-- The flag word of an `stf` lane: its page and virtual address, the lanes whose flags lie in its line, and whether the failure of its
line has been reported (R310, R312). -/
structure FlagRef where
  page : Page
  va : Nat
  lanes : Word
  told : Bool
  deriving DecidableEq, Repr

/-- One lane of a request: its fibre, its byte offset in the line, its size, its destination registers, the registers that
addressed it (R353), its operands, and for `stf` its flag. -/
structure LaneReq where
  lane : Nat
  fib : Nat
  off : Nat
  size : Nat
  dst : List Nat
  reads : List Nat
  x : Word
  y : Word
  flag : Option FlagRef
  deriving DecidableEq, Repr

/-- How a load stands to its core's L1 (R275). -/
inductive Miss where
  /-- Every sector that it touches was there, or the request is none that a miss-status entry serves. -/
  | hit
  /-- No entry was free: the load waits in the ingress queue. -/
  | ingress
  /-- It holds an entry for each of these sectors of its line. -/
  | held (sectors : BitVec 4)
  deriving DecidableEq, Repr

/-- One line request of an instruction in the issue queues of its fibres (R188, R244). -/
structure Req where
  id : Nat
  /-- The instruction: shared by its line requests, and rising in issue order. -/
  inst : Nat
  team : Nat
  /-- The fibres of the bundle, for the fault record (R353). -/
  bundle : List Nat
  epc : Word
  kind : ReqKind
  ord : OrdScope
  /-- Virtual address of the line, its translation (`pa` of the line). -/
  va : Nat
  page : Page
  lanes : List LaneReq
  /-- Answer bytes of the line that have arrived, for a request that another party serves (R132, R306). -/
  data : Option LineData
  /-- Request sent: the remote tag in use, and its age in meridian ticks (R306, R307). -/
  sent : Bool
  age : Nat
  /-- Lanes that have met a cause, with its code (R353). -/
  bad : List (LaneReq × Nat)
  /-- The lanes of the line, each with its fibre, and whether an error entry has been made for it (R310). -/
  all : List (Nat × Nat)
  told : Bool
  /-- Engine command that made the store, for `cpout` (R147). -/
  cmd : Option Nat
  miss : Miss
  /-- For an atomic: every line of its instruction has been found free of causes (R189, R353). -/
  good : Bool
  /-- For an atomic: a lane of its instruction has taken effect (R189, R353; log entry 79). -/
  acted : Bool
  /-- The model's number up to which requests had been made when it was free to leave and first sent, or first asked for tokens, which starts its timer
  (R306). -/
  tried : Option Nat
  /-- For a `wait`: the rts of the leased copy that answered, and whether the home's reply brought it (R298). -/
  rts : Option (BitVec 24 × Bool)
  deriving DecidableEq, Repr

/-- What a load has returned whose write may not yet have a wide reach (R243, R248): its fibre, its instruction number, and the sector by its
physical address ÷ 64. -/
structure Seen where
  team : Nat
  fib : Nat
  inst : Nat
  sector : Nat
  deriving DecidableEq, Repr

/-- A sector of a private page in a view (R243): its 64-byte data, dirty or clean, and the address space that filled it. -/
structure Sector where
  /-- Physical address ÷ 64. -/
  addr : Nat
  data : SectorData
  dirty : Bool
  asid : BitVec 10
  deriving DecidableEq, Repr

/-- A leased copy in an L1 or an L2 (R289). -/
structure LeaseCopy where
  blk : Nat
  data : BlockData
  wts : BitVec 24
  rts : BitVec 24
  asid : BitVec 10
  deriving DecidableEq, Repr

/-- A cached translation (R205). -/
structure TlbEntry where
  asid : BitVec 10
  gen : BitVec 12
  /-- Virtual address of the page and log2 of its size. -/
  va : Nat
  lg : Nat
  leaf : BitVec 64
  deriving DecidableEq, Repr

/-- An engine command and its scoreboard entry (R146 to R157). -/
inductive CmdKind where
  | cpin (rec elem : Nat)
  | cpout (rec elem : Nat)
  | fill (w : Word)
  | push (va : Nat)
  | red (va : Nat) (index : Nat)
  deriving DecidableEq, Repr

structure Cmd where
  id : Nat
  team : Nat
  fib : Nat
  h : Nat
  kind : CmdKind
  epc : Word
  /-- Region: team local address and size. -/
  base : Nat
  size : Nat
  started : Bool
  /-- Bytes moved. -/
  done : Nat
  /-- The instruction number at issue: earlier accesses and fences have lower ones (R153, R258). -/
  inst : Nat
  /-- For a push or a contribution: sent whole; refused, and noted by its destination (R156); the ticks since its last send or its
  refusal. -/
  sent : Bool
  refused : Bool
  noted : Bool
  age : Nat
  /-- Bytes of the region that a push or a contribution has read, kept for what is sent again (R152, R156; log entry 73). -/
  held : List Byte
  /-- Devices that have answered a push or a contribution that they hold no window for it (R132, R313). -/
  tried : List Nat
  /-- Implicit fetch of a matrix instruction (R149, R239), and the fibres that issued it with a true guard. -/
  implicit : Bool
  fibs : List Nat
  deriving DecidableEq, Repr

/-- A sender whose contribution was refused and noted (R156): the party, its command, the core byte address of the arrival object, and the
index. -/
structure NotedSender where
  who : Party
  cmd : Nat
  obj : Nat
  index : Nat
  deriving DecidableEq, Repr

/-- One row operation of a row instruction: the physical addresses of the destination row and of the rows A and B, where they are
read, with the virtual addresses of A and B. -/
structure RowStep where
  d : Nat
  /-- Virtual address of the destination row (R310). -/
  dva : Nat
  a : Option (Nat × Nat)
  b : Option (Nat × Nat)
  deriving DecidableEq, Repr

/-- What a row instruction computes (R323). -/
inductive RowFn where
  | copy | zeros | ones | pattern | and | or | xor | not
  deriving DecidableEq, Repr

/-- A row instruction in a row slot, or waiting for one (R322, R331). -/
structure RowCmd where
  id : Nat
  team : Nat
  /-- The core that issued it, whose `sr.rpath` it sets (R340), and the core whose row slot it holds (R322, R331). -/
  issuer : Nat
  slot : Option Nat
  fn : RowFn
  /-- The row operations still to do, in ascending order. -/
  rows : List RowStep
  /-- Team local address of the barrier object. -/
  obj : Nat
  fib : Nat
  epc : Word
  inst : Nat
  deriving DecidableEq, Repr


/-- An unpublished window's block that is not yet written back (R133). -/
structure PubLeft where
  blk : Nat
  /-- Core byte address of its bytes in local memory. -/
  la : Nat
  team : Nat
  deriving DecidableEq, Repr

/-- An armed record (R219, R220). -/
structure Arm where
  team : Nat
  q : Nat
  record : LineData
  obj : Nat
  /-- The object's phase has completed: enqueue when the queue has room. -/
  fired : Bool
  deriving DecidableEq, Repr

/-- A request of a lane column's grant queue (R86): the cycle in which it was made, and for `rgrow`, or for a `fork` with the child's slot. -/
structure GrantReq where
  made : Nat
  team : Nat
  fib : Nat
  need : Nat
  child : Option Nat
  deriving DecidableEq, Repr

/-- The operand latch of a quarter (R167): its tag, which is the team, the quarter's fibres, abase, and the write count of each of the sixteen
registers in each fibre, and the A operand of each fibre. -/
structure Latch where
  quarter : Nat
  team : Nat
  fibs : List Nat
  abase : BitVec 4
  counts : List (List Nat)
  kept : List (List Word)
  deriving DecidableEq, Repr

/-- The scoreboard entry of one quarter's read of a handle's image: the team, the team local address of the 1,024 bytes, and the hundredths of a
cycle until the quarter has read them (R152, R165, R168). -/
structure ImageRead where
  team : Nat
  base : Nat
  left : Nat
  deriving DecidableEq, Repr

structure Core where
  die : Nat
  /-- A retired core names no core (R2, R350). -/
  present : Bool
  /-- A lane column is lasting: no team is admitted (R350). -/
  retiring : Bool
  /-- Free register blocks of each lane column, by lane; a missing lane has all 768 (R78). -/
  freeBlocks : List (Nat × List Nat)
  lmem : Mem
  reqs : List Req
  /-- Store queue, oldest first (R243). -/
  storeQ : List Req
  /-- Loads whose writes have not yet the widest reach (R243). -/
  seen : List Seen
  view : List Sector
  leases : List LeaseCopy
  /-- Predicted peers: block and core (R276). -/
  peers : List (Nat × Nat)
  tlb : List TlbEntry
  cmds : List Cmd
  /-- Senders refused by the reorder buffer (R156). -/
  noted : List NotedSender
  pubs : List (Nat × PubEntry)
  unpub : List PubLeft
  arms : List (Nat × Arm)
  grants : List (Nat × List GrantReq)
  /-- Logical time (R288). -/
  lt : BitVec 24
  /-- Rounding generator and seed (R116, R117). -/
  gen : Word
  seed : Word
  umiss : Word
  saveReq : Bool
  /-- sr.rpath (R325). -/
  rpath : Word
  /-- Epochs of the remote tags that are not 0, and the tags in use with their requests (R307). -/
  epochs : List (Nat × BitVec 4)
  tags : List (Nat × Nat)
  latches : List Latch
  /-- Images that quarters are reading (R165). -/
  reads : List ImageRead
  /-- Cycles of register deadlock counted, in tenths (R93). -/
  deadlock : Nat
  /-- Trapped teams in order of trapping, and the team whose handler runs (R234). -/
  trapQueue : List Nat
  handler : Option Nat
  /-- The launch for whose team a pre-emption has freed resources here (R216). -/
  promised : Option Nat
  deriving DecidableEq, Repr

/-- A core after reset (R117, R131, R344, R354). -/
def Core.reset (die : Nat) : Core :=
  { die := die, present := true, retiring := false, freeBlocks := [], lmem := [], reqs := [], storeQ := [], seen := [], view := []
    leases := [], peers := [], tlb := [], cmds := [], noted := [], pubs := [], unpub := [], arms := [], grants := []
    lt := 0, gen := 1, seed := 1, umiss := 0, saveReq := false, rpath := 0, epochs := [], tags := [], latches := [], reads := []
    deadlock := 0, trapQueue := [], handler := none, promised := none }

/-! ## Dies -/

/-- Clock steps of a die (R351): 1.25, 1.0, 0.8, 0.625 GHz. -/
inductive Clock where
  | full | step1 | step2 | step3
  deriving DecidableEq, Repr

structure Die where
  present : Bool
  view : List Sector
  leases : List LeaseCopy
  tlb : List TlbEntry
  /-- Destination-set predictor: index and up to three devices (R277). -/
  predictor : List (Nat × List Nat)
  stale : Word
  /-- Links in service, and retraining (R300, R354). -/
  live : BitVec 4
  retrain : BitVec 4
  /-- Links retired under R350. -/
  retired : BitVec 4
  /-- L2 slices retired under R350. -/
  slicesOut : List Nat
  clock : Clock
  /-- Hundredths of a cycle since the last pass of the grouping stage was due, below 400 (R9, R52). -/
  phase : Nat
  stopped : Bool
  /-- Messages re-injected into the escape channel (R300, R305). -/
  escape : List Nat
  deriving DecidableEq, Repr

/-- The links of die `d` of `n` dies that start-up stage 2 leaves in service: the die's own bit is 0, and no link leads to a die that is not
there (R344, R354). -/
def Die.links (d n : Nat) : BitVec 4 :=
  ((List.range n).filter fun e => e != d && Config.linkState (min d e) (max d e)).foldl (fun (m : BitVec 4) e => m ||| (1#4 <<< e)) 0

/-- Die `d` of `n` after reset. -/
def Die.reset (d n : Nat) : Die :=
  { present := d < n, view := [], leases := [], tlb := [], predictor := [], stale := 0
    live := if d < n then Die.links d n else 0, retrain := 0, retired := 0, slicesOut := []
    clock := .full, phase := 0, stopped := false, escape := [] }

/-! ## Blocks (R265 to R292) -/

/-- Metadata of a block (R272). -/
inductive Meta where
  | token (remote pole poison : Bool) (serial : BitVec 8) (count : Nat)
  | lease (poison : Bool) (serial : BitVec 8) (wts rts : BitVec 24)
  deriving DecidableEq, Repr

/-- The metadata written at start-up (R272). -/
def Meta.reset : Meta := .token false true false 0 4096

/-- Tokens held by a party of this device other than a home (R266, R267, R274). -/
structure Hold where
  who : Place
  blk : Nat
  serial : BitVec 8
  n : Nat
  pole : Bool
  dirty : Bool
  data : BlockData
  /-- Half-valid mask for blocks of host memory (R293): bit h set when half h holds data. -/
  valid : BitVec 2
  /-- L1s of the die that hold a copy: core and tokens lent, 0 for a read mark (R274). -/
  lent : List (Nat × Nat)
  /-- The address spaces under which those L1s filled their lines (R207). -/
  filled : List (Nat × BitVec 10)
  asid : BitVec 10
  /-- L2 slice (R207). -/
  slice : Nat
  deriving DecidableEq, Repr

/-- A shadow of a dirty pole that was sent (R271, R316). -/
structure Shadow where
  who : Place
  blk : Nat
  data : BlockData
  /-- The receiver that will acknowledge. -/
  toParty : Party
  /-- The post of the store line that it was kept for; none of a dirty pole (R316). -/
  line : Option Nat
  deriving DecidableEq, Repr

/-- Stages of a persistent request (R278 to R280). -/
inductive PStage where
  | no
  | sent
  /-- Refused by a full table; the age in ticks since. -/
  | refused (age : Nat)
  | active
  deriving DecidableEq, Repr

/-- A token reply that came before a serial was known (R282). -/
structure Early where
  serial : BitVec 8
  n : Nat
  pole : Bool
  dirty : Bool
  data : Option BlockData
  halves : BitVec 2
  deriving DecidableEq, Repr

/-- An outstanding token request: a miss entry (R275, R277, R278, R282). -/
structure Want where
  id : Nat
  who : Place
  /-- The die and the agent for which the place asks. -/
  die : Nat
  agent : Nat
  blk : Nat
  kind : WantKind
  /-- A publish request (R132). -/
  publish : Bool
  asid : BitVec 10
  /-- The serial of its notice. -/
  serial : Option (BitVec 8)
  /-- Token replies that arrived before a serial was known (R282). -/
  early : List Early
  tries : Nat
  /-- Since the last try: tenths of a cycle of the die for a block homed here, of 0.8 ns for another; and ticks since the first try. -/
  tryAge : Nat
  age : Nat
  stage : PStage
  /-- A holder answered with a published notice (R132). -/
  denied : Bool
  /-- The halves of a block of host memory that it needs (R293). -/
  halves : BitVec 2
  deriving DecidableEq, Repr

/-- An entry of a home's persistent table (R279). -/
structure PEntry where
  blk : Nat
  req : Party
  key : Nat
  /-- The requester's tag (R269). -/
  tag : Nat
  inWave : Bool
  active : Bool
  /-- Age of the activation in ticks. -/
  age : Nat
  /-- The parties that heard of the activation, and hear of its end. -/
  parties : List Party
  deriving DecidableEq, Repr

/-- An activation that a party of this device knows of (R280). -/
structure Act where
  who : Place
  blk : Nat
  req : Party
  tag : Nat
  deriving DecidableEq, Repr

/-- A block frozen at a party, by the home's audit (R284). -/
structure Frozen where
  who : Place
  blk : Nat
  deriving DecidableEq, Repr

inductive AuditStage where
  | asking | holdoff | dropping
  deriving DecidableEq, Repr

/-- An audit at the home of a block (R284, R285). -/
structure Audit where
  blk : Nat
  stage : AuditStage
  /-- Parties that have not answered, with the ticks since they were asked. -/
  waiting : List (Party × Nat)
  /-- All parties asked. -/
  asked : List Party
  sum : Nat
  poleData : Option BlockData
  shadow : Option BlockData
  poleSeen : Bool
  deriving DecidableEq, Repr

/-- An arrival of a row operation or near-bank run that waits for the writes it made in windows on other devices: its team, the barrier object's
address, the posts, and the largest wts (R329). -/
structure Arrival where
  team : Nat
  obj : Nat
  posts : List Nat
  wts : Option (BitVec 24)
  deriving DecidableEq, Repr

structure Coherence where
  /-- Metadata of the blocks whose form is not the reset one, by block address ÷ 128. -/
  metas : List (Nat × Meta)
  holds : List Hold
  shadows : List Shadow
  wants : List Want
  table : List PEntry
  acts : List Act
  frozen : List Frozen
  audits : List Audit
  /-- Meridian ticks since the last recreation of a block, up to 2 ms (R285). -/
  recreated : List (Nat × Nat)
  /-- Blocks homed on other devices whose data here are poisoned (R191, R306). -/
  bad : List Nat
  /-- Forms under conversion: block and whether to lease form (R273). -/
  converting : List (Nat × Bool)
  /-- What this device itself has written of blocks of which tokens, or lines that the host holds, are away: block, offset and bytes (log entry 9). -/
  patches : List (Nat × Nat × List Byte)
  /-- Data that windows on other devices have answered to row engines: engine, block, data, whether poisoned, and the holder (R132, R327). -/
  gathered : List (Place × Nat × BlockData × Bool × Party)
  arrivals : List Arrival
  deriving DecidableEq, Repr

/-! ## Near-bank units (R332 to R337) -/

inductive UnitCond where
  | held | running
  /-- The team that holds it is saved: whether a run goes on when the team does (R337). -/
  | suspended (run : Bool)
  deriving DecidableEq, Repr

/-- What waits at a channel that a running near-bank unit keeps shut (R338): a message at its home, a request of a core, a dirty sector of a die's view,
a row instruction, or a pull of a migration entry's block. -/
inductive ChannelWait where
  | msg (id : Nat)
  | req (core id : Nat)
  | sector (die addr : Nat)
  | row (id : Nat)
  | pull (entry block : Nat)
  deriving DecidableEq, Repr

/-- A near-bank unit that a team holds; a free unit is not listed. -/
structure NearBank where
  stack : Nat
  channel : Nat
  owner : Nat
  cond : UnitCond
  acc : List RowData
  ctr : List (BitVec 16)
  scales : List Word
  table : List (BitVec 64)
  upc : Nat
  /-- Streams: the physical and virtual addresses of the rows; none where disabled. -/
  streams : List (Option (List (Nat × Nat)))
  ending : BitVec 2
  steps : Nat
  /-- The barrier object, and the fibre, epc and instruction number of the `nbrun` (R336, R310, R258). -/
  obj : Nat
  fib : Nat
  epc : Word
  inst : Nat
  /-- Ticks left of an arbitration window (R338). -/
  window : Nat
  /-- What has come to its channel since the last window, in arrival order (R338). -/
  queue : List ChannelWait
  /-- The largest wts that the run has written to a leased block (R329). -/
  wts : Option (BitVec 24)
  deriving DecidableEq, Repr

/-! ## Launches and queues (R211 to R224) -/

inductive LaunchStatus where
  | queued | started | retiring (result : Nat) | retired (result : Nat)
  deriving DecidableEq, Repr

structure Launch where
  /-- The model's own number. -/
  id : Nat
  q : Nat
  slot : Nat
  /-- The queue has passed its slot: a core has taken it, or it had ended before (R213, R216). -/
  taken : Bool
  record : LineData
  /-- 0, 1, 2, or 3 where it is not known (R215). -/
  cls : Nat
  status : LaunchStatus
  depth : Nat
  /-- The team whose child it is (R222). -/
  parent : Option Nat
  /-- Scope of the acquire its teams start with (R253). -/
  acq : Scope
  kernel : Option Kernel
  /-- Next team to admit, and teams retired. -/
  next : Nat
  done : Nat
  /-- How long a concurrent grid has waited at its queue's head, in tenths of a cycle, and the block it puts on other queues (R218). DESIGN
  CHOICE: the cycles are those of die 0, since the queues belong to no die (log entry 65). -/
  waited : Nat
  starving : Bool
  /-- Frame slots its teams hold (R217). -/
  frames : List Nat
  /-- The completion record could not be written, and the status word does not yet say so (R223). -/
  lost : Bool
  deriving DecidableEq, Repr

/-- A record that a queue has room for and whose class is still being read from another device's memory (R215); for a launch line, the sender,
the receiver and the number of its post, to be answered (R315). -/
structure Offer where
  id : Nat
  q : Nat
  record : LineData
  answer : Option (Party × Party × Nat)
  deriving DecidableEq, Repr

/-! ## Fabric (R300 to R316) -/

/-- What a posted item is, for its report (R308, R310). -/
inductive PostKind where
  | store | reduction | flagData | flag | launchLine | storeLine | completion
  deriving DecidableEq, Repr

/-- A posted line or another remote write that its issuing device holds until it ends (R308, R312, R313, R315, R316). -/
structure Post where
  id : Nat
  kind : PostKind
  core : Nat
  team : Nat
  fib : Nat
  epc : Word
  va : Nat
  pa : Nat
  home : Nat
  /-- The fibres whose accesses it carries, the type and the class of its page, and its order (R248, R202, R208). -/
  fibs : List Nat
  ty : MemType
  cls : PageClass
  ord : OrdScope
  lanes : Word
  mask : BitVec 256
  data : LineData
  flags : List (Option FlagRef)
  cmd : Option Nat
  /-- Posted or sent; for a store line false while it collects. -/
  sent : Bool
  /-- Refused by its target because it came early (R315). -/
  refused : Bool
  /-- Ticks since the first send or try, and since posting. -/
  age : Nat
  /-- The accesses of whose fibres it is part, by instruction number (R248); of a completion record its launch. -/
  inst : Nat
  /-- The number of a launch line (R315). -/
  num : Nat
  /-- The failure of its line has been reported with another post of the same instruction (R310). -/
  told : Bool
  /-- Its bytes are poisoned: a row operation has read them from an affected sector (R328). -/
  bad : Bool := false
  deriving DecidableEq, Repr

/-- Launch lines of one source to one queue at their target, by the number of the queue's frame (R315). -/
structure LineFlow where
  src : Nat
  frame : Nat
  /-- Next number due. -/
  due : Nat
  /-- Lines held early: number, message, and ticks since it came. -/
  early : List (Nat × Msg × Nat)
  /-- Numbers passed over. -/
  passed : List Nat
  deriving DecidableEq, Repr

structure Fabric where
  /-- Fabric control: port_en, rto, dev (R301). -/
  portEn : BitVec 32
  rto : BitVec 8
  dev : BitVec 10
  /-- Orbit schedule entries that are not 0, and changes waiting for the next orbit (R302). -/
  sched : List (Nat × Word)
  schedNext : List (Nat × Word)
  mismatch : List (Nat × Word)
  /-- Digests of peers: entries and ticks since arrival (R302). -/
  digests : List (Nat × List Word × Nat)
  slot : Nat
  /-- Ports whose exchange has matched in this orbit (R302). -/
  met : BitVec 32
  /-- Ticks since the last slot start, times 16 ns. -/
  slotAge : Nat
  /-- Relay buffer: messages of others, with the bytes they take (R303). -/
  relay : List Msg
  posts : List Post
  flows : List LineFlow
  /-- Next launch-line number per target device and queue (R315). -/
  numbers : List (Nat × Nat × Nat)
  /-- Pushes under way into windows of this device: source device, command and bytes written (R313). -/
  pushIn : List (Nat × Nat × Nat)
  deriving DecidableEq, Repr

/-! ## Host side (R293 to R297, R342 to R352) -/

/-- What the bridge waits for from the host for one host line. -/
inductive HostWait where
  | rdShared | rdOwn
  /-- For one load: its core and its request (R294). -/
  | rdCurr (core req : Nat)
  | snoopInv | snoopData
  /-- A snoop for the current data whose owner is on another device: the number of the question, and the ticks since it was asked (R295). -/
  | snoopCur (id age : Nat)
  /-- A back-invalidation that has met the host's own request, which goes first (R296). -/
  | conflict (inv : Bool)
  deriving DecidableEq, Repr

structure HostSide where
  /-- Host memory as the host holds it. -/
  mem : Mem
  /-- Grants of host lines, by host address ÷ 64 (R293). -/
  grants : List (Nat × Grant)
  /-- Tokens of host-memory blocks at the bridge, by block: serial, count and pole; an unlisted block holds all (R293). -/
  table : List (Nat × BitVec 8 × Nat × Bool)
  /-- Requests of the bridge to the host, and back-invalidations, by line (R293, R296). -/
  waits : List (Nat × HostWait)
  /-- Snoops of the host being answered, by line (R295). -/
  snoops : List (Nat × HostWait)
  /-- Device lines the host holds, by device address ÷ 64 (R296). -/
  held : List (Nat × Grant)
  /-- Answers given to the host's snoops, reads and requests, newest first: line and data (R295, R296, R352). -/
  answers : List (Nat × SectorData)
  /-- Link rate in GT/s (R342). -/
  rate : Nat
  msix0 : Nat
  msix1 : Nat
  deriving DecidableEq, Repr

/-! ## Device registers and tables (R343) -/

structure QueueDesc where
  ovf : BitVec 16
  ridx : Nat
  widx : Nat
  lsize : Nat
  prio : BitVec 2
  fab : Bool
  en : Bool
  /-- Physical address of the ring. -/
  base : Nat
  deriving DecidableEq, Repr

def QueueDesc.reset : QueueDesc :=
  { ovf := 0, ridx := 0, widx := 0, lsize := 0, prio := 0, fab := false, en := false, base := 0 }

structure ErrQueue where
  wr : BitVec 16
  rd : BitVec 16
  ovf : BitVec 16
  deriving DecidableEq, Repr

/-- An `asgen` that has bumped a generation and waits: its team, its fibre, the space, and the number below which accesses are older (R206). -/
structure Bump where
  team : Nat
  fib : Nat
  asid : BitVec 10
  below : Nat
  deriving DecidableEq, Repr

structure DeviceRegs where
  offer : BitVec 256
  accept : BitVec 256
  /-- Go has been 1 since reset: the accept word stands (R346). -/
  locked : Bool
  astBase : Nat
  ctxBase : Nat
  go : Bool
  startupDone : Bool
  failing : BitVec 8
  pagingBase : Nat
  pagingWr : BitVec 16
  pagingRd : BitVec 16
  queues : List QueueDesc
  /-- Queue window table: frame address and valid (R314). -/
  windows : List (Nat × Bool)
  /-- Lease lengths that are not the reset value, by address space (R286). -/
  leases : List (Nat × BitVec 16)
  /-- Meridian root (R287). -/
  mtime : BitVec 24
  /-- Migration table: entries that are not 0 (R204). -/
  migration : List (Nat × BitVec 192)
  /-- Current generation of an address space where it is not 0, and those retired and not yet swept since (R206). -/
  gens : List (Nat × BitVec 12)
  retiredGens : List (Nat × BitVec 12)
  /-- Waits of `asgen` after it has bumped a generation. -/
  bumps : List Bump
  errqs : List (Nat × ErrQueue)
  deriving DecidableEq, Repr

/-- Health and identity (R347 to R351). -/
structure Health where
  part : Part
  /-- Wear values and end-of-life hours by record (R349). -/
  wear : List (Word × Word)
  retirements : List (Nat × BitVec 128)
  retireCount : Word
  /-- Corrected errors: location and the milliseconds at which they were counted (R350). -/
  corrected : List (Location × List Nat)
  /-- Locations marked lasting. -/
  lasting : List Location
  /-- LMS top-level arrays and leaf indices: identity, attestation (R348). -/
  lmsTop : List (BitVec 1024)
  lmsLeaf : List Nat
  /-- Signatures released and error codes returned, newest first: use, value (R348). -/
  released : List (SignUse × Option (BitVec 256))
  /-- Cores of each die that retirement has taken away for good (R2, R350). -/
  dead : List Nat
  deriving DecidableEq, Repr

/-! ## The device -/

/-- The bundle whose instruction issues: its team, its fibres and their core. -/
structure Cur where
  team : Nat
  fibs : List Nat
  core : Nat
  deriving DecidableEq, Repr

structure State where
  sys : DeviceRegs
  /-- DRAM cells, by their address in the interleaved form (R193, R195). -/
  dram : Mem
  coh : Coherence
  msgs : List Msg
  cores : List Core
  dies : List Die
  teams : List Team
  /-- Teams removed without saving, until their launches have retired (R222, R223). -/
  gone : List Gone
  launches : List Launch
  /-- Records on their way into a queue, oldest first (R215). -/
  offers : List Offer
  /-- Round-robin position among queues of equal priority (R216). -/
  lastQueue : Nat
  fab : Fabric
  nb : List NearBank
  /-- Row instructions not yet complete, oldest first (R322, R331). -/
  rows : List RowCmd
  host : HostSide
  health : Health
  /-- Meridian ticks since start-up, and cycles of 0.8 ns since the last tick (R9). -/
  ticks : Nat
  slice : Nat
  /-- Number of the present cycle. -/
  stamp : Nat
  /-- The core of each instruction that has issued in this cycle (R54), and the cores that issued in earlier cycles since the last tick
  (R93). -/
  issues : List Nat
  issuers : List Nat
  /-- Next number of a team, launch, request, command, message. -/
  nextId : Nat
  /-- Uses of free values (log entry 2). -/
  draws : Nat
  cur : Cur
  /-- Events that occur next, first one first (log entry 1). -/
  schedule : List Instr
  deriving DecidableEq, Repr

/-! ## Reset (R344) -/

/-- Cores per die and dies of a part (R1). -/
def Part.coresPerDie : Part → Nat
  | .tly8P => 72
  | .tly8M => 72
  | .tly8H => 66
  | .tly1E => 72

def Part.dies : Part → Nat
  | .tly1E => 1
  | _ => 4

/-- `n` cores, less the dead ones, of each of `k` dies from die `d` on, numbered densely die by die (R2). -/
def coresFrom (n : Nat) (dead : List Nat) : Nat → Nat → List Core
  | 0, _ => []
  | k + 1, d => List.replicate (n - dead.getD d 0) (Core.reset d) ++ coresFrom n dead k (d + 1)

/-- The feature offer of a part (R346). -/
def Part.offer : Part → BitVec 256
  | .tly1E => 0x7E
  | _ => 0x7F

def DeviceRegs.reset (p : Part) : DeviceRegs :=
  { offer := Part.offer p, accept := 0, locked := false, astBase := 0, ctxBase := 0, go := false, startupDone := true, failing := 0
    pagingBase := 0, pagingWr := 0, pagingRd := 0, queues := List.replicate 16 .reset
    windows := List.replicate 16 (0, false), leases := [], mtime := 0, migration := [], gens := [], retiredGens := [], bumps := []
    errqs := [] }

def Coherence.reset : Coherence :=
  { metas := [], holds := [], shadows := [], wants := [], table := [], acts := [], frozen := [], audits := []
    recreated := [], bad := [], converting := [], patches := [], gathered := [], arrivals := [] }

def Fabric.reset : Fabric :=
  { portEn := 0, rto := 0, dev := 0, sched := [], schedNext := [], mismatch := [], digests := [], slot := 0, met := 0
    slotAge := 0, relay := [], posts := [], flows := [], numbers := [], pushIn := [] }

def HostSide.reset : HostSide :=
  { mem := [], grants := [], table := [], waits := [], snoops := [], held := [], answers := [], rate := 64
    msix0 := 0, msix1 := 0 }

def Health.reset (p : Part) : Health :=
  { part := p, wear := List.replicate 48 (0, 0xFFFFFFFF), retirements := [], retireCount := 0, corrected := []
    lasting := [], lmsTop := [0, 0], lmsLeaf := [0, 0], released := [], dead := [] }

/-- The device of a part after the start-up stages have ended well (R344). -/
def State.resetPart (p : Part) : State :=
  { sys := .reset p, dram := [], coh := .reset, msgs := []
    cores := coresFrom (Part.coresPerDie p) [] (Part.dies p) 0
    dies := (List.range 4).map fun d => Die.reset d (Part.dies p)
    teams := [], gone := [], launches := [], offers := [], lastQueue := 15, fab := .reset, nb := [], rows := [], host := .reset, health := .reset p
    ticks := 0, slice := 0, stamp := 0, issues := [], issuers := [], nextId := 0, draws := 0, cur := ⟨0, [], 0⟩, schedule := [] }

/-- The machine after reset: a TLY-8P (log entry 8). -/
def State.reset : State := State.resetPart .tly8P

end Sys2Proof.Machine
end

