-- ==== Sys2Proof/WellFormed.lean ====
section
/-! DEFINITION. The well-formed instructions: those whose operands an encoding can hold and R39 admits (check 4). -/

namespace Sys2Proof

/-- A guard that an encoding can hold: the code 1111 is reserved (R28). -/
def Guard.wf : Guard → Bool
  | .pos _ => true
  | .neg p => p != 7#3

/-- A field that names a pair or a pointer is even (R30). -/
def evenReg (r : Reg) : Bool := !r.getLsbD 0

/-- An order-and-scope code that `fence` admits: not relaxed (R32, R39). -/
def OrdScope.ordered : OrdScope → Bool
  | .rlx => false
  | _ => true

/-- A count n of `rgrow` and `rshrink`, in eights: 1 to 32 (R32, R39). -/
def growCount (n : BitVec 6) : Bool := n != 0 && n.toNat ≤ 32

/-- A register that `swr` names in an assigned form: the registers of R237 that are written. -/
def SpecialReg.writable : SpecialReg → Bool
  | .cause | .faddr | .fmask | .epc | .rpath => true
  | _ => false

/-- Check 4 of R39 on the operands of an instruction, with the reserved guard (R28); an event is always well formed. -/
def wf : Instr → Bool
  | .movC16 _ _ => true
  | .moviC16 _ _ => true
  | .addC16 _ _ => true
  | .addiC16 _ _ => true
  | .subC16 _ _ => true
  | .mulLoC16 _ _ => true
  | .andC16 _ _ => true
  | .orC16 _ _ => true
  | .xorC16 _ _ => true
  | .shlC16 _ _ => true
  | .shrC16 _ _ => true
  | .minS32C16 _ _ => true
  | .maxS32C16 _ _ => true
  | .faddC16 _ _ => true
  | .fmulC16 _ _ => true
  | .fmaxC16 _ _ => true
  | .add g _ _ _ => g.wf
  | .addc g _ _ _ => g.wf
  | .sub g _ _ _ => g.wf
  | .subb g _ _ _ => g.wf
  | .mulLo g _ _ _ => g.wf
  | .mulHiS32 g _ _ _ => g.wf
  | .mulHiN32 g _ _ _ => g.wf
  | .mad g _ _ _ => g.wf
  | .and g _ _ _ => g.wf
  | .or g _ _ _ => g.wf
  | .xor g _ _ _ => g.wf
  | .andn g _ _ _ => g.wf
  | .minS32 g _ _ _ => g.wf
  | .maxS32 g _ _ _ => g.wf
  | .minN32 g _ _ _ => g.wf
  | .maxN32 g _ _ _ => g.wf
  | .shl g _ _ _ => g.wf
  | .shr g _ _ _ => g.wf
  | .sar g _ _ _ => g.wf
  | .rot g _ _ _ => g.wf
  | .popc g _ _ => g.wf
  | .clz g _ _ => g.wf
  | .brev g _ _ => g.wf
  | .abs g _ _ => g.wf
  | .bfxS32 g _ _ _ => g.wf
  | .bfxN32 g _ _ _ => g.wf
  | .bfi g _ _ _ => g.wf
  | .mov g _ _ => g.wf
  | .movKconst g _ _ => g.wf
  | .movIndirectSrc g _ _ _ => g.wf
  | .movIndirectDst g _ _ _ => g.wf
  | .sel g _ _ _ _ => g.wf
  | .cmpS32 g _ _ _ _ => g.wf
  | .cmpN32 g _ _ _ _ => g.wf
  | .movi g _ _ => g.wf
  | .imhi g _ _ => g.wf
  | .addi g _ _ _ => g.wf
  | .andi g _ _ _ => g.wf
  | .ori g _ _ _ => g.wf
  | .xori g _ _ _ => g.wf
  | .shli g _ _ _ => g.wf
  | .shri g _ _ _ => g.wf
  | .sari g _ _ _ => g.wf
  | .cmpiS32 g _ _ _ _ => g.wf
  | .cmpiN32 g _ _ _ _ => g.wf
  | .fadd g _ _ _ => g.wf
  | .fsub g _ _ _ => g.wf
  | .fmul g _ _ _ => g.wf
  | .ffma g _ _ _ => g.wf
  | .fmin g _ _ _ => g.wf
  | .fmax g _ _ _ => g.wf
  | .fdiv g _ _ _ => g.wf
  | .frcp g _ _ => g.wf
  | .frsq g _ _ => g.wf
  | .fsqrt g _ _ => g.wf
  | .fexp2 g _ _ => g.wf
  | .flog2 g _ _ => g.wf
  | .fclass g _ _ => g.wf
  | .fcmpF32 g _ _ _ _ => g.wf
  | .hadd2F16 g _ _ _ => g.wf
  | .hmul2F16 g _ _ _ => g.wf
  | .hfma2F16 g _ _ _ => g.wf
  | .hmax2F16 g _ _ _ => g.wf
  | .hadd2Bf16 g _ _ _ => g.wf
  | .hmul2Bf16 g _ _ _ => g.wf
  | .hfma2Bf16 g _ _ _ => g.wf
  | .hmax2Bf16 g _ _ _ => g.wf
  | .cvtI2fS32 g _ _ => g.wf
  | .cvtI2fN32 g _ _ => g.wf
  | .cvtF2iS32 g _ _ => g.wf
  | .cvtF2iN32 g _ _ => g.wf
  | .cvtF2hF16 g _ _ => g.wf
  | .cvtF2hBf16 g _ _ => g.wf
  | .cvtH2fF16 g _ _ => g.wf
  | .cvtH2fBf16 g _ _ => g.wf
  | .cvtfNar g _ _ _ => g.wf
  | .cvtfWid g _ _ _ => g.wf
  | .pk4 g _ _ _ => g.wf
  | .upk4 g _ _ _ => g.wf
  | .fscale g _ _ _ => g.wf
  | .rgen g _ => g.wf
  | .pand g _ _ _ => g.wf
  | .por g _ _ _ => g.wf
  | .pxor g _ _ _ => g.wf
  | .pnot g _ _ => g.wf
  | .pmov g _ _ => g.wf
  | .br g _ _ => g.wf
  | .brRgp g _ _ => g.wf
  | .call g _ _ => g.wf
  | .fork g _ => g.wf
  | .brx g _ _ => g.wf
  | .brxRgp g _ _ => g.wf
  | .callx g _ _ => g.wf
  | .ret g _ => g.wf
  | .exit g => g.wf
  | .fend g => g.wf
  | .home g => g.wf
  | .nop g => g.wf
  | .trap g _ => g.wf
  | .brk g => g.wf
  | .voteAll g _ _ => g.wf
  | .voteAny g _ _ => g.wf
  | .voteBallot g _ _ => g.wf
  | .shflIdx g _ _ _ => g.wf
  | .shflUp g _ _ _ => g.wf
  | .shflDown g _ _ _ => g.wf
  | .shflXor g _ _ _ => g.wf
  | .gredAddS32 g _ _ => g.wf
  | .gredAddF32 g _ _ => g.wf
  | .gredMinS32 g _ _ => g.wf
  | .gredMaxS32 g _ _ => g.wf
  | .gredMinF32 g _ _ => g.wf
  | .gredMaxF32 g _ _ => g.wf
  | .gredAnd g _ _ => g.wf
  | .gredOr g _ _ => g.wf
  | .matchLanes g _ _ => g.wf
  | .rgrow g n => g.wf && growCount n
  | .rshrink g n => g.wf && growCount n
  | .rwin g _ => g.wf
  | .movx g _ _ => g.wf
  | .ld g _ _ _ _ => g.wf
  | .st g _ _ _ _ => g.wf
  | .ldNarrowWide g w _ _ d => g.wf && (w != .w64 || evenReg d)
  | .stNarrowWide g w _ _ d => g.wf && (w != .w64 || evenReg d)
  | .ldAcq g _ _ _ _ => g.wf
  | .stRel g _ _ _ _ => g.wf
  | .atomAddS32 g _ _ _ => g.wf
  | .atomAddF32 g _ _ _ => g.wf
  | .atomMinS32 g _ _ _ => g.wf
  | .atomMaxS32 g _ _ _ => g.wf
  | .atomMinN32 g _ _ _ => g.wf
  | .atomMaxN32 g _ _ _ => g.wf
  | .atomAnd g _ _ _ => g.wf
  | .atomOr g _ _ _ => g.wf
  | .atomXor g _ _ _ => g.wf
  | .atomExch g _ _ _ => g.wf
  | .atomCas g _ _ d => g.wf && evenReg d
  | .atomOrdAddS32 g _ a _ => g.wf && evenReg a
  | .atomOrdAddF32 g _ a _ => g.wf && evenReg a
  | .atomOrdMinS32 g _ a _ => g.wf && evenReg a
  | .atomOrdMaxS32 g _ a _ => g.wf && evenReg a
  | .atomOrdAnd g _ a _ => g.wf && evenReg a
  | .atomOrdOr g _ a _ => g.wf && evenReg a
  | .atomOrdExch g _ a _ => g.wf && evenReg a
  | .atomOrdCas g _ a d => g.wf && evenReg a && evenReg d
  | .redAddS32 g _ _ _ => g.wf
  | .redAddF32 g _ _ _ => g.wf
  | .redMinS32 g _ _ _ => g.wf
  | .redMaxS32 g _ _ _ => g.wf
  | .redMinN32 g _ _ _ => g.wf
  | .redMaxN32 g _ _ _ => g.wf
  | .redAnd g _ _ _ => g.wf
  | .redOr g _ _ _ => g.wf
  | .redXor g _ _ _ => g.wf
  | .pf g _ _ => g.wf
  | .fence g os => g.wf && os.ordered
  | .wait g _ _ a d => g.wf && evenReg a && evenReg d
  | .ltime g _ => g.wf
  | .lpub g a d => g.wf && evenReg a && evenReg d
  | .stf g b a _ => g.wf && evenReg b && evenReg a
  | .lld g _ _ _ => g.wf
  | .lst g _ _ _ => g.wf
  | .latomAddS32 g _ _ => g.wf
  | .latomAddF32 g _ _ => g.wf
  | .latomMinS32 g _ _ => g.wf
  | .latomMaxS32 g _ _ => g.wf
  | .latomAnd g _ _ => g.wf
  | .latomOr g _ _ => g.wf
  | .latomExch g _ _ => g.wf
  | .latomCas g _ d => g.wf && evenReg d
  | .bar g _ => g.wf
  | .boinit g b _ => g.wf && evenReg b
  | .boarr g _ _ => g.wf
  | .bowait g _ _ _ => g.wf
  | .botest g _ _ => g.wf
  | .halloc g _ _ => g.wf
  | .hfree g _ => g.wf
  | .hbind g _ _ _ => g.wf
  | .hstate g _ _ => g.wf
  | .hwptr g _ _ => g.wf
  | .hwait g _ _ _ => g.wf
  | .cpcancel g _ => g.wf
  | .cpin g _ _ _ => g.wf
  | .cpout g _ _ _ => g.wf
  | .cppush g a _ => g.wf && evenReg a
  | .cpred g a _ => g.wf && evenReg a
  | .cpfill g _ _ => g.wf
  | .qmmaHandle g _ _ _ _ _ _ => g.wf
  | .qmmaReg g _ _ _ _ _ _ => g.wf
  | .qpro g _ _ _ => g.wf
  | .qzero g _ => g.wf
  | .smx g _ _ => g.wf
  | .smxCvt g _ _ _ => g.wf
  | .qsr g _ _ => g.wf
  | .qsw g _ _ => g.wf
  | .rcopy g d => g.wf && evenReg d
  | .rfill g d => g.wf && evenReg d
  | .rand g d => g.wf && evenReg d
  | .ror g d => g.wf && evenReg d
  | .rxor g d => g.wf && evenReg d
  | .rnot g d => g.wf && evenReg d
  | .nbload g d => g.wf && evenReg d
  | .nbrun g d => g.wf && evenReg d
  | .nbstat g d => g.wf && evenReg d
  | .nbcancel g d => g.wf && evenReg d
  | .launch g d => g.wf && evenReg d
  | .wchild g _ => g.wf
  | .srd g _ _ => g.wf
  | .swr g sr _ => g.wf && sr.writable
  | .tret g => g.wf
  | .errq g _ => g.wf
  | .asgen g _ => g.wf
  | .sflush g _ => g.wf
  | .halt g => g.wf
  | .groupingStagePass _ => true
  | .gatheringPoolClose _ _ => true
  | .pendingWriteComplete _ _ _ => true
  | .grantRequestGranted _ _ => true
  | .registerDeadlockEvict _ => true
  | .starvationTimeout _ _ => true
  | .armedLaunchEnqueue _ _ => true
  | .copyCommandStart _ _ => true
  | .copyLineTransfer _ _ => true
  | .copyCommandComplete _ _ => true
  | .pushLineWrite _ => true
  | .pushAck _ => true
  | .pushRetry _ _ => true
  | .contributionArrival _ => true
  | .contributionRetry _ _ => true
  | .publishedAccess _ => true
  | .publishRequest _ => true
  | .windowWriteback _ _ => true
  | .pageWalk _ _ _ => true
  | .lineFill _ _ => true
  | .openAccessFault _ _ => true
  | .performLoad _ _ => true
  | .enqueueStore _ _ => true
  | .drain _ _ => true
  | .writeBack _ _ => true
  | .sectorDrop _ _ => true
  | .deliver _ => true
  | .generationSweep => true
  | .migrationPull _ _ => true
  | .errorQueueOverflowTrap _ => true
  | .pagingQueueWrite _ => true
  | .pagingReadIndexWrite _ => true
  | .resumeTicketWrite _ => true
  | .hostLaunchWrite _ _ => true
  | .launchLine _ => true
  | .launchLinePassOver _ _ => true
  | .launchTake _ => true
  | .teamAdmit _ _ => true
  | .gridWholeAdmit _ => true
  | .queueHeadStarve _ => true
  | .teamReadmit _ _ => true
  | .teamEndFree _ => true
  | .teamRetire _ => true
  | .launchRetire _ => true
  | .completionWriteFail _ => true
  | .preempt _ _ => true
  | .preemptStopTimeout _ => true
  | .saveRequestWrite _ _ => true
  | .teamSaveComplete _ => true
  | .trapHandlerEntry _ => true
  | .tryArrive _ => true
  | .tryTimeout _ => true
  | .persistentRequestIssue _ => true
  | .persistentRequest _ => true
  | .persistentRetry _ => true
  | .activation _ => true
  | .deactivation _ => true
  | .tokenMessage _ => true
  | .eviction _ _ => true
  | .poleAck _ => true
  | .peerProbe _ _ => true
  | .tokenRecall _ _ => true
  | .auditStart _ => true
  | .audit _ => true
  | .auditRepeat _ _ => true
  | .auditReport _ => true
  | .recreationAck _ => true
  | .auditHoldoffExpire _ => true
  | .unfreeze _ => true
  | .formConversion _ _ => true
  | .homeAtomic _ => true
  | .atomicReply _ => true
  | .leaseRead _ _ => true
  | .leaseWrite _ _ => true
  | .leaseWriteHeld _ _ => true
  | .meridianTick => true
  | .homeLeaseSweep _ => true
  | .cacheLeaseSweep _ => true
  | .waitReload _ _ => true
  | .partyQuery _ => true
  | .hostSnpInv _ => true
  | .hostSnpData _ => true
  | .hostSnpCur _ => true
  | .hostLineGrant _ _ _ => true
  | .backInvalidate _ _ _ => true
  | .biConflict _ => true
  | .hostUncachedRead _ => true
  | .hostUncachedWrite _ _ => true
  | .frameReplay _ _ => true
  | .linkDead _ _ => true
  | .rotorSlotStart _ => true
  | .orbitStart => true
  | .scheduleDigest _ _ => true
  | .digestDiscard _ => true
  | .relayForward _ => true
  | .messageAgeDrop _ => true
  | .portFailure _ => true
  | .remoteLoadTimeout _ _ => true
  | .remoteResponse _ => true
  | .postedWrite _ => true
  | .postedWriteAck _ => true
  | .postedWriteTimeout _ => true
  | .storeLinePost _ => true
  | .storeLineTimeout _ => true
  | .storeAckTimeout _ => true
  | .flaggedData _ => true
  | .flagUpdate _ => true
  | .rowOperation _ _ => true
  | .rowSlotAcquire _ => true
  | .nearBankStep _ _ => true
  | .arbitrationWindow _ _ => true
  | .reset _ => true
  | .hostLinkTrain _ => true
  | .goWrite _ => true
  | .featureAcceptWrite _ => true
  | .linkRetrainWrite _ _ => true
  | .linkRetrainDone _ _ _ => true
  | .umissClear _ _ => true
  | .staleCounterClear _ _ => true
  | .seedWrite _ _ => true
  | .mismatchCounterClear _ _ => true
  | .queueOvfClear _ _ => true
  | .registerWrite _ _ _ => true
  | .correctedError _ => true
  | .wearRefresh _ _ => true
  | .thermalStep _ _ => true
  | .thermalStop _ => true
  | .signRequest _ _ => true
  | .hostCachedMemRequest _ _ _ => true
  | .partyQueryAnswer _ => true
  | .partyQueryTimeout _ _ => true
  | .launchLineResend _ => true

end Sys2Proof
end

