-- ==== Sys2Proof/Machine/Ops.lean ====
section
/-! DEFINITION. The named operations over the state: bytes, memory, registers, bundles, issue with the checks of R39, and
taking an exception (R233). -/

namespace Sys2Proof.Machine

abbrev Result := Host.Outcome State Fault Refusal

/-! ## Bytes (R7: little-endian) -/

/-- The number whose low byte comes first. -/
def bytesNat : List Byte → Nat
  | [] => 0
  | b :: bs => b.toNat + 256 * bytesNat bs

/-- The bytes at addresses `a` to `a + n - 1`. -/
def Mem.read (m : Mem) (a n : Nat) : List Byte :=
  let part := m.filter fun x => a ≤ x.1 && x.1 < a + n
  (List.range n).map fun i => Mem.get part (a + i)

/-- The cells of bytes from an address on: those that are not 0. -/
def cells : Nat → List Byte → Mem
  | _, [] => []
  | a, b :: bs => if b = 0 then cells (a + 1) bs else (a, b) :: cells (a + 1) bs

/-- The memory with bytes written from an address on, in canonical form again. -/
def Mem.write (m : Mem) (a : Nat) (bs : List Byte) : Mem :=
  (m.filter fun x => x.1 < a) ++ cells a bs ++ m.filter fun x => a + bs.length ≤ x.1

def Mem.word (m : Mem) (a : Nat) : Word := BitVec.ofNat 32 (bytesNat (m.read a 4))

def wordBytes (w : Word) : List Byte := natBytes 4 w.toNat

/-- Bits `hi` to `lo` of a natural number. -/
def bitsOf (x hi lo : Nat) : Nat := x / 2 ^ lo % 2 ^ (hi - lo + 1)

/-- Replace the bytes of `d` at byte offset `off` by `bs`; `d` has `n` bytes. -/
def patch (n : Nat) (d : Nat) (off : Nat) (bs : List Byte) : Nat :=
  let l := natBytes n d
  bytesNat (l.take off ++ bs ++ l.drop (off + bs.length))

/-! ## DRAM cells (R193, R195) -/

/-- The interleaved address of the cell at a physical address of the DRAM region. -/
def cellAddr (pa : Nat) : Nat :=
  if bitsOf pa 39 39 = 0 then pa
  else
    bitsOf pa 38 36 * 2 ^ 36 + bitsOf pa 19 11 * 2 ^ 27 + bitsOf pa 25 20 * 2 ^ 21 + bitsOf pa 10 8 * 2 ^ 18
      + bitsOf pa 30 26 * 2 ^ 13 + bitsOf pa 35 31 * 2 ^ 8 + bitsOf pa 7 0

/-- Stack and channel of a DRAM address (R193). -/
def stackOf (pa : Nat) : Nat := bitsOf pa 38 36
def channelOf (pa : Nat) : Nat := if bitsOf pa 39 39 = 0 then bitsOf pa 12 8 else bitsOf pa 35 31

/-- The row number within its subarray (R193). -/
def rowOf (pa : Nat) : Nat := if bitsOf pa 39 39 = 0 then bitsOf pa 35 27 else bitsOf pa 19 11

/-- Stack, channel, bank and subarray of a row-linear address (R193, R324). -/
def subarrayOf (pa : Nat) : Nat := pa / 2 ^ 20

/-- The regions of physical addresses (R192). -/
def isDram (pa : Nat) : Bool := bitsOf pa 51 40 == 0
def isRegs (pa : Nat) : Bool := bitsOf pa 51 40 == 1
def isHost (pa : Nat) : Bool := bitsOf pa 51 51 == 1

/-- A stack is live when its die is (R2, R3). -/
def State.stackLive (s : State) (st : Nat) : Bool := st / 2 < Part.dies s.health.part

/-- An address reaches a DRAM cell of this device: on a live stack, and not in a reserved row, which only row engines reach (R2, R194). -/
def State.dramReached (s : State) (pa : Nat) : Bool := isDram pa && s.stackLive (stackOf pa) && 8 ≤ rowOf pa

/-- Nothing lies behind a physical address of this device: a reserved region, a stack that is not live, or a reserved row (R192 to R194, R306). -/
def State.unbacked (s : State) (pa : Nat) : Bool :=
  !(isDram pa || isRegs pa || isHost pa) || (isDram pa && !s.dramReached pa)

/-- Bytes of DRAM within a column of 256 bytes: their cells follow each other in both forms. -/
def dramBytes (m : Mem) (pa n : Nat) : List Byte := m.read (cellAddr pa) n

def dramPut (m : Mem) (pa : Nat) (bs : List Byte) : Mem := m.write (cellAddr pa) bs

/-- The 128 bytes of DRAM of the block at an address. -/
def State.dramBlock (s : State) (pa : Nat) : BlockData := BitVec.ofNat 1024 (bytesNat (dramBytes s.dram pa 128))

/-! ## Lookup and update -/

def State.team? (s : State) (id : Nat) : Option Team := s.teams.find? fun t => t.id == id

def State.modTeam (s : State) (id : Nat) (f : Team → Team) : State :=
  { s with teams := s.teams.map fun t => if t.id == id then f t else t }

def State.core (s : State) (c : Nat) : Core := s.cores.getD c (Core.reset 0)

def State.modCore (s : State) (c : Nat) (f : Core → Core) : State := { s with cores := s.cores.modify c f }

def State.die (s : State) (d : Nat) : Die := s.dies.getD d (Die.reset 0 0)

def State.modDie (s : State) (d : Nat) (f : Die → Die) : State := { s with dies := s.dies.modify d f }

def State.launch? (s : State) (id : Nat) : Option Launch := s.launches.find? fun l => l.id == id

def State.modLaunch (s : State) (id : Nat) (f : Launch → Launch) : State :=
  { s with launches := s.launches.map fun l => if l.id == id then f l else l }

def Team.fibre (t : Team) (i : Nat) : Fibre := t.fibres.getD i (.empty .ended)

def Team.modFibre (t : Team) (i : Nat) (f : Fibre → Fibre) : Team := { t with fibres := t.fibres.modify i f }

/-- The same change of several fibres. -/
def Team.modFibres (t : Team) (is : List Nat) (f : Nat → Fibre → Fibre) : Team :=
  { t with fibres := t.fibres.zipIdx.map fun p => if is.contains p.2 then f p.2 p.1 else p.1 }

/-- This device's number (R301). -/
def State.dev (s : State) : Nat := s.fab.dev.toNat

/-- Code outside the trap handler is not privileged (R39, R201). -/
def Team.privileged (t : Team) : Bool := t.handlerFor.isSome

/-! ## Association lists -/

def assoc {β : Type} (l : List (Nat × β)) (k : Nat) : Option β := (l.find? fun p => p.1 == k).map (·.2)

/-- Set or replace the value of a key; a key that is new goes to the end. -/
def assocSet {β : Type} (l : List (Nat × β)) (k : Nat) (v : β) : List (Nat × β) :=
  if l.any (fun p => p.1 == k) then l.map fun p => if p.1 == k then (k, v) else p else l ++ [(k, v)]

def assocDel {β : Type} (l : List (Nat × β)) (k : Nat) : List (Nat × β) := l.filter fun p => p.1 != k

/-! ## Registers and predicates of a fibre (R79, R81, R94) -/

def Fibre.reg (f : Fibre) (n : Nat) : Word := f.regs.getD n 0

/-- The write counts of a fibre's registers after one more write of a register (R167). -/
def countWrite (counts : List (Nat × Nat)) (r : Nat) : List (Nat × Nat) := assocSet counts r ((assoc counts r).getD 0 + 1)

def Fibre.setReg (f : Fibre) (n : Nat) (w : Word) : Fibre := { f with regs := f.regs.set n w }

/-- Consecutive registers from `n` up. -/
def Fibre.setRegs : Fibre → Nat → List Word → Fibre
  | f, _, [] => f
  | f, n, w :: ws => (f.setReg n w).setRegs (n + 1) ws

def Fibre.regsFrom (f : Fibre) (n k : Nat) : List Word := (List.range k).map fun i => f.reg (n + i)

/-- p7 reads 1 (R94). -/
def Fibre.pred (f : Fibre) (p : Pred) : Bool := p == 7 || f.preds.getLsbD p.toNat

/-- A write to p7 is discarded (R94). -/
def Fibre.setPred (f : Fibre) (p : Pred) (b : Bool) : Fibre :=
  if p = 7 then f
  else
    let bit : BitVec 8 := 1#8 <<< p.toNat
    { f with preds := if b then f.preds ||| bit else f.preds &&& ~~~bit }

/-- A register pair as 64 bits, the even register low (R30). -/
def Fibre.pair (f : Fibre) (n : Nat) : BitVec 64 := f.reg (n + 1) ++ f.reg n

/-- The guard in a fibre (R28). -/
def guardHolds (g : Guard) (f : Fibre) : Bool :=
  match g with
  | .pos p => f.pred p
  | .neg p => !f.pred p

/-- Home lane and home group of a fibre number (R49). -/
def laneOf (i : Nat) : Nat := i % 32
def groupOf (i : Nat) : Nat := i / 32

/-- The lanes of fibres as a mask. -/
def laneMask (is : List Nat) : Word := is.foldl (fun m i => m ||| (1#32 <<< laneOf i)) 0

/-! ## Bundles (R51, R53, R55) -/

def Fibre.running (f : Fibre) : Bool := f.cond == .live && f.wait.isNone

/-- The fibres of a team run: it is resident, or on its way to listed points (R230). -/
def Team.runs (t : Team) : Bool :=
  match t.cond with
  | .resident => true
  | .saving _ true _ => true
  | _ => false

/-- The live fibres of a team. -/
def Team.live (t : Team) : List Nat := (List.range t.fibres.length).filter fun i => (t.fibre i).cond == .live

/-- Insert by home lane; a bundle lists its fibres by ascending lane. -/
def insertLane (i : Nat) : List Nat → List Nat
  | [] => [i]
  | j :: js => if laneOf i < laneOf j then i :: j :: js else j :: insertLane i js

def sortLanes (is : List Nat) : List Nat := is.foldl (fun l i => insertLane i l) []

/-- Distinct values of a list, each at its first place. -/
def distinct {α : Type} [BEq α] : List α → List α
  | [] => []
  | x :: xs => x :: (distinct xs).filter (fun y => !(y == x))

/-- One group of fibres for each distinct program counter (R53). -/
def Team.byPc (t : Team) (is : List Nat) : List (List Nat) :=
  (distinct (is.map fun i => (t.fibre i).pc)).map fun p => is.filter fun i => (t.fibre i).pc == p

/-- Take fibres out of their bundles; an empty bundle disappears. -/
def Team.unbundle (t : Team) (is : List Nat) : Team :=
  let keep (b : Bundle) : Bundle := { b with fibs := b.fibs.filter fun i => !is.contains i }
  { t with bundles := (t.bundles.map keep).filter fun b => !b.fibs.isEmpty }

/-- Make one bundle of fibres, if there are any. DESIGN CHOICE: a bundle that a start, a release, a pool, a `fork` or a resumption forms counts
as having issued last in the cycle of its forming (R54; log entry 103). -/
def Team.bundle (t : Team) (is : List Nat) (stamp : Nat) : Team :=
  if is.isEmpty then t else { t with bundles := t.bundles ++ [⟨sortLanes is, stamp, false, false⟩] }

/-- Bundle the fibres anew, one bundle for each program counter (R53). -/
def Team.rebundle (t : Team) (is : List Nat) (stamp : Nat) : Team :=
  (t.byPc is).foldl (fun t g => t.bundle g stamp) (t.unbundle is)

/-- The members of a home group (R50). -/
def Team.members (t : Team) (g : Nat) : List Nat := t.live.filter fun i => groupOf i == g

/-- The bundles at resumption: one for each home group and program counter among the fibres that are not blocked (R55). DESIGN CHOICE: blocked
fibres are grouped in the same way, and those of one group that one event releases go on as one bundle (log entry 66). -/
def Team.resumeBundles (t : Team) (stamp : Nat) : Team :=
  let t := { t with bundles := [], parked := [], pools := [] }
  (distinct (t.live.map groupOf)).foldl
    (fun t g =>
      let t := t.rebundle ((t.members g).filter fun i => (t.fibre i).wait.isNone) stamp
      { t with parked := t.parked ++ t.byPc ((t.members g).filter fun i => (t.fibre i).wait.isSome) }) t

/-- A whole bundle: every member of one home group and no other fibre (R67). -/
def Team.whole (t : Team) (is : List Nat) : Bool :=
  match is with
  | [] => false
  | i :: _ => is.all (fun j => groupOf j == groupOf i) && (t.members (groupOf i)).all is.contains

/-! ## Exceptions (R39, R232 to R234) -/

/-- A cause with its fault address and the other fields of `sr.cause` (inner cause, trap code). `present` marks cause 0x10,
whose mask is that of the lanes present (R69). `page` is the kind of a paging entry (R345). -/
structure Cause where
  code : Nat
  addr : Nat := 0
  inner : Nat := 0
  trap : Nat := 0
  present : Bool := false
  page : BitVec 2 := 0
  /-- The handle whose recorded fault the cause reports: raising it clears the fault bit (R151). -/
  handle : Option Nat := none
  deriving DecidableEq, Repr

/-- The word of `sr.cause` (R237). -/
def Cause.word (c : Cause) : Word := BitVec.ofNat 32 (c.code + c.inner * 2 ^ 8 + c.trap * 2 ^ 16)

/-- The fibre in each of the 32 lanes of a bundle (R232). -/
def laneFibres (is : List Nat) : List (Option Nat) := (List.range 32).map fun l => is.find? fun i => laneOf i == l

/-- The team begins its save with a fault record (R233); every fibre stands at its own program counter. -/
def Team.faulted (t : Team) (c : Cause) (mask : Word) (epc : Word) (bundle : List Nat) : Team :=
  let handles := match c.handle with
    | some h => t.handles.modify h fun x => { x with fault := false }
    | none => t.handles
  { t with
    cond := .saving (if c.code = 0x30 then .page c.page else .trap) false 0, handles := handles
    faultRec := some { cause := c.word, fmask := mask, addr := BitVec.ofNat 64 c.addr, epc := epc, lanes := laneFibres bundle } }

/-- The team runs on to be pre-empted (R230). -/
def Team.preempted (t : Team) : Bool :=
  match t.cond with
  | .saving .preempt _ _ => true
  | _ => false

/-- A team traps on its core: it waits for the handler behind those that trapped before it (R234). Where it was to be pre-empted, its save frees
nothing for the launch that waits (R229, R233). -/
def Core.trap (k : Core) (t : Team) : Core :=
  { k with
    trapQueue := if k.trapQueue.contains t.id then k.trapQueue else k.trapQueue ++ [t.id]
    promised := if t.preempted then none else k.promised }

/-- A cause of a team brings it to the handler: any but 0x30, unless it is itself a handler (R233, R234). -/
def Team.goesToHandler (t : Team) (code : Nat) : Bool := code != 0x30 && t.handlerFor.isNone

/-- Take a precise exception: the team is saved with the fault record, and the handler is entered, or the paging queue written
for cause 0x30, once the save is complete (R190, R233). A cause raised by a running handler is a double fault: its save ends
the trapping launch (R234). -/
def State.raise (s : State) (t : Team) (c : Cause) (fibs : List Nat) (bundle : List Nat) (epc : Word) : State :=
  let s := if t.goesToHandler c.code then s.modCore t.core fun k => k.trap t else s
  s.modTeam t.id fun t => t.faulted c (if c.present then laneMask bundle else laneMask fibs) epc bundle

/-- One check of R39 on one guard-true fibre. -/
abbrev Check := Nat → Fibre → Option Cause

/-- The first check that fails in a fibre, with its place in the order. -/
def firstFail (i : Nat) (f : Fibre) : List Check → Nat → Option (Nat × Cause)
  | [], _ => none
  | c :: cs, k =>
    match c i f with
    | some e => some (k, e)
    | none => firstFail i f cs (k + 1)

/-- The failures of the guard-true fibres, by ascending lane. -/
def failures (t : Team) (act : List Nat) (cs : List Check) : List (Nat × Nat × Cause) :=
  act.filterMap fun i => (firstFail i (t.fibre i) cs 0).map fun p => (p.1, i, p.2)

/-- The failure of the earliest check, in the lowest lane (R39). -/
def earliest : List (Nat × Nat × Cause) → Option (Nat × Nat × Cause)
  | [] => none
  | x :: xs =>
    match earliest xs with
    | none => some x
    | some y => if y.1 < x.1 then some y else some x

/-- The recorded cause of a bundle, and the fibres that raised it (R39). -/
def recorded (t : Team) (act : List Nat) (cs : List Check) : Option (Cause × List Nat) :=
  let fs := failures t act cs
  (earliest fs).map fun p => (p.2.2, (fs.filter fun q => q.2.2.code == p.2.2.code).map (·.2.1))

/-- Check 6: a register at or beyond the window (R81). -/
def checkWindow (uses : Fibre → List Nat) : Check := fun _ f =>
  if (uses f).any (fun n => f.regs.length ≤ n) then some { code := 0x12 } else none

/-- Check 5: a privileged instruction outside the handler. -/
def checkPriv (t : Team) : Check := fun _ _ => if t.privileged then none else some { code := 0x03 }

/-- Check 4 on operands that the decoder lets through (R39). -/
def checkLegal (ok : Bool) : Check := fun _ _ => if ok then none else some { code := 0x01 }

/-- A check that gives the same cause to every guard-true fibre. -/
def checkAll (c : Option Cause) : Check := fun _ _ => c

/-! ## Open accesses (R189, R353) -/

/-- The cause of failed lanes: the first in the order of R189. -/
def firstCode (codes : List Nat) : Nat := ([0x40, 0x41, 0x70].find? fun k => codes.contains k).getD 0x70

/-- The cause that a request has met. -/
def Req.failed (r : Req) : Option Nat := if r.bad.isEmpty then none else some (firstCode (r.bad.map (·.2)))

/-- Lanes that are neither done nor have met a cause. -/
def Req.openLanes (r : Req) : List LaneReq := r.lanes.filter fun l => !r.bad.any fun b => b.1 == l

/-- All open lanes meet a cause. -/
def Req.failAll (code : Nat) (r : Req) : Req := { r with bad := r.bad ++ r.openLanes.map fun l => (l, code) }

/-! ## Issue -/

/-- A request is an open access until it is settled (R353). -/
def Req.isOpen (r : Req) : Bool :=
  match r.kind with
  | .load _ => true
  | .atom _ => true
  | .fetch => !r.lanes.isEmpty
  | _ => false

/-- A request of one of these fibres of a team. -/
def Req.ofFibres (r : Req) (team : Nat) (is : List Nat) : Bool :=
  r.team == team && (r.lanes.any fun l => is.contains l.fib)

/-- The fibres have an open access (R353). -/
def State.hasOpen (s : State) (t : Team) (is : List Nat) : Bool :=
  (s.core t.core).reqs.any fun r => r.isOpen && r.ofFibres t.id is

def isAcquire : OrdScope → Bool
  | .acq _ => true
  | .ar _ => true
  | _ => false

/-- An acquire load or atomic of the fibres is not yet performed: later accesses wait (R247). -/
def State.hasAcquire (s : State) (t : Team) (is : List Nat) : Bool :=
  (s.core t.core).reqs.any fun r => r.isOpen && isAcquire r.ord && r.ofFibres t.id is

/-- A register the instruction names is pending in some fibre of the bundle (R89). -/
def pendingUse (t : Team) (is : List Nat) (uses : Fibre → List Nat) : Bool :=
  is.any fun i => (t.fibre i).pend.any fun p => (uses (t.fibre i)).contains p.reg

/-- A register that a load would write is read-pending: an open access of the fibres was addressed through it (R353). -/
def State.readPending (s : State) (t : Team) (is : List Nat) (writes : List Nat) : Bool :=
  (s.core t.core).reqs.any fun r =>
    r.isOpen && r.team == t.id && r.lanes.any fun l => is.contains l.fib && l.reads.any writes.contains

/-- The bundle waits at issue: a stall (R154), which the next event ends. -/
def State.stall (s : State) : State :=
  s.modTeam s.cur.team fun t =>
    { t with bundles := t.bundles.map fun b => if b.fibs == s.cur.fibs then { b with stalled := true } else b }

/-- The bundle waits with its instruction begun: it is in flight (R52). -/
def State.stallBegun (s : State) : State :=
  s.modTeam s.cur.team fun t =>
    { t with bundles := t.bundles.map fun b => if b.fibs == s.cur.fibs then { b with stalled := true, begun := true } else b }

/-- The team whose bundle issues. -/
def State.curTeam (s : State) : Option Team := s.team? s.cur.team

/-- The guard-true fibres of the issuing bundle. -/
def State.active (s : State) (t : Team) (g : Guard) : List Nat := s.cur.fibs.filter fun i => guardHolds g (t.fibre i)

/-- The program counter of the issuing bundle. -/
def State.curPc (s : State) (t : Team) : Word := (t.fibre (s.cur.fibs.headD 0)).pc

/-- A form of instruction: the registers it names in a fibre, those that it writes as a load of R353, whether it is such a load,
and the checks before check 6. -/
structure Form where
  guard : Guard
  uses : Fibre → List Nat := fun _ => []
  writes : List Nat := []
  isLoad : Bool := false
  early : List Check := []

/-- Issue an instruction of the current bundle: the interlocks (R89, R353), the guard (R16), the checks of R39 in order with one
recorded cause, and the effect on the guard-true fibres. -/
def issue (fm : Form) (own : State → Team → List Nat → List Check) (eff : State → Team → List Nat → State) (s : State) :
    Result :=
  match s.curTeam with
  | none => .next s
  | some t =>
    if pendingUse t s.cur.fibs fm.uses then .next s.stall
    else if (if fm.isLoad then s.hasAcquire t s.cur.fibs || s.readPending t s.cur.fibs fm.writes
        else s.hasOpen t s.cur.fibs) then .next s.stall
    else if fm.guard = .neg 7 then .next (s.raise t { code := 0x02 } s.cur.fibs s.cur.fibs (s.curPc t))
    else
      let act := s.active t fm.guard
      match recorded t act (fm.early ++ [checkWindow fm.uses] ++ own s t act) with
      | some (c, is) => .next (s.raise t c is s.cur.fibs (s.curPc t))
      | none => .next (eff s t act)

/-- An issue port of the bundle's core is taken for this cycle (R54). -/
def State.issued (s : State) : State := { s with issues := s.cur.core :: s.issues }

/-- Move the issuing bundle past an instruction of `len` bytes. -/
def State.advance (s : State) (len : Nat) : State :=
  (s.modTeam s.cur.team fun t =>
    let t := t.modFibres s.cur.fibs fun _ f => { f with pc := f.pc + BitVec.ofNat 32 len }
    { t with bundles := t.bundles.map fun b =>
        if b.fibs == s.cur.fibs then { b with last := s.stamp, stalled := false, begun := false } else b }).issued

/-- Change the fibres `act` of the issuing team and move on: the effect of an instruction that only writes registers. -/
def State.writeFibres (s : State) (act : List Nat) (len : Nat) (f : Nat → Fibre → Fibre) : State :=
  (s.modTeam s.cur.team fun t => t.modFibres act f).advance len

/-- The fibres move to their own next program counters, and the bundle splits (R53). -/
def State.split (s : State) (next : Nat → Fibre → Word) : State :=
  (s.modTeam s.cur.team fun t =>
    (t.modFibres s.cur.fibs fun i f => { f with pc := next i f }).rebundle s.cur.fibs s.stamp).issued

/-- Block some fibres of the issuing bundle, with their waits; the others go on as one bundle past 4 bytes (R53). Each blocked
fibre starts its timer (R228). DESIGN CHOICE: a fibre that executes its `rgrow` or `fork` again after a save starts from 0 too (log entry 67). -/
def State.blockSome (s : State) (wait : Nat → Fibre → Option Wait) (go : Nat → Fibre → Fibre) : State :=
  (s.modTeam s.cur.team fun t =>
    let blocked := s.cur.fibs.filter fun i => (wait i (t.fibre i)).isSome
    let others := s.cur.fibs.filter fun i => (wait i (t.fibre i)).isNone
    let t := t.modFibres s.cur.fibs fun i f =>
      match wait i f with
      | some w => { f with wait := some w, timer := 0 }
      | none => { go i f with pc := f.pc + 4 }
    let t := (t.unbundle blocked).rebundle others s.stamp
    if blocked.isEmpty then t else { t with parked := t.parked ++ [blocked] }).issued

/-- Blocked fibres leave the instruction that blocked them. -/
def Team.unpark (t : Team) (is : List Nat) : Team :=
  let t := { t with parked := (t.parked.map fun (g : List Nat) => g.filter fun i => !is.contains i).filter fun g => !g.isEmpty }
  t.modFibres is fun _ f => { f with wait := none, timer := 0, pc := f.pc + 4 }

/-- The bundles in which blocked fibres go on: one for those that one instruction has blocked (R53). -/
def Team.leaving (t : Team) (is : List Nat) : List (List Nat) :=
  let alone := is.filter fun i => !t.parked.any fun g => g.contains i
  (t.parked.map fun (g : List Nat) => g.filter is.contains) ++ alone.map fun i => [i]

/-- The team is resident on its core, or its save there has not ended (R93, R229). DESIGN CHOICE: a team whose fibres have all ended and that still
holds local memory or a window (R222) is not counted here (log entry 104). -/
def Team.onCore (t : Team) : Bool :=
  match t.cond with
  | .resident => true
  | .saving .. => true
  | .written .. => true
  | _ => false

/-- A release of a blocked fibre, or an arrival at an object or a handle, is progress of the team's core while the team is resident there (R93). -/
def State.progress (s : State) (team : Nat) : State :=
  match s.team? team with
  | some t => if t.onCore then s.modCore t.core fun k => { k with deadlock := 0 } else s
  | none => s

/-- Release blocked fibres, past the blocking instruction (R53). -/
def State.release (s : State) (team : Nat) (is : List Nat) : State :=
  (s.progress team).modTeam team fun t => (t.leaving is).foldl (fun t g => t.bundle g s.stamp) (t.unpark is)

/-- Release blocked fibres as one bundle (R70). -/
def State.releaseWhole (s : State) (team : Nat) (is : List Nat) : State :=
  (s.progress team).modTeam team fun t => (t.unpark is).bundle is s.stamp

/-- Draw a free value: the counter advances. -/
def State.drawn (s : State) : State := { s with draws := s.draws + 1 }

/-- A fresh number for a request, a command or a message. -/
def State.fresh (s : State) : State := { s with nextId := s.nextId + 1 }

/-! ## Time (R9, R351) -/

/-- Cycles of one 16 ns tick at a clock step, in tenths. -/
def Clock.perTick : Clock → Nat
  | .full => 200
  | .step1 => 160
  | .step2 => 128
  | .step3 => 100

/-- Hundredths of a cycle at a clock step in 0.8 ns, a cycle of the full step. -/
def Clock.rate : Clock → Nat
  | .full => 100
  | .step1 => 80
  | .step2 => 64
  | .step3 => 50

/-- The phase of a die's clock after `n` cycles of 0.8 ns; a pass of the grouping stage is due every 400 hundredths (R52). -/
def Die.later (n : Nat) (d : Die) : Die := { d with phase := (d.phase + n * Clock.rate d.clock) % 400 }

/-- Ticks of a number of microseconds. -/
def usTicks (us : Nat) : Nat := (us * 1000 + 15) / 16

/-! ## Ready bundles (R54) -/

/-- A bundle that may issue: its team and the bundle. -/
structure Ready where
  team : Nat
  core : Nat
  bundle : Bundle
  deriving DecidableEq, Repr

/-- A fibre stands at a listed pre-emption point (R44). -/
def Team.atPoint (t : Team) (i : Nat) : Bool := t.kernel.points.any fun p => p.1 == (t.fibre i).pc.toNat

/-- A bundle of the team issues: the team is resident, or on its way to listed points and the bundle is not at one (R230). -/
def Team.issues (t : Team) (b : Bundle) : Bool :=
  match t.cond with
  | .resident => true
  | .saving _ true _ => !b.fibs.any t.atPoint
  | _ => false

/-- A cycle of the die's arithmetic clock begins in the present cycle of 0.8 ns (R9, R351). -/
def Die.cycles (d : Die) : Bool := d.phase % 100 < Clock.rate d.clock

/-- A fibre after hundredths of a cycle: the marks whose time has come clear (R89). -/
def Fibre.cool (n : Nat) (f : Fibre) : Fibre :=
  if f.late.isEmpty then f
  else { f with late := (f.late.filter fun x => n < x.left).map fun x => { x with left := x.left - n } }

/-- Some mark of the scoreboard stands in the team. -/
def Team.marked (t : Team) : Bool := t.fibres.any fun f => !f.late.isEmpty

/-- Hundredths of a cycle later, the quarters that have read their images hold no entry any more (R152). -/
def coolReads (n : Nat) (l : List ImageRead) : List ImageRead := (l.filter fun x => n < x.left).map fun x => { x with left := x.left - n }

/-- A team after hundredths of a cycle: where marks stand, or its core's quarters are reading images, its stalled bundles try again. -/
def Team.cool (n : Nat) (busy : Bool) (t : Team) : Team :=
  if t.marked || busy then
    { t with fibres := t.fibres.map (Fibre.cool n), bundles := t.bundles.map fun b => { b with stalled := false } }
  else t

/-- Bundles of a team that no interlock holds, on a die that runs. -/
def State.awake (s : State) (t : Team) : List Bundle :=
  if (s.die (s.core t.core).die).stopped then [] else t.bundles.filter fun b => t.issues b && !b.stalled && !b.fibs.isEmpty

/-- An issue port of a core is free in the present cycle: four instructions issue in a cycle of its die (R54). -/
def State.portFree (s : State) (c : Nat) : Bool := (s.die (s.core c).die).cycles && s.issues.count c < 4

/-- Bundles of a team that may issue now: a port is free, and the bundle has not issued in this cycle. -/
def State.readyOf (s : State) (t : Team) : List Ready :=
  if s.portFree t.core then ((s.awake t).filter fun b => b.last != s.stamp).map fun b => ⟨t.id, t.core, b⟩ else []

def State.ready (s : State) : List Ready := s.teams.flatMap s.readyOf

/-- Some bundle may issue in a later cycle. -/
def State.moreToIssue (s : State) : Bool := s.teams.any fun t => !(s.awake t).isEmpty || t.marked || !(s.core t.core).reads.isEmpty

/-- Every team after `n` cycles of 0.8 ns of the dies' clocks. -/
def State.coolTeams (s : State) (n : Nat) : List Team :=
  s.teams.map fun (t : Team) => t.cool (n * Clock.rate (s.die (s.core t.core).die).clock) !(s.core t.core).reads.isEmpty

/-- Every core after `n` cycles of 0.8 ns of its die's clock. -/
def State.coolCore (s : State) (n : Nat) (k : Core) : Core := { k with reads := coolReads (n * Clock.rate (s.die k.die).clock) k.reads }

/-! ## Modular time (R288) -/

/-- a ≤ b of R288. -/
def timeLe (a b : BitVec 24) : Bool := (b - a).toNat < 2 ^ 23

def timeMax (a b : BitVec 24) : BitVec 24 := if timeLe a b then b else a

end Sys2Proof.Machine
end

