-- ==== Sys2Proof/Machine/Blocks.lean ====
section
/-! DEFINITION. Blocks and their values: where the current data of a block lies (R131, R132, R245, R267), the sector views of
private pages (R243, R249, R250, R255), and the device's own accesses to the tables it keeps in memory. -/

namespace Sys2Proof.Machine

/-! ## Block numbers: the home device and the physical address (R193, R265) -/

/-- The block of a physical address on a home device. -/
def blkOf (home pa : Nat) : Nat := home * 2 ^ 45 + pa / 128

def blkHome (blk : Nat) : Nat := blk / 2 ^ 45
def blkPa (blk : Nat) : Nat := blk % 2 ^ 45 * 128

/-! ## Metadata (R272) -/

def State.metaOf (s : State) (blk : Nat) : Meta := (assoc s.coh.metas blk).getD .reset

def State.setMeta (s : State) (blk : Nat) (m : Meta) : State :=
  { s with coh := { s.coh with metas := if m = .reset then assocDel s.coh.metas blk else assocSet s.coh.metas blk m } }

def Meta.poison : Meta → Bool
  | .token _ _ p _ _ => p
  | .lease p _ _ _ => p

def Meta.serial : Meta → BitVec 8
  | .token _ _ _ s _ => s
  | .lease _ s _ _ => s

def Meta.setPoison (p : Bool) : Meta → Meta
  | .token r pl _ s c => .token r pl p s c
  | .lease _ s w r => .lease p s w r

/-- The queue whose window a frame is (R314). -/
def State.windowOf (s : State) (pa : Nat) : Option Nat :=
  (List.range 16).find? fun q => let w := s.sys.windows.getD q (0, false); w.2 && w.1 == pa / 8192 * 8192

/-- The block is poisoned: at its home on this device (R285), or by what its home says with the data (R306). A queue's window holds no data that
could be (R314). -/
def State.poisoned (s : State) (blk : Nat) : Bool :=
  if blkHome blk = s.dev then (s.metaOf blk).poison && !(isDram (blkPa blk) && (s.windowOf (blkPa blk)).isSome) else s.coh.bad.contains blk

/-- Mark a block poisoned or not. -/
def State.setPoison (s : State) (blk : Nat) (p : Bool) : State :=
  if blkHome blk = s.dev then s.setMeta blk ((s.metaOf blk).setPoison p)
  else
    let rest := s.coh.bad.filter fun b => b != blk
    { s with coh := { s.coh with bad := if p then rest ++ [blk] else rest } }

/-! ## Published windows (R131, R132) -/

/-- Fields of a publication-table entry (R131). -/
def PubEntry.size (e : PubEntry) : Nat := (e.bits.extractLsb' 94 7).toNat * 8192
def PubEntry.lbase (e : PubEntry) : Nat := (e.bits.extractLsb' 83 11).toNat * 256
def PubEntry.arrEn (e : PubEntry) : Bool := e.bits.getLsbD 126
def PubEntry.arr (e : PubEntry) : Nat := (e.bits.extractLsb' 101 15).toNat * 16
def PubEntry.asid (e : PubEntry) : BitVec 10 := e.bits.extractLsb' 116 10
def PubEntry.gva (e : PubEntry) : Nat := (e.bits.extractLsb' 0 44).toNat * 8192

/-- Byte offset of a block among pages of 64 blocks each, of which `k` came before. -/
def pageOffset (blk : Nat) : List Nat → Nat → Option Nat
  | [], _ => none
  | p :: ps, k => if p ≤ blk ∧ blk < p + 64 then some (k * 8192 + (blk - p) * 128) else pageOffset blk ps (k + 1)

/-- Index in the window of a block, when one of its pages holds it. -/
def PubEntry.offsetOf (e : PubEntry) (blk : Nat) : Option Nat := pageOffset blk e.pages 0

/-- The core byte base of a team's local range. -/
def State.localBase (s : State) (team : Nat) : Nat := ((s.team? team).bind (·.lbase)).getD 0

/-- The published window among cores from number `c` on that holds a block: core, table slot, entry, and the offset in the window. -/
def findWindow (blk : Nat) : List Core → Nat → Option (Nat × Nat × PubEntry × Nat)
  | [], _ => none
  | k :: ks, c =>
    match k.pubs.findSome? fun p => (p.2.offsetOf blk).map fun o => (c, p.1, p.2, o) with
    | some x => some x
    | none => findWindow blk ks (c + 1)

/-- Where a block of a published window lies: core, table slot, core byte address, and the offset in the window. -/
def State.published (s : State) (blk : Nat) : Option (Nat × Nat × Nat × Nat) :=
  (findWindow blk s.cores 0).map fun x => (x.1, x.2.1, s.localBase x.2.2.1.team + x.2.2.1.lbase + x.2.2.2, x.2.2.2)

/-- The unpublished window's block among cores from number `c` on: core and core byte address. -/
def findLeft (blk : Nat) : List Core → Nat → Option (Nat × Nat)
  | [], _ => none
  | k :: ks, c =>
    match k.unpub.find? fun u => u.blk == blk with
    | some u => some (c, u.la)
    | none => findLeft blk ks (c + 1)

/-- A block of an unpublished window that is not yet written back: core and core byte address (R133). -/
def State.leftover (s : State) (blk : Nat) : Option (Nat × Nat) := findLeft blk s.cores 0

/-- Core and core byte address of the local bytes that stand for a block (R132, R133). -/
def State.localCopy (s : State) (blk : Nat) : Option (Nat × Nat) :=
  match s.published blk with
  | some (c, _, la, _) => some (c, la)
  | none => s.leftover blk

/-- A window that holds a block is closed while its saved team's bytes move, to be opened again: it refuses outside writes (R157). -/
def State.windowClosed (s : State) (blk : Nat) : Bool := s.teams.any fun t => t.reopen.any fun e => (e.offsetOf blk).isSome

/-- A window's bytes are moving (R157). -/
def State.windowMoving (s : State) (blk : Nat) : Bool :=
  (findWindow blk s.cores 0).any fun x => x.2.2.1.moving

/-! ## The current value of a block (R245, R267) -/

def blockOfBytes (bs : List Byte) : BlockData := BitVec.ofNat 1024 (bytesNat bs)

def blockBytesOf (d : BlockData) : List Byte := natBytes 128 d.toNat

/-- The memory behind a block of this device: DRAM, or host memory as the host holds it; a queue's window holds no data (R314). DESIGN CHOICE:
where no cell is reached, the device itself reads zeros and its writes are lost (R2; log entry 88). -/
def State.memBlock (s : State) (blk : Nat) : BlockData :=
  let pa := blkPa blk
  if isHost pa then blockOfBytes (s.host.mem.read (pa % 2 ^ 51) 128) else if (s.windowOf pa).isSome || !s.dramReached pa then 0 else s.dramBlock pa

def State.setMemBlock (s : State) (blk : Nat) (d : BlockData) : State :=
  let pa := blkPa blk
  if isHost pa then { s with host := { s.host with mem := s.host.mem.write (pa % 2 ^ 51) (blockBytesOf d) } }
  else if (s.windowOf pa).isSome || !s.dramReached pa then s
  else { s with dram := dramPut s.dram pa (blockBytesOf d) }

/-- The serial of a block's tokens at its home on this device (R272, R293). -/
def State.homeSerial (s : State) (blk : Nat) : BitVec 8 :=
  if isHost (blkPa blk) then ((assoc s.host.table blk).getD (0, 4096, true)).1 else (s.metaOf blk).serial

/-- The data that a message carries with the pole, under a serial (R269). -/
def poleData (blk : Nat) (serial : BitVec 8) (m : Msg) : Option BlockData :=
  match m.body with
  | .tokens b se _ true _ d _ => if b == blk && se == serial then d else none
  | .storeLine _ bs _ => (bs.find? fun x => x.1 == blk && x.2.1 == serial).map (·.2.2)
  | _ => none

/-- The data that came with the pole to a request that does not yet know its serial (R282). -/
def earlyData (blk : Nat) (serial : BitVec 8) (w : Want) : Option BlockData :=
  if w.blk = blk then (w.early.find? fun e => e.serial == serial && e.pole).bind fun e => e.data else none

/-- The current value of a block homed on this device: the local copy of a published block, else the owner's data, else data in
flight with the pole, else memory (R132, R267). -/
def State.current (s : State) (blk : Nat) : BlockData :=
  match s.localCopy blk with
  | some (c, la) => blockOfBytes ((s.core c).lmem.read la 128)
  | none =>
    match s.coh.holds.find? fun h => h.blk == blk && h.pole with
    | some h => h.data
    | none =>
      match (s.msgs.findSome? (poleData blk (s.homeSerial blk))).orElse fun _ =>
          s.coh.wants.findSome? (earlyData blk (s.homeSerial blk)) with
      | some d => d
      | none => s.memBlock blk

/-- Bytes `off` to `off + n - 1` of a block. -/
def blockSlice (d : BlockData) (off n : Nat) : List Byte := (List.range n).map fun i => d.extractLsb' ((off + i) * 8) 8

/-- Bytes at a physical address of this device, by the current values of their blocks; `fuel` bounds the blocks. -/
def State.readBlocks (s : State) : Nat → Nat → Nat → List Byte
  | 0, _, _ => []
  | fuel + 1, pa, n =>
    let k := min n (128 - pa % 128)
    blockSlice (s.current (blkOf s.dev pa)) (pa % 128) k ++ if n ≤ k then [] else s.readBlocks fuel (pa + k) (n - k)

/-- Bytes at a physical address of this device, by the current values of their blocks. -/
def State.readPa (s : State) (pa n : Nat) : List Byte := s.readBlocks (n / 128 + 2) pa n

/-- Put bytes into a block image. -/
def patchBlock (d : BlockData) (off : Nat) (bs : List Byte) : BlockData := BitVec.ofNat 1024 (patch 128 d.toNat off bs)

/-- The times of a block in lease form after one more write to it (R256); a block in token form has none. -/
def State.writeStamp (s : State) (blk : Nat) : Meta :=
  match s.metaOf blk with
  | .lease p se _ r => .lease p se (timeMax (r + 1) s.sys.mtime) (timeMax (r + 1) s.sys.mtime)
  | m => m

/-- One write appended to a block's order by the device itself, in one step at every copy: memory, the holders' data, data in
flight or waiting for a serial, and a published window's bytes all change by `f`. A block in lease form takes new times (R256). DESIGN CHOICE:
the tokens stay where they are (log entry 9). -/
def State.changeBlock (s : State) (blk : Nat) (f : BlockData → BlockData) : State :=
  match s.localCopy blk with
  | some (c, la) => s.modCore c fun k => { k with lmem := k.lmem.write la (blockBytesOf (f (blockOfBytes (k.lmem.read la 128)))) }
  | none =>
    let s := (s.setMemBlock blk (f (s.memBlock blk))).setMeta blk (s.writeStamp blk)
    let held (h : Hold) : Hold := if h.blk == blk then { h with data := f h.data } else h
    let sent (m : Msg) : Msg :=
      match m.body with
      | .tokens b se n p d (some x) tag =>
        if b == blk then { m with body := .tokens b se n p d (some (f x)) tag } else m
      | .storeLine id bs w => { m with body := .storeLine id (bs.map fun b => if b.1 == blk then (b.1, b.2.1, f b.2.2) else b) w }
      | _ => m
    let waits (w : Want) : Want :=
      if w.blk == blk then { w with early := w.early.map fun (e : Early) => { e with data := e.data.map f } } else w
    { s with
      coh := { s.coh with holds := s.coh.holds.map held, wants := s.coh.wants.map waits }
      msgs := s.msgs.map sent }

/-! ## Where the tokens of a block of this device are (R267, R272, R293) -/

/-- The block is homed on this device. -/
def State.isLocal (s : State) (blk : Nat) : Bool := blkHome blk == s.dev

/-- Serial, count and pole at the home of a block of this device. A home holds all tokens of a block in lease form. -/
def State.homeTokens (s : State) (blk : Nat) : BitVec 8 × Nat × Bool :=
  if isHost (blkPa blk) then (assoc s.host.table blk).getD (0, 4096, true)
  else
    match s.metaOf blk with
    | .token _ pole _ serial n => (serial, n, pole)
    | .lease _ serial _ _ => (serial, 4096, true)

def Grant.writable : Grant → Bool
  | .e => true
  | .m => true
  | _ => false

/-- Lines of a block of device memory that the host holds (R296). -/
def State.hostHeld (s : State) (blk : Nat) : List (Nat × Grant) :=
  s.host.held.filter fun h => h.1 / 2 == blkPa blk / 128 && s.isLocal blk && h.2 != .i

/-- The value of a block that a window, or an owner, of this device holds: for an access, or for a snoop of another device's host (R132, R295). -/
def State.valueHere (s : State) (blk : Nat) : Bool := (s.localCopy blk).isSome || s.coh.holds.any fun h => h.blk == blk && h.pole

/-- The owner of a block homed here is on this device, or its pole is on the way: `State.current` is then the block's value. -/
def State.ownerHere (s : State) (blk : Nat) : Bool :=
  let carries (m : Msg) : Bool := match m.body with
    | .tokens b se _ true _ _ _ => b == blk && se == s.homeSerial blk
    | .storeLine _ bs _ => bs.any fun x => x.1 == blk
    | _ => false
  (s.homeTokens blk).2.2 || s.valueHere blk || s.msgs.any carries || s.coh.wants.any fun w => w.blk == blk && w.early.any (·.pole)

/-- Tokens of a block, under a serial, that a message brings. -/
def Msg.tokensOf (blk : Nat) (serial : BitVec 8) (m : Msg) : Nat :=
  match m.body with
  | .tokens b se n _ _ _ _ => if b == blk && se == serial then n else 0
  | .storeLine _ bs _ => if bs.any fun x => x.1 == blk && x.2.1 == serial then 4096 else 0
  | _ => 0

/-- Tokens of a block on this device: at home, held, on their way to a party here, or at a request that does not yet know its serial. -/
def State.tokensHere (s : State) (blk : Nat) : Nat :=
  let home := s.homeTokens blk
  let sum (l : List Nat) : Nat := l.foldl (· + ·) 0
  home.2.1 + sum ((s.coh.holds.filter fun h => h.blk == blk && h.serial == home.1).map (·.n))
    + sum ((s.msgs.filter fun m => m.dst.dev == s.dev).map (Msg.tokensOf blk home.1))
    + sum ((s.coh.wants.filter fun w => w.blk == blk).flatMap fun w => (w.early.filter fun e => e.serial == home.1).map (·.n))

/-- An access to a block of this device may be made in its order now (R267): a window of this device holds it and stands still; or, for a write,
all its tokens are on this device, and for a read its owner is, and the host holds no line of it that stands against it (R296). -/
def State.blockReady (s : State) (blk : Nat) (write : Bool) : Bool :=
  if !s.isLocal blk then true
  else if (s.localCopy blk).isSome then !(write && s.windowMoving blk)
  else
    (s.hostHeld blk).all (fun h => !write && !Grant.writable h.2)
      && if write then (s.homeTokens blk).2.1 == 4096 || s.tokensHere blk == 4096 else s.ownerHere blk

/-- A write of a whole block clears its poison (R285). -/
def State.clearPoison (s : State) (blk off n : Nat) : State := if off = 0 ∧ 128 ≤ n ∧ s.poisoned blk then s.setPoison blk false else s

/-- One write of bytes from an offset of a block on; where tokens or a line of the host are away, the write is kept until they are back. A whole block
loses its poison (R285). -/
def State.writeBlock (s : State) (blk off : Nat) (bs : List Byte) : State :=
  let s' := (s.clearPoison blk off bs.length).changeBlock blk fun d => patchBlock d off bs
  if s.blockReady blk true then s' else { s' with coh := { s'.coh with patches := s'.coh.patches ++ [(blk, off, bs)] } }

/-- The data of a block that come back, with what this device has written of it since they went. -/
def State.patched (s : State) (blk : Nat) (d : BlockData) : BlockData :=
  (s.coh.patches.filter fun p => p.1 == blk).foldl (fun d p => patchBlock d p.2.1 p.2.2) d

def State.dropPatches (s : State) (blk : Nat) : State :=
  { s with coh := { s.coh with patches := s.coh.patches.filter fun p => p.1 != blk } }

/-- Write bytes at a physical address of this device, block by block, low addresses first. -/
def State.writeBlocks : Nat → State → Nat → List Byte → State
  | 0, s, _, _ => s
  | fuel + 1, s, pa, bs =>
    let k := 128 - pa % 128
    let s := s.writeBlock (blkOf s.dev pa) (pa % 128) (bs.take k)
    if bs.length ≤ k then s else State.writeBlocks fuel s (pa + k) (bs.drop k)

def State.writePa (s : State) (pa : Nat) (bs : List Byte) : State := if bs.isEmpty then s else State.writeBlocks (bs.length / 128 + 2) s pa bs

def State.readPaNat (s : State) (pa n : Nat) : Nat := bytesNat (s.readPa pa n)

/-! ## Sectors of private pages (R243, R249, R250, R255) -/

/-- The bytes of a sector in memory order: 64-byte sector `a` of this device. -/
def State.sectorValue (s : State) (a : Nat) : SectorData := BitVec.ofNat 512 (s.readPaNat (a * 64) 64)

def findSector (v : List Sector) (a : Nat) : Option Sector := v.find? fun x => x.addr == a

def putSector (v : List Sector) (x : Sector) : List Sector :=
  if v.any (fun y => y.addr == x.addr) then v.map fun y => if y.addr == x.addr then x else y else v ++ [x]

def dropSector (v : List Sector) (a : Nat) : List Sector := v.filter fun y => y.addr != a

/-- Fetch a sector for a core under case 4 of R245: from the core view, else the die view, else the block order; a fetched sector
enters both views clean. -/
def State.fetchSector (s : State) (c : Nat) (a : Nat) (asid : BitVec 10) : SectorData × State :=
  match findSector (s.core c).view a with
  | some x => (x.data, s)
  | none =>
    let d := (s.core c).die
    match findSector (s.die d).view a with
    | some x => (x.data, s.modCore c fun k => { k with view := putSector k.view ⟨a, x.data, false, asid⟩ })
    | none =>
      let v := s.sectorValue a
      (v, (s.modCore c fun k => { k with view := putSector k.view ⟨a, v, false, asid⟩ }).modDie d fun k =>
        { k with view := putSector k.view ⟨a, v, false, asid⟩ })

/-- A sector of a given value is fetched for a core: the die view's own goes before it; it enters both views clean (R245). -/
def State.enterSector (s : State) (c a : Nat) (v : SectorData) (asid : BitVec 10) : State :=
  let d := (s.core c).die
  let add (x : Sector) (l : List Sector) : List Sector := if (findSector l a).isSome then l else l ++ [x]
  let x : Sector := ⟨a, ((findSector (s.die d).view a).map (·.data)).getD v, false, asid⟩
  (s.modCore c fun k => { k with view := add x k.view }).modDie d fun k => { k with view := add x k.view }

/-- Write a sector back from the core view into the die view (R244); the die's line stays recorded under the space that filled it (R207). -/
def State.writeBackCore (s : State) (c : Nat) (x : Sector) : State :=
  (s.modCore c fun k => { k with view := putSector k.view { x with dirty := false } }).modDie (s.core c).die fun k =>
    { k with view := putSector k.view { x with dirty := true, asid := ((findSector k.view x.addr).map (·.asid)).getD x.asid } }

/-- Write a sector back from the die view into the block order: the whole image (R255). -/
def State.writeBackDie (s : State) (d : Nat) (x : Sector) : State :=
  (s.writePa (x.addr * 64) (natBytes 64 x.data.toNat)).modDie d fun k =>
    { k with view := putSector k.view { x with dirty := false } }

/-- The write-backs of a release (R249): the core's dirty sectors at die scope, then the die's at package scope or wider. -/
def State.releaseViews (s : State) (c : Nat) (sc : Scope) : State :=
  let flushCore (s : State) : State :=
    ((s.core c).view.filter (·.dirty)).foldl (fun s x => s.writeBackCore c x) s
  let d := (s.core c).die
  let flushDie (s : State) : State := ((s.die d).view.filter (·.dirty)).foldl (fun s x => s.writeBackDie d x) s
  match sc with
  | .die => flushCore s
  | .pkg => flushDie (flushCore s)
  | .dom => flushDie (flushCore s)
  | .sys => flushDie (flushCore s)
  | _ => s

/-- The drops of an acquire (R250): the core's clean sectors at die scope, the die's too at package scope or wider. DESIGN CHOICE: the copies of leased
blocks that the core and its die hold go as well, so that later loads see what the release ordered whatever the class of the flag's page (R251, R256; log
entry 116). -/
def State.acquireViews (s : State) (c : Nat) (sc : Scope) : State :=
  let dropCore (s : State) : State := s.modCore c fun k => { k with view := k.view.filter (·.dirty), leases := [] }
  let dropLeases (s : State) : State := s.modDie (s.core c).die fun k => { k with leases := [] }
  let dropDie (s : State) : State := s.modDie (s.core c).die fun k => { k with view := k.view.filter (·.dirty), leases := [] }
  match sc with
  | .die => dropLeases (dropCore s)
  | .pkg => dropDie (dropCore s)
  | .dom => dropDie (dropCore s)
  | .sys => dropDie (dropCore s)
  | _ => s

end Sys2Proof.Machine
end

