-- ==== Sys2Proof/Machine/Operands.lean ====
section
/-! DEFINITION. The operand forms that reach memory: records (R177 to R181), generic pointers (R182), translation (R196 to R203),
permission (R201), and the checks of an access in the order of R189. -/

namespace Sys2Proof.Machine

/-! ## Records -/

/-- A buffer record's fields (R177). -/
structure RecordVal where
  slice : Nat
  ro : Bool
  oox : Bool
  swz : Nat
  esz : Nat
  stride : Nat
  extent : Nat
  base : Nat
  deriving DecidableEq, Repr

def recordOfBits (b : BitVec 256) : RecordVal :=
  { slice := (b.extractLsb' 136 24).toNat, ro := b.getLsbD 134, oox := b.getLsbD 132, swz := (b.extractLsb' 128 4).toNat
    esz := (b.extractLsb' 120 3).toNat, stride := (b.extractLsb' 96 24).toNat, extent := (b.extractLsb' 64 32).toNat
    base := (b.extractLsb' 0 57).toNat }

/-- A malformed record (R179). -/
def malformed (b : BitVec 256) : Bool :=
  let r := recordOfBits b
  b.extractLsb' 160 96 != 0 || b.getLsbD 135 || b.extractLsb' 123 5 != 0 || b.extractLsb' 57 7 != 0
    || 3 < r.esz || 3 < r.swz || r.base % 2 ^ r.esz != 0 || r.stride % 2 ^ r.esz != 0 || r.slice % 16 != 0
    || (r.swz != 0 && r.base % 1024 != 0)

/-- Record `n` of a team. -/
def Team.record (t : Team) (n : Nat) : BitVec 256 := t.records.getD n 0

/-- Where an access goes: an address, or the lane is dropped (R181). -/
abbrev Place? := Except Cause (Option Nat)

/-- The swizzle of an offset (R180). -/
def swizzle (swz o : Nat) : Nat :=
  match swz with
  | 1 => o ^^^ (bitsOf o 7 7 * 2 ^ 4)
  | 2 => o ^^^ (bitsOf o 8 7 * 2 ^ 4)
  | 3 => o ^^^ (bitsOf o 9 7 * 2 ^ 4)
  | _ => o

/-- The address of element `i` of a record for fibre `f`, by an access of `z` bytes (R180, R181). -/
def elementAddr (b : BitVec 256) (f i z : Nat) : Place? :=
  if malformed b then .error { code := 0x36 }
  else
    let r := recordOfBits b
    let o := i * r.stride + f * r.slice
    let a := (r.base + swizzle r.swz o) % 2 ^ 57
    if a % z ≠ 0 then .error { code := 0x33, addr := a }
    else if i < r.extent then .ok (some a)
    else if r.oox then .error { code := 0x32, addr := a }
    else .ok none

/-- The span of a record for generic pointers (R182). -/
def pointerSpan (t : Team) (r : RecordVal) : Nat :=
  if r.slice ≠ 0 then t.kernel.fibres * r.slice else r.extent * r.stride

/-- The record of a generic pointer. -/
def pointerRec (p : BitVec 64) : Nat := (p.extractLsb' 59 5).toNat

/-- The address that a generic pointer names for an access of `z` bytes that needs an alignment (R182). -/
def pointerAligned (t : Team) (p : BitVec 64) (z align : Nat) : Place? :=
  let b := t.record (pointerRec p)
  if malformed b then .error { code := 0x36 }
  else
    let r := recordOfBits b
    let off := (p.extractLsb' 0 59).toNat
    let a := (r.base + off) % 2 ^ 57
    if a % align ≠ 0 then .error { code := 0x33, addr := a }
    else if off + z ≤ pointerSpan t r then .ok (some a)
    else if r.oox then .error { code := 0x32, addr := a }
    else .ok none

/-- The address that a generic pointer names for an access of `z` bytes (R182). -/
def pointerAddr (t : Team) (p : BitVec 64) (z : Nat) : Place? := pointerAligned t p z z

/-! ## Translation -/

/-- A table or root may lie here: this device's DRAM, a live stack, no reserved row (R194, R196, R200). -/
def State.tablePlace (s : State) (pa : Nat) : Bool := s.dramReached pa

/-- A page-table read, as a token-coherent read of device memory (R197); poisoned data gives cause 0x70 (R191). -/
def State.tableRead (s : State) (va pa n : Nat) : Except Cause Nat :=
  if s.poisoned (blkOf s.dev pa) then .error { code := 0x70, addr := va } else .ok (s.readPaNat pa n)

/-- Index bits of a level, shifted down (R197). -/
def walkIndex (va : Nat) : Nat → Nat
  | 0 => bitsOf va 18 13
  | 1 => bitsOf va 24 19
  | 2 => bitsOf va 30 25
  | 3 => bitsOf va 43 31
  | _ => bitsOf va 56 44

/-- log2 of the page size of a size code (R199). -/
def pageLg (size : Nat) : Nat :=
  match size with
  | 0 => 13
  | 1 => 19
  | 2 => 25
  | _ => 31

/-- A leaf's fields (R199). -/
def leafFrame (e : BitVec 64) : Nat := (e.extractLsb' 14 39).toNat * 8192
def leafHome (e : BitVec 64) : Nat := (e.extractLsb' 54 10).toNat
def leafSize (e : BitVec 64) : Nat := (e.extractLsb' 12 2).toNat
def leafMigrating (e : BitVec 64) : Bool := e.getLsbD 53

def leafType (e : BitVec 64) : MemType :=
  match (e.extractLsb' 10 2).toNat with
  | 0 => .normal
  | 1 => .writeCombining
  | 2 => .device
  | _ => .stronglyOrdered

def leafClass (e : BitVec 64) : PageClass :=
  match (e.extractLsb' 8 2).toNat with
  | 0 => .priv
  | 1 => .leased
  | _ => .token

/-- The active migration entry of a new frame, with its number (R204). -/
def State.migrationOf (s : State) (frame : Nat) : Option (Nat × BitVec 192) :=
  s.sys.migration.find? fun p => p.2.getLsbD 0 && (p.2.extractLsb' 40 39).toNat * 8192 == frame

/-- The memory types that may map a region (R192). -/
def typeAllowed (ty : MemType) (pa : Nat) : Bool :=
  if isDram pa then ty == .normal || ty == .writeCombining
  else if isRegs pa then ty == .device || ty == .stronglyOrdered
  else isHost pa

/-- A leaf at a level is malformed (R200), or a feature that it needs is off (R346). -/
def State.badLeaf (s : State) (lvl : Nat) (e : BitVec 64) : Bool :=
  let pa := leafFrame e
  let on (i : Nat) : Bool := s.sys.offer.getLsbD i && s.sys.accept.getLsbD i
  e.getLsbD 2 || lvl == 4 || leafSize e != lvl || e.extractLsb' 8 2 == 3
    || (isDram pa && e.getLsbD 7 != (bitsOf pa 39 39 == 1))
    || pa % 2 ^ pageLg (leafSize e) != 0 || !(isDram pa || isRegs pa || isHost pa)
    || (isDram pa && leafHome e == s.dev && !s.stackLive (stackOf pa))
    || (isDram pa && rowOf pa < 8) || !typeAllowed (leafType e) pa || (isRegs pa && e.getLsbD 6)
    || (leafMigrating e && (s.migrationOf pa).isNone)
    || (isHost pa && leafType e == .normal && !on 1) || (leafClass e == .leased && !on 3)

/-- What an entry at a level says (R197, R200): a leaf, or the next table. -/
def State.walkEntry (s : State) (va lvl t : Nat) : Except Cause (BitVec 64 ⊕ Nat) :=
  match s.tableRead va (t + 8 * walkIndex va lvl) 8 with
  | .error c => .error c
  | .ok n =>
    let e := BitVec.ofNat 64 n
    let next := (e.extractLsb' 9 43).toNat * 512
    if !e.getLsbD 0 then .error { code := 0x30, addr := va }
    else if e.getLsbD 1 then
      if lvl = 0 ∨ e.extractLsb' 52 12 ≠ 0 ∨ e.extractLsb' 2 7 ≠ 0 ∨ !s.tablePlace next
          ∨ (lvl = 4 ∧ next % 2 ^ 16 ≠ 0) then .error { code := 0x38, addr := va }
      else .ok (.inr next)
    else if s.badLeaf lvl e then .error { code := 0x38, addr := va }
    else .ok (.inl e)

/-- The walk from a table at a level (R197). -/
def State.walkFrom (s : State) (va : Nat) : Nat → Nat → Except Cause (BitVec 64)
  | 0, t =>
    match s.walkEntry va 0 t with
    | .error c => .error c
    | .ok (.inl e) => .ok e
    | .ok (.inr _) => .error { code := 0x38, addr := va }
  | lvl + 1, t =>
    match s.walkEntry va (lvl + 1) t with
    | .error c => .error c
    | .ok (.inl e) => .ok e
    | .ok (.inr next) => s.walkFrom va lvl next

/-- An entry of the address-space table is usable (R196). -/
def validSpace (e : BitVec 128) : Bool := e.getLsbD 0 && e.extractLsb' 52 44 == 0 && e.extractLsb' 1 15 == 0

/-- The address-space entry (R196). -/
def State.spaceEntry (s : State) (asid : BitVec 10) : BitVec 128 :=
  BitVec.ofNat 128 (s.readPaNat (s.sys.astBase + 16 * asid.toNat) 16)

/-- The L2 slice seed of an address space (R196, R207). -/
def State.seedOf (s : State) (asid : BitVec 10) : Nat := ((s.spaceEntry asid).extractLsb' 96 32).toNat

/-- A walk from the root of an address space (R196, R197). -/
def State.walk (s : State) (asid : BitVec 10) (va : Nat) : Except Cause (BitVec 64) :=
  if !s.tablePlace s.sys.astBase then .error { code := 0x38, addr := va }
  else
    match s.tableRead va (s.sys.astBase + 16 * asid.toNat) 16 with
    | .error c => .error c
    | .ok n =>
      let e := BitVec.ofNat 128 n
      let root := (e.extractLsb' 16 36).toNat * 2 ^ 16
      if !validSpace e || !s.tablePlace root then .error { code := 0x38, addr := va } else s.walkFrom va 4 root

/-- The generation of an address space (R206). -/
def State.genOf (s : State) (asid : BitVec 10) : BitVec 12 := (assoc s.sys.gens asid.toNat).getD 0

/-- A cached entry that matches an address under its space's generation (R205). -/
def State.cached (s : State) (tlb : List TlbEntry) (asid : BitVec 10) (va : Nat) : Option TlbEntry :=
  tlb.find? fun e => e.asid == asid && e.gen == s.genOf asid && e.va == va / 2 ^ e.lg * 2 ^ e.lg

/-- The leaf that maps an address: from the core's or the die's cache, else by a walk (R205). -/
def State.leaf (s : State) (c : Nat) (asid : BitVec 10) (va : Nat) : Except Cause (BitVec 64) :=
  match s.cached (s.core c).tlb asid va with
  | some e => .ok e.leaf
  | none =>
    match s.cached (s.die (s.core c).die).tlb asid va with
    | some e => .ok e.leaf
    | none => s.walk asid va

/-- What an access does to its page (R24, R201). -/
inductive Access where
  | load | store | atom | fetch
  deriving DecidableEq, Repr

/-- Permission of an access under a leaf (R24, R186, R201). -/
def permitted (e : BitVec 64) (a : Access) (priv : Bool) : Bool :=
  let r := e.getLsbD 3
  let w := e.getLsbD 4
  (priv || e.getLsbD 6) &&
    match a with
    | .load => r
    | .store => w
    | .atom => r && w && leafType e == .normal
    | .fetch => e.getLsbD 5 && !w

/-- The page of an address under its leaf. -/
def pageOf (e : BitVec 64) (asid : BitVec 10) (va : Nat) : Page :=
  { pa := leafFrame e + va % 2 ^ pageLg (leafSize e), home := leafHome e, ty := leafType e, cls := leafClass e
    migrating := leafMigrating e, asid := asid }

/-- Translate and check one address (R189, R197, R201). -/
def State.translate (s : State) (c : Nat) (asid : BitVec 10) (va : Nat) (a : Access) (priv : Bool) : Except Cause Page :=
  match s.leaf c asid va with
  | .error e => .error e
  | .ok e => if permitted e a priv then .ok (pageOf e asid va) else .error { code := 0x31, addr := va }

/-- The kind of a paging entry for an access (R345). -/
def Access.pageKind : Access → BitVec 2
  | .load => 0
  | .atom => 0
  | .store => 1
  | .fetch => 2

/-! ## The checks of an access -/

/-- The cause of an access whose translation gives another: a record that refuses the access comes first, but for a fault of the table walk's
address (R177, R189). -/
def Cause.refused (c : Cause) (ro : Bool) (va : Nat) : Cause := if ro && c.code != 0x38 then { code := 0x31, addr := va } else c

/-- The error of a placed access: of the address, or of its translation; none for a dropped lane. -/
def State.accessError (s : State) (t : Team) (a : Access) (ro : Bool) : Place? → Option Cause
  | .error c => some c
  | .ok none => none
  | .ok (some va) =>
    match s.translate t.core t.asid va a t.privileged with
    | .error c => some (({ c with page := a.pageKind } : Cause).refused ro va)
    | .ok _ => if ro then some { code := 0x31, addr := va } else none

/-- The own checks of an access in the order of R189: each stage finds the lanes that meet its cause. `err` gives the cause of a
lane, if it meets any. -/
def accessChecks (err : Nat → Fibre → Option Cause) : List Check :=
  [0x36, 0x33, 0x32, 0x38, 0x31, 0x30, 0x70].map fun code => fun i f =>
    match err i f with
    | some c => if c.code = code then some c else none
    | none => none

end Sys2Proof.Machine
end

