-- ==== Sys2Proof/Machine/Tokens.lean ====
section
/-! DEFINITION. Token holdings and requests (R265 to R285): what the home, the dies and the other places hold, how they answer,
how a request starts and ends, and the sending of messages. -/

namespace Sys2Proof.Machine

/-! ## Reachability (R302, R303, R305) -/

/-- Devices that an enabled port meets in some slot (R302). -/
def State.met (s : State) (d : Nat) : Bool :=
  s.fab.sched.any fun e =>
    e.2.getLsbD 31 && s.fab.portEn.getLsbD (e.1 % 32) && (e.2.extractLsb' 10 10).toNat == d

/-- A device is reached directly or through a relay whose digest is held (R303, R305). -/
def State.reachable (s : State) (d : Nat) : Bool :=
  d == s.dev || s.met d ||
    s.fab.digests.any fun g =>
      s.met g.1 && g.2.1.any fun e => e.getLsbD 31 && (e.extractLsb' 10 10).toNat == d

/-! ## Messages -/

/-- Put one message in flight (R269), with the halves of host memory that it has or asks for (R293), and the block that it is about where its body does
not say (R300). -/
def State.sendHalves (s : State) (src dst : Party) (b : Body) (halves : BitVec 2) (about : Option Nat := none) : State :=
  let m : Msg := { id := s.nextId, src := src, dst := dst, body := b, age := 0, poison := b.dataBlocks.filter s.poisoned, halves := halves
                   taken := false, rerouted := false, about := about }
  { s with msgs := s.msgs ++ [m] }.fresh

def State.send (s : State) (src dst : Party) (b : Body) : State := s.sendHalves src dst b 3

/-- Answer a message; the answer is about its block (R300). -/
def State.replyTo (s : State) (m : Msg) (b : Body) : State :=
  s.sendHalves m.dst m.src b 3 (m.body.block? (if m.dst.place = .home then s.dev else 0))

def State.sendAll (s : State) (src : Party) (ds : List Party) (b : Body) : State :=
  ds.foldl (fun s d => s.send src d b) s

/-- A place of this device as a party. -/
def State.here (s : State) (p : Place) : Party := ⟨s.dev, p⟩

/-- A near-bank unit runs on the channel of a DRAM address, outside its arbitration windows: the channel admits nothing else (R338). -/
def State.channelShut (s : State) (pa : Nat) : Bool :=
  isDram pa && s.nb.any fun u => u.stack == stackOf pa && u.channel == channelOf pa && u.cond == .running && u.window == 0

/-- A message has come to a home on such a channel: it waits for a window. -/
def State.shutOut (s : State) (m : Msg) : Bool :=
  m.dst.place == .home && (m.body.block? s.dev).any fun b => s.isLocal b && s.channelShut (blkPa b)

/-- The message of a number, when it has come to this device and waits to be dealt with. -/
def State.msg? (s : State) (id : Nat) : Option Msg := s.msgs.find? fun m => m.id == id && m.dst.dev == s.dev

def State.dropMsg (s : State) (id : Nat) : State := { s with msgs := s.msgs.filter fun m => m.id != id }

/-- A message is dropped 1 ms after it was sent, unless its party has taken it up before (R304). -/
def Msg.tooOld (m : Msg) : Bool := usTicks 1000 ≤ m.age && !m.taken

/-- A party has taken a message up, which waits there. -/
def State.takeUp (s : State) (id : Nat) : State :=
  { s with msgs := s.msgs.map fun (m : Msg) => if m.id == id then { m with taken := true } else m }

/-- Deal with the message of a number at once by `f`; one that is too old is dropped. -/
def State.onMsg (s : State) (id : Nat) (f : Msg → State → State) : Result :=
  match s.msg? id with
  | some m => if Msg.tooOld m then .next (s.dropMsg id) else .next (f m (s.dropMsg id))
  | none => .next s

/-- How an event deals with a message: done with, or it waits. -/
inductive Dealt where
  | done (s : State)
  | wait (s : State)

/-- Deal with the message of a number: one that is done with leaves, one that is too old is dropped, and another one is taken up; at a home whose
channel is shut it waits (R338). -/
def State.deal (s : State) (id : Nat) (f : Msg → Dealt) : Result :=
  match s.msg? id with
  | some m =>
    if Msg.tooOld m then .next (s.dropMsg id)
    else if s.shutOut m then .next (s.takeUp id)
    else match f m with
    | .done s' => .next (s'.dropMsg id)
    | .wait s' => .next (s'.takeUp id)
  | none => .next s

/-! ## Parties (R266, R279) -/

def homeParty (blk : Nat) : Party := ⟨blkHome blk, .home⟩

/-- The die of a block's home (R3, R266). -/
def homeDie (blk : Nat) : Nat := if isHost (blkPa blk) then 0 else stackOf (blkPa blk) / 2

/-- Live dies of the package. -/
def State.liveDies (s : State) : List Nat := (List.range s.dies.length).filter fun d => (s.die d).present

/-- The die and agent number for which a place asks (R279). -/
def State.agentOf (s : State) (p : Place) (blk : Nat) : Nat × Nat :=
  match p with
  | .home => (homeDie blk, 74)
  | .die d => (d, 0)
  | .pubCore c =>
    ((s.core c).die, ((List.range c).filter fun k => (s.core k).die == (s.core c).die && (s.core k).present).length)
  | .engine st ch => (st / 2, 80 + 32 * (st % 2) + ch)
  | .puller d => (d, 73)
  | .bridge => (0, 72)

/-- The priority key (R279). -/
def State.keyOf (s : State) (w : Want) : Nat := s.dev * 1024 + w.die * 256 + w.agent

/-! ## Tokens at home (R272, R293) -/

/-- Tokens of a block homed here leave for another device (R272). DESIGN CHOICE: the bridge keeps the same mark of its blocks (log entry 82). -/
def State.noteAway (s : State) (blk : Nat) : State :=
  match if s.isLocal blk then s.metaOf blk else .lease false 0 0 0 with
  | .token _ pole poison se n => s.setMeta blk (.token true pole poison se n)
  | .lease .. => s

/-- Set them; `away` says that tokens go to another device (R272). DESIGN CHOICE: a block of host memory whose tokens are all back keeps its entry of
the bridge's table, and counts among the 65,536, while its serial is not 0 (R293; log entry 94). -/
def State.setHomeTokens (s : State) (blk : Nat) (serial : BitVec 8) (n : Nat) (pole away : Bool) : State :=
  if isHost (blkPa blk) then
    let table := if n = 4096 ∧ serial = 0 then assocDel s.host.table blk else assocSet s.host.table blk (serial, n, pole)
    let s : State := { s with host := { s.host with table := table } }
    if away then s.noteAway blk else if n = 4096 then s.setMeta blk (.token false true (s.metaOf blk).poison 0 4096) else s
  else
    match s.metaOf blk with
    | .token remote _ poison _ _ =>
      s.setMeta blk (.token (n != 4096 && (remote || away)) pole poison serial n)
    | .lease .. => s

/-! ## Lines of host memory (R293) -/

/-- The host line of a half of a block of host memory. -/
def hostLine (blk half : Nat) : Nat := blkPa blk % 2 ^ 51 / 64 + half

def State.grantOf (s : State) (line : Nat) : Grant := (assoc s.host.grants line).getD .i

/-- The halves of a block that hold data inside the device: those of host memory that the host grants (R293, R294). -/
def State.validOf (s : State) (blk : Nat) : BitVec 2 :=
  if isHost (blkPa blk) && s.isLocal blk then
    BitVec.ofNat 2 ((if s.grantOf (hostLine blk 0) = .i then 0 else 1) + if s.grantOf (hostLine blk 1) = .i then 0 else 2)
  else 3

/-- A back-invalidation, which names a line of device memory; the other requests name lines of host memory. -/
def HostWait.back : HostWait → Bool
  | .snoopInv => true
  | .snoopData => true
  | .conflict _ => true
  | _ => false

/-- The request is for one load alone (R294). -/
def HostWait.alone : HostWait → Bool
  | .rdCurr .. => true
  | _ => false

/-- The bridge asks the host for a line, unless it already does. -/
def State.hostAsk (s : State) (line : Nat) (k : HostWait) : State :=
  if s.host.waits.any fun w => w.1 == line && (w.2 == k || (w.2.back == k.back && !w.2.alone && !k.alone)) then s
  else { s with host := { s.host with waits := s.host.waits ++ [(line, k)] } }

/-- The bridge answers the host with a line's data. -/
def State.hostAnswer (s : State) (line : Nat) (d : SectorData) : State :=
  { s with host := { s.host with answers := (line, d) :: s.host.answers } }

def State.endSnoop (s : State) (line : Nat) : State :=
  { s with host := { s.host with snoops := s.host.snoops.filter fun x => x.1 != line } }

/-! ## Holdings -/

def State.hold? (s : State) (p : Place) (blk : Nat) : Option Hold :=
  s.coh.holds.find? fun h => h.who == p && h.blk == blk

def State.dropHold (s : State) (p : Place) (blk : Nat) : State :=
  { s with coh := { s.coh with holds := s.coh.holds.filter fun h => !(h.who == p && h.blk == blk) } }

/-- Replace a place's holding; one without tokens disappears. -/
def State.putHold (s : State) (h : Hold) : State :=
  let s := s.dropHold h.who h.blk
  if h.n = 0 then s else { s with coh := { s.coh with holds := s.coh.holds ++ [h] } }

/-- Tokens reach a place: they join what it holds; data come with them or not. -/
def State.giveTokens (s : State) (p : Place) (blk : Nat) (serial : BitVec 8) (n : Nat) (pole dirty : Bool)
    (data : Option BlockData) (valid : BitVec 2) (asid : BitVec 10) (slice : Nat) : State :=
  match s.hold? p blk with
  | some h =>
    s.putHold { h with
      n := h.n + n, pole := h.pole || pole, dirty := h.dirty || (pole && dirty)
      data := if h.pole then h.data else data.getD h.data
      valid := if data.isSome then h.valid ||| valid else h.valid }
  | none =>
    s.putHold { who := p, blk := blk, serial := serial, n := n, pole := pole, dirty := pole && dirty
                data := data.getD 0, valid := if data.isSome then valid else 0, lent := [], filled := [], asid := asid, slice := slice }

/-- The place may read bytes of a block: at least one token and valid data (R267). -/
def Hold.readable (h : Hold) : Bool := 1 ≤ h.n && h.valid != 0

def Hold.writable (h : Hold) : Bool := h.n == 4096 && h.valid == 3

/-- Fibres of some cores that wait on a word of a block load again, once their last load has been answered: those whose last load a leased copy or its
home's reply answered, or the others. -/
def State.wakeSome (s : State) (p : Nat → Bool) (blk : Nat) (leased : Bool) : State :=
  let wake (t : Team) (i : Nat) (f : Fibre) : Fibre :=
    match f.wait with
    | some (.word w) =>
      let r := (s.core t.core).reqs.find? fun r => r.kind == .fetch && r.team == t.id && r.cmd == some i
      let byLease : Bool := w.rts.isSome || r.any fun r => r.rts.isSome
      if w.blk = blk && (r.all fun r => r.lanes.isEmpty) && byLease == leased then { f with wait := some (.word { w with again := true }) } else f
    | _ => f
  { s with teams := s.teams.map fun t => if p t.core then { t with fibres := t.fibres.mapIdx (wake t) } else t }

/-- A die loses the tokens or the copy of a block that answered the last load of fibres of some cores (R227). -/
def State.wakeWaits (s : State) (p : Nat → Bool) (blk : Nat) : State := s.wakeSome p blk false

/-- A core has drained a write to a block: its fibres whose last load a leased copy answered load again (R298). -/
def State.wakeDrain (s : State) (c blk : Nat) : State := s.wakeSome (fun k => k == c) blk true

/-- A place loses its copy or gives tokens: what it lent comes back first (R274), and its waiters load again. -/
def State.loseCopy (s : State) (p : Place) (blk : Nat) : State :=
  match p with
  | .die d => s.wakeWaits (fun c => (s.core c).die == d) blk
  | _ => s

/-- Take `n` tokens, and the pole when `pole`, from a place's holding. -/
def State.takeTokens (s : State) (h : Hold) (n : Nat) (pole : Bool) : State :=
  (s.putHold { h with n := h.n - n, pole := h.pole && !pole, dirty := h.dirty && !pole, lent := [] }).loseCopy h.who h.blk

/-- The dirty sector of a die view, or of a core view, is written back into the block order. -/
def State.spillDie (s : State) (d a : Nat) : State :=
  match findSector (s.die d).view a with
  | some x => if x.dirty then s.writeBackDie d x else s
  | none => s

def State.spillCore (s : State) (c a : Nat) : State :=
  match findSector (s.core c).view a with
  | some x => if x.dirty then (s.writeBackCore c x).spillDie (s.core c).die a else s
  | none => s

/-- The dirty sectors of a block of this device in the views of its private pages are written back, as R244 lets them be at any step: a die's before
those of its cores. -/
def State.spill (s : State) (blk : Nat) : State :=
  [blkPa blk / 64, blkPa blk / 64 + 1].foldl (fun s a =>
    (List.range s.cores.length).foldl (fun s c => s.spillCore c a) ((List.range s.dies.length).foldl (fun s d => s.spillDie d a) s)) s

/-- Tokens of a block of this device are about to go to a party. For one on another device, dirty private sectors are written back first: a private
sector is dirty only while all tokens of its block are here (R257). -/
def State.leave (s : State) (blk : Nat) (dst : Party) : State :=
  if dst.dev = s.dev ∨ !s.isLocal blk then s
  else
    let s := s.spill blk
    if s.blockReady blk true then s.dropPatches blk else s

/-- Send tokens with what they carry (R269, R271): a dirty pole leaves a shadow, and tokens without the pole carry data only when
`withData`. -/
def State.sendTokens (s : State) (h : Hold) (dst : Party) (n : Nat) (pole withData : Bool) (tag : Nat) : State :=
  let s := s.leave h.blk dst
  let h := { h with data := ((s.hold? h.who h.blk).map (·.data)).getD h.data }
  let dirty := pole && h.dirty
  let s := s.takeTokens h n pole
  let shadow : Shadow := { who := h.who, blk := h.blk, data := h.data, toParty := dst, line := none }
  let s := if dirty then { s with coh := { s.coh with shadows := s.coh.shadows ++ [shadow] } } else s
  let s := if dst.dev = s.dev then s else s.noteAway h.blk
  s.sendHalves (s.here h.who) dst (.tokens h.blk h.serial n pole dirty (if pole || withData then some h.data else none) tag) h.valid

/-- Tokens go home, as on an eviction (R271): a dirty owner's with its data, a clean owner's without; others without. -/
def State.evictTokens (s : State) (h : Hold) : State :=
  let dst := homeParty h.blk
  let s' := s.dropHold h.who h.blk
  let shadow : Shadow := { who := h.who, blk := h.blk, data := h.data, toParty := dst, line := none }
  let s' := if h.dirty then { s' with coh := { s'.coh with shadows := s'.coh.shadows ++ [shadow] } } else s'
  (s'.send (s.here h.who) dst
    (.tokens h.blk h.serial h.n h.pole h.dirty (if h.dirty then some h.data else none) 0)).loseCopy h.who h.blk

/-! ## The home's side -/

/-- Tokens, with the pole, data and dirty flag, join the home's count; dirty data go to memory (R283). -/
def State.homeReceive (s : State) (blk : Nat) (n : Nat) (pole dirty : Bool) (data : Option BlockData) : State :=
  let (serial, m, p) := s.homeTokens blk
  let s := match dirty, data with
    | true, some d => s.setMemBlock blk d
    | _, _ => s
  s.setHomeTokens blk serial (m + n) (p || pole) false

/-- The home sends `n` tokens to a party, with the data when the pole goes or `withData` (R270). -/
def State.homeSend (s : State) (blk : Nat) (dst : Party) (n : Nat) (pole withData : Bool) (tag : Nat) : State :=
  let s := s.leave blk dst
  let (serial, m, p) := s.homeTokens blk
  let s := s.setHomeTokens blk serial (m - n) (p && !pole) (dst.dev != s.dev)
  s.sendHalves (s.here .home) dst
    (.tokens blk serial n pole false (if pole || withData then some (s.memBlock blk) else none) tag) (s.validOf blk)

/-! ## Requests -/

/-- The want of a place for a block. -/
def State.want? (s : State) (p : Place) (blk : Nat) : Option Want :=
  s.coh.wants.find? fun w => w.who == p && w.blk == blk

def State.modWant (s : State) (id : Nat) (f : Want → Want) : State :=
  { s with coh := { s.coh with wants := s.coh.wants.map fun w => if w.id == id then f w else w } }

def State.dropWant (s : State) (id : Nat) : State :=
  { s with coh := { s.coh with wants := s.coh.wants.filter fun w => w.id != id } }

/-- What a place holds of a block, the home's own count included. A row engine stands at the home: what it collects lands there (R326). -/
def State.heldBy (s : State) (p : Place) (blk : Nat) : Nat × Bool :=
  match p with
  | .home => let (_, n, pole) := s.homeTokens blk; (n, pole)
  | .engine .. => let (_, n, pole) := s.homeTokens blk; (n, pole)
  | _ => match s.hold? p blk with
    | some h => (if h.valid = 0 ∧ h.n < 4096 then 0 else h.n, h.pole)
    | none => (0, false)

/-- A want is satisfied (R270); one that has asked persistently needs every token (R280). -/
def State.satisfied (s : State) (w : Want) : Bool :=
  let (n, pole) := s.heldBy w.who w.blk
  match w.stage with
  | .no =>
    match w.kind with
    | .read => 1 ≤ n
    | .write => n == 4096
    | .pole => pole
  | _ => n == 4096

/-- The devices that a destination-set predictor names for a block (R277). -/
def State.predicted (s : State) (d blk : Nat) : List Nat :=
  (assoc (s.die d).predictor (bitsOf (blkPa blk) 25 13)).getD []

/-- A device answered for a block: the predictor keeps the three most recent. -/
def State.notePredict (s : State) (d blk from_ : Nat) : State :=
  if s.isLocal blk then s
  else
    s.modDie d fun k =>
      let i := bitsOf (blkPa blk) 25 13
      let l := ((assoc k.predictor i).getD []).filter fun x => x != from_
      { k with predictor := assocSet k.predictor i ((from_ :: l).take 3) }

/-- The other devices of the domain that can be reached (R301, R305). -/
def State.otherDevices (s : State) : List Nat := (List.range 1024).filter fun d => d != s.dev && s.reachable d

/-- Places of this device that answer for a block: live dies, and every other place that holds it, asks for it, keeps a shadow of it, is frozen for it
(R284), or knows of an activation (R280). -/
def State.placesOf (s : State) (blk : Nat) : List Place :=
  let dies := s.liveDies.map fun d => Place.die d
  let more := (s.coh.holds.filter fun h => h.blk == blk).map fun h => h.who
  let wanting := (s.coh.wants.filter fun w => w.blk == blk).map fun w => w.who
  let kept := (s.coh.shadows.filter fun x => x.blk == blk).map fun x => x.who
  let still := (s.coh.frozen.filter fun f => f.blk == blk).map fun f => f.who
  let told := (s.coh.acts.filter fun a => a.blk == blk).map fun a => a.who
  (distinct (dies ++ more ++ wanting ++ kept ++ still ++ told)).filter fun p => p != .home

/-- Parties to which a try goes (R277). -/
def State.tryParties (s : State) (w : Want) : List Party :=
  let named := s.predicted w.die w.blk
  let near := if s.isLocal w.blk || 2 ≤ w.tries || named.contains s.dev then (s.placesOf w.blk).map fun p => s.here p else []
  let far := if s.isLocal w.blk then [] else if 2 ≤ w.tries then s.otherDevices else named
  let devs := (far.filter fun d => d != blkHome w.blk && d != s.dev).map fun d => (⟨d, .die 0⟩ : Party)
  (homeParty w.blk :: near ++ devs).filter fun p => p != s.here w.who

/-- Send the next try of a want (R277, R278). -/
def State.sendTry (s : State) (w : Want) : State :=
  let body := if w.publish then Body.publishReq w.blk (s.here w.who) w.id
    else Body.tryTok w.blk w.kind (s.here w.who) w.id
  ((s.tryParties w).foldl (fun s d => s.sendHalves (s.here w.who) d body w.halves) s).modWant w.id fun w => { w with tries := w.tries + 1, tryAge := 0 }

/-- Send a persistent request to the home (R278). -/
def State.sendPersist (s : State) (w : Want) : State :=
  (s.send (s.here w.who) (homeParty w.blk) (.persist w.blk (s.here w.who) (s.keyOf w) w.id)).modWant w.id fun w => { w with stage := .sent }

/-- A persistent request ends, unless none was made, or the last one was refused (R279). -/
def State.endWant (s : State) (w : Want) : State :=
  match w.stage with
  | .no => s
  | .refused _ => s
  | _ => s.send (s.here w.who) (homeParty w.blk) (.deactivate w.blk (s.here w.who) (s.keyOf w) w.id)

/-- A miss: ask for a block, unless the place already does. A read want becomes a write want when all tokens are needed. -/
def State.ask (s : State) (p : Place) (agent blk : Nat) (kind : WantKind) (publish : Bool) (asid : BitVec 10) (halves : BitVec 2 := 3) : State :=
  match s.want? p blk with
  | some w =>
    if w.kind = kind ∨ w.kind = .write ∨ kind = .read then s
    else
      let w' := { w with kind := kind, agent := agent, tries := 0 }
      (s.modWant w.id fun _ => w').sendTry w'
  | none =>
    let w : Want := { id := s.nextId, who := p, die := (s.agentOf p blk).1, agent := agent, blk := blk, kind := kind
                      publish := publish, asid := asid, serial := none, early := [], tries := 0, tryAge := 0, age := 0
                      stage := .no, denied := false, halves := halves }
    { s with coh := { s.coh with wants := s.coh.wants ++ [w] } }.fresh.sendTry w

/-- The L2 slice of a block in a die for an address space (R207). DESIGN CHOICE: a retired slice is skipped by going on to the next one, past
slice 47 to slice 0 (R350; log entry 89). -/
def State.sliceOf (s : State) (d : Nat) (asid : BitVec 10) (blk : Nat) : Nat :=
  let h := (bitsOf (blkPa blk) 38 7 ^^^ s.seedOf asid) % 48
  (((List.range 48).map fun k => (h + k) % 48).find? fun k => !(s.die d).slicesOut.contains k).getD h

/-- The agent number of a core within its die (R279). -/
def State.coreAgent (s : State) (c : Nat) : Nat := (s.agentOf (.pubCore c) 0).2

/-- A miss of a core, made by its die. -/
def State.askCore (s : State) (c blk : Nat) (kind : WantKind) (asid : BitVec 10) (halves : BitVec 2 := 3) : State :=
  s.ask (.die (s.core c).die) (s.coreAgent c) blk kind false asid halves

/-- A core has requested a block: the other cores of its die take it for their peer, in tables of 256 entries (R276). -/
def State.notePeer (s : State) (c blk : Nat) : State :=
  let d := (s.core c).die
  { s with cores := s.cores.mapIdx fun k (x : Core) =>
      if x.die == d && k != c then { x with peers := ((blk, c) :: assocDel x.peers blk).take 256 } else x }

/-- The access is performed: a satisfied want ends, and an activated one deactivates (R279). -/
def State.finishWant (s : State) (p : Place) (blk : Nat) : State :=
  match s.want? p blk with
  | none => s
  | some w =>
    if !s.satisfied w then s else (s.dropWant w.id).endWant w

/-- What an access of this device to a block of its own waits for; none where it may be made, else the state in which that has been asked for: the
lines that the host holds, then, at the home, every token for a write and the owner's for a read. -/
def State.gatherBlock (s : State) (blk : Nat) (write : Bool) : Option State :=
  if s.blockReady blk write then none
  else if (s.localCopy blk).isSome then some s
  else
    let need := if write then s.hostHeld blk else (s.hostHeld blk).filter fun h => Grant.writable h.2
    some (if need.isEmpty then s.ask .home 74 blk (if write then .write else .pole) false 0
      else need.foldl (fun s h => s.hostAsk h.1 (if write then .snoopInv else .snoopData)) s)

def State.gatherAll (s : State) (blks : List Nat) (write : Bool) : Option State :=
  let lack := blks.filter fun b => (s.gatherBlock b write).isSome
  if lack.isEmpty then none else some (lack.foldl (fun s b => (s.gatherBlock b write).getD s) s)

/-- The home's requests for blocks have served an access. -/
def State.homeDone (s : State) (blks : List Nat) : State := blks.foldl (fun s b => s.finishWant .home b) s

/-- A reply that came before its serial was known goes on to the home; a dirty pole leaves a shadow (R271, R283). -/
def State.sendEarly (s : State) (w : Want) (e : Early) : State :=
  let dst := homeParty w.blk
  let x : Shadow := { who := w.who, blk := w.blk, data := e.data.getD 0, toParty := dst, line := none }
  let s := if e.pole && e.dirty then { s with coh := { s.coh with shadows := s.coh.shadows ++ [x] } } else s
  s.sendHalves (s.here w.who) dst (.tokens w.blk e.serial e.n e.pole e.dirty e.data 0) e.halves

/-- A want is withdrawn: its persistent request too, and the tokens collected go home, those included that wait for a serial (R306, R316). -/
def State.withdraw (s : State) (w : Want) : State :=
  let s' := w.early.foldl (fun s e => s.sendEarly w e) ((s.dropWant w.id).endWant w)
  match s'.hold? w.who w.blk with
  | some h => s'.evictTokens h
  | none => s'

/-- The 16 blocks of a row of this device. -/
def State.rowBlocks (s : State) (pa : Nat) : List Nat := (List.range 16).map fun k => blkOf s.dev pa + k

/-- The engine of a row's channel. -/
def engineOf (pa : Nat) : Place := .engine (stackOf pa) (channelOf pa)

/-- A team whose engines work: its fibres run, or have ended; it is not saved, and no save has stopped it (R331). -/
def Team.works (t : Team) : Bool := t.runs || t.cond == .ended

def State.teamRuns (s : State) (team : Nat) : Bool := (s.team? team).any Team.works

/-- Source blocks of a step. -/
def State.stepSources (s : State) (x : RowStep) : List Nat :=
  (match x.a with
  | some p => s.rowBlocks p.1
  | none => []) ++ match x.b with
    | some p => s.rowBlocks p.1
    | none => []

/-- Op and stream of a state-table entry (R334). -/
def entOp (e : BitVec 64) : Nat := (e.extractLsb' 44 4).toNat
def entStrm (e : BitVec 64) : Nat := (e.extractLsb' 42 2).toNat

/-- The current row of a stream: physical and virtual address. -/
def NearBank.row (u : NearBank) (i : Nat) : Option (Nat × Nat) :=
  match u.streams.getD i none with
  | some rows => rows[(u.ctr.getD i 0).toNat % rows.length]?
  | none => none

/-- A row operation or near-bank step that comes next on an engine uses a block: of a row instruction in a row slot, or of a running unit, of a team
that works (R326, R331). -/
def State.engineNeeds (s : State) (e : Place) (b : Nat) : Bool :=
  let row (r : RowCmd) : Bool :=
    r.slot.isSome && s.teamRuns r.team && r.rows.head?.any fun x => engineOf x.d == e && (s.stepSources x ++ s.rowBlocks x.d).contains b
  let unit (u : NearBank) : Bool :=
    let x := u.table.getD u.upc 0
    u.cond == .running && s.teamRuns u.owner && 2 ≤ entOp x && entOp x ≤ 4
      && (u.row (entStrm x)).any fun p => engineOf p.1 == e && (s.rowBlocks p.1).contains b
  s.rows.any row || s.nb.any unit

def isEngine : Place → Bool
  | .engine .. => true
  | _ => false

/-- A message names the blocks that have lost their data. -/
def State.markBad (s : State) (id : Nat) (blks : List Nat) : State :=
  { s with msgs := s.msgs.map fun m => if m.id = id then { m with poison := blks } else m }

/-- Engines withdraw what they have asked for, and forget what windows have answered, for blocks that no coming operation uses: the operation has been
made, abandoned, cancelled or suspended (R279, R326, R331, R337). -/
def State.idleEngines (s : State) : State :=
  let s := (s.coh.wants.filter fun w => isEngine w.who && !s.engineNeeds w.who w.blk).foldl (fun s w => s.withdraw w) s
  { s with coh := { s.coh with gathered := s.coh.gathered.filter fun g => s.engineNeeds g.1 g.2.1 } }

/-- A discard of stale tokens is counted by a die (R283). -/
def State.countStale (s : State) (d : Nat) : State :=
  s.modDie d fun k => { k with stale := if k.stale = 0xFFFFFFFF then k.stale else k.stale + 1 }

/-- The die that counts a discard by a place (R283). -/
def State.staleDie (s : State) (p : Place) (blk : Nat) : Nat :=
  match p with
  | .home => homeDie blk
  | .die d => d
  | .pubCore c => (s.core c).die
  | .engine st _ => st / 2
  | .puller d => d
  | .bridge => 0

/-! ## Migration (R204) -/

/-- The new frame of a migration entry, and the old block of one of its blocks. -/
def entryFrame (e : BitVec 192) : Nat := (e.extractLsb' 40 39).toNat * 8192
def entryOld (e : BitVec 192) (block : Nat) : Nat :=
  blkOf (e.extractLsb' 118 10).toNat ((e.extractLsb' 79 39).toNat * 8192 + 128 * block)

/-- The migration puller of an entry: it stands at the new frame's home (R266). -/
def entryPuller (e : BitVec 192) : Place := .puller (stackOf (entryFrame e) / 2)

/-- The data of an old block go to the new frame, with every token at the new home. -/
def State.pulled (s : State) (entry block : Nat) (e : BitVec 192) (h : Hold) : State :=
  let new := blkOf s.dev (entryFrame e + 128 * block)
  let bad := s.poisoned h.blk
  let s := s.setMemBlock new h.data
  let s := s.setMeta new (.token false true bad (s.metaOf new).serial 4096)
  let e' := e ||| (1#192 <<< (128 + block))
  let s := { s with sys := { s.sys with migration := assocSet s.sys.migration entry e' } }
  (s.evictTokens h).finishWant h.who h.blk

/-- One step of the pull of a block of an active entry: its tokens are asked for, or its data come across, when the new frame's channel admits it
(R338). -/
def State.pull (s : State) (entry block : Nat) : State :=
  match assoc s.sys.migration entry with
  | none => s
  | some e =>
    if !e.getLsbD 0 || 64 ≤ block || e.getLsbD (128 + block) || s.channelShut (entryFrame e + 128 * block) then s
    else
      let old := entryOld e block
      let who := entryPuller e
      match s.hold? who old with
      | some h => if h.writable then s.pulled entry block e h else s.ask who 73 old .write false 0
      | none => s.ask who 73 old .write false 0

/-- A block of a frame to which an active entry moves a page has not come there yet (R204). -/
def State.absentAt (s : State) (pa : Nat) : Bool :=
  (s.migrationOf (pa / 8192 * 8192)).any fun x => !x.2.getLsbD (128 + pa / 128 % 64)

/-- The block has come to its new frame, or its page does not migrate (R204). -/
def State.migrated (s : State) (p : Page) (pa : Nat) : Bool := !p.migrating || !s.absentAt pa

/-- A request touches a block at an address of a new frame: its pull begins, or goes on. -/
def State.pullAt (s : State) (pa : Nat) : State :=
  match s.migrationOf (pa / 8192 * 8192) with
  | some (i, _) => s.pull i (pa / 128 % 64)
  | none => s

end Sys2Proof.Machine
end

