-- ==== Sys2Proof/Machine/Registers.lean ====
section
/-! DEFINITION. The device registers: what the region of R343 reads and what a write to it does (R204, R206, R214, R286, R287, R301,
R302, R309, R314, R343 to R346, R354). -/

namespace Sys2Proof.Machine

/-! ## The words of each structure -/

/-- A queue descriptor as 128 bits (R214). -/
def QueueDesc.bits (q : QueueDesc) : Nat :=
  q.ovf.toNat * 2 ^ 112 + q.ridx * 2 ^ 96 + q.widx * 2 ^ 80 + q.lsize * 2 ^ 72 + q.prio.toNat * 2 ^ 70
    + (if q.fab then 2 ^ 69 else 0) + (if q.en then 2 ^ 68 else 0) + q.base / 256 * 2 ^ 20

/-- The descriptor after a write of the read-write fields. -/
def QueueDesc.write (q : QueueDesc) (v : Nat) : QueueDesc :=
  { q with
    lsize := min (bitsOf v 76 72) 16, prio := BitVec.ofNat 2 (bitsOf v 71 70), fab := bitsOf v 69 69 == 1
    en := bitsOf v 68 68 == 1, base := bitsOf v 63 20 * 256 }

/-- A feature is on when it is offered and accepted (R346). -/
def State.featureOn (s : State) (i : Nat) : Bool := s.sys.offer.getLsbD i && s.sys.accept.getLsbD i

def Fabric.control (f : Fabric) : Nat := f.portEn.toNat * 2 ^ 32 + f.rto.toNat * 2 ^ 24 + f.dev.toNat

def ErrQueue.bits (e : ErrQueue) : Nat := e.wr.toNat + e.rd.toNat * 2 ^ 16 + e.ovf.toNat * 2 ^ 32

def State.errq (s : State) (asid : Nat) : ErrQueue := (assoc s.sys.errqs asid).getD ⟨0, 0, 0⟩

def State.setErrq (s : State) (asid : Nat) (e : ErrQueue) : State :=
  { s with sys := { s.sys with errqs := if e = ⟨0, 0, 0⟩ then assocDel s.sys.errqs asid else assocSet s.sys.errqs asid e } }

/-- The lease length of an address space (R286). -/
def State.leaseOf (s : State) (asid : Nat) : BitVec 16 := (assoc s.sys.leases asid).getD 10

/-- Kind and location of wear record `n` (R349). -/
def wearKind (n : Nat) : Nat × Nat :=
  if n < 4 then (0, n) else if n < 8 then (1, n - 4) else if n < 40 then (2, n - 8) else (3, n - 40)

def State.wearBits (s : State) (n : Nat) : Nat :=
  let w := s.health.wear.getD n (0, 0xFFFFFFFF)
  w.2.toNat * 2 ^ 96 + w.1.toNat * 2 ^ 64 + (wearKind n).1 * 2 ^ 32 + (wearKind n).2

/-- The number names a core (R2, R354). -/
def State.coreExists (s : State) (n : Nat) : Bool := n < s.cores.length && (s.core n).present

/-- The structure that holds a register offset: its first offset, its size in bytes and its value (R343, R354). -/
def State.regStruct (s : State) (off : Nat) : Option (Nat × Nat × Nat) :=
  if off < 0x20 then some (0, 32, s.sys.offer.toNat)
  else if off < 0x40 then some (0x20, 32, s.sys.accept.toNat)
  else if off < 0x48 then some (0x40, 8, s.sys.astBase)
  else if off < 0x50 then some (0x48, 8, s.sys.ctxBase)
  else if off < 0x58 then
    some (0x50, 8, (if s.sys.go then 1 else 0) + (if s.sys.startupDone then 2 else 0) + s.sys.failing.toNat * 4)
  else if off < 0x60 then some (0x58, 8, s.sys.pagingBase)
  else if off < 0x68 then some (0x60, 8, s.sys.pagingWr.toNat + s.sys.pagingRd.toNat * 2 ^ 16)
  else if off < 0x70 then some (0x68, 8, 0)
  else if off < 0x1000 then none
  else if off < 0x1100 then
    let q := (off - 0x1000) / 16
    some (0x1000 + 16 * q, 16, (s.sys.queues.getD q .reset).bits)
  else if off < 0x1180 then
    let q := (off - 0x1100) / 8
    let w := s.sys.windows.getD q (0, false)
    some (0x1100 + 8 * q, 8, w.1 + if w.2 then 1 else 0)
  else if off < 0x1188 then some (0x1180, 8, s.fab.control)
  else if off < 0x2000 then none
  else if off < 0x2800 then
    let a := (off - 0x2000) / 2
    some (0x2000 + 2 * a, 2, (s.leaseOf a).toNat)
  else if off < 0x3000 then none
  else if off < 0x3004 then some (0x3000, 4, s.sys.mtime.toNat)
  else if off < 0x10000 then none
  else if off < 0x11000 then
    let i := (off - 0x10000) / 4
    some (0x10000 + 4 * i, 4, ((assoc s.fab.schedNext i).getD ((assoc s.fab.sched i).getD 0)).toNat)
  else if off < 0x11080 then
    let p := (off - 0x11000) / 4
    some (0x11000 + 4 * p, 4, ((assoc s.fab.mismatch p).getD 0).toNat)
  else if off < 0x20000 then none
  else if off < 0x22000 then
    let i := (off - 0x20000) / 32
    some (0x20000 + 32 * i, 32, ((assoc s.sys.migration i).getD 0).toNat)
  else if off < 0x30000 then none
  else if off < 0x32000 then
    let a := (off - 0x30000) / 8
    some (0x30000 + 8 * a, 8, (s.errq a).bits)
  else if off < 0x40000 then none
  else if off < 0x50000 then
    let n := (off - 0x40000) / 64
    if s.coreExists n then
      let c := s.core n
      some (0x40000 + 64 * n, 64,
        c.umiss.toNat + c.seed.toNat * 2 ^ 64 + (if c.saveReq then 2 ^ 128 else 0) + c.rpath.toNat * 2 ^ 192)
    else none
  else if off < 0x50100 then
    let d := (off - 0x50000) / 64
    let x := s.die d
    some (0x50000 + 64 * d, 64, x.stale.toNat + x.live.toNat * 2 ^ 64 + x.retrain.toNat * 2 ^ 128)
  else if off < 0x60000 then none
  else if off < 0x60300 then
    let n := (off - 0x60000) / 16
    some (0x60000 + 16 * n, 16, s.wearBits n)
  else if off < 0x70000 then none
  else if off < 0x70400 then
    let n := (off - 0x70000) / 16
    some (0x70000 + 16 * n, 16, ((assoc s.health.retirements n).getD 0).toNat)
  else if off < 0x70404 then some (0x70400, 4, s.health.retireCount.toNat)
  else none

/-- One byte of the register region; offsets the table does not list read zero. -/
def State.regByte (s : State) (off : Nat) : Byte :=
  match s.regStruct off with
  | some (b, _, v) => BitVec.ofNat 8 (v / 2 ^ (8 * (off - b)))
  | none => 0

/-! ## What single writes do -/

/-- Go (R344). -/
def State.setGo (s : State) (v : Bool) : State := { s with sys := { s.sys with go := v, locked := s.sys.locked || v } }

/-- The accept word (R346): only before go has been 1, and only offered bits. Without the fabric feature no port is enabled. -/
def State.setAccept (s : State) (v : BitVec 256) : State :=
  if s.sys.locked then s
  else
    let s := { s with sys := { s.sys with accept := v &&& s.sys.offer } }
    if s.featureOn 0 then s else { s with fab := { s.fab with portEn := 0 } }

/-- The paging queue's read index (R345). -/
def State.setPagingRd (s : State) (rd : BitVec 16) : State := { s with sys := { s.sys with pagingRd := rd } }

/-- The resume register (R345): the team that waits under the ticket may be re-admitted; another ticket is ignored. -/
def State.resumeTicket (s : State) (t : BitVec 16) : State :=
  let wake (x : Team) : Team :=
    match x.cond with
    | .saved why (some k) _ => if k = t then { x with cond := .saved why none true } else x
    | _ => x
  { s with teams := s.teams.map wake }

/-- A write to the uniformity-miss counter (R354): zero clears it. -/
def State.clearUmiss (s : State) (c : Nat) (v : Word) : State :=
  if v = 0 ∧ s.coreExists c then s.modCore c fun k => { k with umiss := 0 } else s

def State.clearStale (s : State) (d : Nat) (v : Word) : State :=
  if v = 0 then s.modDie d fun k => { k with stale := 0 } else s

def State.clearMismatch (s : State) (p : Nat) (v : Word) : State :=
  if v = 0 then { s with fab := { s.fab with mismatch := assocDel s.fab.mismatch p } } else s

def State.clearOvf (s : State) (q : Nat) (v : BitVec 16) : State :=
  if v = 0 then { s with sys := { s.sys with queues := s.sys.queues.modify q fun d => { d with ovf := 0 } } } else s

/-- No team is resident on the core (R117): a running handler, a trapped team, a team being saved and one whose fibres have ended count as
resident. -/
def State.coreEmpty (s : State) (c : Nat) : Bool :=
  s.teams.all fun t =>
    t.core != c || match t.cond with
      | .saved .. => true
      | .reserved => true
      | _ => false

/-- No team will run on the core again: a retired core is then absent (R350). -/
def State.deserted (s : State) (c : Nat) : Bool :=
  s.teams.all fun t => t.core != c || (t.cls != 0 && match t.cond with
    | .saved .. => true
    | _ => false)

/-- After a change from the state `before`: the rounding generator takes the seed when the change has left the core with no resident team
(R117); a core with a lasting lane column is then absent (R350). -/
def State.reseed (s before : State) (c : Nat) : State :=
  let s := if s.coreEmpty c && !before.coreEmpty c then s.modCore c fun k => { k with gen := k.seed } else s
  if (s.core c).retiring && s.deserted c then s.modCore c fun k => { k with present := false } else s

/-- The rounding seed (R117, R354): a written zero is stored as 1. The write loads nothing: the generator takes the seed
when the core is next left with no resident team. -/
def State.setSeed (s : State) (c : Nat) (v : Word) : State :=
  if s.coreExists c then
    s.modCore c fun k => { k with seed := if v = 0 then 1 else v }
  else s

/-- A team that a save request or a deadlock may save: resident, no handler, not concurrent (R229). -/
def Team.savable (t : Team) (c : Nat) : Bool :=
  t.core == c && t.cond == .resident && t.handlerFor.isNone && t.cls != 0

/-- A save request (R229): every resident team of the core that is not concurrent-class is saved. -/
def State.requestSave (s : State) (c : Nat) (v : Bool) : State :=
  if v && s.coreExists c then
    let start (t : Team) : Team := if t.savable c then { t with cond := .saving .request false 0 } else t
    let any := s.teams.any fun t => t.savable c
    { s with teams := s.teams.map start }.modCore c fun k => { k with saveReq := k.saveReq || any }
  else s

/-- Retrain bits (R354): a written 1 sets; the own bit, and a retired link's, stay 0. -/
def State.requestRetrain (s : State) (d : Nat) (bits : BitVec 4) : State :=
  s.modDie d fun k =>
    let own : BitVec 4 := 1#4 <<< d
    { k with retrain := k.retrain ||| (bits &&& ~~~own &&& ~~~k.retired) }

/-- Fabric control (R301, R346). -/
def State.setFabric (s : State) (v : Nat) : State :=
  let rto := bitsOf v 31 24
  { s with fab := { s.fab with
    portEn := if s.featureOn 0 then BitVec.ofNat 32 (bitsOf v 63 32) else 0
    rto := BitVec.ofNat 8 (if 1 ≤ rto ∧ rto ≤ 7 then 8 else rto), dev := BitVec.ofNat 10 v } }

/-- An entry of the orbit schedule, from the next orbit on (R302). -/
def State.setSched (s : State) (i : Nat) (v : Nat) : State :=
  let w := BitVec.ofNat 32 v &&& 0x800FFFE0#32
  { s with fab := { s.fab with schedNext := assocSet s.fab.schedNext i w } }

/-- The lease table (R286): a value below 4 is stored as 4. -/
def State.setLease (s : State) (a : Nat) (v : Nat) : State :=
  { s with sys := { s.sys with leases := assocSet s.sys.leases a (BitVec.ofNat 16 (max v 4)) } }

/-! ## A write to the region -/

/-- The bytes from `lo` to `hi` of a structure are touched by a write of `n` bytes at offset `k` of it. -/
def touches (k n lo hi : Nat) : Bool := k ≤ hi && lo < k + n

/-- A write of `n` bytes at `off`, all in one structure; `v` is the structure's image with the bytes in place. -/
def State.regPut (s : State) (base k n v : Nat) : State :=
  if base = 0x20 then s.setAccept (BitVec.ofNat 256 v)
  else if base = 0x40 then { s with sys := { s.sys with astBase := bitsOf v 51 16 * 2 ^ 16 } }
  else if base = 0x48 then { s with sys := { s.sys with ctxBase := bitsOf v 51 16 * 2 ^ 16 } }
  else if base = 0x50 then s.setGo (bitsOf v 0 0 == 1)
  else if base = 0x58 then { s with sys := { s.sys with pagingBase := bitsOf v 51 13 * 2 ^ 13 } }
  else if base = 0x60 then if touches k n 2 3 then s.setPagingRd (BitVec.ofNat 16 (bitsOf v 31 16)) else s
  else if base = 0x68 then if touches k n 0 1 then s.resumeTicket (BitVec.ofNat 16 v) else s
  else if 0x1000 ≤ base ∧ base < 0x1100 then
    let q := (base - 0x1000) / 16
    let s := if touches k n 14 15 then s.clearOvf q (BitVec.ofNat 16 (bitsOf v 127 112)) else s
    { s with sys := { s.sys with queues := s.sys.queues.modify q fun d => d.write v } }
  else if 0x1100 ≤ base ∧ base < 0x1180 then
    let q := (base - 0x1100) / 8
    { s with sys := { s.sys with windows := s.sys.windows.set q (bitsOf v 51 13 * 8192, bitsOf v 0 0 == 1) } }
  else if base = 0x1180 then s.setFabric v
  else if 0x2000 ≤ base ∧ base < 0x2800 then s.setLease ((base - 0x2000) / 2) v
  else if base = 0x3000 then { s with sys := { s.sys with mtime := BitVec.ofNat 24 v } }
  else if 0x10000 ≤ base ∧ base < 0x11000 then s.setSched ((base - 0x10000) / 4) v
  else if 0x11000 ≤ base ∧ base < 0x11080 then s.clearMismatch ((base - 0x11000) / 4) (BitVec.ofNat 32 v)
  else if 0x20000 ≤ base ∧ base < 0x22000 then
    let e : BitVec 192 := BitVec.ofNat 192 (v / 2 ^ 40 * 2 ^ 40 + v % 2)
    let i := (base - 0x20000) / 32
    { s with sys := { s.sys with
      migration := if e = 0 then assocDel s.sys.migration i else assocSet s.sys.migration i e } }
  else if 0x30000 ≤ base ∧ base < 0x32000 then
    s.setErrq ((base - 0x30000) / 8)
      ⟨BitVec.ofNat 16 v, BitVec.ofNat 16 (bitsOf v 31 16), BitVec.ofNat 16 (bitsOf v 47 32)⟩
  else if 0x40000 ≤ base ∧ base < 0x50000 then
    let c := (base - 0x40000) / 64
    let s := if touches k n 0 3 then s.clearUmiss c (BitVec.ofNat 32 v) else s
    let s := if touches k n 8 11 then s.setSeed c (BitVec.ofNat 32 (bitsOf v 95 64)) else s
    let s := if touches k n 16 16 then s.requestSave c (bitsOf v 128 128 == 1) else s
    if touches k n 24 27 then s.modCore c fun x => { x with rpath := BitVec.ofNat 32 (bitsOf v 223 192) } else s
  else if 0x50000 ≤ base ∧ base < 0x50100 then
    let d := (base - 0x50000) / 64
    let s := if touches k n 0 3 then s.clearStale d (BitVec.ofNat 32 v) else s
    if touches k n 16 16 then s.requestRetrain d (BitVec.ofNat 4 (bitsOf v 131 128)) else s
  else s

/-- A write of bytes at an offset of the register region: the bytes inside one structure are one write of it, and unlisted offsets ignore theirs;
`fuel` bounds the structures. -/
def State.regRuns : Nat → State → Nat → List Byte → State
  | 0, s, _, _ => s
  | fuel + 1, s, off, bs =>
    if bs.isEmpty then s
    else
      match s.regStruct off with
      | none => State.regRuns fuel s (off + 1) (bs.drop 1)
      | some (base, size, v) =>
        let k := min bs.length (base + size - off)
        State.regRuns fuel (s.regPut base (off - base) k (patch size v (off - base) (bs.take k))) (off + k) (bs.drop k)

def State.regWrite (s : State) (off : Nat) (bs : List Byte) : State := State.regRuns bs.length s off bs

end Sys2Proof.Machine
end

