-- ==== Sys2Proof/Machine/Access.lean ====
section
/-! DEFINITION. Global accesses at issue: routes, coalescing into line requests, the stalls of R202, R247, R260, R275, R307 and R353,
releases and acquires (R248 to R250), and the reads that an instruction waits for. -/

namespace Sys2Proof.Machine

/-! ## Routes -/

/-- The remote timeout in ticks (R301). -/
def State.rtoTicks (s : State) : Nat := usTicks (if s.fab.rto = 0 then 40 else s.fab.rto.toNat)

/-- How an access to a page is made (R202, R203). -/
inductive Route where
  /-- An uncached type of this device's memory, registers or host. -/
  | uncached
  /-- A private page of this device. -/
  | priv
  /-- A leased page of this device's DRAM. -/
  | leased
  /-- Token-coherent, wherever its home is. -/
  | token
  /-- Private or uncached, homed on another device. -/
  | remote
  deriving DecidableEq, Repr

/-- A page of this device's memory is a queue's window: its home intercepts every access (R314). -/
def State.intercepted (s : State) (p : Page) : Bool := p.home == s.dev && isDram p.pa && (s.windowOf p.pa).isSome

def State.route (s : State) (p : Page) : Route :=
  if s.intercepted p then .uncached
  else if p.home ≠ s.dev then (if p.ty = .normal ∧ p.cls ≠ .priv then .token else .remote)
  else if p.ty ≠ .normal then .uncached
  else
    match p.cls with
    | .priv => .priv
    | .leased => if isHost p.pa then .token else .leased
    | .token => .token

def Req.remote (s : State) (r : Req) : Bool := r.page.home != s.dev
def Req.toHost (r : Req) : Bool := isHost r.page.pa

/-! ## Coalescing (R188) -/

/-- One lane's access before coalescing. -/
structure Item where
  lane : LaneReq
  va : Nat
  page : Page
  deriving DecidableEq, Repr

def insertNat (x : Nat) : List Nat → List Nat
  | [] => [x]
  | y :: ys => if x < y then x :: y :: ys else if x = y then y :: ys else y :: insertNat x ys

/-- Distinct values in ascending order. -/
def sortNats (xs : List Nat) : List Nat := xs.foldl (fun l x => insertNat x l) []

/-- The lines of an instruction in ascending address, with the items of each by ascending lane. -/
def lineGroups (items : List Item) : List (Nat × List Item) :=
  (sortNats (items.map fun i => i.va / 256)).map fun l => (l, items.filter fun i => i.va / 256 == l)

/-- The first remote tags of a core that are free (R307). -/
def Core.freeTag (c : Core) : Option Nat := (List.range Config.remoteTags).find? fun k => (assoc c.tags k).isNone

def Core.epoch (c : Core) (tag : Nat) : BitVec 4 := (assoc c.epochs tag).getD 0

/-- The 64-byte sectors of a line that lanes touch. -/
def sectorMask (ls : List LaneReq) : BitVec 4 := ls.foldl (fun m l => m ||| (1#4 <<< (l.off / 64))) 0

def Req.laneBlk (r : Req) (l : LaneReq) : Nat := blkOf r.page.home (r.page.pa + l.off)

/-- Blocks that a request's lanes touch. -/
def Req.blocks (r : Req) : List Nat := sortNats (r.lanes.map r.laneBlk)

/-- Blocks of a line that a mask touches. -/
def touched (mask : BitVec 256) : List Nat := (List.range 2).filter fun h => mask.extractLsb' (128 * h) 128 != 0

/-- Blocks of a post. -/
def Post.blocks (p : Post) : List Nat := (touched p.mask).map fun h => blkOf p.home p.pa + h

/-- Two requests meet in a block, in one fibre of one team. -/
def Req.sharesBlock (r q : Req) : Bool :=
  q.team == r.team && q.lanes.any fun k => r.lanes.any fun l => k.fib == l.fib && q.laneBlk k == r.laneBlk l

/-- A store that an engine command makes. -/
def Req.byEngine (r : Req) : Bool := r.kind == .store && r.cmd.isSome

/-- The block of a flag word. -/
def FlagRef.blk (f : FlagRef) : Nat := blkOf f.page.home f.page.pa

/-- Two requests meet in the block of a flag that one of them is to update, in one fibre of one team. -/
def Req.meetsFlag (r q : Req) : Bool :=
  q.team == r.team && q.lanes.any fun k => r.lanes.any fun l => k.fib == l.fib && k.flag.any fun f => f.blk == r.laneBlk l

/-- A post writes a block, or is to be followed by the update of a flag in it. -/
def Post.touches (p : Post) (blk : Nat) : Bool := p.blocks.contains blk || p.flags.any fun f => f.any fun f => f.blk == blk

/-- The scope reaches the domain, or the host (R242). -/
def Scope.wideDom : Scope → Bool
  | .dom => true
  | .sys => true
  | _ => false

/-- The scope reaches the package. -/
def Scope.widePkg : Scope → Bool
  | .pkg => true
  | sc => Scope.wideDom sc

/-- Scope of a release, and of an acquire, in an order-and-scope code. -/
def relScope : OrdScope → Option Scope
  | .rel sc => some sc
  | .ar sc => some sc
  | _ => none

/-- Write-backs that a release of a core makes at a scope go to channels that running near-bank units keep shut: it waits for a window (R249, R338). -/
def State.flushShut (s : State) (c : Nat) (sc : Scope) : Bool :=
  Scope.widePkg sc && ((s.core c).view ++ (s.die (s.core c).die).view).any fun x => x.dirty && s.channelShut (x.addr * 64)

/-- The write-backs of a request are kept out by such units: those of a release, and those of its own sectors that it makes at once (R249, R312). -/
def State.ordShut (s : State) (c : Nat) (r : Req) : Bool :=
  (relScope r.ord).any (s.flushShut c)
    || ((r.kind == .flagged || (relScope r.ord).any Scope.widePkg) && s.route r.page == .priv && r.blocks.any fun b => s.channelShut (blkPa b))

/-- A remote access waits for an earlier one of its fibre to the same block that is not yet performed; and an access of any page waits for a store or
a flag update of its fibre in its block that is on its way to another device, to the block's home or to a window that holds it, and not yet
acknowledged (R245, R246, R260). Any access waits for its write-backs' channels (R338). -/
def State.remoteHeld (s : State) (c : Nat) (r : Req) : Bool :=
  s.ordShut c r || (r.page.home != s.dev && ((s.core c).reqs ++ (s.core c).storeQ).any fun q =>
      q.inst < r.inst && !q.byEngine && !q.openLanes.isEmpty && (r.sharesBlock q || r.meetsFlag q))
    || s.fab.posts.any fun p =>
      p.cmd.isNone && p.team == r.team && p.inst < r.inst && r.lanes.any fun l => p.fibs.contains l.fib && p.touches (r.laneBlk l)

def acqScope : OrdScope → Option Scope
  | .acq sc => some sc
  | .ar sc => some sc
  | _ => none

/-- The write-backs that a release makes as it performs (R249). -/
def State.reqRelease (s : State) (c : Nat) (ord : OrdScope) : State :=
  match relScope ord with
  | some sc => s.releaseViews c sc
  | none => s

/-- The drops that an acquire makes as it performs (R250). -/
def State.reqAcquire (s : State) (c : Nat) (ord : OrdScope) : State :=
  match acqScope ord with
  | some sc => s.acquireViews c sc
  | none => s

/-- A request has been sent: its timer starts, unless it runs (R306). -/
def Req.started (r : Req) (next : Nat) : Req :=
  { r with sent := true, age := if r.tried.isSome then r.age else 0, tried := r.tried.orElse fun _ => some next }

/-- A remote load or atomic line has left: its timer starts with the first send of the line (R306). -/
def State.noteSent (s : State) (c id : Nat) : State :=
  let mark (x : Req) : Req := if x.id == id then x.started s.nextId else x
  s.modCore c fun k => { k with reqs := k.reqs.map mark }

def lapped (a n b m : Nat) : Bool := a < b + m && b < a + n

/-- The lanes that have no lower lane on a byte of theirs: they go first, and the others one after another (R186, R188). -/
def firstLanes (ls : List LaneReq) : List LaneReq :=
  ls.filter fun l => (ls.takeWhile fun k => k != l).all fun k => !lapped k.off k.size l.off l.size

/-- The lanes of an atomic that may go go to their home, in ascending order; `tag` names the request in the answers (R281, R306). Of an
instruction of which no lane has acted, the first lane goes alone to another device (R189; log entry 79). -/
def State.sendLanes (s : State) (c : Nat) (r : Req) (op : AtomOp) (tag : Nat) (ep : BitVec 4) : State :=
  let isRed : Bool := match r.kind with
    | .red _ => true
    | _ => false
  let ls := firstLanes (if r.page.home = s.dev ∨ isRed ∨ r.acted then r.lanes else r.lanes.take 1)
  ls.foldl (fun s l =>
    s.send (s.here (.die (s.core c).die)) ⟨r.page.home, .home⟩
      (.atomReq (r.page.pa + l.off) op l.x l.y (tag * 64 + (if isRed then 32 else 0) + l.lane) ep)) s

/-- The tag of a request to a page whose tokens its home collects: above those of R307. -/
def Req.tokenTag (r : Req) : Nat := 2 ^ 20 + r.id

/-- Send a remote load or atomic line with a tag, when one is free (R306, R307); else it waits. An atomic that is not yet known to be good asks
first, as a load does, whether its line can be had. The tag of a message names the core, the tag and the lane. -/
def State.sendRemote (s : State) (c : Nat) (r : Req) : State :=
  match (s.core c).freeTag with
  | none => s
  | some tag =>
    let ep := (s.core c).epoch tag
    let src := s.here (.die (s.core c).die)
    let dst : Party := ⟨r.page.home, .home⟩
    let s := (s.modCore c fun k => { k with tags := assocSet k.tags tag r.id }).noteSent c r.id
    match r.kind, r.good with
    | .atom op, true => s.sendLanes c r op (c * 512 + tag) ep
    | _, _ =>
      -- A strongly ordered load makes the write-backs of a release first (R202).
      let s := match r.kind with
        | .load _ => s.reqRelease c r.ord
        | .fetch => s.reqRelease c r.ord
        | _ => s
      s.send src dst (.loadReq r.page.pa (sectorMask r.lanes) ((c * 512 + tag) * 64) ep)

/-- A read by a copy engine (R151): its command is named above the fibre numbers. -/
def engineBase : Nat := 2 ^ 20
def Req.byCopy (r : Req) : Bool := r.kind == .fetch && r.cmd.any (engineBase ≤ ·)

/-! ## Miss-status entries (R275) -/

/-- Bytes of a leased copy that may be used at a logical time (R289). -/
def usable (lt band : BitVec 24) (x : LeaseCopy) : Bool := timeLe lt (x.rts - band)

def findLease (l : List LeaseCopy) (blk : Nat) : Option LeaseCopy := l.find? fun x => x.blk == blk

/-- The twilight band in ticks (R291). -/
def State.band (s : State) : BitVec 24 := if s.dies.all fun d => !d.present || d.clock == .full then 2 else 3

/-- The L1 of a core holds sector `k` of a line of a page. -/
def State.inL1 (s : State) (c : Nat) (p : Page) (k : Nat) : Bool :=
  let pa := p.pa / 256 * 256 + 64 * k
  let blk := blkOf p.home pa
  match s.route p with
  | .priv => (findSector (s.core c).view (pa / 64)).isSome
  | .leased => ((findLease (s.core c).leases blk).filter (usable (s.core c).lt s.band)).isSome
  | .token => (s.localCopy blk).isSome || (s.hold? (.die (s.core c).die) blk).any fun h =>
      h.readable && h.valid.getLsbD (pa / 64 % 2) && h.lent.any fun x => x.1 == c
  | _ => false

/-- The sectors that some lanes of a line lack. -/
def State.lacking (s : State) (c : Nat) (p : Page) (ls : List LaneReq) : BitVec 4 :=
  (List.range 4).foldl (fun (m : BitVec 4) k => if (sectorMask ls).getLsbD k && !s.inL1 c p k then m ||| (1#4 <<< k) else m) 0

def sectorCount (m : BitVec 4) : Nat := ((List.range 4).filter m.getLsbD).length

/-- Miss-status entries that a core's loads hold. -/
def Core.missUsed (k : Core) : Nat :=
  (k.reqs.map fun r => match r.miss with
    | .held m => sectorCount m
    | _ => 0).foldl (· + ·) 0

/-- Loads in a core's ingress queue. -/
def Core.ingress (k : Core) : List Req := k.reqs.filter fun r => r.miss == .ingress

/-- What a load of some lanes of a line gets as it issues: nothing where L1 holds them, its entries, or a place in the ingress queue. -/
def State.missOf (s : State) (c : Nat) (p : Page) (ls : List LaneReq) : Miss :=
  let m := s.lacking c p ls
  if m = 0 then .hit
  else if (s.core c).ingress.isEmpty && (s.core c).missUsed + sectorCount m ≤ Config.missEntries then .held m
  else .ingress

/-- The first load of the ingress queue takes its entries once they are free. -/
def State.fromIngress (s : State) (c : Nat) (r : Req) : Option State :=
  let m := s.lacking c r.page r.lanes
  if ((s.core c).ingress.head?.map fun q => q.id) = some r.id && (s.core c).missUsed + sectorCount m ≤ Config.missEntries then
    some (s.modCore c fun k => { k with
      reqs := k.reqs.map fun (q : Req) => if q.id == r.id then { q with miss := if m = 0 then .hit else .held m } else q })
  else none

/-- An earlier miss to the same line whose fill is still to come (R275). -/
def State.linkedBehind (s : State) (c : Nat) (r : Req) : Bool :=
  let missed (q : Req) : Bool := match q.miss with
    | .held _ => true
    | _ => false
  missed r && (s.core c).reqs.any fun q =>
    missed q && q.id < r.id && q.page.home == r.page.home && q.page.pa == r.page.pa && !q.openLanes.isEmpty

/-! ## Requests join the issue queues (R244) -/

/-- The order of an access to a page (R202): the qualifiers count on normal pages, and a strongly ordered access is fenced on both sides. -/
def pageOrd (p : Page) (ord : OrdScope) : OrdScope :=
  match p.ty with
  | .normal => ord
  | .stronglyOrdered => .ar .sys
  | _ => .rlx

/-- A load or another read that an instruction waits for. -/
def ReqKind.isRead : ReqKind → Bool
  | .load _ => true
  | .fetch => true
  | .prefetch => true
  | _ => false

/-- A read of a copy engine or of `pf`: data that are lost are reported, and stop no fibre (R151, R191). -/
def Req.quiet (r : Req) : Bool := r.byCopy || r.kind == .prefetch

/-- A request joins the issue queue of its core; a remote load leaves at once where nothing holds it. -/
def State.enqueue (s : State) (c : Nat) (r : Req) : State :=
  let r := if r.kind.isRead && !r.byCopy then { r with miss := s.missOf c r.page r.lanes } else r
  let s := (s.modCore c fun k => { k with reqs := k.reqs ++ [r] }).fresh
  if r.kind.isRead && s.route r.page == .remote && r.miss != .ingress && !s.remoteHeld c r then s.sendRemote c r else s

/-- Put the line requests of an instruction into the core's issue queues. -/
def State.addReqs (s : State) (t : Team) (bundle : List Nat) (epc : Word) (inst : Nat) (kind : ReqKind) (ord : OrdScope)
    (groups : List (Nat × List Item)) : State :=
  groups.foldl (fun s g =>
    match g.2 with
    | [] => s
    | i :: _ =>
      let page := { i.page with pa := i.page.pa / 256 * 256 }
      s.enqueue t.core
        { id := s.nextId, inst := inst, team := t.id, bundle := bundle, epc := epc, kind := kind, ord := pageOrd page ord
          va := g.1 * 256, page := page, lanes := g.2.map fun x => x.lane, data := none, sent := false
          age := 0, bad := [], all := g.2.map fun x => (x.lane.lane, x.lane.fib)
          told := false, cmd := none, miss := .hit, good := false, acted := false, tried := none, rts := none }) s

/-! ## Stalls of a global access -/

def MemType.isStrong (ty : MemType) : Bool := ty == .stronglyOrdered
def MemType.isDevice (ty : MemType) : Bool := ty == .stronglyOrdered || ty == .device

/-- Requests of the fibres that are not yet performed: in the issue queues or the store queue. -/
def State.pendingReqs (s : State) (t : Team) (is : List Nat) : List Req :=
  ((s.core t.core).reqs ++ (s.core t.core).storeQ).filter fun r => r.ofFibres t.id is && !r.byEngine

/-- Posted lines that carry accesses of the fibres and have not ended (R308). -/
def State.pendingPosts (s : State) (t : Team) (is : List Nat) : List Post :=
  s.fab.posts.filter fun p => p.cmd.isNone && p.team == t.id && is.any p.fibs.contains

/-- The pages on which the elements lie that a copy command has still to move. -/
def State.pagesAhead (s : State) (t : Team) (m : Cmd) : List Page :=
  let through (n elem : Nat) (a : Access) : List Page :=
    let z := 2 ^ (recordOfBits (t.record n)).esz
    let vas := (List.range ((m.size - m.done) / z)).filterMap fun k =>
      match elementAddr (t.record n) m.fib (elem + m.done / z + k) z with
      | .ok x => x.map (· / 4096 * 4096)
      | .error _ => none
    (distinct vas).filterMap fun va =>
      match s.translate t.core t.asid va a t.privileged with
      | .ok p => some p
      | .error _ => none
  match m.kind with
  | .cpin n elem => through n elem .load
  | .cpout n elem => through n elem .store
  | _ => []

/-- The types of the pages that engines have still to reach for some fibres, by instructions before `inst`: a copy command reads and writes as its
fibre's loads and stores, which the types order (R202, R258). -/
def State.copyTypes (s : State) (t : Team) (is : List Nat) (inst : Nat) : List MemType :=
  let k := s.core t.core
  (((k.reqs ++ k.storeQ).filter fun r => r.team == t.id && r.inst < inst && (r.byEngine || r.byCopy) && r.bundle.any is.contains).map fun r => r.page.ty)
    ++ ((s.fab.posts.filter fun p => p.cmd.isSome && p.team == t.id && p.inst < inst && is.contains p.fib).map fun p => p.ty)
    ++ (k.cmds.filter fun m => m.team == t.id && m.inst < inst && is.contains m.fib).flatMap fun m => (s.pagesAhead t m).map fun p => p.ty

/-- The loads of an instruction find no room: the ingress queue is full, or would not hold those that find no entry (R275). -/
def State.ingressFull (s : State) (c : Nat) (reads : Bool) (groups : List (Nat × List Item)) : Bool :=
  let k := s.core c
  let n := k.ingress.length
  let lacks := groups.filterMap fun g => g.2.head?.map fun i => s.lacking c i.page (g.2.map fun x => x.lane)
  let need := (lacks.map sectorCount).foldl (· + ·) 0
  Config.ingressEntries ≤ n
    || (reads && (0 < n || Config.missEntries < k.missUsed + need) && Config.ingressEntries < n + (lacks.filter fun m => m != 0).length)

/-- An access waits at issue: a full ingress queue (R275), an outstanding strongly ordered access, a device access behind another (R202), a
strongly ordered access behind anything, or too few remote tags (R307). An instruction all of whose lanes are dropped makes no access, and
does not wait. -/
def State.accessStalls (s : State) (t : Team) (act : List Nat) (opens : Bool) (groups : List (Nat × List Item)) : Bool :=
  let old := s.pendingReqs t act
  let posts := s.pendingPosts t act
  let pages := groups.flatMap fun g => (g.2.take 1).map fun i => i.page
  let unsent := ((s.core t.core).reqs.filter fun r => r.isOpen && !r.sent && s.route r.page == .remote).length
  let tags := ((List.range Config.remoteTags).filter fun k => (assoc (s.core t.core).tags k).isNone).length - unsent
  let far := (pages.filter fun p => opens && s.route p == .remote).length
  let copies := s.copyTypes t act s.nextId
  let earlier (p : MemType → Bool) : Bool := old.any (fun r => p r.page.ty) || (posts.any fun q => p q.ty) || copies.any p
  !groups.isEmpty &&
  (s.ingressFull t.core opens groups
    || earlier MemType.isStrong
    || (pages.any (fun p => p.ty.isDevice) && earlier MemType.isDevice)
    || (pages.any (fun p => p.ty.isStrong) && !(old.isEmpty && posts.isEmpty))
    || (0 < far && tags < far))

/-! ## Checks and items -/

/-- The cause of a placed access, with a remote home that cannot be reached (R189, R306). -/
def State.placedError (s : State) (t : Team) (a : Access) (ro : Bool) (p : Place?) : Option Cause :=
  match s.accessError t a ro p with
  | some c => some c
  | none =>
    match p with
    | .ok (some va) =>
      match s.translate t.core t.asid va a t.privileged with
      | .ok g =>
        if (a = .load ∨ a = .atom) ∧ !s.reachable g.home then some { code := 0x40, addr := va } else none
      | .error c => some c
    | _ => none

/-- All checks of an access, in the order of R189. -/
def accessOrder (err : Nat → Fibre → Option Cause) : List Check :=
  [0x36, 0x33, 0x32, 0x38, 0x31, 0x30, 0x40, 0x70].map fun code => fun i f =>
    match err i f with
    | some c => if c.code = code then some c else none
    | none => none

/-- The item of a lane, unless it is dropped. -/
def State.item (s : State) (t : Team) (a : Access) (i : Nat) (p : Place?) (size : Nat) (dst reads : List Nat) (x y : Word) :
    Option Item :=
  match p with
  | .ok (some va) =>
    match s.translate t.core t.asid va a t.privileged with
    | .ok g =>
      some { lane := { lane := laneOf i, fib := i, off := va % 256, size := size, dst := dst, reads := reads, x := x, y := y
                       flag := none }
             va := va, page := { g with pa := g.pa } }
    | .error _ => none
  | _ => none

/-- Mark destinations pending (R184); a dropped lane's are known to be 0 (R181). -/
def Fibre.markPend (f : Fibre) (inst : Nat) (dst : List Nat) (value : Option Word) : Fibre :=
  { f with pend := f.pend ++ dst.map fun r => ⟨r, inst, value⟩ }

/-! ## Releases and acquires (R248 to R250, R253) -/

/-- A request counts at a scope (R248). -/
def Req.counts (s : State) (r : Req) (sc : Scope) : Bool :=
  if r.remote s then Scope.wideDom sc else if r.toHost then sc == .sys else true

/-- A post counts at a scope: one to memory of this device at each (R248). DESIGN CHOICE: a flagged store counts by the home of its data until the
update of its flag is a post of its own (log entry 108). -/
def Post.counts (s : State) (p : Post) (sc : Scope) : Bool := if p.home = s.dev then (if isHost p.pa then sc == .sys else true) else Scope.wideDom sc

/-- Every earlier access of the fibres is performed at their instance of a scope, but for the write-backs that the release itself
makes, which find their channels open (R248, R249, R338). -/
def State.performedAt (s : State) (t : Team) (is : List Nat) (sc : Scope) : Bool :=
  !s.flushShut t.core sc && (s.pendingReqs t is).all (fun r => !r.counts s sc) && (s.pendingPosts t is).all fun p => !p.counts s sc

/-- A release of a fibre of package scope or wider, before an instruction number, is still to be performed (R258). -/
def State.releaseBusy (s : State) (c team fib inst : Nat) : Bool :=
  let wide (o : OrdScope) : Bool := (relScope o).any Scope.widePkg
  (((s.core c).reqs ++ (s.core c).storeQ).any fun q =>
      wide q.ord && q.inst < inst && q.ofFibres team [fib] && !q.byEngine && !q.openLanes.isEmpty)
    || s.fab.posts.any fun p => p.cmd.isNone && wide p.ord && p.inst < inst && p.team == team && p.fibs.contains fib

/-- The write-backs of a release by fibres of a team. -/
def State.releaseOf (s : State) (t : Team) (sc : Scope) : State := s.releaseViews t.core sc

def State.acquireOf (s : State) (t : Team) (sc : Scope) : State := s.acquireViews t.core sc

/-! ## What a load has returned, and its reach (R243, R248) -/

/-- An earlier store of the load's own fibre to the sector is still in the queues of its core: its reach is the core. -/
def State.seenQueued (s : State) (c : Nat) (x : Seen) : Bool :=
  ((s.core c).reqs ++ (s.core c).storeQ).any fun q =>
    (q.kind == .store || q.kind == .flagged) && !q.byEngine && q.team == x.team && q.inst < x.inst && q.page.home == s.dev
      && q.lanes.any fun k => k.fib == x.fib && (q.page.pa + k.off) / 64 == x.sector

/-- The reach of the write that a load returned, by where the write lies: in the queues or the core view, in the die view, or in the block
order (R243, R244). -/
def State.reachOf (s : State) (c : Nat) (x : Seen) : Scope :=
  if s.seenQueued c x || (findSector (s.core c).view x.sector).any (·.dirty) then .core
  else if (findSector (s.die (s.core c).die).view x.sector).any (·.dirty) then .die
  else .sys

/-- Keep what a load returned from a sector for as long as its write has not the widest reach. -/
def State.noteSeen (s : State) (c : Nat) (x : Seen) : State :=
  s.modCore c fun k => { k with seen := (k.seen ++ [x]).filter fun y => s.reachOf c y != .sys }

/-! ## Reads that an instruction waits for (R219, R62, R227) -/

/-- The read of a fibre for the line of an address; `cmd` names the fibre. -/
def State.fetched (s : State) (t : Team) (fib va : Nat) : Option Req :=
  (s.core t.core).reqs.find? fun r => r.kind == .fetch && r.team == t.id && r.cmd == some fib && r.va == va / 256 * 256

def Req.settled (r : Req) : Bool := r.lanes.isEmpty

/-- Bytes of a settled read. -/
def Req.bytesAt (r : Req) (va n : Nat) : List Byte :=
  (List.range n).map fun i => (r.data.getD 0).extractLsb' ((va + i) % 256 * 8) 8

/-- One lane for each eight of `n` bytes of a line at an address, with what it stores. -/
def wordLanes (fib va n : Nat) (bs : List Byte) : List LaneReq :=
  (List.range ((n + 7) / 8)).map fun k =>
    let w := bytesNat ((bs.drop (8 * k)).take 8)
    { lane := laneOf fib, fib := fib, off := va % 256 + 8 * k, size := min 8 (n - 8 * k), dst := [], reads := []
      x := BitVec.ofNat 32 w, y := BitVec.ofNat 32 (w / 2 ^ 32), flag := none }

/-- A request of `who` for bytes of one line. -/
def State.lineReq (s : State) (who fib va : Nat) (kind : ReqKind) (p : Page) (lanes : List LaneReq) : Req :=
  { id := s.nextId, inst := s.nextId, team := who, bundle := [], epc := 0, kind := kind, ord := pageOrd p .rlx
    va := va / 256 * 256, page := { p with pa := p.pa / 256 * 256 }, lanes := lanes, data := none, sent := false, age := 0, bad := []
    all := [(laneOf fib, fib)], told := false, cmd := none, miss := .hit, good := false, acted := false, tried := none, rts := none }

/-- Start a read of `n` bytes at an address for a fibre. -/
def State.startFetch (s : State) (t : Team) (fib va n : Nat) (p : Page) (epc : Word) (bundle : List Nat) : State :=
  let r := s.lineReq t.id fib va .fetch p (wordLanes fib va n [])
  s.enqueue t.core { r with bundle := bundle, epc := epc, cmd := some fib }

/-- A read that an instruction of some fibres waits for waits at issue, as a load would (R202, R275, R307). -/
def State.readStalls (s : State) (t : Team) (is : List Nat) (va : Nat) (p : Page) : Bool :=
  s.accessStalls t is true [(va / 256, (wordLanes (is.headD 0) va 4 []).map fun l => ⟨l, va, p⟩)]

/-- A settled read is used: it leaves the queue, and a strongly ordered one makes the acquire that follows it (R202). -/
def State.useFetch (s : State) (c : Nat) (r : Req) : State :=
  (s.modCore c fun k => { k with reqs := k.reqs.filter fun x => x.id != r.id }).reqAcquire c r.ord

/-- Requests of a core that satisfy `p` are abandoned: their remote tags are freed, and the tags' epochs advance (R307). -/
def State.abandon (s : State) (c : Nat) (p : Req → Bool) : State :=
  let gone := ((s.core c).reqs.filter p).map fun r => r.id
  s.modCore c fun k =>
    let freed := k.tags.filter fun x => gone.contains x.2
    { k with reqs := k.reqs.filter fun r => !p r
             tags := k.tags.filter fun x => !gone.contains x.2
             epochs := freed.foldl (fun e x => assocSet e x.1 ((assoc e x.1).getD 0 + 1)) k.epochs }

/-! ## The core's own accesses to another device's memory (R212, R213, R215, R231, R234)

They are line requests like any other, under the number of the team, the launch or the record that they are made for, and of no fibre. -/

/-- In the place of a fibre's number: an access of the core itself. -/
def ownFib : Nat := 2 ^ 30

/-- A read of the core itself. -/
def Req.isOwn (r : Req) : Bool := r.kind == .fetch && r.cmd.isNone

/-- The core's own read of the line of an address for `who`. -/
def State.ownRead (s : State) (c who va : Nat) : Option Req :=
  (s.core c).reqs.find? fun r => r.isOwn && r.team == who && r.va == va / 256 * 256

def State.startOwn (s : State) (c who va : Nat) (p : Page) : State :=
  s.enqueue c (s.lineReq who ownFib va .fetch p (wordLanes ownFib 0 256 []))

/-- Own reads that have served are dropped. -/
def State.dropOwn (s : State) (c who : Nat) : State := s.abandon c fun r => r.isOwn && r.team == who

/-- The core itself stores bytes of a line, through to the block order; what it has read of the line is out of date. -/
def State.ownStore (s : State) (c who va : Nat) (p : Page) (bs : List Byte) : State :=
  let s := s.abandon c fun r => r.isOwn && r.team == who && r.va == va / 256 * 256
  s.enqueue c { s.lineReq who ownFib va .store p (wordLanes ownFib va bs.length bs) with ord := pageOrd p (.rel .pkg) }

/-- Own stores for `who` are not yet performed. -/
def State.ownBusy (s : State) (who : Nat) : Bool :=
  (s.cores.any fun k => (k.reqs ++ k.storeQ).any fun r => r.kind == .store && r.team == who && r.lanes.any fun l => l.fib == ownFib)
    || s.fab.posts.any fun p => p.team == who && p.fib == ownFib

/-! ## Error queues (R309, R310) -/

/-- A failure to report. -/
structure Report where
  asid : Nat
  cause : Nat
  detail : Nat
  peer : Nat
  kind : Nat
  launch : Nat
  fibre : Nat
  team : Nat
  epc : Nat
  addr : Nat
  lanes : Nat
  /-- The model's number of the team. -/
  teamId : Nat
  deriving DecidableEq, Repr

def Report.bits (r : Report) : Nat :=
  2 ^ 255 + r.cause * 2 ^ 248 + r.detail * 2 ^ 240 + r.peer * 2 ^ 230 + r.kind * 2 ^ 226 + r.launch * 2 ^ 206
    + r.fibre * 2 ^ 196 + r.team * 2 ^ 160 + r.epc * 2 ^ 128 + r.addr * 2 ^ 64 + r.lanes * 2 ^ 32

/-- The context descriptor of an address space (R231). -/
def State.contextBits (s : State) (asid : Nat) : BitVec 512 :=
  BitVec.ofNat 512 (s.readPaNat (s.sys.ctxBase + 64 * asid) 64)

/-- Physical address of an error queue (R231, R309). -/
def State.errqBase (s : State) (asid : Nat) : Nat := ((s.contextBits asid).extractLsb' 473 39).toNat * 8192

/-- Write a failure to its error queue, or count it as overflow, which raises cause 0x42 in the team at its next boundary. -/
def State.report (s : State) (r : Report) : State :=
  let q := s.errq r.asid
  if (q.wr - q.rd).toNat < 256 then
    (s.writePa (s.errqBase r.asid + q.wr.toNat % 256 * 32) (natBytes 32 r.bits)).setErrq r.asid { q with wr := q.wr + 1 }
  else
    (s.setErrq r.asid { q with ovf := if q.ovf = 0xFFFF then q.ovf else q.ovf + 1 }).modTeam r.teamId fun t =>
      if t.overflow.isSome then t else { t with overflow := some (BitVec.ofNat 64 r.addr) }

/-- The launch number of a team's launch (R215). -/
def State.launchNumber (s : State) (t : Team) : Nat :=
  match s.launch? t.launch with
  | some l => l.q * 65536 + l.slot
  | none => 0

/-- What a report of a team names, also after the team was removed without saving (R222). -/
def State.origin (s : State) (team : Nat) : Option Gone :=
  match s.team? team with
  | some t => some ⟨t.id, t.launch, t.core, t.asid, s.launchNumber t, t.num⟩
  | none => s.gone.find? fun g => g.team == team

/-- The address space of a team's accesses. -/
def State.spaceOf (s : State) (team : Nat) : Option (BitVec 10) := (s.origin team).map (·.asid)

/-- A report for a team's access; a failed write of the core itself to the team's frame is kept for its launch (R231). -/
def State.reportFor (s : State) (team : Nat) (cause detail peer kind fib : Nat) (epc : Word) (addr lanes : Nat) : State :=
  match s.origin team with
  | none => s
  | some g =>
    if fib = ownFib then s.modTeam team fun t => { t with lost := true }
    else
      s.report { asid := g.asid.toNat, cause := cause, detail := detail, peer := peer, kind := kind
                 launch := g.number, fibre := fib, team := g.num, epc := epc.toNat, addr := addr, lanes := lanes
                 teamId := team }

/-! ## Posted lines (R223, R308, R310) -/

/-- The code of a post's kind in an error entry (R310). -/
def Post.code (p : Post) : Nat :=
  match p.kind with
  | .store => if p.cmd.isSome then 6 else 0
  | .storeLine => if p.cmd.isSome then 6 else 0
  | .reduction => 1
  | .flagData => 2
  | .flag => 3
  | .launchLine => if p.ty = .writeCombining then 7 else if p.cmd.isSome then 6 else 0
  | .completion => 0

/-- Report a post's failure (R308 to R310); that of a completion record goes to its status word (R223). -/
def State.reportPost (s : State) (p : Post) (cause detail : Nat) : State :=
  if p.told then s
  else if p.kind = .completion then s.modLaunch p.inst fun l => { l with lost := true }
  else s.reportFor p.team cause detail p.home p.code p.fib p.epc (p.va / 256 * 256) (if p.code ≤ 3 then p.lanes.toNat else 0)

/-- Send a post, or report at once that its home cannot be reached. -/
def State.sendPost (s : State) (p : Post) (body : Body) : State :=
  if !s.reachable p.home then s.reportPost p 0x43 1
  else
    ({ s with fab := { s.fab with posts := s.fab.posts ++ [p] } }).send (s.here (.die (s.core p.core).die)) ⟨p.home, .home⟩ body

end Sys2Proof.Machine
end

