-- ==== Sys2Proof/Machine/Float.lean ====
section
/-! DEFINITION. Floating-point and integer element formats, their exact values, and the roundings of the lane, slot and
matrix instructions (R74, R103 to R108, R113 to R122, R164). -/

namespace Sys2Proof.Machine

/-! ## Values and formats -/

/-- An exact value: `fin s m e` is `(-1)^s · m · 2^e`; for an operand read from bits, `2^e` is the place value of bit 0 of its
significand (lsb of R115). -/
inductive FVal where
  | nan
  | inf (neg : Bool)
  | fin (neg : Bool) (m : Nat) (e : Int)
  deriving DecidableEq, Repr

/-- A floating-point format (R113). The codes are those of the positive value. -/
structure FFmt where
  width : Nat
  /-- Mantissa bits. -/
  mb : Nat
  bias : Int
  /-- Code of the largest finite value. -/
  maxFin : Nat
  /-- Code of +∞, where the format has infinities. -/
  infCode : Option Nat
  /-- Canonical NaN. -/
  nanCode : Nat
  deriving DecidableEq, Repr

def fp32 : FFmt := ⟨32, 23, 127, 0x7F7FFFFF, some 0x7F800000, 0x7FC00000⟩
def fp16 : FFmt := ⟨16, 10, 15, 0x7BFF, some 0x7C00, 0x7E00⟩
def bf16 : FFmt := ⟨16, 7, 127, 0x7F7F, some 0x7F80, 0x7FC0⟩
def e4m3 : FFmt := ⟨8, 3, 7, 0x7E, none, 0x7F⟩
def e5m2 : FFmt := ⟨8, 2, 15, 0x7B, some 0x7C, 0x7E⟩

/-- The exponent of the smallest subnormal: the least place value of the format. -/
def FFmt.qmin (f : FFmt) : Int := 1 - f.bias - f.mb

/-- The sign bit of a code. -/
def FFmt.signOf (f : FFmt) (x : Nat) : Bool := x / 2 ^ (f.width - 1) % 2 == 1

/-- The code without its sign. -/
def FFmt.magOf (f : FFmt) (x : Nat) : Nat := x % 2 ^ (f.width - 1)

/-- The value of a code (R113). -/
def FFmt.value (f : FFmt) (x : Nat) : FVal :=
  let s := f.signOf x
  let mag := f.magOf x
  if mag ≤ f.maxFin then
    let ex := mag / 2 ^ f.mb
    let fr := mag % 2 ^ f.mb
    if ex = 0 then .fin s fr f.qmin else .fin s (2 ^ f.mb + fr) (f.qmin + (ex - 1 : Int))
  else if f.infCode = some mag then .inf s
  else .nan

/-- A code with its sign. -/
def FFmt.signed (f : FFmt) (neg : Bool) (mag : Nat) : Nat := if neg then 2 ^ (f.width - 1) + mag else mag

/-- A subnormal operand: non-zero with a zero exponent field. -/
def FFmt.isSubnormal (f : FFmt) (x : Nat) : Bool := 0 < f.magOf x && f.magOf x < 2 ^ f.mb

/-! ## Rounding -/

/-- The rounding modes of a slot (R111). -/
inductive Rnd where
  | nearest | zero | stochastic
  deriving DecidableEq, Repr

/-- round(x, u) of R115 in units of u = 2^q, for |x| = m · 2^e: the rounded count of u. -/
def roundUnits (r : Rnd) (draw : Word) (m : Nat) (e q : Int) : Nat :=
  if q ≤ e then m * 2 ^ (e - q).toNat
  else
    let d := (q - e).toNat
    let t := m / 2 ^ d
    let rem := m % 2 ^ d
    let up : Bool :=
      match r with
      | .nearest => 2 * rem > 2 ^ d || (2 * rem == 2 ^ d && t % 2 == 1)
      | .zero => false
      | .stochastic =>
        let w := min d 32
        draw.toNat % 2 ^ w < rem / 2 ^ (d - w)
    if up then t + 1 else t

/-- The code of |x| = m · 2^e rounded with the format's spacing and an unbounded exponent above its range (R115); a code above
`maxFin` lies beyond the range. A value more than 400 places below the least place value rounds to 0 in every mode. -/
def FFmt.roundMag (f : FFmt) (r : Rnd) (draw : Word) (m : Nat) (e : Int) : Nat :=
  if m = 0 then 0
  else
    let top := e + (Nat.log2 m : Int)
    if top > f.bias + 1 then f.maxFin + 1
    else if top < f.qmin - 400 then 0
    else
      let q := max (top - f.mb) f.qmin
      (q - f.qmin).toNat * 2 ^ f.mb + roundUnits r draw m e q

/-- Rounding to nearest even in a format with infinities: the code of the value (R103, R108). -/
def FFmt.rne (f : FFmt) (v : FVal) : Nat :=
  match v with
  | .nan => f.nanCode
  | .inf s => f.signed s (f.infCode.getD f.nanCode)
  | .fin s m e =>
    let c := f.roundMag .nearest 0 m e
    if c > f.maxFin then f.signed s (f.infCode.getD f.nanCode) else f.signed s c

/-- rne32 of the manual. -/
def rne32 (v : FVal) : Word := BitVec.ofNat 32 (fp32.rne v)

/-- The value of an FP32 register. -/
def val32 (x : Word) : FVal := fp32.value x.toNat

/-! ## Exact arithmetic -/

def FVal.neg : FVal → FVal
  | .nan => .nan
  | .inf s => .inf (!s)
  | .fin s m e => .fin (!s) m e

/-- The exact sum, with the special cases of R104: opposite infinities give NaN, an exact zero of opposite signs +0. -/
def FVal.add : FVal → FVal → FVal
  | .nan, _ => .nan
  | _, .nan => .nan
  | .inf s, .inf t => if s = t then .inf s else .nan
  | .inf s, .fin _ _ _ => .inf s
  | .fin _ _ _, .inf t => .inf t
  | .fin s m e, .fin t n k =>
    if m = 0 ∧ n = 0 then .fin (s && t) 0 0
    else if m = 0 then .fin t n k
    else if n = 0 then .fin s m e
    else
      let lo := min e k
      let a : Int := (m * 2 ^ (e - lo).toNat : Nat)
      let b : Int := (n * 2 ^ (k - lo).toNat : Nat)
      let sum := (if s then -a else a) + (if t then -b else b)
      if sum = 0 then .fin false 0 0 else .fin (sum < 0) sum.natAbs lo

/-- The exact product; 0 × ∞ gives NaN (R104). -/
def FVal.mul : FVal → FVal → FVal
  | .nan, _ => .nan
  | _, .nan => .nan
  | .inf s, .inf t => .inf (s != t)
  | .inf s, .fin t n _ => if n = 0 then .nan else .inf (s != t)
  | .fin s m _, .inf t => if m = 0 then .nan else .inf (s != t)
  | .fin s m e, .fin t n k => .fin (s != t) (m * n) (e + k)

/-- A value `m · 2^e` of which only the bits above a place far below the last kept one are known: a final odd bit stands for a
non-zero remainder, so that rounding sees no false tie. -/
def sticky (neg : Bool) (m : Nat) (e : Int) (exact : Bool) : FVal :=
  .fin neg (2 * m + (if exact then 0 else 1)) (e - 1)

/-- The quotient, to be rounded once (R104). -/
def FVal.div : FVal → FVal → FVal
  | .nan, _ => .nan
  | _, .nan => .nan
  | .inf _, .inf _ => .nan
  | .inf s, .fin t _ _ => .inf (s != t)
  | .fin s _ _, .inf t => .fin (s != t) 0 0
  | .fin s m e, .fin t n k =>
    if n = 0 then (if m = 0 then .nan else .inf (s != t))
    else if m = 0 then .fin (s != t) 0 0
    else sticky (s != t) (m * 2 ^ 64 / n) (e - k - 64) (m * 2 ^ 64 % n == 0)

/-- The integer square root of `x`, found bit by bit from bit `k - 1` on top of `r`. -/
def isqrtFrom (x : Nat) : Nat → Nat → Nat
  | 0, r => r
  | k + 1, r => if (r + 2 ^ k) * (r + 2 ^ k) ≤ x then isqrtFrom x k (r + 2 ^ k) else isqrtFrom x k r

/-- ⌊√x⌋ for x below 2^256. -/
def isqrt (x : Nat) : Nat := isqrtFrom x 128 0

/-- √x, to be rounded once (R106). -/
def FVal.sqrt : FVal → FVal
  | .nan => .nan
  | .inf s => if s then .nan else .inf false
  | .fin s m e =>
    if m = 0 then .fin s 0 0
    else if s then .nan
    else
      let n := if e % 2 = 0 then m else 2 * m
      let k := if e % 2 = 0 then e else e - 1
      let r := isqrt (n * 2 ^ 80)
      sticky false r (k / 2 - 40) (r * r == n * 2 ^ 80)

/-- 1 ÷ √x, to be rounded once (R106). -/
def FVal.rsqrt : FVal → FVal
  | .nan => .nan
  | .inf s => if s then .nan else .fin false 0 0
  | .fin s m e =>
    if m = 0 then .inf s
    else if s then .nan
    else
      let n := if e % 2 = 0 then m else 2 * m
      let k := if e % 2 = 0 then e else e - 1
      let r := isqrt (2 ^ 160 / n)
      sticky false r (-(k / 2) - 80) (r * r * n == 2 ^ 160)

/-! ## Exponential and logarithm

The value of `fexp2` and `flog2` is irrational for every operand whose result is not listed as exact, so no tie occurs. It is
computed in fixed point with `expPrec` fraction bits, with a final sticky bit. -/

/-- Fraction bits of the fixed-point evaluation. DEDUCED: far more than the distance of any FP32 operand's value from a
rounding boundary (log entry 7). -/
def expPrec : Nat := 256

/-- Σ z^(2k+1) / (2k+1) for `n` terms in fixed point: `p` is z^(2k+1), `z2` is z², both scaled by 2^expPrec. -/
def atanhSum (z2 : Nat) : Nat → Nat → Nat → Nat
  | 0, _, _ => 0
  | n + 1, k, p => p / (2 * k + 1) + atanhSum z2 n (k + 1) (p * z2 / 2 ^ expPrec)

/-- ln x for x = 1 + (num / den), scaled by 2^expPrec: 2 · atanh(num / (num + 2 den)). -/
def lnFixed (num den : Nat) : Nat :=
  let z := num * 2 ^ expPrec / (num + 2 * den)
  2 * atanhSum (z * z / 2 ^ expPrec) 90 0 z

/-- ln 2, scaled. -/
def ln2Fixed : Nat := lnFixed 1 1

/-- Σ y^k / k! for `n` terms from the term `p` of index `k`, scaled. -/
def expSum (y : Nat) : Nat → Nat → Nat → Nat
  | 0, _, _ => 0
  | n + 1, k, p => p + expSum y n (k + 1) (p * y / 2 ^ expPrec / (k + 1))

/-- 2^x, to be rounded once (R106). -/
def FVal.exp2 : FVal → FVal
  | .nan => .nan
  | .inf s => if s then .fin false 0 0 else .inf false
  | .fin s m e =>
    if m = 0 then .fin false 1 0
    else if e + (Nat.log2 m : Int) ≥ 9 then (if s then .fin false 1 (-1000) else .inf false)
    else
      -- x scaled by 2^expPrec, rounded down
      let mag := if e + expPrec ≥ 0 then m * 2 ^ (e + expPrec).toNat else m / 2 ^ (-(e + expPrec)).toNat
      let x : Int := if s then -(mag : Int) else mag
      let n := x / (2 ^ expPrec : Nat)
      let f := (x % (2 ^ expPrec : Nat)).toNat
      if f = 0 then .fin false 1 n
      else sticky false (expSum (f * ln2Fixed / 2 ^ expPrec) 90 0 (2 ^ expPrec)) (n - expPrec) false

/-- log₂ x, to be rounded once (R106). -/
def FVal.log2 : FVal → FVal
  | .nan => .nan
  | .inf s => if s then .nan else .inf false
  | .fin s m e =>
    if m = 0 then .inf true
    else if s then .nan
    else
      let k := Nat.log2 m
      let n : Int := e + k
      let frac := m - 2 ^ k
      if frac = 0 then .fin (n < 0) n.natAbs 0
      else
        let l : Int := n * (2 ^ expPrec : Nat) + (lnFixed frac (2 ^ k) * 2 ^ expPrec / ln2Fixed : Nat)
        sticky (l < 0) l.natAbs (-expPrec) false

/-! ## FP32 lane operations (R103 to R107) -/

def fadd (x y : Word) : Word := rne32 ((val32 x).add (val32 y))
def fsub (x y : Word) : Word := rne32 ((val32 x).add (val32 y).neg)
def fmul (x y : Word) : Word := rne32 ((val32 x).mul (val32 y))
/-- x · y + z, rounded once. -/
def ffma (x y z : Word) : Word := rne32 (((val32 x).mul (val32 y)).add (val32 z))
def fdiv (x y : Word) : Word := rne32 ((val32 x).div (val32 y))
def frcp (x : Word) : Word := rne32 ((FVal.fin false 1 0).div (val32 x))
def frsq (x : Word) : Word := rne32 (val32 x).rsqrt
def fsqrt (x : Word) : Word := rne32 (val32 x).sqrt
def fexp2 (x : Word) : Word := rne32 (val32 x).exp2
def flog2 (x : Word) : Word := rne32 (val32 x).log2

def isNan (f : FFmt) (x : Nat) : Bool := f.value x == .nan

/-- The order of R105 on codes: −0.0 below +0.0. -/
def FFmt.key (f : FFmt) (x : Nat) : Int := if f.signOf x then -(f.magOf x : Int) - 1 else f.magOf x

/-- The lesser or the greater operand by R105, on codes of a format. -/
def FFmt.pick (f : FFmt) (greater : Bool) (x y : Nat) : Nat :=
  match isNan f x, isNan f y with
  | true, true => f.nanCode
  | true, false => y
  | false, true => x
  | false, false => if (f.key x < f.key y) != greater then x else y

def fmin (x y : Word) : Word := BitVec.ofNat 32 (fp32.pick false x.toNat y.toNat)
def fmax (x y : Word) : Word := BitVec.ofNat 32 (fp32.pick true x.toNat y.toNat)

/-- The ordered value of an FP32 number, in which −0.0 equals +0.0 (R97). -/
def fOrd (x : Word) : Int := if fp32.signOf x.toNat then -(fp32.magOf x.toNat : Int) else fp32.magOf x.toNat

/-- The mask of `fclass` (R107). -/
def fclass (x : Word) : Word :=
  let mag := fp32.magOf x.toNat
  let s := fp32.signOf x.toNat
  let bit : Nat :=
    if mag > 0x7F800000 then (if x.getLsbD 22 then 9 else 8)
    else if mag = 0x7F800000 then (if s then 0 else 7)
    else if mag ≥ 2 ^ 23 then (if s then 1 else 6)
    else if mag > 0 then (if s then 2 else 5)
    else (if s then 3 else 4)
  BitVec.ofNat 32 (2 ^ bit)

/-! ## Packed 16-bit operations (R108) -/

/-- Both halves of a register through one operation on codes. -/
def halves (f : Nat → Nat → Nat → Nat) (x y z : Word) : Word :=
  BitVec.ofNat 16 (f (x.toNat / 65536) (y.toNat / 65536) (z.toNat / 65536))
    ++ BitVec.ofNat 16 (f (x.toNat % 65536) (y.toNat % 65536) (z.toNat % 65536))

def hadd2 (f : FFmt) (x y : Word) : Word := halves (fun a b _ => f.rne ((f.value a).add (f.value b))) x y 0
def hmul2 (f : FFmt) (x y : Word) : Word := halves (fun a b _ => f.rne ((f.value a).mul (f.value b))) x y 0
def hfma2 (f : FFmt) (x y z : Word) : Word :=
  halves (fun a b c => f.rne (((f.value a).mul (f.value b)).add (f.value c))) x y z
def hmax2 (f : FFmt) (x y : Word) : Word := halves (fun a b _ => f.pick true a b) x y 0

/-! ## Format slots (R110 to R115) -/

/-- Element formats by code (R113). -/
inductive Elem where
  | float (f : FFmt)
  | int8 | nat8 | int32
  deriving DecidableEq, Repr

def Elem.width : Elem → Nat
  | .float f => f.width
  | .int8 => 8
  | .nat8 => 8
  | .int32 => 32

def elemOfCode : Nat → Option Elem
  | 0 => some (.float fp32)
  | 1 => some (.float fp16)
  | 2 => some (.float bf16)
  | 3 => some (.float e4m3)
  | 4 => some (.float e5m2)
  | 5 => some .int8
  | 6 => some .nat8
  | 7 => some .int32
  | _ => none

/-- A valid format slot, its fields read (R111). -/
structure SlotVal where
  elem : Elem
  flushOut : Bool
  flushIn : Bool
  sat : Bool
  rnd : Rnd
  scaleMode : Nat
  scaleRec : Nat
  pitch : Nat
  deriving DecidableEq, Repr

def rndOfCode : Nat → Option Rnd
  | 0 => some .nearest
  | 1 => some .zero
  | 2 => some .stochastic
  | _ => none

/-- The slot, or none where it is invalid (R112). -/
def slotOfBits (b : BitVec 128) : Option SlotVal :=
  if b.extractLsb' 48 80 ≠ 0 ∨ b.extractLsb' 21 11 ≠ 0 ∨ b.extractLsb' 13 3 ≠ 0 ∨ b.extractLsb' 6 2 ≠ 0
      ∨ b.extractLsb' 4 2 = 3#2 then none
  else
    match elemOfCode (b.extractLsb' 0 4).toNat, rndOfCode (b.extractLsb' 16 2).toNat with
    | some el, some r =>
      some { elem := el, flushOut := b.getLsbD 20, flushIn := b.getLsbD 19, sat := b.getLsbD 18, rnd := r
             scaleMode := (b.extractLsb' 4 2).toNat, scaleRec := (b.extractLsb' 8 5).toNat
             pitch := (b.extractLsb' 32 16).toNat }
    | _, _ => none

/-- An exact value clamped to an integer range after rounding to an integer (R114, R115). -/
def toIntClamped (r : Rnd) (draw : Word) (lo hi : Int) : FVal → Int
  | .nan => 0
  | .inf s => if s then lo else hi
  | .fin s m e =>
    if m = 0 then 0
    else if e + (Nat.log2 m : Int) > 64 then (if s then lo else hi)
    else
      let n : Int := roundUnits r draw m e 0
      max lo (min hi (if s then -n else n))

/-- The code of an integer in `w` bits of two's complement. -/
def intCode (w : Nat) (i : Int) : Nat := (i % (2 ^ w : Nat)).toNat

/-- narrow(x, slot) into a floating-point format, for a value that is no NaN (R115). -/
def narrowFloat (f : FFmt) (sl : SlotVal) (draw : Word) (v : FVal) : Nat :=
  let beyond (s toMax : Bool) : Nat :=
    if toMax then f.signed s f.maxFin
    else match f.infCode with
      | some c => f.signed s c
      | none => f.signed s f.nanCode
  match v with
  | .nan => f.nanCode
  | .inf s => beyond s sl.sat
  | .fin s m e =>
    let c := f.roundMag sl.rnd draw m e
    if c > f.maxFin then beyond s (sl.sat || sl.rnd == .zero)
    else if sl.flushOut && c < 2 ^ f.mb then f.signed s 0
    else f.signed s c

/-- narrow(x, slot) of R115 for an exact value x: the code in the slot's format. -/
def narrowVal (sl : SlotVal) (draw : Word) (v : FVal) : Nat :=
  match sl.elem with
  | .float f => narrowFloat f sl draw v
  | .int8 => intCode 8 (toIntClamped sl.rnd draw (-128) 127 v)
  | .nat8 => intCode 8 (toIntClamped sl.rnd draw 0 255 v)
  | .int32 => intCode 32 (toIntClamped sl.rnd draw (-(2 ^ 31)) (2 ^ 31 - 1) v)

/-- An operand code read under flush_in: a subnormal is zero of its sign. -/
def FFmt.flushed (f : FFmt) (flush : Bool) (x : Nat) : Nat :=
  if flush && f.isSubnormal x then f.signed (f.signOf x) 0 else x

/-- narrow(x, slot) of an FP32 register (R115, R119). -/
def narrow (sl : SlotVal) (draw : Word) (x : Word) : Word :=
  BitVec.ofNat 32 (narrowVal sl draw (fp32.value (fp32.flushed sl.flushIn x.toNat)))

/-- `cvtf.wid`: the element in the low bits of `x`, widened to FP32 (R119). -/
def widen (sl : SlotVal) (draw : Word) (x : Word) : Word :=
  match sl.elem with
  | .float f => rne32 (f.value (f.flushed sl.flushIn (x.toNat % 2 ^ f.width)))
  | .int8 => rne32 (let i := (x.setWidth 8).toInt; .fin (i < 0) i.natAbs 0)
  | .nat8 => rne32 (.fin false (x.toNat % 256) 0)
  | .int32 =>
    BitVec.ofNat 32 (narrowFloat fp32 sl draw (.fin (x.toInt < 0) x.toInt.natAbs 0))

/-- The exact value of an element code of a narrow format, read under flush_in (R164). -/
def FFmt.element (f : FFmt) (flush : Bool) (x : Nat) : FVal := f.value (f.flushed flush x)

/-! ## Conversions without a slot (R118), scaling (R121) -/

def i2f (i : Int) : Word := rne32 (.fin (i < 0) i.natAbs 0)

def f2iS32 (x : Word) : Word := BitVec.ofInt 32 (toIntClamped .nearest 0 (-(2 ^ 31)) (2 ^ 31 - 1) (val32 x))
def f2iN32 (x : Word) : Word := BitVec.ofInt 32 (toIntClamped .nearest 0 0 (2 ^ 32 - 1) (val32 x))

/-- FP32 to a 16-bit format; bits 31:16 become 0. -/
def f2h (f : FFmt) (x : Word) : Word := BitVec.ofNat 32 (f.rne (val32 x))
/-- A 16-bit format to FP32, exact. -/
def h2f (f : FFmt) (x : Word) : Word := rne32 (f.value (x.toNat % 65536))

/-- vA × 2^sgn(vB), rounded once (R121); infinities and zeros are returned unchanged. -/
def fscale (x y : Word) : Word :=
  match val32 x with
  | .fin s m e => rne32 (.fin s m (e + y.toInt))
  | v => rne32 v

/-! ## The stochastic generator (R116, R117, R122) -/

/-- One step of the generator. -/
def lfsrStep (g : Word) : Word :=
  (g <<< 1) ||| (BitVec.ofBool (g.getLsbD 31 ^^ g.getLsbD 21 ^^ g.getLsbD 1 ^^ g.getLsbD 0)).setWidth 32

/-- `k` steps. -/
def lfsrSteps : Nat → Word → Word
  | 0, g => g
  | k + 1, g => lfsrSteps k (lfsrStep g)

/-- The draw value of element `e` of the lane `i`, for a draw that found the state `g` (R116). -/
def drawValue (g : Word) (i e : Nat) : Word := (lfsrSteps (e / 4) g).rotateRight ((3 * i + 8 * (e % 4)) % 32)

end Sys2Proof.Machine
end

