-- ==== Sys2Proof/Machine/Flags.lean ====
section
/-! DEFINITION. What the lane instructions compute as truth values and carries: conditions, carry and borrow (R96, R97, R99). The
Lysnik has no flag register; these values go to predicates and registers. -/

namespace Sys2Proof.Machine

/-- A condition code on an order given by "less" and "equal" (R96). -/
def condOn (lt eq : Bool) : Cond → Bool
  | .eq => eq
  | .ne => !eq
  | .lt => lt
  | .le => lt || eq
  | .gt => !(lt || eq)
  | .ge => !lt

/-- Both operands as two's complement (R96). -/
def condS32 (c : Cond) (x y : Word) : Bool := condOn (x.toInt < y.toInt) (x == y) c

/-- Both operands as natural numbers (R96). -/
def condN32 (c : Cond) (x y : Word) : Bool := condOn (x.toNat < y.toNat) (x == y) c

/-- FP32 values; with a NaN only `.ne` holds (R97). -/
def condF32 (c : Cond) (x y : Word) : Bool :=
  if isNan fp32 x.toNat || isNan fp32 y.toNat then c == .ne else condOn (fOrd x < fOrd y) (fOrd x == fOrd y) c

/-- The carry out of `add` as a value (R99). -/
def carry (x y : Word) : Word := if x.toNat + y.toNat ≥ 2 ^ 32 then 1 else 0

/-- The borrow out of `sub` as a value (R99). -/
def borrow (x y : Word) : Word := if x.toNat < y.toNat then 1 else 0

/-! ## Integer results (R99 to R102) -/

def mulHiS32 (x y : Word) : Word := BitVec.ofInt 32 (x.toInt * y.toInt / 2 ^ 32)
def mulHiN32 (x y : Word) : Word := BitVec.ofNat 32 (x.toNat * y.toNat / 2 ^ 32)
def minS32 (x y : Word) : Word := if y.toInt < x.toInt then y else x
def maxS32 (x y : Word) : Word := if x.toInt < y.toInt then y else x
def minN32 (x y : Word) : Word := if y.toNat < x.toNat then y else x
def maxN32 (x y : Word) : Word := if x.toNat < y.toNat then y else x

/-- Shifts by a natural number; 32 or more leaves 0, or the sign in every bit (R99). -/
def shl (x : Word) (n : Nat) : Word := if n ≥ 32 then 0 else x <<< n
def shr (x : Word) (n : Nat) : Word := if n ≥ 32 then 0 else x >>> n
def sar (x : Word) (n : Nat) : Word := x.sshiftRight (min n 31)
def rot (x : Word) (n : Nat) : Word := x.rotateLeft (n % 32)

def popc (x : Word) : Word := BitVec.ofNat 32 ((List.range 32).countP fun i => x.getLsbD i)
def clz (x : Word) : Word := if x = 0 then 32 else BitVec.ofNat 32 (31 - Nat.log2 x.toNat)
def brev (x : Word) : Word := x.reverse
def absW (x : Word) : Word := if x.toInt < 0 then 0 - x else x

/-- Position and usable width of a field descriptor (R100). -/
def fieldPos (y : Word) : Nat := (y.extractLsb' 0 5).toNat
def fieldWidth (y : Word) : Nat := min (y.extractLsb' 8 6).toNat (32 - fieldPos y)

/-- m of R100. -/
def fieldMask (w : Nat) : Word := if w = 32 then 0xFFFFFFFF else (1#32 <<< w) - 1

def bfxN32 (x y : Word) : Word :=
  if fieldWidth y = 0 then 0 else (x >>> fieldPos y) &&& fieldMask (fieldWidth y)

def bfxS32 (x y : Word) : Word :=
  if fieldWidth y = 0 then 0
  else
    let v := bfxN32 x y
    if v.getLsbD (fieldWidth y - 1) then v ||| ~~~(fieldMask (fieldWidth y)) else v

/-- The field of `x` inserted into `d` (R100). -/
def bfi (x y d : Word) : Word :=
  let m := fieldMask (fieldWidth y)
  (d &&& ~~~(m <<< fieldPos y)) ||| ((x &&& m) <<< fieldPos y)

/-- `imhi`: bits 31:17 from the immediate (R101). -/
def imhi (imm : BitVec 15) (d : Word) : Word := imm ++ d.extractLsb' 0 17

/-- The new word of an atomic: the old word, the operand, and the second operand of `.cas` (R130, R186). -/
def atomNew (op : AtomOp) (old x y : Word) : Word :=
  match op with
  | .addS32 => old + x
  | .addF32 => fadd old x
  | .minS32 => minS32 old x
  | .maxS32 => maxS32 old x
  | .minN32 => minN32 old x
  | .maxN32 => maxN32 old x
  | .and => old &&& x
  | .or => old ||| x
  | .xor => old ^^^ x
  | .exch => x
  | .cas => if old = x then y else old

end Sys2Proof.Machine
end

