-- ==== Sys2Proof/Machine/Memory.lean ====
section
/-! DEFINITION. The global memory instructions at issue: loads, stores, atomics, reductions, prefetch and flagged stores (R183 to R187,
R312). -/

namespace Sys2Proof.Machine

/-- The index of a record access, computed without wrapping (R183). -/
def indexOf (f : Fibre) (i m : Nat) : Nat := (f.reg i).toNat + m

/-- Where a record access goes (R180). -/
def elementPlace (t : Team) (r i m z : Nat) : Nat → Fibre → Place? := fun n f =>
  elementAddr (t.record r) n (indexOf f i m) z

/-- Where a pointer access goes (R182). -/
def pointerPlace (t : Team) (a z : Nat) : Nat → Fibre → Place? := fun _ f => pointerAddr t (f.pair a) z

/-- Record `r` refuses writes (R177). -/
def Team.refuses (t : Team) (r : Nat) : Bool := (recordOfBits (t.record r)).ro

/-- One kind of global access. -/
structure GAccess where
  guard : Guard
  kind : ReqKind
  access : Access
  size : Nat
  ord : OrdScope := .rlx
  /-- Registers of the address, of the operand, and of the result; further result registers of a dropped lane. -/
  addr : List Nat
  data : List Nat
  dst : List Nat
  dropped : List Nat := []
  place : Team → Nat → Fibre → Place?
  ro : Team → Nat → Fibre → Bool := fun _ _ _ => false
  /-- Checks before check 6 (R39). -/
  early : List Check := []

/-- The items of the guard-true lanes, by ascending lane. -/
def State.itemsOf (s : State) (t : Team) (act : List Nat) (x : GAccess) : List Item :=
  act.filterMap fun i =>
    let f := t.fibre i
    s.item t x.access i (x.place t i f) x.size x.dst x.addr (f.reg (x.data.getD 0 0)) (f.reg (x.data.getD 1 0))

/-- The effect of a global access that has passed its checks (R184 to R188): a release waits for the earlier accesses of its fibres (R249);
then its line requests, and the pending marks. -/
def State.globalEffect (s : State) (t : Team) (act : List Nat) (x : GAccess) : State :=
  let items := s.itemsOf t act x
  let groups := lineGroups items
  let opens := !x.dst.isEmpty
  let rel := if items.any fun i => i.page.ty == .normal then relScope x.ord else none
  if s.accessStalls t act opens groups then s.stall
  else if rel.any fun sc => !s.performedAt t act sc then s.stall
  else
    let inst := s.nextId
    let drop (i : Nat) : Bool := match x.place t i (t.fibre i) with
      | .ok none => true
      | _ => false
    let s := s.fresh.addReqs t s.cur.fibs (s.curPc t) inst x.kind x.ord groups
    s.writeFibres act 4 fun i f =>
      if drop i then f.markPend inst (x.dst ++ x.dropped) (some 0) else f.markPend inst x.dst none

/-- A global access (R183 to R189). -/
def globalOp (x : GAccess) (isLoad : Bool) (s : State) : Result :=
  issue { guard := x.guard, uses := fun _ => x.addr ++ x.data ++ x.dst, writes := x.dst, isLoad := isLoad, early := x.early }
    (fun s t _ => accessOrder fun i f => s.placedError t x.access (x.ro t i f) (x.place t i f))
    (fun s t act => s.globalEffect t act x) s

/-! ## Loads and stores (R183 to R185) -/

/-- The data register of an 8-byte access is even (R183, R30): otherwise the instruction is illegal. -/
def checkPair (rs : List Nat) : Check := checkLegal (rs.length != 2 || rs.headD 0 % 2 == 0)

/-- A load of `size` bytes into `dst`. -/
def loadOp (g : Guard) (size : Nat) (signed : Bool) (ord : OrdScope) (r i m : Nat) (dst : List Nat) (s : State) : Result :=
  globalOp { guard := g, kind := .load signed, access := .load, size := size, ord := ord, addr := [i], data := [], dst := dst
             place := fun t => elementPlace t r i m size, early := [checkPair dst] } true s

/-- A store of `size` bytes from `src`. -/
def storeOp (g : Guard) (size : Nat) (ord : OrdScope) (r i m : Nat) (src : List Nat) (s : State) : Result :=
  globalOp { guard := g, kind := .store, access := .store, size := size, ord := ord, addr := [i], data := src, dst := []
             place := fun t => elementPlace t r i m size, ro := fun t _ _ => t.refuses r, early := [checkPair src] } false s

def execLd (g : Guard) (m : BitVec 4) (r : Rec) (i d : Reg) (s : State) : Result :=
  loadOp g 4 false .rlx r.toNat i.toNat m.toNat [d.toNat] s

def execSt (g : Guard) (m : BitVec 4) (r : Rec) (i d : Reg) (s : State) : Result :=
  storeOp g 4 .rlx r.toNat i.toNat m.toNat [d.toNat] s

/-- Bytes of a width, whether it extends by the sign, and its registers. -/
def Width.bytes : Width → Nat
  | .s8 => 1
  | .n8 => 1
  | .s16 => 2
  | .n16 => 2
  | .w64 => 8

def widthSigned : Width → Bool
  | .s8 => true
  | .s16 => true
  | _ => false

def widthRegs (w : Width) (d : Nat) : List Nat :=
  match w with
  | .w64 => [d, d + 1]
  | _ => [d]

def execLdNarrowWide (g : Guard) (w : Width) (r : Rec) (i d : Reg) (s : State) : Result :=
  loadOp g (Width.bytes w) (widthSigned w) .rlx r.toNat i.toNat 0 (widthRegs w d.toNat) s

def execStNarrowWide (g : Guard) (w : Width) (r : Rec) (i d : Reg) (s : State) : Result :=
  storeOp g (Width.bytes w) .rlx r.toNat i.toNat 0 (widthRegs w d.toNat) s

def execLdAcq (g : Guard) (sc : Scope) (r : Rec) (i d : Reg) (s : State) : Result :=
  loadOp g 4 false (.acq sc) r.toNat i.toNat 0 [d.toNat] s

def execStRel (g : Guard) (sc : Scope) (r : Rec) (i d : Reg) (s : State) : Result :=
  storeOp g 4 (.rel sc) r.toNat i.toNat 0 [d.toNat] s

/-! ## Atomics and reductions (R186, R187) -/

/-- Operand registers of an atomic. -/
def atomData (op : AtomOp) (d : Nat) : List Nat :=
  match op with
  | .cas => [d, d + 1]
  | _ => [d]

/-- Registers beyond vD that a dropped atomic clears (R181). -/
def atomDropped (op : AtomOp) (d : Nat) : List Nat :=
  match op with
  | .cas => [d + 1]
  | _ => []

/-- `atom.op vD, bR[vI]`. -/
def atomOp (g : Guard) (op : AtomOp) (r : Rec) (i d : Reg) (s : State) : Result :=
  globalOp { guard := g, kind := .atom op, access := .atom, size := 4, addr := [i.toNat], data := atomData op d.toNat
             dst := [d.toNat], dropped := atomDropped op d.toNat
             place := fun t => elementPlace t r.toNat i.toNat 0 4, ro := fun t _ _ => t.refuses r.toNat } false s

/-- `atom.op.ord.sc vD, vA`. -/
def atomOrdOp (g : Guard) (op : AtomOp) (os : OrdScope) (a d : Reg) (s : State) : Result :=
  globalOp { guard := g, kind := .atom op, access := .atom, size := 4, ord := os, addr := [a.toNat, a.toNat + 1]
             data := atomData op d.toNat, dst := [d.toNat], dropped := atomDropped op d.toNat
             place := fun t => pointerPlace t a.toNat 4
             ro := fun t _ f => t.refuses (pointerRec (f.pair a.toNat)) } false s

/-- The permission of a reduction: w, and type normal (R186, R201). -/
def State.redError (s : State) (t : Team) (ro : Bool) (p : Place?) : Option Cause :=
  match s.placedError t .store ro p with
  | some c => some c
  | none =>
    match p with
    | .ok (some va) =>
      match s.translate t.core t.asid va .store t.privileged with
      | .ok g => if g.ty = .normal then none else some { code := 0x31, addr := va }
      | .error c => some c
    | _ => none

/-- `red.op bR[vI], vD`. -/
def redOp (g : Guard) (op : AtomOp) (r : Rec) (i d : Reg) (s : State) : Result :=
  let x : GAccess := { guard := g, kind := .red op, access := .store, size := 4, addr := [i.toNat], data := [d.toNat], dst := []
                       place := fun t => elementPlace t r.toNat i.toNat 0 4 }
  issue { guard := g, uses := fun _ => [i.toNat, d.toNat] }
    (fun s t _ => accessOrder fun n f => s.redError t (t.refuses r.toNat) (x.place t n f))
    (fun s t act => s.globalEffect t act x) s

def execAtomAddS32 (g : Guard) (r : Rec) (i d : Reg) (s : State) : Result := atomOp g .addS32 r i d s
def execAtomAddF32 (g : Guard) (r : Rec) (i d : Reg) (s : State) : Result := atomOp g .addF32 r i d s
def execAtomMinS32 (g : Guard) (r : Rec) (i d : Reg) (s : State) : Result := atomOp g .minS32 r i d s
def execAtomMaxS32 (g : Guard) (r : Rec) (i d : Reg) (s : State) : Result := atomOp g .maxS32 r i d s
def execAtomMinN32 (g : Guard) (r : Rec) (i d : Reg) (s : State) : Result := atomOp g .minN32 r i d s
def execAtomMaxN32 (g : Guard) (r : Rec) (i d : Reg) (s : State) : Result := atomOp g .maxN32 r i d s
def execAtomAnd (g : Guard) (r : Rec) (i d : Reg) (s : State) : Result := atomOp g .and r i d s
def execAtomOr (g : Guard) (r : Rec) (i d : Reg) (s : State) : Result := atomOp g .or r i d s
def execAtomXor (g : Guard) (r : Rec) (i d : Reg) (s : State) : Result := atomOp g .xor r i d s
def execAtomExch (g : Guard) (r : Rec) (i d : Reg) (s : State) : Result := atomOp g .exch r i d s
def execAtomCas (g : Guard) (r : Rec) (i d : Reg) (s : State) : Result := atomOp g .cas r i d s

def execAtomOrdAddS32 (g : Guard) (os : OrdScope) (a d : Reg) (s : State) : Result := atomOrdOp g .addS32 os a d s
def execAtomOrdAddF32 (g : Guard) (os : OrdScope) (a d : Reg) (s : State) : Result := atomOrdOp g .addF32 os a d s
def execAtomOrdMinS32 (g : Guard) (os : OrdScope) (a d : Reg) (s : State) : Result := atomOrdOp g .minS32 os a d s
def execAtomOrdMaxS32 (g : Guard) (os : OrdScope) (a d : Reg) (s : State) : Result := atomOrdOp g .maxS32 os a d s
def execAtomOrdAnd (g : Guard) (os : OrdScope) (a d : Reg) (s : State) : Result := atomOrdOp g .and os a d s
def execAtomOrdOr (g : Guard) (os : OrdScope) (a d : Reg) (s : State) : Result := atomOrdOp g .or os a d s
def execAtomOrdExch (g : Guard) (os : OrdScope) (a d : Reg) (s : State) : Result := atomOrdOp g .exch os a d s
def execAtomOrdCas (g : Guard) (os : OrdScope) (a d : Reg) (s : State) : Result := atomOrdOp g .cas os a d s

def execRedAddS32 (g : Guard) (r : Rec) (i d : Reg) (s : State) : Result := redOp g .addS32 r i d s
def execRedAddF32 (g : Guard) (r : Rec) (i d : Reg) (s : State) : Result := redOp g .addF32 r i d s
def execRedMinS32 (g : Guard) (r : Rec) (i d : Reg) (s : State) : Result := redOp g .minS32 r i d s
def execRedMaxS32 (g : Guard) (r : Rec) (i d : Reg) (s : State) : Result := redOp g .maxS32 r i d s
def execRedMinN32 (g : Guard) (r : Rec) (i d : Reg) (s : State) : Result := redOp g .minN32 r i d s
def execRedMaxN32 (g : Guard) (r : Rec) (i d : Reg) (s : State) : Result := redOp g .maxN32 r i d s
def execRedAnd (g : Guard) (r : Rec) (i d : Reg) (s : State) : Result := redOp g .and r i d s
def execRedOr (g : Guard) (r : Rec) (i d : Reg) (s : State) : Result := redOp g .or r i d s
def execRedXor (g : Guard) (r : Rec) (i d : Reg) (s : State) : Result := redOp g .xor r i d s

/-! ## Lending inside a die (R274) -/

/-- An L1 fills a line of a block from its die's holding, under an address space (R207, R274). -/
def Hold.fill (h : Hold) (c n : Nat) (asid : BitVec 10) : Hold := { h with lent := h.lent ++ [(c, n)], filled := assocSet h.filled c asid }

/-- Lend the core's L1 tokens of a block that its die holds, or a read mark (R274). DESIGN CHOICE: a slice whose tokens are all lent, so that it has none
left but perhaps the pole, lends a read mark too (log entry 100). -/
def State.lend (s : State) (c blk : Nat) (asid : BitVec 10) : State :=
  match s.hold? (.die (s.core c).die) blk with
  | none => s
  | some h =>
    if h.lent.any fun p => p.1 == c then s
    else
      let lentOut := (h.lent.map fun p => p.2).foldl (· + ·) 0
      let free := h.n - lentOut - if h.pole then 1 else 0
      (s.putHold (h.fill c (min 8 free) asid)).notePeer c blk

/-! ## Flagged stores (R312) -/

/-- Type normal besides a permission (R312). -/
def State.normalError (s : State) (t : Team) (a : Access) (ro : Bool) (p : Place?) : Option Cause :=
  match s.accessError t a ro p with
  | some c => some c
  | none =>
    match p with
    | .ok (some va) =>
      match s.translate t.core t.asid va a t.privileged with
      | .ok g => if g.ty = .normal then none else some { code := 0x31, addr := va }
      | .error c => some c
    | _ => none

/-- The checks of a lane: of its data word, and unless the data word is dropped, of its flag word; the earlier one in the order of
R189 counts. -/
def State.stfError (s : State) (t : Team) (a b : Nat) (code : Nat) (f : Fibre) : Option Cause :=
  let pick (c : Option Cause) : Option Cause := c.bind fun c => if c.code = code then some c else none
  let data := pointerAddr t (f.pair a) 4
  let flag := pointerAddr t (f.pair b) 4
  match pick (s.normalError t .store (t.refuses (pointerRec (f.pair a))) data) with
  | some c => some c
  | none =>
    match data with
    | .ok none => none
    | _ => pick (s.normalError t .atom (t.refuses (pointerRec (f.pair b))) flag)

/-- The address of a lane's flag word, unless it is dropped. -/
def flagVa (t : Team) (b : Nat) (f : Fibre) : Option Nat :=
  match pointerAddr t (f.pair b) 4 with
  | .ok va => va
  | .error _ => none

/-- The flag word of a lane, with the lanes whose flags lie in its line. -/
def State.flagRef (s : State) (t : Team) (act : List Nat) (b : Nat) (f : Fibre) : Option FlagRef :=
  match flagVa t b f with
  | none => none
  | some va =>
    match s.translate t.core t.asid va .atom t.privileged with
    | .ok p =>
      let near := act.filter fun j => (flagVa t b (t.fibre j)).any fun v => v / 256 == va / 256
      some { page := p, va := va, lanes := near.foldl (fun m j => m ||| (1#32 <<< laneOf j)) 0, told := false }
    | .error _ => none

def execStf (g : Guard) (b a d : Reg) (s : State) : Result :=
  let regs := [a.toNat, a.toNat + 1, b.toNat, b.toNat + 1, d.toNat]
  issue { guard := g, uses := fun _ => regs }
    (fun s t _ => [0x36, 0x33, 0x32, 0x38, 0x31, 0x30, 0x70].map fun code => fun _ f => s.stfError t a.toNat b.toNat code f)
    (fun s t act =>
      let item (i : Nat) : Option Item :=
        let f := t.fibre i
        s.item t .store i (pointerAddr t (f.pair a.toNat) 4) 4 [] [] (f.reg d.toNat) 0
      let kept := act.filter fun i => (item i).isSome
      let items := kept.filterMap fun i =>
        (item i).map fun x => { x with lane := { x.lane with flag := s.flagRef t kept b.toNat (t.fibre i) } }
      let groups := lineGroups items
      if s.accessStalls t act false groups then s.stall
      else
        let inst := s.nextId
        (s.fresh.addReqs t s.cur.fibs (s.curPc t) inst .flagged .rlx groups).writeFibres act 4 fun _ f => f) s

end Sys2Proof.Machine
end

