-- ==== Sys2Proof/Machine/Lane.lean ====
section
/-! DEFINITION. The lane instructions: compact forms, integer, predicate, FP32, packed and conversion instructions (R25, R26, R82,
R83, R95 to R108, R118 to R122). -/

namespace Sys2Proof.Machine

/-! ## Shapes -/

/-- The guard of an unguarded instruction (R25, R28). -/
def always : Guard := .pos 7

/-- An instruction of `len` bytes that names the registers `uses` and changes each guard-true fibre by `f`. -/
def laneOp (g : Guard) (len : Nat) (uses : Fibre → List Nat) (f : Nat → Fibre → Fibre) (s : State) : Result :=
  issue { guard := g, uses := uses } (fun _ _ _ => []) (fun s _ act => s.writeFibres act len f) s

/-- vD := f(vA, vB, vD). -/
def op3 (g : Guard) (len : Nat) (a b d : Nat) (f : Word → Word → Word → Word) (s : State) : Result :=
  laneOp g len (fun _ => [a, b, d]) (fun _ x => x.setReg d (f (x.reg a) (x.reg b) (x.reg d))) s

/-- vD := f(vA, vD). -/
def op2 (g : Guard) (len : Nat) (a d : Nat) (f : Word → Word → Word) (s : State) : Result :=
  laneOp g len (fun _ => [a, d]) (fun _ x => x.setReg d (f (x.reg a) (x.reg d))) s

/-- vD := f(vD), for the immediates of majors 0x07 and 0x08. -/
def op1 (g : Guard) (len : Nat) (d : Nat) (f : Word → Word) (s : State) : Result :=
  laneOp g len (fun _ => [d]) (fun _ x => x.setReg d (f (x.reg d))) s

/-- pD := f(vA, vB). -/
def cmp2 (g : Guard) (a b : Nat) (p : Pred) (f : Word → Word → Bool) (s : State) : Result :=
  laneOp g 4 (fun _ => [a, b]) (fun _ x => x.setPred p (f (x.reg a) (x.reg b))) s

/-- pD := f(vA). -/
def cmp1 (g : Guard) (a : Nat) (p : Pred) (f : Word → Bool) (s : State) : Result :=
  laneOp g 4 (fun _ => [a]) (fun _ x => x.setPred p (f (x.reg a))) s

/-- pD := f(pA, pB). -/
def pred2 (g : Guard) (a b d : Pred) (f : Bool → Bool → Bool) (s : State) : Result :=
  laneOp g 4 (fun _ => []) (fun _ x => x.setPred d (f (x.pred a) (x.pred b))) s

/-! ## Compact instructions (R26) -/

def execMovC16 (b : BitVec 5) (d : Reg) (s : State) : Result :=
  op2 always 2 b.toNat d.toNat (fun x _ => x) s

def execMoviC16 (imm : BitVec 5) (d : Reg) (s : State) : Result :=
  op1 always 2 d.toNat (fun _ => imm.signExtend 32) s

def execAddC16 (b : BitVec 5) (d : Reg) (s : State) : Result :=
  op3 always 2 d.toNat b.toNat d.toNat (fun x y _ => x + y) s

def execAddiC16 (imm : BitVec 5) (d : Reg) (s : State) : Result :=
  op1 always 2 d.toNat (fun x => x + imm.signExtend 32) s

def execSubC16 (b : BitVec 5) (d : Reg) (s : State) : Result :=
  op3 always 2 d.toNat b.toNat d.toNat (fun x y _ => x - y) s

def execMulLoC16 (b : BitVec 5) (d : Reg) (s : State) : Result :=
  op3 always 2 d.toNat b.toNat d.toNat (fun x y _ => x * y) s

def execAndC16 (b : BitVec 5) (d : Reg) (s : State) : Result :=
  op3 always 2 d.toNat b.toNat d.toNat (fun x y _ => x &&& y) s

def execOrC16 (b : BitVec 5) (d : Reg) (s : State) : Result :=
  op3 always 2 d.toNat b.toNat d.toNat (fun x y _ => x ||| y) s

def execXorC16 (b : BitVec 5) (d : Reg) (s : State) : Result :=
  op3 always 2 d.toNat b.toNat d.toNat (fun x y _ => x ^^^ y) s

def execShlC16 (b : BitVec 5) (d : Reg) (s : State) : Result :=
  op3 always 2 d.toNat b.toNat d.toNat (fun x y _ => shl x y.toNat) s

def execShrC16 (b : BitVec 5) (d : Reg) (s : State) : Result :=
  op3 always 2 d.toNat b.toNat d.toNat (fun x y _ => shr x y.toNat) s

def execMinS32C16 (b : BitVec 5) (d : Reg) (s : State) : Result :=
  op3 always 2 d.toNat b.toNat d.toNat (fun x y _ => minS32 x y) s

def execMaxS32C16 (b : BitVec 5) (d : Reg) (s : State) : Result :=
  op3 always 2 d.toNat b.toNat d.toNat (fun x y _ => maxS32 x y) s

def execFaddC16 (b : BitVec 5) (d : Reg) (s : State) : Result :=
  op3 always 2 d.toNat b.toNat d.toNat (fun x y _ => fadd x y) s

def execFmulC16 (b : BitVec 5) (d : Reg) (s : State) : Result :=
  op3 always 2 d.toNat b.toNat d.toNat (fun x y _ => fmul x y) s

def execFmaxC16 (b : BitVec 5) (d : Reg) (s : State) : Result :=
  op3 always 2 d.toNat b.toNat d.toNat (fun x y _ => fmax x y) s

/-! ## Integer arithmetic and logic (R99, R100) -/

def execAdd (g : Guard) (b a d : Reg) (s : State) : Result :=
  op3 g 4 a.toNat b.toNat d.toNat (fun x y _ => x + y) s

def execAddc (g : Guard) (b a d : Reg) (s : State) : Result :=
  op3 g 4 a.toNat b.toNat d.toNat (fun x y _ => carry x y) s

def execSub (g : Guard) (b a d : Reg) (s : State) : Result :=
  op3 g 4 a.toNat b.toNat d.toNat (fun x y _ => x - y) s

def execSubb (g : Guard) (b a d : Reg) (s : State) : Result :=
  op3 g 4 a.toNat b.toNat d.toNat (fun x y _ => borrow x y) s

def execMulLo (g : Guard) (b a d : Reg) (s : State) : Result :=
  op3 g 4 a.toNat b.toNat d.toNat (fun x y _ => x * y) s

def execMulHiS32 (g : Guard) (b a d : Reg) (s : State) : Result :=
  op3 g 4 a.toNat b.toNat d.toNat (fun x y _ => mulHiS32 x y) s

def execMulHiN32 (g : Guard) (b a d : Reg) (s : State) : Result :=
  op3 g 4 a.toNat b.toNat d.toNat (fun x y _ => mulHiN32 x y) s

def execMad (g : Guard) (b a d : Reg) (s : State) : Result :=
  op3 g 4 a.toNat b.toNat d.toNat (fun x y d => x * y + d) s

def execAnd (g : Guard) (b a d : Reg) (s : State) : Result :=
  op3 g 4 a.toNat b.toNat d.toNat (fun x y _ => x &&& y) s

def execOr (g : Guard) (b a d : Reg) (s : State) : Result :=
  op3 g 4 a.toNat b.toNat d.toNat (fun x y _ => x ||| y) s

def execXor (g : Guard) (b a d : Reg) (s : State) : Result :=
  op3 g 4 a.toNat b.toNat d.toNat (fun x y _ => x ^^^ y) s

def execAndn (g : Guard) (b a d : Reg) (s : State) : Result :=
  op3 g 4 a.toNat b.toNat d.toNat (fun x y _ => x &&& ~~~y) s

def execMinS32 (g : Guard) (b a d : Reg) (s : State) : Result :=
  op3 g 4 a.toNat b.toNat d.toNat (fun x y _ => minS32 x y) s

def execMaxS32 (g : Guard) (b a d : Reg) (s : State) : Result :=
  op3 g 4 a.toNat b.toNat d.toNat (fun x y _ => maxS32 x y) s

def execMinN32 (g : Guard) (b a d : Reg) (s : State) : Result :=
  op3 g 4 a.toNat b.toNat d.toNat (fun x y _ => minN32 x y) s

def execMaxN32 (g : Guard) (b a d : Reg) (s : State) : Result :=
  op3 g 4 a.toNat b.toNat d.toNat (fun x y _ => maxN32 x y) s

def execShl (g : Guard) (b a d : Reg) (s : State) : Result :=
  op3 g 4 a.toNat b.toNat d.toNat (fun x y _ => shl x y.toNat) s

def execShr (g : Guard) (b a d : Reg) (s : State) : Result :=
  op3 g 4 a.toNat b.toNat d.toNat (fun x y _ => shr x y.toNat) s

def execSar (g : Guard) (b a d : Reg) (s : State) : Result :=
  op3 g 4 a.toNat b.toNat d.toNat (fun x y _ => sar x y.toNat) s

def execRot (g : Guard) (b a d : Reg) (s : State) : Result :=
  op3 g 4 a.toNat b.toNat d.toNat (fun x y _ => rot x y.toNat) s

def execPopc (g : Guard) (a d : Reg) (s : State) : Result :=
  op2 g 4 a.toNat d.toNat (fun x _ => popc x) s

def execClz (g : Guard) (a d : Reg) (s : State) : Result :=
  op2 g 4 a.toNat d.toNat (fun x _ => clz x) s

def execBrev (g : Guard) (a d : Reg) (s : State) : Result :=
  op2 g 4 a.toNat d.toNat (fun x _ => brev x) s

def execAbs (g : Guard) (a d : Reg) (s : State) : Result :=
  op2 g 4 a.toNat d.toNat (fun x _ => absW x) s

def execBfxS32 (g : Guard) (b a d : Reg) (s : State) : Result :=
  op3 g 4 a.toNat b.toNat d.toNat (fun x y _ => bfxS32 x y) s

def execBfxN32 (g : Guard) (b a d : Reg) (s : State) : Result :=
  op3 g 4 a.toNat b.toNat d.toNat (fun x y _ => bfxN32 x y) s

def execBfi (g : Guard) (b a d : Reg) (s : State) : Result :=
  op3 g 4 a.toNat b.toNat d.toNat (fun x y d => bfi x y d) s

/-! ## Moves (R82, R83) -/

def execMov (g : Guard) (a d : Reg) (s : State) : Result :=
  op2 g 4 a.toNat d.toNat (fun x _ => x) s

/-- vD := the launch's kernel constant (R82). -/
def execMovKconst (g : Guard) (k : BitVec 4) (d : Reg) (s : State) : Result :=
  issue { guard := g, uses := fun _ => [d.toNat] } (fun _ _ _ => [])
    (fun s t act => s.writeFibres act 4 fun _ x => x.setReg d.toNat (t.consts.getD k.toNat 0)) s

/-- The indirect register is named among the registers used, so that cause 0x12 and the interlock cover it (R81, R89). -/
def execMovIndirectSrc (g : Guard) (imm : BitVec 6) (a d : Reg) (s : State) : Result :=
  laneOp g 4 (fun x => [a.toNat, d.toNat, (x.reg a.toNat).toNat + imm.toNat])
    (fun _ x => x.setReg d.toNat (x.reg ((x.reg a.toNat).toNat + imm.toNat))) s

def execMovIndirectDst (g : Guard) (imm : BitVec 6) (a d : Reg) (s : State) : Result :=
  laneOp g 4 (fun x => [a.toNat, d.toNat, (x.reg d.toNat).toNat + imm.toNat])
    (fun _ x => x.setReg ((x.reg d.toNat).toNat + imm.toNat) (x.reg a.toNat)) s

def execMovx (g : Guard) (a d : Reg8) (s : State) : Result :=
  op2 g 4 a.toNat d.toNat (fun x _ => x) s

/-! ## Select and compares (R96 to R98) -/

def execSel (g : Guard) (n : Pred) (b a d : Reg) (s : State) : Result :=
  laneOp g 4 (fun _ => [a.toNat, b.toNat, d.toNat])
    (fun _ x => x.setReg d.toNat (if x.pred n then x.reg a.toNat else x.reg b.toNat)) s

def execCmpS32 (g : Guard) (c : Cond) (b a : Reg) (p : Pred) (s : State) : Result :=
  cmp2 g a.toNat b.toNat p (condS32 c) s

def execCmpN32 (g : Guard) (c : Cond) (b a : Reg) (p : Pred) (s : State) : Result :=
  cmp2 g a.toNat b.toNat p (condN32 c) s

/-- The immediate is sign-extended (R31). -/
def execCmpiS32 (g : Guard) (imm : BitVec 9) (a : Reg) (c : Cond) (p : Pred) (s : State) : Result :=
  cmp1 g a.toNat p (fun x => condS32 c x (imm.signExtend 32)) s

/-- The immediate is natural (R31). -/
def execCmpiN32 (g : Guard) (imm : BitVec 9) (a : Reg) (c : Cond) (p : Pred) (s : State) : Result :=
  cmp1 g a.toNat p (fun x => condN32 c x (imm.setWidth 32)) s

def execFcmpF32 (g : Guard) (c : Cond) (b a : Reg) (p : Pred) (s : State) : Result :=
  cmp2 g a.toNat b.toNat p (condF32 c) s

/-! ## Immediates (R101, R102) -/

def execMovi (g : Guard) (imm : BitVec 15) (d : Reg) (s : State) : Result :=
  op1 g 4 d.toNat (fun _ => imm.signExtend 32) s

def execImhi (g : Guard) (imm : BitVec 15) (d : Reg) (s : State) : Result :=
  op1 g 4 d.toNat (fun x => imhi imm x) s

def execAddi (g : Guard) (imm : BitVec 9) (a d : Reg) (s : State) : Result :=
  op2 g 4 a.toNat d.toNat (fun x _ => x + imm.signExtend 32) s

def execAndi (g : Guard) (imm : BitVec 9) (a d : Reg) (s : State) : Result :=
  op2 g 4 a.toNat d.toNat (fun x _ => x &&& imm.signExtend 32) s

def execOri (g : Guard) (imm : BitVec 9) (a d : Reg) (s : State) : Result :=
  op2 g 4 a.toNat d.toNat (fun x _ => x ||| imm.signExtend 32) s

def execXori (g : Guard) (imm : BitVec 9) (a d : Reg) (s : State) : Result :=
  op2 g 4 a.toNat d.toNat (fun x _ => x ^^^ imm.signExtend 32) s

def execShli (g : Guard) (cnt : BitVec 5) (a d : Reg) (s : State) : Result :=
  op2 g 4 a.toNat d.toNat (fun x _ => shl x cnt.toNat) s

def execShri (g : Guard) (cnt : BitVec 5) (a d : Reg) (s : State) : Result :=
  op2 g 4 a.toNat d.toNat (fun x _ => shr x cnt.toNat) s

def execSari (g : Guard) (cnt : BitVec 5) (a d : Reg) (s : State) : Result :=
  op2 g 4 a.toNat d.toNat (fun x _ => sar x cnt.toNat) s

/-! ## FP32 (R103 to R107) -/

def execFadd (g : Guard) (b a d : Reg) (s : State) : Result :=
  op3 g 4 a.toNat b.toNat d.toNat (fun x y _ => fadd x y) s

def execFsub (g : Guard) (b a d : Reg) (s : State) : Result :=
  op3 g 4 a.toNat b.toNat d.toNat (fun x y _ => fsub x y) s

def execFmul (g : Guard) (b a d : Reg) (s : State) : Result :=
  op3 g 4 a.toNat b.toNat d.toNat (fun x y _ => fmul x y) s

def execFfma (g : Guard) (b a d : Reg) (s : State) : Result :=
  op3 g 4 a.toNat b.toNat d.toNat (fun x y d => ffma x y d) s

def execFmin (g : Guard) (b a d : Reg) (s : State) : Result :=
  op3 g 4 a.toNat b.toNat d.toNat (fun x y _ => fmin x y) s

def execFmax (g : Guard) (b a d : Reg) (s : State) : Result :=
  op3 g 4 a.toNat b.toNat d.toNat (fun x y _ => fmax x y) s

def execFdiv (g : Guard) (b a d : Reg) (s : State) : Result :=
  op3 g 4 a.toNat b.toNat d.toNat (fun x y _ => fdiv x y) s

def execFrcp (g : Guard) (a d : Reg) (s : State) : Result :=
  op2 g 4 a.toNat d.toNat (fun x _ => frcp x) s

def execFrsq (g : Guard) (a d : Reg) (s : State) : Result :=
  op2 g 4 a.toNat d.toNat (fun x _ => frsq x) s

def execFsqrt (g : Guard) (a d : Reg) (s : State) : Result :=
  op2 g 4 a.toNat d.toNat (fun x _ => fsqrt x) s

def execFexp2 (g : Guard) (a d : Reg) (s : State) : Result :=
  op2 g 4 a.toNat d.toNat (fun x _ => fexp2 x) s

def execFlog2 (g : Guard) (a d : Reg) (s : State) : Result :=
  op2 g 4 a.toNat d.toNat (fun x _ => flog2 x) s

def execFclass (g : Guard) (a d : Reg) (s : State) : Result :=
  op2 g 4 a.toNat d.toNat (fun x _ => fclass x) s

/-! ## Packed 16-bit (R108) -/

def execHadd2F16 (g : Guard) (b a d : Reg) (s : State) : Result :=
  op3 g 4 a.toNat b.toNat d.toNat (fun x y _ => hadd2 fp16 x y) s

def execHmul2F16 (g : Guard) (b a d : Reg) (s : State) : Result :=
  op3 g 4 a.toNat b.toNat d.toNat (fun x y _ => hmul2 fp16 x y) s

def execHfma2F16 (g : Guard) (b a d : Reg) (s : State) : Result :=
  op3 g 4 a.toNat b.toNat d.toNat (fun x y d => hfma2 fp16 x y d) s

def execHmax2F16 (g : Guard) (b a d : Reg) (s : State) : Result :=
  op3 g 4 a.toNat b.toNat d.toNat (fun x y _ => hmax2 fp16 x y) s

def execHadd2Bf16 (g : Guard) (b a d : Reg) (s : State) : Result :=
  op3 g 4 a.toNat b.toNat d.toNat (fun x y _ => hadd2 bf16 x y) s

def execHmul2Bf16 (g : Guard) (b a d : Reg) (s : State) : Result :=
  op3 g 4 a.toNat b.toNat d.toNat (fun x y _ => hmul2 bf16 x y) s

def execHfma2Bf16 (g : Guard) (b a d : Reg) (s : State) : Result :=
  op3 g 4 a.toNat b.toNat d.toNat (fun x y d => hfma2 bf16 x y d) s

def execHmax2Bf16 (g : Guard) (b a d : Reg) (s : State) : Result :=
  op3 g 4 a.toNat b.toNat d.toNat (fun x y _ => hmax2 bf16 x y) s

/-! ## Conversions without a slot (R118), scaling (R121) -/

def execCvtI2fS32 (g : Guard) (a d : Reg) (s : State) : Result :=
  op2 g 4 a.toNat d.toNat (fun x _ => i2f x.toInt) s

def execCvtI2fN32 (g : Guard) (a d : Reg) (s : State) : Result :=
  op2 g 4 a.toNat d.toNat (fun x _ => i2f x.toNat) s

def execCvtF2iS32 (g : Guard) (a d : Reg) (s : State) : Result :=
  op2 g 4 a.toNat d.toNat (fun x _ => f2iS32 x) s

def execCvtF2iN32 (g : Guard) (a d : Reg) (s : State) : Result :=
  op2 g 4 a.toNat d.toNat (fun x _ => f2iN32 x) s

def execCvtF2hF16 (g : Guard) (a d : Reg) (s : State) : Result :=
  op2 g 4 a.toNat d.toNat (fun x _ => f2h fp16 x) s

def execCvtF2hBf16 (g : Guard) (a d : Reg) (s : State) : Result :=
  op2 g 4 a.toNat d.toNat (fun x _ => f2h bf16 x) s

def execCvtH2fF16 (g : Guard) (a d : Reg) (s : State) : Result :=
  op2 g 4 a.toNat d.toNat (fun x _ => h2f fp16 x) s

def execCvtH2fBf16 (g : Guard) (a d : Reg) (s : State) : Result :=
  op2 g 4 a.toNat d.toNat (fun x _ => h2f bf16 x) s

def execFscale (g : Guard) (b a d : Reg) (s : State) : Result :=
  op3 g 4 a.toNat b.toNat d.toNat (fun x y _ => fscale x y) s

/-! ## Conversions through a slot (R112, R115 to R120, R122) -/

/-- A feature is on when it is offered and accepted (R346). -/
def State.feature (s : State) (i : Nat) : Bool := s.sys.offer.getLsbD i && s.sys.accept.getLsbD i

/-- The slot of a team, or none where it is invalid; a stochastic slot needs feature 6 (R112, R346). -/
def State.slot (s : State) (t : Team) (n : Slot) : Option SlotVal :=
  match slotOfBits (t.fmts.getD n.toNat 0) with
  | some sl => if sl.rnd == .stochastic && !s.feature 6 then none else some sl
  | none => none

/-- Cause 0x04: the slot is invalid or its format is not usable (R112). -/
def checkSlot (s : State) (t : Team) (n : Slot) (ok : SlotVal → Bool) : Check :=
  checkAll (match s.slot t n with
    | some sl => if ok sl then none else some { code := 0x04 }
    | none => some { code := 0x04 })

/-- An instruction through a slot: each guard-true fibre changes by `f` of the slot and the core's generator, and a stochastic
slot draws `k` states once when some fibre executes (R116, R117). -/
def slotOp (g : Guard) (n : Slot) (uses : Fibre → List Nat) (ok : SlotVal → Bool) (draws : SlotVal → Nat)
    (f : SlotVal → Word → Nat → Fibre → Fibre) (s : State) : Result :=
  issue { guard := g, uses := uses } (fun s t _ => [checkSlot s t n ok])
    (fun s t act =>
      match s.slot t n with
      | none => s.advance 4
      | some sl =>
        let gen := (s.core t.core).gen
        let s := s.writeFibres act 4 (f sl gen)
        if act.isEmpty || sl.rnd != .stochastic then s
        else s.modCore t.core fun c => { c with gen := lfsrSteps (draws sl) c.gen }) s

def execCvtfNar (g : Guard) (n : Slot) (a d : Reg) (s : State) : Result :=
  slotOp g n (fun _ => [a.toNat, d.toNat]) (fun _ => true) (fun _ => 1)
    (fun sl gen i x => x.setReg d.toNat (narrow sl (drawValue gen (laneOf i) 0) (x.reg a.toNat))) s

/-- Only a slot of format INT32 rounds, and draws (R116). -/
def execCvtfWid (g : Guard) (n : Slot) (a d : Reg) (s : State) : Result :=
  slotOp g n (fun _ => [a.toNat, d.toNat]) (fun _ => true) (fun sl => if sl.elem == .int32 then 1 else 0)
    (fun sl gen i x => x.setReg d.toNat (widen sl (drawValue gen (laneOf i) 0) (x.reg a.toNat))) s

/-- The 8-bit formats, which `pk4` and `upk4` can use (R120). -/
def eightBit (sl : SlotVal) : Bool := sl.elem.width == 8

def execPk4 (g : Guard) (n : Slot) (a d : Reg) (s : State) : Result :=
  slotOp g n (fun _ => [a.toNat, a.toNat + 1, a.toNat + 2, a.toNat + 3, d.toNat]) eightBit (fun _ => 1)
    (fun sl gen i x =>
      let e (k : Nat) : BitVec 8 := (narrow sl (drawValue gen (laneOf i) k) (x.reg (a.toNat + k))).setWidth 8
      x.setReg d.toNat (e 3 ++ e 2 ++ e 1 ++ e 0)) s

def execUpk4 (g : Guard) (n : Slot) (a d : Reg) (s : State) : Result :=
  slotOp g n (fun _ => [a.toNat, d.toNat, d.toNat + 1, d.toNat + 2, d.toNat + 3]) eightBit (fun _ => 0)
    (fun sl gen i x =>
      let v := x.reg a.toNat
      let e (k : Nat) : Word := widen sl (drawValue gen (laneOf i) k) ((v.extractLsb' (8 * k) 8).setWidth 32)
      x.setRegs d.toNat [e 0, e 1, e 2, e 3]) s

/-- The generator as it stands, rotated by the home lane; it is not stepped (R122). -/
def execRgen (g : Guard) (d : Reg) (s : State) : Result :=
  issue { guard := g, uses := fun _ => [d.toNat] } (fun _ _ _ => [])
    (fun s t act => s.writeFibres act 4 fun i x =>
      x.setReg d.toNat ((s.core t.core).gen.rotateRight (3 * laneOf i % 32))) s

/-! ## Predicate instructions (R95) -/

def execPand (g : Guard) (b a d : Pred) (s : State) : Result := pred2 g a b d (fun x y => x && y) s
def execPor (g : Guard) (b a d : Pred) (s : State) : Result := pred2 g a b d (fun x y => x || y) s
def execPxor (g : Guard) (b a d : Pred) (s : State) : Result := pred2 g a b d (fun x y => x ^^ y) s
def execPnot (g : Guard) (a d : Pred) (s : State) : Result := pred2 g a a d (fun x _ => !x) s
def execPmov (g : Guard) (a d : Pred) (s : State) : Result := pred2 g a a d (fun x _ => x) s

/-! ## Windows (R88) -/

/-- max and size of the window, in registers (R88). -/
def execRwin (g : Guard) (d : Reg) (s : State) : Result :=
  issue { guard := g, uses := fun _ => [d.toNat] } (fun _ _ _ => [])
    (fun s t act => s.writeFibres act 4 fun _ x =>
      x.setReg d.toNat (BitVec.ofNat 32 (t.kernel.winMax * 8 * 2 ^ 16 + x.regs.length))) s

end Sys2Proof.Machine
end

