-- ==== Sys2Proof/Machine/Frames.lean ====
section
/-! DEFINITION. The core's own accesses by virtual address, and the context frame: its layout, the save and the reload of a team
(R91, R231, R232). -/

namespace Sys2Proof.Machine

/-! ## Privileged accesses by virtual address -/

/-- Bytes of each step of an access that runs from `va` over `n` bytes: up to the end of its 256-byte line. -/
def chunk (va n : Nat) : Nat := min n (256 - va % 256)

/-- The bytes of a page of another device that an own read of the core has brought; a read that has failed gives its cause. -/
def State.ownBytes (s : State) (c who va n home : Nat) : Except Nat (List Byte) :=
  match s.ownRead c who va with
  | some r =>
    match r.failed with
    | some code => .error code
    | none => if r.settled then .ok (r.bytesAt va n) else .error 0x40
  | none => .error (if s.reachable home then 0x41 else 0x40)

/-- Read `n` bytes at a virtual address; the cause of a failure otherwise. Those of another device must have been read for `who`
(`gatherOwn`). `fuel` bounds the lines. -/
def State.vaRead (s : State) (c who : Nat) (asid : BitVec 10) (priv : Bool) : Nat → Nat → Nat → Except Nat (List Byte)
  | 0, _, _ => .ok []
  | fuel + 1, va, n =>
    if n = 0 then .ok []
    else
      match s.translate c asid va .load priv with
      | .error e => .error e.code
      | .ok p =>
        let k := chunk va n
        let here : Except Nat (List Byte) :=
          if p.home ≠ s.dev then s.ownBytes c who va k p.home
          else if isRegs p.pa then .error 0x38
          else if s.poisoned (blkOf p.home p.pa) then .error 0x70
          else .ok (s.readPa p.pa k)
        match here, s.vaRead c who asid priv fuel (va + k) (n - k) with
        | .ok bs, .ok rest => .ok (bs ++ rest)
        | .error e, _ => .error e
        | _, .error e => .error e

/-- The pieces of a range, one for each line: virtual address, bytes and page. -/
def State.ownChunks (s : State) (c : Nat) (asid : BitVec 10) : Nat → Nat → Nat → List (Nat × Nat × Page)
  | 0, _, _ => []
  | fuel + 1, va, n =>
    if n = 0 then []
    else
      match s.translate c asid va .load true with
      | .error _ => []
      | .ok p => (va, chunk va n, p) :: s.ownChunks c asid fuel (va + chunk va n) (n - chunk va n)

/-- A line that lies on another device has not been read for `who`. -/
def State.ownLacks (s : State) (c who : Nat) (x : Nat × Nat × Page) : Bool :=
  !(x.2.2.home == s.dev || !s.reachable x.2.2.home || (s.ownRead c who x.1).any fun r => r.settled || r.failed.isSome)

/-- Physical addresses of this device's memory that begin the blocks of a piece. -/
def State.ownBlocks (s : State) (x : Nat × Nat × Page) : List Nat :=
  let p := x.2.2
  if p.home = s.dev ∧ !isRegs p.pa then distinct [p.pa / 128 * 128, (p.pa + x.2.1 - 1) / 128 * 128] else []

/-- Blocks of a piece that have not yet come to their new frame (R204). -/
def State.ownAbsent (s : State) (x : Nat × Nat × Page) : List Nat := (s.ownBlocks x).filter fun pa => !s.migrated x.2.2 pa

/-- Blocks of this device under a piece whose owners, or lines of the host, are away. -/
def State.ownAway (s : State) (x : Nat × Nat × Page) : List Nat := ((s.ownBlocks x).map (blkOf s.dev)).filter fun b => !s.blockReady b false

/-- Lines that `n` bytes may touch. -/
def lines (n : Nat) : Nat := n / 256 + 2

/-- Bring the lines of some ranges that lie on other devices, the owners of the others to this one, and the blocks of migrating pages to their new frame:
`none` once all are there and no own store for `who` is under way, else the state in which their reads are under way. -/
def State.gatherOwn (s : State) (c who : Nat) (asid : BitVec 10) (ranges : List (Nat × Nat)) : Option State :=
  if s.ownBusy who then some s
  else
    let pieces := ranges.flatMap fun x => s.ownChunks c asid (lines x.2) x.1 x.2
    let lack := pieces.filter (s.ownLacks c who)
    let absent := pieces.flatMap s.ownAbsent
    let away := pieces.flatMap s.ownAway
    if lack.isEmpty && away.isEmpty && absent.isEmpty then none
    else
      let s := absent.foldl State.pullAt ((s.gatherAll away false).getD s)
      some (lack.foldl (fun s x =>
        if (s.ownRead c who x.1).isSome || Config.ingressEntries ≤ (s.core c).ingress.length then s else s.startOwn c who x.1 x.2.2) s)

/-- Write bytes at a virtual address; to another device's memory, and to blocks that have still to come to their new frame (R204), they leave as stores of
the core itself (R231). -/
def State.vaWrite (s : State) (c who : Nat) (asid : BitVec 10) (priv : Bool) : Nat → Nat → List Byte → Except Nat State
  | 0, _, _ => .ok s
  | fuel + 1, va, bs =>
    if bs.isEmpty then .ok s
    else
      match s.translate c asid va .store priv with
      | .error e => .error e.code
      | .ok p =>
        let k := chunk va bs.length
        if p.home ≠ s.dev then
          if s.reachable p.home then (s.ownStore c who va p (bs.take k)).vaWrite c who asid priv fuel (va + k) (bs.drop k) else .error 0x43
        else if isRegs p.pa then .error 0x38
        else if !(s.ownAbsent (va, k, p)).isEmpty then (s.ownStore c who va p (bs.take k)).vaWrite c who asid priv fuel (va + k) (bs.drop k)
        else (s.writePa p.pa (bs.take k)).vaWrite c who asid priv fuel (va + k) (bs.drop k)

def State.readVa (s : State) (c who : Nat) (asid : BitVec 10) (va n : Nat) : Except Nat (List Byte) :=
  s.vaRead c who asid true (lines n) va n

def State.writeVa (s : State) (c who : Nat) (asid : BitVec 10) (va : Nat) (bs : List Byte) : Except Nat State :=
  s.vaWrite c who asid true (lines bs.length) va bs

/-! ## The frame (R232) -/

/-- Bytes a team's frame needs. -/
def Kernel.frameNeed (k : Kernel) : Nat := 8192 + k.fibres * (1024 + 4 * k.winMax * 8) + k.localBlocks * 256

/-- Offsets in a frame. -/
def fibreOff (f : Nat) : Nat := 8192 + 1024 * f
def Kernel.regsOff (k : Kernel) (f : Nat) : Nat := 8192 + 1024 * k.fibres + f * (4 * k.winMax * 8)
def Kernel.localOff (k : Kernel) : Nat := 8192 + k.fibres * (1024 + 4 * k.winMax * 8)

def wordsOf (ws : List Word) : List Byte := ws.flatMap wordBytes

/-- Bytes padded with zeros to a length. -/
def pad (n : Nat) (bs : List Byte) : List Byte := bs.take n ++ List.replicate (n - bs.length) 0

/-- The first 96 bytes: the fault record, the team and the faulting bundle. -/
def frameHead (launch num : Nat) (r : Option FaultRec) : List Byte :=
  let q : FaultRec := r.getD { cause := 0, fmask := 0, addr := 0, epc := 0, lanes := List.replicate 32 none }
  wordBytes q.cause ++ wordBytes q.fmask ++ natBytes 8 q.addr.toNat ++ wordBytes q.epc ++ natBytes 4 launch ++ natBytes 4 num
    ++ natBytes 4 0 ++ (q.lanes.map fun l => natBytes 2 (l.getD 0xFFFF)).flatten

def stateCode : HState → Nat
  | .free => 0
  | .filling => 1
  | .full => 2
  | .draining => 3

def stateOfCode (n : Nat) : HState :=
  match n with
  | 0 => .free
  | 1 => .filling
  | 2 => .full
  | _ => .draining

/-- An entry of the handle table, with the progress of the handle's command. DESIGN CHOICE: the layout of its fields (log entry 10). -/
def HandleState.frameBytes (h : HandleState) (progress : Nat) : List Byte :=
  let rec_ := (h.bound.getD (0, 0)).1
  natBytes 4 (h.base + (if h.allotted then 2 ^ 20 else 0) + (if h.fault then 2 ^ 21 else 0) + stateCode h.st * 2 ^ 22
    + (if h.bound.isSome then 2 ^ 24 else 0) + rec_ * 2 ^ 25)
    ++ natBytes 4 (h.size / 256 + progress * 2 ^ 12) ++ natBytes 4 (h.bound.getD (0, 0)).2 ++ natBytes 4 h.hwptr

/-- The progress that an entry of the handle table names. -/
def frameProgress (bs : List Byte) : Nat := bitsOf (bytesNat bs) 63 44

def HandleState.ofFrame (h : HandleState) (bs : List Byte) : HandleState :=
  let n := bytesNat bs
  let bound := if bitsOf n 24 24 = 1 then some (bitsOf n 29 25, bitsOf n 95 64) else none
  { h with base := bitsOf n 19 0, allotted := bitsOf n 20 20 == 1, fault := bitsOf n 21 21 == 1
           st := stateOfCode (bitsOf n 23 22), size := bitsOf n 43 32 * 256, bound := bound, hwptr := bitsOf n 127 96 }

def condCode : FCond → Nat
  | .live => 0
  | .dormant => 1
  | .ended => 2

def condOfCode (n : Nat) : FCond :=
  match n with
  | 0 => .live
  | 1 => .dormant
  | _ => .ended

def markCode : Mark → Nat
  | .none => 0
  | .nan => 1
  | .pinf => 2
  | .ninf => 3

def markOfCode (n : Nat) : Mark :=
  match n with
  | 0 => .none
  | 1 => .nan
  | 2 => .pinf
  | _ => .ninf

/-- A fibre's 1,024 bytes: condition with the blocked bit, pc, predicates, window size, cd, timer, links, matrix state, block order
and partials. DESIGN CHOICE: the layout of its fields (log entry 10). -/
def Fibre.frameBytes (f : Fibre) : List Byte :=
  let m := f.mat
  pad 1024 (natBytes 4 (condCode f.cond + if f.wait.isSome then 4 else 0) ++ wordBytes f.pc ++ natBytes 4 f.preds.toNat
    ++ natBytes 4 f.regs.length ++ natBytes 8 f.cd ++ natBytes 8 f.timer ++ wordsOf (f.links.take 8)
    ++ wordBytes m.m ++ wordBytes m.l
    ++ natBytes 8 ((if m.isOpen then 1 else 0) + (if m.lo then 2 else 0) + (if m.hi then 4 else 0) + m.tag.toNat * 16)
    ++ pad 80 (f.blocks.flatMap fun b => natBytes 2 b)
    ++ m.part.flatMap fun p => natBytes 16 (p.sum.toNat + markCode p.mark * 2 ^ 80))

/-- `n` pieces of `k` bytes each. -/
def pieces (k : Nat) : Nat → List Byte → List (List Byte)
  | 0, _ => []
  | n + 1, bs => bs.take k :: pieces k n (bs.drop k)

/-- The fibre as its frame area and registers say. A blocked fibre keeps its wait while its area still says blocked at the same pc
(log entry 10). The window size is a multiple of 8 from 8 up to the declared maximum (R79). DESIGN CHOICE: a `cd` above 255 is read back as 255
(log entry 107). -/
def Fibre.ofFrame (f : Fibre) (winMax : Nat) (bs regs : List Byte) : Fibre :=
  let w (o : Nat) : Nat := bytesNat ((bs.drop o).take 4)
  let cond := condOfCode (w 0 % 4)
  let pc := BitVec.ofNat 32 (w 4)
  let size := max 1 (min (w 12 / 8) winMax) * 8
  let fl := w 72
  let parts := (pieces 16 16 (bs.drop 160)).map fun p =>
    ({ sum := BitVec.ofNat 80 (bytesNat p), mark := markOfCode (bitsOf (bytesNat p) 81 80) } : Partial)
  { cond := cond
    wait := if bitsOf (w 0) 2 2 = 1 ∧ pc = f.pc ∧ cond = .live then f.wait else none
    timer := bytesNat ((bs.drop 24).take 8)
    pc := pc
    preds := BitVec.ofNat 8 (w 8)
    regs := if cond = .live then (pieces 4 size regs).map fun b => BitVec.ofNat 32 (bytesNat b) else []
    blocks := f.blocks
    cd := min (w 16) 255
    links := (pieces 4 8 (bs.drop 32)).map fun b => BitVec.ofNat 32 (bytesNat b)
    pend := [], late := [], counts := f.counts
    mat := { part := parts, isOpen := fl % 2 == 1, lo := fl / 2 % 2 == 1, hi := fl / 4 % 2 == 1, tag := BitVec.ofNat 4 (fl / 16)
             m := BitVec.ofNat 32 (w 64), l := BitVec.ofNat 32 (w 68) } }

/-- The registers of a fibre that a save writes: at a listed point those that its entry marks live (R92). -/
def Team.regParts (t : Team) (points : Bool) (i : Nat) : List (Nat × List Byte) :=
  let f := t.fibre i
  match if points then t.kernel.points.find? fun p => p.1 == f.pc.toNat else none with
  | some p =>
    ((List.range f.regs.length).filter fun n => p.2.1.getLsbD n).map fun n => (t.kernel.regsOff i + 4 * n, wordBytes (f.reg n))
  | none => [(t.kernel.regsOff i, wordsOf f.regs)]

/-- The command of a handle that has started. -/
def State.startedOn (s : State) (t : Team) (h : Nat) : Option Cmd :=
  (s.core t.core).cmds.find? fun m => m.team == t.id && m.h == h && m.started

/-- The handle table of a team's frame (R157, R232). -/
def State.handleTable (s : State) (t : Team) : List Byte :=
  t.handles.zipIdx.flatMap fun p => p.1.frameBytes (((s.startedOn t p.2).map (·.done)).getD 0)

/-- The parts of a team's frame that a save writes, with their offsets. -/
def State.frameParts (s : State) (t : Team) (points : Bool) : List (Nat × List Byte) :=
  let fibs := List.range t.kernel.fibres
  (0, pad 4096 (frameHead (s.launchNumber t) t.num t.faultRec)) :: (4096, s.handleTable t)
    :: (fibs.map fun i => (fibreOff i, (t.fibre i).frameBytes)) ++ fibs.flatMap (t.regParts points)

/-- Write the parts; the cause of the first failure otherwise. -/
def State.writeParts (s : State) (c who : Nat) (asid : BitVec 10) (va : Nat) : List (Nat × List Byte) → Except Nat State
  | [] => .ok s
  | (o, bs) :: ps =>
    match s.writeVa c who asid (va + o) bs with
    | .error e => .error e
    | .ok s => s.writeParts c who asid va ps

/-- Write a team's frame. -/
def State.writeFrame (s : State) (t : Team) (points : Bool) : Except Nat State :=
  s.writeParts t.core t.id t.asid t.frameVa (s.frameParts t points)

/-- Write a team's local bytes to its frame (R157). -/
def State.writeFrameLocal (s : State) (t : Team) : Except Nat State :=
  match t.lbase with
  | some b =>
    s.writeVa t.core t.id t.asid (t.frameVa + t.kernel.localOff) ((s.core t.core).lmem.read b (t.kernel.localBlocks * 256))
  | none => .ok s

/-- Read back the fibres from a frame. -/
def State.readFibres (s : State) (t : Team) : List Nat → Except Nat (List Fibre)
  | [] => .ok []
  | i :: is =>
    match s.readVa t.core t.id t.asid (t.frameVa + fibreOff i) 1024, s.readVa t.core t.id t.asid (t.frameVa + t.kernel.regsOff i)
        (4 * t.kernel.winMax * 8), s.readFibres t is with
    | .ok bs, .ok regs, .ok fs => .ok ((t.fibre i).ofFrame t.kernel.winMax bs regs :: fs)
    | .error e, _, _ => .error e
    | _, .error e, _ => .error e
    | _, _, .error e => .error e

/-- A team reloaded from its frame: fibres and handles (R235, R216). -/
def State.readFrame (s : State) (t : Team) : Except Nat Team :=
  match s.readFibres t (List.range t.kernel.fibres), s.readVa t.core t.id t.asid (t.frameVa + 4096) (16 * t.kernel.handles) with
  | .ok fs, .ok hs =>
    let handles := (t.handles.zip (pieces 16 t.kernel.handles hs)).map fun p => p.1.ofFrame p.2
    .ok { t with fibres := fs, handles := handles }
  | .error e, _ => .error e
  | _, .error e => .error e

/-- The started commands of a team go on from the progress that the frame's handle table names (R157, R232). -/
def State.progressBack (s : State) (t : Team) : State :=
  match s.readVa t.core t.id t.asid (t.frameVa + 4096) (16 * t.kernel.handles) with
  | .error _ => s
  | .ok hs =>
    let at_ := (pieces 16 t.kernel.handles hs).map frameProgress
    let go (m : Cmd) : Cmd := if m.team = t.id ∧ m.started then { m with done := min m.size (at_.getD m.h m.done) } else m
    s.modCore t.core fun k => { k with cmds := k.cmds.map go }

/-- Bring a team's frame from another device (R231). -/
def State.gatherFrame (s : State) (t : Team) : Option State :=
  s.gatherOwn t.core t.id t.asid [(t.frameVa + 4096, t.kernel.frameNeed - 4096)]

/-- The local bytes of a frame. -/
def State.readFrameLocal (s : State) (t : Team) : Except Nat (List Byte) :=
  s.readVa t.core t.id t.asid (t.frameVa + t.kernel.localOff) (t.kernel.localBlocks * 256)

end Sys2Proof.Machine
end

