-- ==== Sys2Proof/Machine/Resources.lean ====
section
/-! DEFINITION. The resources of teams: register blocks (R78 to R80, R92), local ranges (R125, R157), windows (R133), armed records
(R220), and their release when a team ends or a launch fails (R222, R223). -/

namespace Sys2Proof.Machine

/-! ## Register blocks (R78, R80, R92) -/

/-- The free blocks of a lane column. -/
def Core.freeOf (c : Core) (lane : Nat) : List Nat := (assoc c.freeBlocks lane).getD (List.range Config.columnBlocks)

def State.setFree (s : State) (c lane : Nat) (bs : List Nat) : State :=
  s.modCore c fun k => { k with freeBlocks := assocSet k.freeBlocks lane bs }

/-- Blocks become free in a column. -/
def State.addFree (s : State) (c lane : Nat) (bs : List Nat) : State :=
  if bs.isEmpty then s else s.setFree c lane (sortNats ((s.core c).freeOf lane ++ bs))

/-- Lingering blocks of a column, in the order in which their teams were saved: team, block, fibre and first register. -/
def State.lingerOf (s : State) (c lane : Nat) : List (Nat × Nat × Nat × Nat) :=
  s.teams.flatMap fun t =>
    if t.core = c then (t.linger.filter fun l => l.1 == lane).map fun l => (t.id, l.2.1, l.2.2.1, l.2.2.2) else []

/-- A launch that fails retires its teams (R222); which result, and whether it was already retiring. -/
def State.markRetiring (s : State) (l result : Nat) : State :=
  s.modLaunch l fun x =>
    match x.status with
    | .queued => { x with status := .retiring result }
    | .started => { x with status := .retiring result }
    | _ => x

/-! ## Published windows given up (R133) -/

/-- Unpublish slot `slot` of a core's publication table: the entry clears at once, and its blocks are to be written back. -/
def State.unpublish (s : State) (c slot : Nat) : State :=
  match assoc (s.core c).pubs slot with
  | none => s
  | some e =>
    let base := s.localBase e.team + e.lbase
    let blocks := (List.range (e.size / 128)).map fun k =>
      ({ blk := e.pages.getD (k / 64) 0 + k % 64, la := base + 128 * k, team := e.team } : PubLeft)
    let obj := s.localBase e.team + e.lbase + e.arr
    -- Senders that a closed window has noted try again (R156).
    let woken := (s.core c).noted.filter fun x => x.obj == obj
    let s := woken.foldl (fun s x => s.send (s.here (.die (s.core c).die)) x.who (.wake x.cmd)) s
    s.modCore c fun k =>
      { k with pubs := assocDel k.pubs slot, unpub := k.unpub ++ blocks, noted := k.noted.filter fun x => x.obj != obj }

/-- Write one block of an unpublished window back: its tokens pass to memory (R133). -/
def State.writeLeft (s : State) (c : Nat) (u : PubLeft) : State :=
  let d := blockOfBytes ((s.core c).lmem.read u.la 128)
  let s := s.modCore c fun k => { k with unpub := k.unpub.filter fun x => x.blk != u.blk }
  match s.hold? (.pubCore c) u.blk with
  | some h => s.evictTokens { h with data := d, dirty := true }
  | none => s

/-- Slots of the windows of a team. -/
def State.windowsOf (s : State) (t : Team) : List Nat :=
  ((s.core t.core).pubs.filter fun p => p.2.team == t.id).map (·.1)

def State.unpublishAll (s : State) (t : Team) : State := (s.windowsOf t).foldl (fun s k => s.unpublish t.core k) s

/-! ## Completion records (R223) -/

/-- Fields of a launch record (R211). -/
def recField (r : LineData) (lo n : Nat) : Nat := (r.extractLsb' lo n).toNat
def recTeams (r : LineData) : Nat := recField r 224 32
def recAsid (r : LineData) : BitVec 10 := r.extractLsb' 214 10
def recStarve (r : LineData) : Nat := recField r 208 6
def recTag (r : LineData) : Nat := recField r 256 64
def recDone (r : LineData) : Nat := recField r 327 57
def recImg (r : LineData) : Nat := recField r 391 57
def recRtab (r : LineData) : Nat := recField r 455 57
def recConst (r : LineData) (n : Nat) : Word := r.extractLsb' (512 + 32 * n) 32
def recFmt (r : LineData) (n : Nat) : BitVec 128 := r.extractLsb' (1024 + 128 * n) 128

/-- The 16 bytes of a completion record; `launch` is the launch number, none for a dropped armed record. -/
def completionBytes (r : LineData) (result : Nat) (launch : Option Nat) : List Byte :=
  natBytes 16 (recTag r * 2 ^ 64 + result * 2 ^ 56 + (if launch.isNone then 2 ^ 20 else 0) + launch.getD 0)

/-- The completion record leaves for the page's home as a posted line; `who` is the model's number of the launch. -/
def State.postCompletion (s : State) (p : Page) (va who : Nat) (bs : List Byte) : State :=
  let off := p.pa % 256
  let q : Post :=
    { id := s.nextId, kind := .completion, core := 0, team := 0, fib := 0, epc := 0, va := va, pa := p.pa / 256 * 256, home := p.home
      fibs := [], ty := p.ty, cls := p.cls, ord := .rel .sys, lanes := 0, mask := BitVec.ofNat 256 ((2 ^ 16 - 1) * 2 ^ off), data := BitVec.ofNat 2048 (patch 256 0 off bs), flags := []
      cmd := none, sent := true, refused := false, age := 0, inst := who, num := 0, told := false }
  s.fresh.sendPost q (.posted q.id q.pa q.mask q.data)

/-- Write a completion record, when the record asks for one; the answer says whether the write failed. -/
def State.complete (s : State) (c : Nat) (r : LineData) (result : Nat) (launch : Option Nat) (who : Nat) : State × Bool :=
  if recDone r = 0 then (s, false)
  else if recDone r % 16 ≠ 0 then (s, true)
  else
    let bs := completionBytes r result launch
    match s.translate c (recAsid r) (recDone r) .store true with
    | .error _ => (s, true)
    | .ok p =>
      if p.home ≠ s.dev then (s.postCompletion p (recDone r) who bs, false)
      else
        match s.vaWrite c 0 (recAsid r) true 2 (recDone r) bs with
        | .ok s' => (s', false)
        | .error _ => (s, true)

/-! ## Armed records (R220) -/

/-- Drop the armed records of a core that satisfy `p`: each leaves a completion record with result 8. -/
def State.dropArms (s : State) (c : Nat) (p : Arm → Bool) : State :=
  let gone := ((s.core c).arms.filter fun a => p a.2).map (·.2)
  let s := s.modCore c fun k => { k with arms := k.arms.filter fun a => !p a.2 }
  gone.foldl (fun s a => (s.fresh.complete c a.record 8 none s.nextId).1) s

/-! ## A team's resources -/

/-- Blocks by fibre, and blocks by lane, become free on a core. -/
def State.putBack (s : State) (c : Nat) (byFibre byLane : List (List Nat)) : State :=
  let s := (List.range byFibre.length).foldl (fun s i => s.addFree c (laneOf i) (byFibre.getD i [])) s
  (List.range byLane.length).foldl (fun s l => s.addFree c l (byLane.getD l [])) s

/-- The register blocks of a team's fibres and reserve go back to their columns (R80). -/
def State.freeRegisters (s : State) (t : Team) : State :=
  if t.handlerFor.isSome then s
  else t.linger.foldl (fun s l => s.addFree t.core l.1 [l.2.1]) (s.putBack t.core (t.fibres.map (·.blocks)) t.reserve)

/-- Open accesses of a team are abandoned; its stores and reductions go on (R65). -/
def State.dropLoads (s : State) (t : Team) : State :=
  s.abandon t.core fun r => r.team == t.id && (r.isOpen || r.kind == .fetch || r.kind == .prefetch)

/-- The grant requests of a team leave their queues (R86). -/
def State.dropGrants (s : State) (t : Team) : State :=
  s.modCore t.core fun c =>
    { c with grants := c.grants.map fun g => (g.1, g.2.filter fun r => r.team != t.id) }

/-- The save request of a core ends with the last of its saves (R229). -/
def State.clearSaveReq (s : State) (c : Nat) : State :=
  let left := s.teams.any fun t => t.core == c && match t.cond with
    | .saving .request _ _ => true
    | .written .request _ => true
    | _ => false
  if left then s else s.modCore c fun k => { k with saveReq := false }

/-- The teams that leave are kept for the reports of their accesses that go on. -/
def State.noteGone (s : State) (ts : List Team) : State := { s with gone := s.gone ++ ts.filterMap fun t => s.origin t.id }

/-- Remove a team without saving, with the handler that runs for it: its commands, row operations and units are abandoned, its windows
unpublished, its armed records dropped, and everything it held freed (R222, R331, R337). DESIGN CHOICE: a core that this leaves with no resident
team loads its seed, as after a retirement (log entry 68). -/
def State.removeTeam (s : State) (t : Team) : State :=
  let leave := s.teams.filter fun x => x.id == t.id || x.handlerFor == some t.id
  let s' := leave.foldl (fun s x => (s.dropLoads x).dropGrants x) (s.noteGone leave)
  let s' := (s'.unpublishAll t).dropArms t.core fun a => a.team == t.id
  let s' := s'.freeRegisters t
  let s' := s'.modCore t.core fun c =>
    { c with cmds := c.cmds.filter fun m => m.team != t.id, reads := c.reads.filter fun r => r.team != t.id, trapQueue := c.trapQueue.filter fun i => i != t.id
             handler := if leave.any fun x => c.handler = some x.id then none else c.handler }
  let s' := { s' with
    teams := s'.teams.filter fun x => x.id != t.id && x.handlerFor != some t.id
    rows := s'.rows.filter fun r => r.team != t.id, nb := s'.nb.filter fun u => u.owner != t.id
    sys := { s'.sys with bumps := s'.sys.bumps.filter fun b => b.team != t.id } }
  let s' := s'.modLaunch t.launch fun l => { l with frames := l.frames.filter fun f => f != t.frame }
  (s'.idleEngines.clearSaveReq t.core).reseed s t.core

/-- Launches outstanding below the teams of a launch (R222). -/
def State.childrenOf (s : State) (l : Nat) : List Nat :=
  let ts := (s.teams.filter fun t => t.launch == l).map fun t => t.id
  (s.launches.filter fun x =>
    match x.parent, x.status with
    | some p, .queued => ts.contains p
    | some p, .started => ts.contains p
    | _, _ => false).map fun x => x.id

/-- Retire a launch with a result of 3 to 7, and every launch below it with result 7; `fuel` bounds the nesting (R222). -/
def State.failLaunch : Nat → State → Nat → Nat → State
  | 0, s, _, _ => s
  | fuel + 1, s, l, result =>
    let below := s.childrenOf l
    let s := (s.teams.filter fun t => t.launch == l).foldl (fun s t => s.removeTeam t) s
    below.foldl (fun s x => State.failLaunch fuel s x 7) ((s.dropOwn 0 l).markRetiring l result)

def State.fail (s : State) (l result : Nat) : State := State.failLaunch 12 s l result

/-! ## Grants of blocks -/

/-- Before a grant takes a lingering block, its registers go to its team's frame (R92); a failure there retires the launch (R213). -/
def State.claim (s : State) (team blk fib first : Nat) : State :=
  match s.team? team with
  | none => s
  | some t =>
    let s' := s.modTeam team fun t => { t with linger := t.linger.filter fun l => !(l.2.1 == blk && l.2.2.1 == fib) }
    let regs := wordsOf ((t.fibre fib).regsFrom first 8)
    match s'.writeVa t.core t.id t.asid (t.frameVa + t.kernel.regsOff fib + 4 * first) regs with
    | .ok s'' => s''
    | .error _ => s'.fail t.launch 6

/-- Take one lingering block, the one that has lingered longest; where the claim fails its launch, blocks become free, and the next comes
from them. -/
def State.takeLingering (s : State) (c lane : Nat) : Option (Nat × State) :=
  match (s.core c).freeOf lane, s.lingerOf c lane with
  | b :: rest, _ => some (b, s.setFree c lane rest)
  | [], x :: _ => some (x.2.1, s.claim x.1 x.2.1 x.2.2.1 x.2.2.2)
  | [], [] => none

/-- Take `n` blocks, one after another. -/
def State.takeEach : Nat → State → Nat → Nat → List Nat × State
  | 0, s, _, _ => ([], s)
  | n + 1, s, c, lane =>
    match s.takeLingering c lane with
    | some (b, s') => let r := State.takeEach n s' c lane; (b :: r.1, r.2)
    | none => ([], s)

/-- Take `need` blocks of a column, free ones first and lowest-numbered first (log entry 11), then lingering ones. -/
def State.takeBlocks (s : State) (c lane need : Nat) : Option (List Nat × State) :=
  let free := (s.core c).freeOf lane
  if need ≤ free.length then some (free.take need, s.setFree c lane (free.drop need))
  else if need ≤ free.length + (s.lingerOf c lane).length then
    let r := State.takeEach (need - free.length) (s.setFree c lane []) c lane
    some (free ++ r.1, r.2)
  else none

/-- Take blocks for a team that is there: where a claim's failure has removed it with its launch, nothing is given, and the blocks are free
again. -/
def State.takeFor (s : State) (team c lane need : Nat) : Option (List Nat × State) :=
  (s.takeBlocks c lane need).map fun p => if (p.2.team? team).isSome then p else ([], p.2.addFree c lane p.1)

/-- Take blocks for a fibre of a concurrent team from what is left of the team's reserve in the column (R80, R85). -/
def State.takeReserve (s : State) (t : Team) (lane need : Nat) : List Nat × State :=
  let r := ((s.team? t.id).getD t).reserve.getD lane []
  (r.take need, s.modTeam t.id fun t => { t with reserve := t.reserve.set lane (r.drop need) })

/-- Blocks that a fibre gives up go to the reserve of a concurrent team, else to the column (R80); a trap handler's blocks are the core's
own (R234). -/
def State.giveBack (s : State) (t : Team) (lane : Nat) (bs : List Nat) : State :=
  if t.handlerFor.isSome then s
  else if t.cls = 0 then s.modTeam t.id fun t => { t with reserve := t.reserve.modify lane fun r => sortNats (r ++ bs) }
  else s.addFree t.core lane bs

/-! ## Local ranges (R125, R157) -/

/-- The local bytes of a team may be claimed: it is saved, and not concurrent, which keeps what it holds (R157, R233). -/
def Team.claimable (t : Team) : Bool :=
  t.cls != 0 && match t.cond with
    | .saved .. => true
    | _ => false

/-- Ranges of a core's local memory in use: of teams, and of window bytes that are not yet written back. -/
def State.localUse (s : State) (c : Nat) (saved : Bool) : List (Nat × Nat) :=
  (s.teams.filterMap fun t =>
    if t.core = c && (saved || !t.claimable) then t.lbase.map fun b => (b, t.lsize) else none) ++ (s.core c).unpub.map fun u => (u.la / 256 * 256, 256)

/-- The lowest multiple of 256 at which a range fits. -/
def lowestFit (use : List (Nat × Nat)) (size : Nat) : Option Nat :=
  ((List.range 2048).map fun k => k * 256).find? fun b =>
    b + size ≤ Config.localBytes && use.all fun u => b + size ≤ u.1 || u.1 + u.2 ≤ b

/-- A range for `size` bytes: a free one, else one that saved teams' bytes leave when they are claimed (R125, R157). -/
def State.findRange (s : State) (c size : Nat) : Option Nat :=
  match lowestFit (s.localUse c true) size with
  | some b => some b
  | none => lowestFit (s.localUse c false) size

/-- A saved team's local bytes are claimed: they go to its frame, and its windows are written back (R157). -/
def State.claimLocal (s : State) (t : Team) : State :=
  match t.lbase with
  | none => s
  | some b =>
    let open_ := ((s.core t.core).pubs.filter fun p => p.2.team == t.id).map (·.2)
    let s := (s.unpublishAll t).modTeam t.id fun t => { t with reopen := t.reopen ++ open_ }
    let left := (s.core t.core).unpub.filter fun u => u.team == t.id
    let s := left.foldl (fun s u => s.writeLeft t.core u) s
    let bytes := (s.core t.core).lmem.read b (t.kernel.localBlocks * 256)
    match s.writeVa t.core t.id t.asid (t.frameVa + t.kernel.localOff) bytes with
    | .ok s => s.modTeam t.id fun t => { t with lbase := none }
    | .error _ => s.fail t.launch 6

/-- Claim every saved team's bytes that a range overlaps. -/
def State.claimRange (s : State) (c b size : Nat) : State :=
  let laps (t : Team) : Bool :=
    t.core == c && t.claimable && t.lbase.any fun x => x < b + size && b < x + t.lsize
  (s.teams.filter laps).foldl (fun s t => s.claimLocal t) s

/-- Clear a range of a core's local memory (R126). -/
def State.clearLocal (s : State) (c b size : Nat) : State :=
  s.modCore c fun k => { k with lmem := k.lmem.filter fun x => !(b ≤ x.1 && x.1 < b + size) }

end Sys2Proof.Machine
end

