-- ==== Sys2Proof/Machine/Control.lean ====
section
/-! DEFINITION. Control instructions: branches, calls, fibre creation and ending, `home`, traps, and windows (R56 to R66, R70, R76,
R84 to R87, R236). -/

namespace Sys2Proof.Machine

/-! ## Branches (R57 to R59) -/

/-- Target of a B-format offset (R56). -/
def target (pc : Word) (off : BitVec 20) : Word := pc + off.signExtend 32 * 2

def alike : List Word → Bool
  | [] => true
  | w :: ws => ws.all fun x => x == w

/-- Count a wrong uniform hint (R58). -/
def State.countMiss (s : State) (c : Nat) (uni : Bool) (nexts : List Word) : State :=
  if uni && !alike nexts then
    s.modCore c fun k => { k with umiss := if k.umiss = 0xFFFFFFFF then k.umiss else k.umiss + 1 }
  else s

/-- Every fibre of the bundle moves to its next program counter (R53, R57). -/
def State.jump (s : State) (t : Team) (uni : Bool) (next : Nat → Fibre → Word) : State :=
  (s.countMiss t.core uni (s.cur.fibs.map fun i => next i (t.fibre i))).split next

/-- Fibres enter the gathering pools of their targets (R59). -/
def Team.pool (t : Team) (is : List Nat) (stamp : Nat) : Team :=
  let t := t.unbundle is
  is.foldl (fun t i =>
    let p := (t.fibre i).pc
    if t.pools.any fun x => x.target == p then
      { t with pools := t.pools.map fun x => if x.target == p then { x with fibs := x.fibs ++ [(i, stamp)] } else x }
    else { t with pools := t.pools ++ [{ target := p, fibs := [(i, stamp)], age := 0 }] }) t

/-- A branch with a regroup mark: the fibres that take it enter pools. -/
def State.regroup (s : State) (t : Team) (act : List Nat) (uni : Bool) (next : Nat → Fibre → Word) : State :=
  let s' := s.jump t uni next
  s'.modTeam t.id fun t => t.pool act s'.stamp

def brNext (g : Guard) (off : BitVec 20) : Nat → Fibre → Word := fun _ f =>
  if guardHolds g f then target f.pc off else f.pc + 4

def execBr (g : Guard) (off : BitVec 20) (uni : Bool) (s : State) : Result :=
  issue { guard := g } (fun _ _ _ => []) (fun s t _ => s.jump t uni (brNext g off)) s

def execBrRgp (g : Guard) (off : BitVec 20) (uni : Bool) (s : State) : Result :=
  issue { guard := g } (fun _ _ _ => []) (fun s t act => s.regroup t act uni (brNext g off)) s

/-- The check of an indirect target against its site's table (R43). -/
def checkTarget (t : Team) (a : Nat) : Check := fun _ f =>
  match assoc t.kernel.targets f.pc.toNat with
  | some l => if l.contains (f.reg a).toNat then none else some { code := 0x11 }
  | none => some { code := 0x11 }

def brxNext (g : Guard) (a : Nat) : Nat → Fibre → Word := fun _ f => if guardHolds g f then f.reg a else f.pc + 4

def execBrx (g : Guard) (uni : Bool) (a : Reg) (s : State) : Result :=
  issue { guard := g, uses := fun _ => [a.toNat] } (fun _ t _ => [checkTarget t a.toNat])
    (fun s t _ => s.jump t uni (brxNext g a.toNat)) s

def execBrxRgp (g : Guard) (uni : Bool) (a : Reg) (s : State) : Result :=
  issue { guard := g, uses := fun _ => [a.toNat] } (fun _ t _ => [checkTarget t a.toNat])
    (fun s t act => s.regroup t act uni (brxNext g a.toNat)) s

/-! ## Calls and the link stack (R60 to R62) -/

/-- Where link entry `e` of fibre `i` lies, for `e` from 8 up (R60). -/
def linkPlace (t : Team) (i e : Nat) : Place? :=
  let b := t.record 30
  if malformed b then .error { code := 0x36 }
  else
    let r := recordOfBits b
    let o := 4 * (e - 8)
    let a := (r.base + i * r.slice + o) % 2 ^ 57
    if a % 4 ≠ 0 then .error { code := 0x33, addr := a }
    else if r.slice = 0 ∨ r.slice < o + 4 then .error { code := 0x32, addr := a }
    else .ok (some a)

/-- The checks of a link access at the depth `e` gives; none for an entry held in the core. -/
def State.linkChecks (s : State) (t : Team) (a : Access) (e : Fibre → Nat) : List Check :=
  accessOrder fun i f =>
    if e f < 8 then none else s.placedError t a (a == .store && t.refuses 30) (linkPlace t i (e f))

/-- Check of R61. -/
def checkDepth : Check := fun _ f => if f.cd = 255 then some { code := 0x15 } else none

/-- The effect of a call (R61): the links are written, in the core or in spill memory, and the fibres move. -/
def State.callEffect (s : State) (t : Team) (act : List Nat) (uni : Bool) (next : Nat → Fibre → Word) : State :=
  let items := act.filterMap fun i =>
    let f := t.fibre i
    if f.cd < 8 then none else s.item t .store i (linkPlace t i f.cd) 4 [] [] (f.pc + 4) 0
  let groups := lineGroups items
  if s.accessStalls t act false groups then s.stall
  else
    let inst := s.nextId
    let s := s.fresh.addReqs t s.cur.fibs (s.curPc t) inst .store .rlx groups
    (s.jump t uni next).modTeam t.id fun t' =>
      t'.modFibres act fun i f =>
        { f with links := if f.cd < 8 then f.links.set f.cd ((t.fibre i).pc + 4) else f.links, cd := f.cd + 1 }

def execCall (g : Guard) (off : BitVec 20) (uni : Bool) (s : State) : Result :=
  issue { guard := g } (fun s t _ => checkDepth :: s.linkChecks t .store fun f => f.cd)
    (fun s t act => s.callEffect t act uni (brNext g off)) s

def execCallx (g : Guard) (uni : Bool) (a : Reg) (s : State) : Result :=
  issue { guard := g, uses := fun _ => [a.toNat] }
    (fun s t _ => checkTarget t a.toNat :: checkDepth :: s.linkChecks t .store fun f => f.cd)
    (fun s t act => s.callEffect t act uni (brxNext g a.toNat)) s

/-- The link word that a return of fibre `i` uses, once it is known (R62). -/
def State.linkWord (s : State) (t : Team) (i : Nat) : Option Word :=
  let f := t.fibre i
  if f.cd ≤ 8 then some (f.links.getD (f.cd - 1) 0)
  else
    match linkPlace t i (f.cd - 1) with
    | .ok (some va) =>
      match s.fetched t i va with
      | some r => if r.settled then some (BitVec.ofNat 32 (bytesNat (r.bytesAt va 4))) else none
      | none => none
    | _ => none

/-- Start the link loads that are not yet under way. -/
def State.startLinks (s : State) (t : Team) (act : List Nat) : State :=
  act.foldl (fun s i =>
    let f := t.fibre i
    if f.cd ≤ 8 then s
    else
      match linkPlace t i (f.cd - 1) with
      | .ok (some va) =>
        match s.fetched t i va, s.translate t.core t.asid va .load t.privileged with
        | none, .ok p => if s.readStalls t [i] va p then s else s.startFetch t i va 4 p f.pc s.cur.fibs
        | _, _ => s
      | _ => s) s

/-- The link loads of fibres are used up. -/
def State.endLinks (s : State) (t : Team) (act : List Nat) : State :=
  s.modCore t.core fun k =>
    { k with reqs := k.reqs.filter fun r =>
        !(r.kind == .fetch && r.team == t.id && act.any fun i => r.cmd == some i) }

def execRet (g : Guard) (uni : Bool) (s : State) : Result :=
  issue { guard := g }
    (fun s t _ => (fun _ f => if f.cd = 0 then some { code := 0x14 } else none) :: s.linkChecks t .load fun f => f.cd - 1)
    (fun s t act =>
      if act.any fun i => (s.linkWord t i).isNone then (s.startLinks t act).stall
      else
        let word (i : Nat) : Word := (s.linkWord t i).getD 0
        let bad := act.filter fun i => (word i).toNat % 2 == 1 || t.kernel.codeBytes ≤ (word i).toNat
        let s := s.endLinks t act
        if bad.isEmpty then
          (s.jump t uni fun i f => if guardHolds g f then word i else f.pc + 4).modTeam t.id fun t' =>
            t'.modFibres act fun _ f => { f with cd := f.cd - 1 }
        else s.raise t { code := 0x11 } bad s.cur.fibs (s.curPc t)) s

/-! ## Barriers of a team: `home` and `bar` (R70, R139) -/

/-- The members of a home group when all of them are blocked at one `home`. -/
def Team.homeReady (t : Team) (g : Nat) : Option (List Nat) :=
  let ms := t.members g
  match ms with
  | [] => none
  | i :: _ =>
    if ms.all fun j => (t.fibre j).wait == some .home && (t.fibre j).pc == (t.fibre i).pc then some ms else none

/-- Every home group whose members are all at one `home` leaves as one bundle (R70). -/
def State.releaseHomes (s : State) (team : Nat) : State :=
  match s.team? team with
  | none => s
  | some t => (distinct (t.live.map groupOf)).foldl (fun s g =>
      match t.homeReady g with
      | some ms => s.releaseWhole team ms
      | none => s) s

/-- All live fibres are blocked at a `bar`: they leave together (R139). -/
def State.releaseBar (s : State) (team : Nat) : State :=
  match s.team? team with
  | none => s
  | some t =>
    if !t.live.isEmpty && t.live.all fun i => (t.fibre i).wait == some .bar then s.release team t.live else s

/-- After a fibre has blocked, ended or left a wait. -/
def State.settle (s : State) (team : Nat) : State := (s.releaseHomes team).releaseBar team

def execHome (g : Guard) (s : State) : Result :=
  issue { guard := g } (fun _ _ _ => [])
    (fun s t _ => (s.blockSome (fun _ f => if guardHolds g f then some .home else none) (fun _ f => f)).settle t.id) s

def execNop (g : Guard) (s : State) : Result :=
  issue { guard := g } (fun _ _ _ => []) (fun s _ _ => s.advance 4) s

/-! ## Creating and ending fibres (R64 to R66) -/

/-- A child as `fork` makes it (R64), in a slot with the write counts `counts`. -/
def Fibre.child (parent : Fibre) (counts : List (Nat × Nat)) (pc : Word) (size : Nat) (blocks : List Nat) : Fibre :=
  { cond := .live, wait := none, timer := 0, pc := pc, preds := parent.preds
    regs := parent.regsFrom 0 8 ++ List.replicate (size - 8) 0, blocks := blocks, cd := 0
    links := List.replicate 8 0, pend := [], late := [], counts := (List.range size).foldl countWrite counts, mat := .reset }

/-- Dormant slots, lowest first. -/
def Team.dormant (t : Team) : List Nat := (List.range t.fibres.length).filter fun i => (t.fibre i).cond == .dormant

/-- The child becomes live, alone in a new bundle. -/
def State.makeChild (s : State) (team parent c : Nat) (pc : Word) (blocks : List Nat) : State :=
  s.modTeam team fun t =>
    (t.modFibre c fun f => (t.fibre parent).child f.counts pc (8 * blocks.length) blocks).bundle [c] s.stamp

/-- The order of the grant requests of one cycle: by the admission of their teams, then by fibre number (R86). -/
def State.servedFirst (s : State) (team fib team' fib' : Nat) : Bool :=
  let order (n : Nat) : Nat := ((s.team? n).map (·.admitted)).getD 0
  order team < order team' || (order team == order team' && fib < fib')

/-- The two bytes of code at an address, where they lie on this device. -/
def State.peekUnit (s : State) (t : Team) (va : Nat) : List Byte :=
  match s.translate t.core t.asid va .fetch t.privileged with
  | .ok p => if p.home = s.dev ∧ !isRegs p.pa then s.readPa p.pa 2 else []
  | .error _ => []

/-- The next instruction at a program counter of a team asks for register blocks of a column. -/
def State.asksGrant (s : State) (t : Team) (pc : Word) : Bool :=
  let va := t.kernel.code + pc.toNat
  t.cls != 0 && match decode (s.peekUnit t va ++ s.peekUnit t (va + 2)) with
  | .ok (.rgrow .., _) => true
  | .ok (.fork .., _) => true
  | _ => false

/-- One of some bundles may still make a request in this cycle that goes before that of a fibre (R86). -/
def State.outrun (s : State) (rs : List Ready) (core team fib : Nat) : Bool :=
  rs.any fun r =>
    r.core == core && (r.bundle.fibs.any fun i => s.servedFirst r.team i team fib)
      && (s.team? r.team).any fun t => s.asksGrant t (t.fibre (r.bundle.fibs.headD 0)).pc

/-- The bundles that may issue in this cycle after the one that issues. -/
def State.stillToIssue (s : State) : List Ready := s.issued.ready.filter fun r => r.team != s.cur.team || r.bundle.fibs != s.cur.fibs

/-- Blocks for a request of fibre `fib` in a lane column, when they can be given at once: from the team's reserve, or from the column when no
request waits there, and none of this cycle that goes first can come (R64, R85, R86). -/
def State.grantNow (s : State) (t : Team) (fib lane need : Nat) : Option (List Nat × State) :=
  if t.handlerFor.isSome then some (List.range need, s)
  else if t.cls = 0 then some (s.takeReserve t lane need)
  else if ((assoc (s.core t.core).grants lane).getD []).isEmpty && !s.outrun s.stillToIssue t.core t.id fib then s.takeFor t.id t.core lane need
  else none

/-- A request goes behind those made before it, and behind those of its cycle that are served first. -/
def State.insertGrant (s : State) (r : GrantReq) : List GrantReq → List GrantReq
  | [] => [r]
  | x :: xs => if x.made = r.made ∧ s.servedFirst r.team r.fib x.team x.fib then r :: x :: xs else x :: s.insertGrant r xs

/-- A request joins a lane column's grant queue (R86). -/
def State.queueGrant (s : State) (c lane : Nat) (r : GrantReq) : State :=
  s.modCore c fun k => { k with grants := assocSet k.grants lane (s.insertGrant r ((assoc k.grants lane).getD [])) }

/-- Fork for fibres in ascending order, with the dormant slots that are left; once one cannot be granted, it and the later ones join
the queues. The answer lists the fibres whose child is live. -/
def State.forkAll (s : State) (t : Team) (off : BitVec 20) : List Nat → List Nat → Bool → State × List Nat
  | [], _, _ => (s, [])
  | f :: fs, slots, blocked =>
    let c := slots.headD 0
    let pc := target (t.fibre f).pc off
    let wait : GrantReq := { made := s.stamp, team := t.id, fib := f, need := t.kernel.winInit, child := some c }
    match if blocked then none else s.grantNow t f (laneOf c) t.kernel.winInit with
    | some (bs, s') =>
      let r := (s'.makeChild t.id f c pc bs).forkAll t off fs slots.tail false
      (r.1, f :: r.2)
    | none => (s.queueGrant t.core (laneOf c) wait).forkAll t off fs slots.tail true

def execFork (g : Guard) (off : BitVec 20) (s : State) : Result :=
  issue { guard := g }
    (fun _ t act => [checkAll (if t.dormant.length < act.length then some { code := 0x16 } else none)])
    (fun s t act =>
      if !s.performedAt t act .team then s.stall
      else
        let r := s.forkAll t off (sortNats act) t.dormant false
        r.1.blockSome
          (fun i f => if act.contains i && !r.2.contains i then some (.fork (target f.pc off)) else none)
          (fun _ f => f)) s

/-- End fibres of the issuing bundle; the slot takes a condition, and the others go on (R65). -/
def State.endFibres (s : State) (t : Team) (act : List Nat) (c : FCond) : State :=
  let s := act.foldl (fun s i => s.giveBack t (laneOf i) (t.fibre i).blocks) s
  let rest := s.cur.fibs.filter fun i => !act.contains i
  let s := s.modTeam t.id fun t =>
    let t := (t.modFibres act fun _ f => { Fibre.empty c with pc := f.pc, counts := f.counts }).unbundle act
    (t.modFibres rest fun _ f => { f with pc := f.pc + 4 }).rebundle rest s.stamp
  s.issued.settle t.id

def execExit (g : Guard) (s : State) : Result :=
  issue { guard := g } (fun _ _ _ => []) (fun s t act => s.endFibres t act .ended) s

def execFend (g : Guard) (s : State) : Result :=
  issue { guard := g } (fun _ _ _ => []) (fun s t act => s.endFibres t act .dormant) s

/-! ## Traps (R76, R236) -/

def execTrap (g : Guard) (code : BitVec 10) (s : State) : Result :=
  issue { guard := g } (fun _ _ _ => [checkAll (some { code := 0x1F, trap := code.toNat })]) (fun s _ _ => s.advance 4) s

def execBrk (g : Guard) (s : State) : Result :=
  issue { guard := g } (fun _ _ _ => [checkAll (some { code := 0x7F })]) (fun s _ _ => s.advance 4) s

/-! ## Windows (R84 to R87) -/

/-- A legal field of `rgrow` and `rshrink` (R84). -/
def growLegal (n : BitVec 6) : Bool := 1 ≤ n.toNat && n.toNat ≤ 32

def Fibre.grow (f : Fibre) (bs : List Nat) : Fibre :=
  { f with blocks := f.blocks ++ bs, regs := f.regs ++ List.replicate (8 * bs.length) 0 }

/-- Grow fibres in ascending order; one that cannot be granted joins its column's queue. The answer lists those granted. -/
def State.growAll (s : State) (t : Team) (need : Nat) : List Nat → State × List Nat
  | [] => (s, [])
  | f :: fs =>
    match s.grantNow t f (laneOf f) need with
    | some (bs, s') =>
      let r := (s'.modTeam t.id fun t => t.modFibre f fun x => x.grow bs).growAll t need fs
      (r.1, f :: r.2)
    | none =>
      (s.queueGrant t.core (laneOf f) { made := s.stamp, team := t.id, fib := f, need := need, child := none }).growAll t need fs

def execRgrow (g : Guard) (n : BitVec 6) (s : State) : Result :=
  issue { guard := g, early := [checkLegal (growLegal n)] }
    (fun _ t _ => [fun _ f =>
      if t.kernel.winMax * 8 < f.regs.length + 8 * n.toNat then some { code := 0x13 } else none])
    (fun s t act =>
      let r := s.growAll t n.toNat (sortNats act)
      r.1.blockSome (fun i _ => if act.contains i && !r.2.contains i then some (.grow n.toNat) else none) (fun _ f => f)) s

def execRshrink (g : Guard) (n : BitVec 6) (s : State) : Result :=
  issue { guard := g, early := [checkLegal (growLegal n)] }
    (fun _ _ _ => [fun _ f => if f.regs.length < 8 * n.toNat + 8 then some { code := 0x17 } else none])
    (fun s t act =>
      if act.any fun i => (t.fibre i).pend.any fun p => (t.fibre i).regs.length - 8 * n.toNat ≤ p.reg then s.stall
      else
        let keep (f : Fibre) : Nat := f.blocks.length - n.toNat
        let s := act.foldl (fun s i => s.giveBack t (laneOf i) ((t.fibre i).blocks.drop (keep (t.fibre i)))) s
        s.writeFibres act 4 fun _ f =>
          { f with blocks := f.blocks.take (keep f), regs := f.regs.take (f.regs.length - 8 * n.toNat) }) s

/-- The head of a lane column's grant queue may be met (R86); a `fork` waits for those before it in its bundle (R64). DESIGN CHOICE: a request
whose team is being saved is not granted, and holds back those behind it until it is withdrawn (log entry 69). One of this cycle waits while another that
goes first may still be made. -/
def State.grantHead (s : State) (c lane : Nat) : Option (GrantReq × List Nat × State) :=
  match (assoc (s.core c).grants lane).getD [] with
  | [] => none
  | r :: _ =>
    match s.team? r.team with
    | none => none
    | some t =>
      let before := (s.core c).grants.any fun q => q.2.any fun x =>
        x.team == r.team && x.child.isSome && x.fib < r.fib && t.parked.any fun g => g.contains x.fib && g.contains r.fib
      if t.cond ≠ .resident ∨ (r.made = s.stamp ∧ s.outrun s.ready c r.team r.fib) ∨ (r.child.isSome ∧ (before ∨ (t.dormant.filter fun i => laneOf i == lane).isEmpty)) then none
      else (s.takeFor r.team c lane r.need).map fun p => (r, p.1, p.2)

/-- GRANT_REQUEST_GRANTED (R85, R86, R64). -/
def execGrantRequestGranted (core lane : Nat) (s : State) : Result :=
  match s.grantHead core lane with
  | none => .next s
  | some (r, bs, s') =>
    if (s'.team? r.team).isNone then .next s' else
    let s' := s'.modCore core fun k => { k with grants := assocSet k.grants lane (((assoc k.grants lane).getD []).drop 1) }
    match r.child with
    | none => .next ((s'.modTeam r.team fun t => t.modFibre r.fib fun f => f.grow bs).release r.team [r.fib])
    | some c =>
      match s'.team? r.team with
      | none => .next s'
      | some t =>
        let slot := if (t.fibre c).cond = .dormant then c else ((t.dormant.filter fun i => laneOf i == lane).headD c)
        match (t.fibre r.fib).wait with
        | some (.fork pc) => .next ((s'.makeChild r.team r.fib slot pc bs).release r.team [r.fib])
        | _ => .next s'

end Sys2Proof.Machine
end

