-- ==== Sys2Proof/Machine/Launches.lean ====
section
/-! DEFINITION. Launch queues: status words, acceptance of records, and launch numbers (R213 to R215, R221). -/

namespace Sys2Proof.Machine

def State.queue (s : State) (q : Nat) : QueueDesc := s.sys.queues.getD q .reset

def State.modQueue (s : State) (q : Nat) (f : QueueDesc → QueueDesc) : State :=
  { s with sys := { s.sys with queues := s.sys.queues.modify q f } }

/-- The launch that fills a slot. -/
def State.inSlot (s : State) (q slot : Nat) : Option Launch := s.launches.find? fun l => l.q == q && l.slot == slot

/-- The launch that a number names: none where the ring has no such slot (R215). -/
def State.launchAt (s : State) (q slot : Nat) : Option Launch := if slot < 2 ^ (s.queue q).lsize then s.inSlot q slot else none

def LaunchStatus.busy : LaunchStatus → Bool
  | .retired _ => false
  | _ => true

def LaunchStatus.failing : LaunchStatus → Bool
  | .retiring _ => true
  | _ => false

/-- A launch that has started; one that has retired counts as started (R226). -/
def LaunchStatus.hasStarted : LaunchStatus → Bool
  | .queued => false
  | _ => true

/-- The status word of a slot (R214). -/
def statusWord (state cls result : Nat) (dfail : Bool) : Nat :=
  result * 2 ^ 24 + (if dfail then 2 ^ 10 else 0) + cls * 2 ^ 8 + state

def State.statusAddr (s : State) (q slot : Nat) : Nat :=
  let d := s.queue q
  d.base + 256 * 2 ^ d.lsize + 4 * slot

def State.writeStatus (s : State) (l : Launch) (state result : Nat) (dfail : Bool) : State :=
  s.writePa (s.statusAddr l.q l.slot) (natBytes 4 (statusWord state l.cls result dfail))

/-- The slot that the next record fills is in state 1 or 2 (R215). -/
def State.queueFull (s : State) (q : Nat) : Bool :=
  match s.inSlot q (s.queue q).widx with
  | some l => l.status.busy
  | none => false

/-- The queue takes records: enabled, and go is set (R215, R344). -/
def State.queueOn (s : State) (q : Nat) : Bool := (s.queue q).en && s.sys.go

/-- The class that the image's header declares, or 3 where it cannot be known (R215). -/
def State.imageClass (s : State) (who : Nat) (r : LineData) : Nat :=
  match s.vaRead 0 who (recAsid r) true 2 (recImg r + 5) 1 with
  | .ok bs => let c := bytesNat bs; if c ≤ 2 then c else 3
  | .error _ => 3

/-- Read the class from another device's memory, for `who`; `none` once that is done. -/
def State.gatherClass (s : State) (who : Nat) (r : LineData) : Option State := s.gatherOwn 0 who (recAsid r) [(recImg r + 5, 1)]

/-- Accept a record into a queue that has room (R215): it fills slot widx, and its number is q × 65,536 + widx. `who` has read its class. -/
def State.accept (s : State) (who q : Nat) (r : LineData) (depth : Nat) (parent : Option Nat) (acq : Scope) : State :=
  let d := s.queue q
  let l : Launch := { id := s.nextId, q := q, slot := d.widx, taken := false, record := r, cls := s.imageClass who r, status := .queued
                      depth := depth, parent := parent, acq := acq, kernel := none, next := 0, done := 0, waited := 0
                      starving := false, frames := [], lost := false }
  let s := { s with launches := (s.launches.filter fun (x : Launch) => !(x.q == q && x.slot == d.widx)) ++ [l] }.fresh
  let s := (s.dropOwn 0 who).writePa (d.base + 256 * d.widx) (natBytes 256 r.toNat)
  (s.writeStatus l 1 0 false).modQueue q fun d => { d with widx := (d.widx + 1) % 2 ^ d.lsize }

/-- A record that a full or disabled queue discards is counted (R214). -/
def State.countOvf (s : State) (q : Nat) : State :=
  s.modQueue q fun d => { d with ovf := if d.ovf = 0xFFFF then d.ovf else d.ovf + 1 }

/-- What the sender of a launch line hears. -/
def State.tellOffer (s : State) (o : Offer) (st : RemStatus) : State :=
  match o.answer with
  | some (src, dst, id) => s.sendHalves dst src (.postedAck id st) 3 (some (blkOf s.dev (s.sys.windows.getD o.q (0, false)).1))
  | none => s

/-- The queue takes the record, or discards and counts it. A launch line goes only where the queue accepts those (R214, R215, R315). -/
def State.enter (s : State) (o : Offer) : State :=
  let on := s.queueOn o.q && (o.answer.isNone || (s.queue o.q).fab)
  if !on then (s.countOvf o.q).tellOffer o .queueOff
  else if s.queueFull o.q then (s.countOvf o.q).tellOffer o .queueFull
  else (s.accept o.id o.q o.record 0 none .sys).tellOffer o .ok

/-- Offer a record from the host or the fabric (R215): one whose class must be read from another device's memory waits, and so do those after
it, since records of one source are accepted in the order sent. -/
def State.offer (s : State) (q : Nat) (r : LineData) (answer : Option (Party × Party × Nat)) : State :=
  let o : Offer := { id := s.nextId, q := q, record := r, answer := answer }
  let s := s.fresh
  let first := s.offers.all fun x => x.q != q
  if !s.queueOn q || s.queueFull q || (first && (s.gatherClass o.id r).isNone) then s.enter o else { s with offers := s.offers ++ [o] }

/-- A record that waits for its class goes on. -/
def State.pursue (s : State) (id : Nat) : State :=
  match s.offers.find? fun o => o.id == id with
  | none => s
  | some o =>
    match s.gatherClass id o.record with
    | some s => s
    | none => { s with offers := s.offers.filter fun x => x.id != id }.enter o

/-- The first waiting record of each queue. -/
def State.nextOffers (s : State) : List Offer := s.offers.filter fun o => (s.offers.find? fun x => x.q == o.q) == some o

/-- The children of a team that have not retired (R222). -/
def State.outstanding (s : State) (team : Nat) : List Launch :=
  s.launches.filter fun l => l.parent == some team && l.status.busy

/-- A wait on a launch is legal (R226). -/
def legalWait (cls : Class) (l : Option Launch) : Bool :=
  match cls, l with
  | .conc, some l => l.cls == 0
  | .par, some l => l.cls == 1 && l.status.hasStarted
  | _, _ => false

/-- A wait on the waiter's own team is legal (R139, R226). -/
def State.legalOwn (t : Team) (cls : Class) : Bool :=
  match cls with
  | .own => true
  | .conc => t.cls == 0
  | .par => t.cls == 1

end Sys2Proof.Machine
end

