-- ==== Sys2Proof/Machine/System.lean ====
section
/-! DEFINITION. System instructions: `launch`, `wchild`, special registers, `errq`, `asgen`, `sflush`, `tret` and `halt` (R206, R207,
R219, R224, R235, R237, R311). -/

namespace Sys2Proof.Machine

/-- The acting lane: the lowest-numbered guard-true lane (R141). -/
def actingLane (act : List Nat) : Nat := act.headD 0

/-- Guard-true fibres other than the leader raise cause 0x18 (R219). -/
def checkLeader : Check := fun i _ => if i = 0 then none else some { code := 0x18 }

/-! ## launch (R219) -/

/-- The outcome of a `launch`. -/
structure Outcome where
  value : Word
  s : State

/-- The control word's fields (R219). -/
def ctlQueue (c : Word) : Nat := (c.extractLsb' 0 4).toNat
def ctlChild (c : Word) : Bool := c.getLsbD 4
def ctlArm (c : Word) : Bool := c.getLsbD 5
def ctlObj (c : Word) : Nat := (c.extractLsb' 12 15).toNat * 16
def ctlLegal (c : Word) : Bool := c.extractLsb' 27 5 == 0 && c.extractLsb' 6 6 == 0 && !(ctlChild c && ctlArm c)

/-- The record's address: cause 0x32 where any of its bytes lies beyond the span, whatever the record's action (R219). -/
def launchPlace (t : Team) (p : BitVec 64) : Place? :=
  match pointerAddr t p 256 with
  | .ok none => .error { code := 0x32, addr := ((recordOfBits (t.record (pointerRec p))).base + (p.extractLsb' 0 59).toNat) % 2 ^ 57 }
  | x => x

/-- A barrier object's address (R126): alignment, then the allotment. -/
def Team.objectError (t : Team) (a : Nat) : Option Cause :=
  if a % 16 ≠ 0 then some { code := 0x33, addr := a }
  else if t.lbase.isNone ∨ t.lsize < a + 16 then some { code := 0x34, addr := a }
  else none

/-- Those checks in their order, over all lanes (R39). -/
def Team.objectChecks (t : Team) (addr : Fibre → Nat) : List Check :=
  [0x33, 0x34].map fun code => fun _ f => (t.objectError (addr f)).filter fun c => c.code == code

/-- The 128 bits of a barrier object (R134). -/
def State.object (s : State) (t : Team) (a : Nat) : BitVec 128 :=
  BitVec.ofNat 128 (bytesNat ((s.core t.core).lmem.read (t.lbase.getD 0 + a) 16))

def State.setObject (s : State) (t : Team) (a : Nat) (v : BitVec 128) : State :=
  s.modCore t.core fun k => { k with lmem := k.lmem.write (t.lbase.getD 0 + a) (natBytes 16 v.toNat) }

/-- The armed bit of an object (R134). -/
def armedBit : Nat := 70

/-- The outcome for a record (R219, R220). -/
def State.launchOutcome (s : State) (t : Team) (c : Word) (r : LineData) : Outcome :=
  let q := ctlQueue c
  if ctlArm c then
    let o := s.object t (ctlObj c)
    if o.getLsbD armedBit then ⟨0x80000004, s⟩
    else
      match (List.range Config.armSlots).find? fun k => (assoc (s.core t.core).arms k).isNone with
      | none => ⟨0x80000003, s⟩
      | some a =>
        let arm : Arm := { team := t.id, q := q, record := r, obj := ctlObj c, fired := false }
        let s := (s.modCore t.core fun k => { k with arms := assocSet k.arms a arm }).setObject t (ctlObj c)
          (o ||| (1#128 <<< armedBit))
        ⟨0x40000000 + BitVec.ofNat 32 a, s⟩
  else if !s.queueOn q then ⟨0x80000002, s⟩
  else if s.queueFull q then ⟨0x80000001, s⟩
  else
    let parent := if ctlChild c then some t.id else none
    let depth := if ctlChild c then t.depth + 1 else 0
    ⟨BitVec.ofNat 32 (q * 65536 + (s.queue q).widx), s.accept t.id q r depth parent .pkg⟩

/-- The record of a launch has been read whole and without a cause: the arm object is checked only then (R219). -/
def State.launchRead (s : State) (t : Team) (p : BitVec 64) : Bool :=
  match launchPlace t p with
  | .ok (some va) => (s.fetched t 0 va).any fun q => q.settled && q.failed.isNone
  | _ => false

/-- The checks of `launch`, in the order of R219. -/
def State.launchChecks (s : State) (t : Team) (r : Nat) : List Check :=
  let ctl : Check := fun _ f => if ctlLegal (f.reg (r + 2)) then none else some { code := 0x19 }
  let nest : Check := fun _ f => if ctlChild (f.reg (r + 2)) ∧ t.depth = 10 then some { code := 0x22 } else none
  let arm : Check := fun _ f => if ctlArm (f.reg (r + 2)) && s.launchRead t (f.pair r) then t.objectError (ctlObj (f.reg (r + 2))) else none
  checkLeader :: ctl :: nest :: (accessOrder fun _ f => s.placedError t .load false (launchPlace t (f.pair r))) ++ [arm]

def execLaunch (g : Guard) (d : Reg) (s : State) : Result :=
  let r := d.toNat
  issue { guard := g, uses := fun _ => [r, r + 1, r + 2, r + 3] } (fun s t _ => s.launchChecks t r)
    (fun s t act =>
      if act.isEmpty then s.advance 4
      else
        let f := t.fibre 0
        match launchPlace t (f.pair r) with
        | .ok (some va) =>
          match s.fetched t 0 va, s.translate t.core t.asid va .load t.privileged with
          | some q, _ =>
            if !q.settled || !s.performedAt t [0] .pkg then s.stall
            else if let some s := (if ctlArm (f.reg (r + 2)) then none else s.gatherClass t.id (q.data.getD 0)) then s.stall
            else
              let o := ((s.useFetch t.core q).releaseOf t .pkg).launchOutcome t (f.reg (r + 2)) (q.data.getD 0)
              o.s.writeFibres act 4 fun _ x => x.setReg (r + 3) o.value
          | none, .ok p => if s.readStalls t [0] va p then s.stall else (s.startFetch t 0 va 256 p (s.curPc t) s.cur.fibs).stall
          | none, .error _ => s.stall
        | _ => s.stall) s

/-! ## wchild (R224) -/

def execWchild (g : Guard) (k : Class) (s : State) : Result :=
  issue { guard := g }
    (fun s t _ => [checkLeader,
      fun _ _ => if (s.outstanding t.id).all fun l => legalWait k (some l) then none else some { code := 0x20 }])
    (fun s t act =>
      if act.isEmpty then s.advance 4
      else if (s.outstanding t.id).isEmpty then (s.acquireOf t .sys).advance 4
      else s.blockSome (fun _ f => if guardHolds g f then some .wchild else none) (fun _ f => f)) s

/-! ## Special registers (R237, R347) -/

/-- `sr.orient` of a die (R347). -/
def orient (die : Nat) : Word :=
  BitVec.ofNat 32 (die * 8 * 2 ^ 8 + (if 2 ≤ die then 2 ^ 4 else 0) + die * 4 + die)

/-- The fault record that a handler reads: the trapped team's (R234). DESIGN CHOICE: the registers read a copy kept with the team, which a store
through b0 to the frame does not change (R237; log entry 93). -/
def State.handlerRecord (s : State) (t : Team) : Option FaultRec :=
  (t.handlerFor.bind s.team?).bind fun x => x.faultRec

/-- The value of a special register in fibre `i` of a team. -/
def State.special (s : State) (t : Team) (i : Nat) (r : SpecialReg) : Word :=
  let fault := s.handlerRecord t
  match r with
  | .fid => BitVec.ofNat 32 i
  | .lane => BitVec.ofNat 32 (laneOf i)
  | .hgrp => BitVec.ofNat 32 (groupOf i)
  | .team => BitVec.ofNat 32 t.num
  | .nteam => t.nteam
  | .core => BitVec.ofNat 32 t.core
  | .die => BitVec.ofNat 32 (s.core t.core).die
  | .dev => BitVec.ofNat 32 s.dev
  | .depth => BitVec.ofNat 32 t.depth
  | .cls => BitVec.ofNat 32 t.cls
  | .ltime => (s.core t.core).lt.setWidth 32
  | .mtime => s.sys.mtime.setWidth 32
  | .orient => orient (s.core t.core).die
  | .cause => (fault.map fun x => x.cause).getD 0
  | .faddr => (fault.map fun x => x.addr.setWidth 32).getD 0
  | .fmask => (fault.map fun x => x.fmask).getD 0
  | .epc => (fault.map fun x => x.epc).getD 0
  | .rpath => (s.core t.core).rpath

def execSrd (g : Guard) (sr : SpecialReg) (d : Reg) (s : State) : Result :=
  issue { guard := g, uses := fun _ => [d.toNat] } (fun _ _ _ => [])
    (fun s t act => s.writeFibres act 4 fun i f => f.setReg d.toNat (s.special t i sr)) s

/-- A fault-record register (R237). -/
def faultReg : SpecialReg → Bool
  | .cause => true
  | .faddr => true
  | .fmask => true
  | .epc => true
  | _ => false

/-- Change a field of a fault record; reserved bits of `sr.cause` stay 0. -/
def FaultRec.put (x : FaultRec) (r : SpecialReg) (w : Word) : FaultRec :=
  match r with
  | .cause => { x with cause := w &&& 0x03FFFF7F#32 }
  | .faddr => { x with addr := x.addr.extractLsb' 32 32 ++ w }
  | .fmask => { x with fmask := w }
  | .epc => { x with epc := w }
  | _ => x

/-- Where a fault-record register lies in the frame, and the bytes of its new value there (R232, R237). -/
def recordField (r : SpecialReg) (w : Word) : Nat × List Byte :=
  match r with
  | .fmask => (4, wordBytes w)
  | .faddr => (8, wordBytes w)
  | .epc => (16, wordBytes w)
  | _ => (0, wordBytes (w &&& 0x03FFFF7F#32))

/-- Write a special register: the core's path register, or that one field of the frame's fault record and of the copy that the handler's
registers read (R237, R325; log entry 93). -/
def State.setSpecial (s : State) (t : Team) (r : SpecialReg) (w : Word) : State :=
  match r with
  | .rpath => s.modCore t.core fun k => { k with rpath := w }
  | _ =>
    match t.handlerFor.bind s.team? with
    | none => s
    | some x =>
      let s := s.modTeam x.id fun x => { x with faultRec := x.faultRec.map fun q => q.put r w }
      match s.writeVa t.core x.id x.asid (x.frameVa + (recordField r w).1) (recordField r w).2 with
      | .ok s => s
      | .error _ => s.fail x.launch 6

def execSwr (g : Guard) (sr : SpecialReg) (d : Reg) (s : State) : Result :=
  issue { guard := g, uses := fun _ => [d.toNat]
          early := [checkLegal (SpecialReg.writable sr),
            fun _ _ => if faultReg sr then (s.curTeam.bind fun t => checkPriv t 0 (.empty .live)) else none] }
    (fun _ _ _ => [])
    (fun s t act =>
      (act.foldl (fun s i => s.setSpecial t sr ((t.fibre i).reg d.toNat)) s).advance 4) s

/-! ## errq (R311) -/

/-- Pop the error queue of an address space. -/
def State.popError (s : State) (asid : Nat) : BitVec 256 × State :=
  let q := s.errq asid
  if q.wr = q.rd then (0, s)
  else
    let a := s.errqBase asid + q.rd.toNat % 256 * 32
    let e := BitVec.ofNat 256 (s.readPaNat a 32)
    (e, (s.writePa (a + 31) [(e.extractLsb' 248 8) &&& 0x7F]).setErrq asid { q with rd := q.rd + 1 })

def execErrq (g : Guard) (d : Reg) (s : State) : Result :=
  issue { guard := g, uses := fun _ => (List.range 8).map fun k => d.toNat + k } (fun _ _ _ => [])
    (fun s t act =>
      if act.isEmpty then s.advance 4
      else
        let p := s.popError t.asid.toNat
        (p.2.acquireOf t .sys).writeFibres act 4 fun _ f =>
          f.setRegs d.toNat ((List.range 8).map fun w => p.1.extractLsb' (32 * w) 32)) s

/-! ## asgen and sflush (R206, R207) -/

/-- Dirty sectors of an address space go back to the block order. -/
def State.writeBackAll (s : State) : State :=
  let s := (List.range s.cores.length).foldl (fun s c =>
    ((s.core c).view.filter fun x => x.dirty).foldl (fun s x => s.writeBackCore c x) s) s
  (List.range s.dies.length).foldl (fun s d =>
    ((s.die d).view.filter fun x => x.dirty).foldl (fun s x => s.writeBackDie d x) s) s

/-- Dirty sectors of some view belong to channels that running near-bank units keep shut (R338). -/
def State.viewsShut (s : State) : Bool :=
  let shut (x : Sector) : Bool := x.dirty && s.channelShut (x.addr * 64)
  (s.cores.any fun k => k.view.any shut) || s.dies.any fun k => k.view.any shut

/-- Accesses of an address space older than an instruction number are outstanding: of the cores, posted, of engine commands, of row
instructions and of near-bank runs (R206, R331, R335). -/
def State.oldAccesses (s : State) (a : BitVec 10) (n : Nat) : Bool :=
  let old (team inst : Nat) : Bool := inst < n && s.spaceOf team == some a
  s.viewsShut || (s.cores.any fun c =>
    ((c.reqs ++ c.storeQ).any fun r => r.page.asid == a && r.inst < n && !r.openLanes.isEmpty) || c.cmds.any fun m => m.sent && !m.refused && old m.team m.inst)
    || (s.fab.posts.any fun p => p.kind != .completion && old p.team p.inst) || (s.rows.any fun r => old r.team r.inst)
    || s.nb.any fun u => (u.cond == .running || u.cond == .suspended true) && old u.owner u.inst

def execAsgen (g : Guard) (d : Reg) (s : State) : Result :=
  issue { guard := g, uses := fun _ => [d.toNat], early := [fun i f => s.curTeam.bind fun t => checkPriv t i f] } (fun _ _ _ => [])
    (fun s t act =>
      if act.isEmpty then s.advance 4
      else
        let a : BitVec 10 := ((t.fibre (actingLane act)).reg d.toNat).setWidth 10
        match s.sys.bumps.find? fun b => b.team == t.id && b.fib == actingLane act && b.asid == a with
        | some b =>
          if s.oldAccesses a b.below then s.stall
          else
            let s := s.writeBackAll
            { s with sys := { s.sys with bumps := s.sys.bumps.filter fun x => x != b } }.advance 4
        | none =>
          let old := s.genOf a
          let new := old + 1
          if s.sys.retiredGens.contains (a.toNat, new) then s.stall
          else
            let n := s.nextId
            let s := { s with sys := { s.sys with
              gens := if new = 0 then assocDel s.sys.gens a.toNat else assocSet s.sys.gens a.toNat new
              retiredGens := s.sys.retiredGens ++ [(a.toNat, old)] } }.fresh
            if s.oldAccesses a n then
              { s with sys := { s.sys with bumps := s.sys.bumps ++ [Bump.mk t.id (actingLane act) a n] } }.stall
            else (s.writeBackAll).advance 4) s

/-- Flush every line recorded with an address space (R207). -/
def State.flushSpace (s : State) (a : BitVec 10) : State :=
  let s := s.writeBackAll
  let dies (p : Place) : Bool := match p with
    | .die _ => true
    | _ => false
  let s := (s.coh.holds.filter fun h => h.asid == a && dies h.who).foldl (fun s h => s.evictTokens h) s
  let back (h : Hold) : Hold := { h with lent := h.lent.filter fun x => assoc h.filled x.1 != some a }
  let s := { s with coh := { s.coh with holds := s.coh.holds.map back } }
  { s with
    cores := s.cores.map fun c =>
      { c with view := c.view.filter fun x => x.asid != a, leases := c.leases.filter fun x => x.asid != a }
    dies := s.dies.map fun c =>
      { c with view := c.view.filter fun x => x.asid != a, leases := c.leases.filter fun x => x.asid != a } }

def execSflush (g : Guard) (d : Reg) (s : State) : Result :=
  issue { guard := g, uses := fun _ => [d.toNat], early := [fun i f => s.curTeam.bind fun t => checkPriv t i f] } (fun _ _ _ => [])
    (fun s t act =>
      if act.isEmpty then s.advance 4
      else if s.viewsShut then s.stall
      else (s.flushSpace (((t.fibre (actingLane act)).reg d.toNat).setWidth 10)).advance 4) s

/-! ## The end of a trap handler (R235) -/

/-- A window's bytes move, or no longer (R157). -/
def State.setMoving (s : State) (t : Team) (b : Bool) : State :=
  s.modCore t.core fun k => { k with pubs := k.pubs.map fun p => if p.2.team = t.id then (p.1, { p.2 with moving := b }) else p }

/-- A team runs again: its near-bank units go on (R337), and the class questions of its fibres are asked again (R227). -/
def State.awaken (s : State) (team : Nat) : State :=
  let go (u : NearBank) : NearBank := if u.owner = team ∧ u.cond = .suspended true then { u with cond := .running }
    else if u.owner = team ∧ u.cond = .suspended false then { u with cond := .held } else u
  let s := { s with nb := s.nb.map go }
  match s.team? team with
  | none => s
  | some t => t.live.foldl (fun s i =>
      match (t.fibre i).wait with
      | some (.query w p dev n cls _) =>
        (s.modTeam team fun t => t.modFibre i fun f => { f with wait := some (.query w p dev n cls 0) }).send
          (s.here (.die (s.core t.core).die)) ⟨dev, .home⟩ (.partyAsk n cls team i)
      | _ => s) s

/-- A reloaded team runs (R55): its bundles form, after an acquire at package scope (R231, R263); members that the handler has ended in the
frame no longer hold up the barriers of the others (R70, R139). -/
def State.resumeTeam (s : State) (y : Team) : State :=
  let y : Team := { y with cond := .resident, faultRec := none }
  let s := { s with teams := s.teams.map fun (z : Team) => if z.id = y.id then y.resumeBundles s.stamp else z }
  ((s.acquireViews y.core .pkg).awaken y.id).settle y.id

/-- Blocks of a window. -/
def Fibre.blockCount (f : Fibre) : Nat := f.regs.length / 8

/-- The blocks that fibres of a trapped team `x` no longer need once it is as the frame `y` says go back. -/
def State.shrinkAll (s : State) (x y : Team) : State :=
  (List.range x.fibres.length).foldl (fun s i => s.giveBack x (laneOf i) ((x.fibre i).blocks.drop (y.fibre i).blockCount)) s

/-- The blocks of the fibres of a trapped team as the frame `y` says: those they hold, and more where their windows have grown; none
where a column has too few. -/
def State.growWindows (s : State) (x y : Team) : List Nat → Option (List (List Nat) × State)
  | [] => some ([], s)
  | i :: is =>
    let own := (x.fibre i).blocks.take (y.fibre i).blockCount
    let lack := (y.fibre i).blockCount - own.length
    let got : Option (List Nat × State) :=
      if x.cls = 0 then (s.team? x.id).map fun t => s.takeReserve t (laneOf i) lack else s.takeFor x.id x.core (laneOf i) lack
    match got with
    | none => none
    | some (bs, s') => (s'.growWindows x y is).map fun r => ((own ++ bs) :: r.1, r.2)

/-- Reload the trapped team from its frame, and resume it (R235, R55). DESIGN CHOICE: windows whose sizes the handler has changed take or give back
blocks of their columns; where a column has too few, the team waits for re-admission (log entry 72). -/
def State.resumeTrapped (s : State) (x : Team) : State :=
  if x.lost then s.fail x.launch 6 else
  match s.readFrame x, s.readFrameLocal x with
  | .ok y, .ok bytes =>
    -- Blocks of an unpublished window are written back before the handler's bytes change them (R133).
    let s := ((s.core x.core).unpub.filter fun u => u.team == x.id).foldl (fun s u => s.writeLeft x.core u) s
    let s := match x.lbase with
      | some b => s.modCore x.core fun k => { k with lmem := k.lmem.write b bytes }
      | none => s
    let s := (((s.setMoving x false).progressBack x).dropOwn x.core x.id).shrinkAll x y
    match s.growWindows x y (List.range y.fibres.length) with
    | some (bs, s') =>
      let held : Team := (s'.team? x.id).getD y
      s'.resumeTeam { y with
        reserve := held.reserve
        fibres := (List.range y.fibres.length).map fun i => { y.fibre i with blocks := bs.getD i [] } }
    | none =>
      let lean : Team := x.modFibres (List.range x.fibres.length) fun i f => { f with blocks := f.blocks.take (y.fibre i).blockCount }
      let away (t : Team) : Team :=
        { t with cond := .saved .trap none true, faultRec := none, fibres := t.fibres.map fun f => { f with blocks := [] } }
      ((s.freeRegisters lean).modTeam x.id away).reseed s x.core
  | _, _ => s.fail x.launch 6

def execTret (g : Guard) (s : State) : Result :=
  issue { guard := g, early := [fun i f => s.curTeam.bind fun t => checkPriv t i f] } (fun _ _ _ => [])
    (fun s t act =>
      if act.isEmpty then s.advance 4
      else if !s.performedAt t act .sys then s.stall
      else if let some s := (t.handlerFor.bind s.team?).bind s.gatherFrame then s.stall
      else
        let s := (s.releaseOf t .pkg).issued
        let s := { s with teams := s.teams.filter fun x => x.id != t.id }
        let s := s.modCore t.core fun k => { k with handler := none }
        match t.handlerFor.bind s.team? with
        | some x => s.resumeTrapped x
        | none => s) s

def execHalt (g : Guard) (s : State) : Result :=
  issue { guard := g, early := [fun i f => s.curTeam.bind fun t => checkPriv t i f] } (fun _ _ _ => [])
    (fun s t act =>
      if act.isEmpty then s.advance 4
      else (s.issued.fail t.launch 3).reseed s t.core) s

end Sys2Proof.Machine
end

