-- ==== Sys2Proof/Machine/Order.lean ====
section
/-! DEFINITION. Ordering instructions: `fence`, `wait` with its reloads and class questions, `ltime`, and `lpub` (R208, R209, R226,
R227, R252, R298). -/

namespace Sys2Proof.Machine

/-! ## fence (R252) -/

/-- A fence carries an order other than `.rlx` (R252). -/
def fenceScope : OrdScope → Option Scope
  | .rlx => none
  | .acq sc => some sc
  | .rel sc => some sc
  | .ar sc => some sc

/-- The fence must wait: for a release, earlier accesses at its scope; at package scope or wider, write-combining stores too (R202). -/
def State.fenceWaits (s : State) (t : Team) (act : List Nat) (os : OrdScope) : Bool :=
  (relScope os).any (fun sc => !s.performedAt t act sc)
    || ((fenceScope os).any Scope.widePkg && ((s.pendingReqs t act).any (fun r => r.page.ty == .writeCombining)
      || (s.pendingPosts t act).any fun p => p.ty == .writeCombining))

/-- A load of the fibres has returned a store of its own fibre that is still in a queue, with the core as its reach: an acquire fence of wider scope
waits for it (R248, R252). -/
def State.seenWaits (s : State) (t : Team) (act : List Nat) (sc : Scope) : Bool :=
  s.flushShut t.core sc || (sc == .die || Scope.widePkg sc) && (s.core t.core).seen.any fun x => x.team == t.id && act.contains x.fib && s.seenQueued t.core x

/-- What the loads of the fibres returned from a view gets the reach that an acquire fence waits for: its sectors are written back at once, as they
may be at any time (R244, R248, R252; log entry 80). -/
def State.spreadSeen (s : State) (t : Team) (act : List Nat) (sc : Scope) : State :=
  let mine := (s.core t.core).seen.filter fun x => x.team == t.id && act.contains x.fib
  let d := (s.core t.core).die
  let up (s : State) (x : Seen) : State := match findSector (s.core t.core).view x.sector with
    | some v => if v.dirty then s.writeBackCore t.core v else s
    | none => s
  let down (s : State) (x : Seen) : State := match findSector (s.die d).view x.sector with
    | some v => if v.dirty then s.writeBackDie d v else s
    | none => s
  let s := if sc == .die || Scope.widePkg sc then mine.foldl up s else s
  if Scope.widePkg sc then mine.foldl down s else s

def execFence (g : Guard) (os : OrdScope) (s : State) : Result :=
  issue { guard := g, early := [checkLegal (fenceScope os).isSome] } (fun _ _ _ => [])
    (fun s t act =>
      if act.isEmpty then s.advance 4
      else if s.fenceWaits t act os || (acqScope os).any (s.seenWaits t act) then s.stall
      else
        let s := match relScope os with
          | some sc => s.releaseOf t sc
          | none => s
        let s := match acqScope os with
          | some sc => (s.spreadSeen t act sc).acquireOf t sc
          | none => s
        s.advance 4) s

/-! ## ltime (R208) -/

def execLtime (g : Guard) (d : Reg) (s : State) : Result :=
  issue { guard := g, uses := fun _ => [d.toNat] } (fun _ _ _ => [])
    (fun s t act =>
      if (s.pendingReqs t act).any (fun r => r.page.ty == .normal && r.page.cls == .leased)
          || (s.pendingPosts t act).any (fun p => p.ty == .normal && p.cls == .leased) then s.stall
      else s.writeFibres act 4 fun _ f => f.setReg d.toNat ((s.core t.core).lt.setWidth 32)) s

/-! ## wait (R226, R227) -/

/-- Fields of the party word (R227). -/
def partyKind (w : Word) : Nat := bitsOf w.toNat 31 30
def partyDev (w : Word) : Nat := bitsOf w.toNat 29 20
def partyLaunch (w : Word) : Nat := bitsOf w.toNat 19 0

def partyLegal (w : Word) : Bool :=
  match partyKind w with
  | 0 => partyDev w == 0 && partyLaunch w == 0
  | 1 => partyDev w == 0
  | 2 => true
  | _ => false

/-- The launch of a number (R215). -/
def State.numbered (s : State) (n : Nat) : Option Launch := s.launchAt (n / 65536) (n % 65536)

/-- The party is on another device, which must be asked. -/
def State.asksOther (s : State) (w : Word) : Bool := partyKind w == 2 && partyDev w != s.dev

/-- The check of the party at issue (R226). -/
def State.partyError (s : State) (t : Team) (k : Class) (w : Word) : Option Cause :=
  if partyKind w = 0 then (if State.legalOwn t k then none else some { code := 0x20 })
  else if s.asksOther w then (if s.reachable (partyDev w) then none else some { code := 0x40 })
  else if legalWait k (s.numbered (partyLaunch w)) then none
  else some { code := 0x20 }

/-- The wait word of a fibre. -/
def waitWord (t : Team) (c : WaitCond) (va : Nat) (value : Word) : WaitWord :=
  { cc := c, value := value, va := va, asid := t.asid, since := 0, blk := 0, rts := none, again := true, dropped := false }

/-- Where a `wait` loads; a dropped load reads 0 at once (R181). -/
def waitHolds (c : WaitCond) (x value : Word) : Bool :=
  match c with
  | .eq => x == value
  | .ne => x != value

/-- The checks of `wait`, in the order of R227; the load of a lane whose party must be asked comes after the answer. -/
def State.waitChecks (s : State) (t : Team) (k : Class) (a d : Nat) : List Check :=
  (fun _ f => if partyLegal (f.reg (d + 1)) then none else some { code := 0x19 })
    :: (fun _ f => s.partyError t k (f.reg (d + 1)))
    :: accessOrder fun _ f =>
      if s.asksOther (f.reg (d + 1)) then none else s.placedError t .load false (pointerAddr t (f.pair a) 4)

/-- What a fibre of `wait` becomes: it goes on when its dropped load of 0 satisfies the condition. -/
def State.waitOf (s : State) (t : Team) (c : WaitCond) (k : Class) (a d : Nat) (f : Fibre) : Option Wait :=
  let w := f.reg (d + 1)
  let place := pointerAddr t (f.pair a) 4
  let va := match place with
    | .ok (some v) => v
    | _ => 0
  if s.asksOther w then some (.query (waitWord t c 0 (f.reg d)) (f.pair a) (partyDev w) (partyLaunch w) k 0)
  else
    match place with
    | .ok none => if waitHolds c 0 (f.reg d) then none else some (.word { waitWord t c 0 (f.reg d) with again := false, dropped := true })
    | _ => some (.word (waitWord t c va (f.reg d)))

/-- The loads that the lanes of a `wait` make at once, for its stalls. -/
def State.waitItems (s : State) (t : Team) (act : List Nat) (a d : Nat) : List Item :=
  act.filterMap fun i =>
    let f := t.fibre i
    if s.asksOther (f.reg (d + 1)) then none else s.item t .load i (pointerAddr t (f.pair a) 4) 4 [] [] 0 0

/-- Start the load of a waiting fibre, or raise the cause that its translation meets. -/
def State.startWait (s : State) (team fib : Nat) : State :=
  match s.team? team with
  | none => s
  | some t =>
    match (t.fibre fib).wait with
    | some (.word w) =>
      match s.translate t.core t.asid w.va .load t.privileged with
      | .ok p =>
        -- The core drops its clean copy of a private sector before it loads again.
        let s := if s.route p = .priv then
            s.modCore t.core fun c => { c with view := c.view.filter fun x => x.addr != p.pa / 64 || x.dirty }
          else s
        let s := if s.readStalls t [fib] w.va p then s else s.startFetch t fib w.va 4 p (t.fibre fib).pc [fib]
        let again := (s.fetched t fib w.va).isNone
        s.modTeam team fun t =>
          t.modFibre fib fun f => { f with wait := some (.word { w with again := again, rts := none, since := 0, blk := blkOf p.home p.pa }) }
      | .error c =>
        let s := s.modTeam team fun t => t.modFibre fib fun f => { f with wait := none }
        s.raise t { c with page := 0 } [fib] [fib] (t.fibre fib).pc
    | _ => s

def execWait (g : Guard) (c : WaitCond) (k : Class) (a d : Reg) (s : State) : Result :=
  issue { guard := g, uses := fun _ => [a.toNat, a.toNat + 1, d.toNat, d.toNat + 1] }
    (fun s t _ => s.waitChecks t k a.toNat d.toNat)
    (fun s t act =>
      if s.accessStalls t act true (lineGroups (s.waitItems t act a.toNat d.toNat)) then s.stall
      else
      let s' := s.blockSome (fun i f => if act.contains i then s.waitOf t c k a.toNat d.toNat f else none) (fun _ f => f)
      let ask (s : State) (i : Nat) : State :=
        match s.waitOf t c k a.toNat d.toNat (t.fibre i) with
        | some (.word w) => if w.again then s.startWait t.id i else s
        | some (.query _ _ dev n cls _) => s.send (s.here (.die (s.core t.core).die)) ⟨dev, .home⟩ (.partyAsk n cls t.id i)
        | _ => s
      let s' := act.foldl ask s'
      -- A dropped load of 0 that meets the condition ends the wait at once, with its acquire (R227, R253).
      if act.any fun i => (s.waitOf t c k a.toNat d.toNat (t.fibre i)).isNone then s'.acquireOf t .sys else s') s

/-- The fibre's condition holds: it takes the acquire at system scope and goes on (R227). -/
def State.endWait (s : State) (t : Team) (fib : Nat) : State := (s.acquireOf t .sys).release t.id [fib]

/-- A waiting fibre loads again now (R227); for a leased word a tick, or a write of its own core, has said so (R298). -/
def State.reloadDue (s : State) (t : Team) (w : WaitWord) : Bool :=
  !w.dropped && (w.again || (w.rts.isNone && 640 ≤ w.since &&
    match s.translate t.core t.asid w.va .load t.privileged with
    | .error _ => true
    | .ok p => s.route p != .token || (s.hold? (.die (s.core t.core).die) w.blk).isNone))

/-- WAIT_RELOAD (R227, R298): use the load that has settled, or load again when it is time. -/
def execWaitReload (team fib : Nat) (s : State) : Result :=
  match s.team? team with
  | none => .next s
  | some t =>
    match (t.fibre fib).wait with
    | some (.word w) =>
      if t.cond ≠ .resident then .next s
      else
        match s.fetched t fib w.va with
        | some r =>
          if !r.settled || r.failed.isSome then .next s
          else
            let x := BitVec.ofNat 32 (bytesNat (r.bytesAt w.va 4))
            let blk := blkOf r.page.home (r.page.pa + w.va % 256)
            let s := s.useFetch t.core r
            if waitHolds w.cc x w.value then .next (s.endWait t fib)
            else
              .next (s.modTeam team fun x => x.modFibre fib fun f =>
                { f with wait := some (.word { w with
                    blk := blk, rts := r.rts.map (·.1), again := w.again || r.rts.any fun x => x.2 && !timeLe (s.core t.core).lt x.1 }) })
        | none => if s.reloadDue t w then .next (s.startWait team fib) else .next s
    | _ => .next s

/-- PARTY_QUERY: a device asks the class of one of this device's launches (R227). -/
def execPartyQuery (id : Nat) (s : State) : Result :=
  s.onMsg id fun m s =>
    match m.body with
    | .partyAsk n k team fib => s.send (s.here .home) m.src (.partyAns team fib (legalWait k (s.numbered n)))
    | _ => s

/-- The question of a fibre ends: the wait goes on, or a cause is raised in the fibre. -/
def State.endQuery (s : State) (team fib : Nat) (c : Option Cause) : State :=
  match s.team? team with
  | none => s
  | some t =>
    match if t.cond = .resident then (t.fibre fib).wait else none with
    | some (.query w p _ _ _ _) =>
      let place := pointerAddr t p 4
      let put (x : Option Wait) : State := s.modTeam team fun t => t.modFibre fib fun f => { f with wait := x }
      match c.orElse fun _ => s.placedError t .load false place with
      | some c => (put none).raise t c [fib] [fib] (t.fibre fib).pc
      | none =>
        match place with
        | .ok (some va) => (put (some (.word { w with va := va }))).startWait team fib
        | _ =>
          if waitHolds w.cc 0 w.value then s.endWait t fib
          else put (some (.word { w with again := false, dropped := true }))
    | _ => s

/-- PARTY_QUERY_ANSWER (R226, R227). -/
def execPartyQueryAnswer (id : Nat) (s : State) : Result :=
  s.onMsg id fun m s =>
    match m.body with
    | .partyAns team fib ok => s.endQuery team fib (if ok then none else some { code := 0x20 })
    | _ => s

/-- PARTY_QUERY_TIMEOUT: no answer within rto (R227). -/
def execPartyQueryTimeout (team fib : Nat) (s : State) : Result :=
  match (s.team? team).bind fun t => (t.fibre fib).wait with
  | some (Wait.query _ _ _ _ _ age) => if s.rtoTicks ≤ age then .next (s.endQuery team fib (some { code := 0x41 })) else .next s
  | _ => .next s

/-! ## lpub (R209) -/

/-- A check that the acting lane's operation makes; its cause is raised in every guard-true fibre (R141). -/
def checkActing (t : Team) (act : List Nat) (f : Fibre → Option Cause) : Check := fun _ _ => f (t.fibre (actingLane act))

/-- Fields of the descriptor. -/
def pubSize (w : Word) : Nat := bitsOf w.toNat 17 11
def pubLbase (w : Word) : Nat := bitsOf w.toNat 10 0 * 256
def pubArr (w : Word) : Nat := bitsOf w.toNat 14 0 * 16

/-- The window's first address; its span is checked over the whole window, and its alignment is that of a page (log entry 12). -/
def pubPlace (t : Team) (p : BitVec 64) (size : Nat) : Place? := pointerAligned t p size 8192

/-- Addresses of the window's pages. -/
def pubPages (a n : Nat) : List Nat := (List.range n).map fun k => a + 8192 * k

/-- A page that may be published: 8 KiB, normal, token class. -/
def publishable (e : BitVec 64) : Bool := leafSize e == 0 && leafType e == .normal && leafClass e == .token

/-- The cause of a code that a page meets for reading or writing. -/
def State.pageError (s : State) (t : Team) (code : Nat) (va : Nat) : Option Cause :=
  let pick (a : Access) : Option Cause :=
    match s.translate t.core t.asid va a t.privileged with
    | .error c => if c.code = code then some c else none
    | .ok _ => none
  (pick .store).orElse fun _ => pick .load

/-- The team's window that starts at a local address. -/
def State.windowAt (s : State) (t : Team) (lb : Nat) : Option Nat :=
  ((s.core t.core).pubs.find? fun p => p.2.team == t.id && p.2.lbase == lb).map (·.1)

/-- The checks of a publication or an unpublication, in their order. -/
def State.lpubChecks (s : State) (t : Team) (act : List Nat) (d a : Nat) : List Check :=
  let on (f : Fibre → Option Cause) : Check := checkActing t act f
  let size (f : Fibre) : Nat := pubSize (f.reg d) * 8192
  let lb (f : Fibre) : Nat := pubLbase (f.reg d)
  let pub (g : Fibre → Option Cause) (f : Fibre) : Option Cause := if pubSize (f.reg d) = 0 then none else g f
  let place (f : Fibre) : Place? := pubPlace t (f.pair a) (size f)
  let pages (f : Fibre) : List Nat := match place f with
    | .ok (some v) => pubPages v (pubSize (f.reg d))
    | _ => []
  [on fun f => if pubSize (f.reg d) = 0 ∧ (s.windowAt t (lb f)).isNone then some { code := 0x37 } else none,
   on (pub fun f =>
     let e := f.reg (d + 1)
     if bitsOf (f.reg d).toNat 31 18 ≠ 0 ∨ bitsOf e.toNat 30 15 ≠ 0 ∨ 64 < pubSize (f.reg d) ∨ size f < pubArr e + 16
     then some { code := 0x37 } else none),
   on (pub fun f => if t.lbase.isNone ∨ t.lsize < lb f + size f then some { code := 0x34, addr := lb f } else none),
   on (pub fun f =>
     if (s.core t.core).pubs.any fun p =>
         p.2.team == t.id && p.2.lbase < lb f + size f && lb f < p.2.lbase + p.2.size
     then some { code := 0x37 } else none),
   on (pub fun f => match place f with
     | .error c => some c
     | _ => none)]
  ++ ([0x38, 0x31, 0x30, 0x70].map fun code => on (pub fun f => (pages f).findSome? fun va => s.pageError t code va))
  ++ [on (pub fun f =>
        if (pages f).any fun va => match s.leaf t.core t.asid va with
          | .ok e => !publishable e
          | .error _ => false
        then some { code := 0x37 } else none),
      on (pub fun f => if !(pages f).isEmpty && Config.pubEntries ≤ (s.core t.core).pubs.length then some { code := 0x35 } else none)]

/-- The first block of each page of a window. -/
def State.pubBlocks (s : State) (t : Team) (va n : Nat) : List Nat :=
  (pubPages va n).filterMap fun p =>
    match s.translate t.core t.asid p .load t.privileged with
    | .ok g => some (blkOf g.home g.pa)
    | .error _ => none

/-- Addresses of a window's blocks that have not come to their frames yet (R204). -/
def State.pubAbsent (s : State) (t : Team) (va n : Nat) : List Nat :=
  (pubPages va n).flatMap fun p =>
    match s.translate t.core t.asid p .load t.privileged with
    | .ok g => ((List.range 64).map fun k => g.pa + 128 * k).filter fun pa => !s.migrated g pa
    | .error _ => []

def blocksOfPages (ps : List Nat) : List Nat := ps.flatMap fun p => (List.range 64).map fun k => p + k

/-- The entry of a new window (R131). -/
def pubEntry (t : Team) (d e : Word) (va : Nat) (pages : List Nat) : PubEntry :=
  { team := t.id
    bits := BitVec.ofNat 128 (2 ^ 127 + (if e.getLsbD 31 then 2 ^ 126 else 0) + t.asid.toNat * 2 ^ 116 + bitsOf e.toNat 14 0 * 2 ^ 101
      + pubSize d * 2 ^ 94 + bitsOf d.toNat 10 0 * 2 ^ 83 + va / 8192)
    pages := pages, moving := false }

/-- A core's own published window holds a block. -/
def State.windowHere (s : State) (c blk : Nat) : Bool := (s.core c).pubs.any fun p => (p.2.offsetOf blk).isSome

def overlaps (a n b m : Nat) : Bool := a < b + m && b < a + n

/-- Blocks of a core's unpublished windows that are not yet written back and stand in the way of a window of the blocks `bs` at the core byte
address `la`: the same blocks, and other ones whose bytes it would change (R133). -/
def State.leftOn (s : State) (c : Nat) (bs : List Nat) (la : Nat) : List PubLeft :=
  (s.core c).unpub.filter fun u => bs.contains u.blk || overlaps la (128 * bs.length) u.la 128

/-- Give back the tokens that a failed publication has collected. -/
def State.returnTokens (s : State) (c : Nat) (bs : List Nat) : State :=
  (bs.filter fun b => !s.windowHere c b).foldl (fun s b =>
    let s := match s.want? (.pubCore c) b with
      | some w => s.withdraw w
      | none => s
    match s.hold? (.pubCore c) b with
    | some h => s.evictTokens h
    | none => s) s

/-- Publish a window whose blocks are all held: their values go to local memory, and the entry becomes valid. -/
def State.openWindow (s : State) (t : Team) (d e : Word) (va : Nat) (pages : List Nat) : State :=
  let c := t.core
  let base := t.lbase.getD 0 + pubLbase d
  let blocks := blocksOfPages pages
  let s := (List.range blocks.length).foldl (fun s k =>
    let b := blocks.getD k 0
    match s.hold? (.pubCore c) b with
    | some h => (s.modCore c fun x => { x with lmem := x.lmem.write (base + 128 * k) (blockBytesOf h.data) }).finishWant (.pubCore c) b
    | none => s) s
  let slot := ((List.range Config.pubEntries).find? fun k => (assoc (s.core c).pubs k).isNone).getD 0
  s.modCore c fun x => { x with pubs := assocSet x.pubs slot (pubEntry t d e va pages) }

/-- DESIGN CHOICE: a publication through a pointer that is dropped (R181) publishes nothing, and raises nothing (log entry 77). -/
def execLpub (g : Guard) (a d : Reg) (s : State) : Result :=
  issue { guard := g, uses := fun _ => [a.toNat, a.toNat + 1, d.toNat, d.toNat + 1] }
    (fun s t act => if act.isEmpty then [] else s.lpubChecks t act d.toNat a.toNat)
    (fun s t act =>
      if act.isEmpty then s.advance 4
      else
        let f := t.fibre (actingLane act)
        let w := f.reg d.toNat
        if pubSize w = 0 then
          match s.windowAt t (pubLbase w) with
          | some k => (s.unpublish t.core k).advance 4
          | none => s.advance 4
        else
          match pubPlace t (f.pair a.toNat) (pubSize w * 8192) with
          | .ok (some va) =>
            let pages := s.pubBlocks t va (pubSize w)
            let blocks := blocksOfPages pages
            let place := Place.pubCore t.core
            if blocks.any fun b => s.windowHere t.core b || (s.want? place b).any fun w => w.denied then
              (s.returnTokens t.core blocks).raise t { code := 0x37 } act s.cur.fibs (s.curPc t)
            else
              let lack := blocks.filter fun b => !(s.hold? place b).any Hold.writable
              let left := s.leftOn t.core blocks (t.lbase.getD 0 + pubLbase w)
              let absent := s.pubAbsent t va (pubSize w)
              if !absent.isEmpty then (absent.foldl State.pullAt s).stallBegun
              else if !left.isEmpty then (left.foldl (fun s u => s.writeLeft t.core u) s).stallBegun
              else if lack.isEmpty then (s.openWindow t w (f.reg (d.toNat + 1)) va pages).advance 4
              else (lack.foldl (fun s b => s.ask place (s.coreAgent t.core) b .write true t.asid) s).stallBegun
          | _ => s.advance 4) s

end Sys2Proof.Machine
end

