-- ==== Sys2Proof/Machine/Local.lean ====
section
/-! DEFINITION. Local memory, barrier objects, tile handles and the issue of engine commands (R126 to R130, R134 to R155, R313). -/

namespace Sys2Proof.Machine

/-! ## The range-overlap scoreboard (R152, R153) -/

def CmdKind.fills : CmdKind → Bool
  | .cpin .. => true
  | .fill _ => true
  | _ => false

/-- A local read of `n` bytes waits for undelivered writes of earlier commands. -/
def Cmd.blocksRead (m : Cmd) (a n : Nat) : Bool := m.kind.fills && overlaps a n (m.base + m.done) (m.size - m.done)

/-- The engine has not yet read the whole region (R152). -/
def Cmd.reading (m : Cmd) : Bool :=
  match m.kind with
  | .push _ => m.held.length < m.size
  | .red .. => m.held.length < m.size
  | _ => m.done < m.size

/-- A local write waits for every range of earlier commands that still stands. -/
def Cmd.blocksWrite (m : Cmd) (a n : Nat) : Bool := (m.kind.fills || m.reading) && overlaps a n m.base m.size

def State.cmdsOf (s : State) (t : Team) : List Cmd := (s.core t.core).cmds.filter fun m => m.team == t.id

def State.readBlocked (s : State) (t : Team) (a n : Nat) : Bool := (s.cmdsOf t).any fun m => m.blocksRead a n

/-- A quarter has still to read some of these bytes of an image (R165). -/
def State.imageRead (s : State) (t : Team) (a n : Nat) : Bool :=
  (s.core t.core).reads.any fun r => r.team == t.id && overlaps a n r.base 1024

/-- A write also waits for window bytes that are not yet written back (R133). -/
def State.writeBlocked (s : State) (t : Team) (a n : Nat) : Bool :=
  (s.cmdsOf t).any (fun m => m.blocksWrite a n) || s.imageRead t a n
    || (s.core t.core).unpub.any fun u => overlaps (t.lbase.getD 0 + a) n u.la 128

/-! ## Local loads, stores and atomics (R126, R129, R130) -/

/-- The address checks of a 32-bit local access. -/
def Team.localError (t : Team) (a : Nat) : Option Cause :=
  if a % 4 ≠ 0 then some { code := 0x33, addr := a }
  else if t.lbase.isNone ∨ t.lsize < a + 4 then some { code := 0x34, addr := a }
  else none

/-- Those checks in their order, over all lanes (R39, R126). -/
def Team.localChecks (t : Team) (addr : Fibre → Nat) : List Check :=
  [0x33, 0x34].map fun code => fun _ f => (t.localError (addr f)).filter fun c => c.code == code

/-- A byte address modulo 2^19 (R15). -/
def localAddr (f : Fibre) (a : Nat) (imm : BitVec 9) : Nat := (f.reg a + imm.signExtend 32).toNat % 2 ^ 19

def State.localWord (s : State) (t : Team) (a : Nat) : Word := (s.core t.core).lmem.word (t.lbase.getD 0 + a)

def State.setLocal (s : State) (t : Team) (a : Nat) (w : Word) : State :=
  s.modCore t.core fun k => { k with lmem := k.lmem.write (t.lbase.getD 0 + a) (wordBytes w) }

def execLld (g : Guard) (imm : BitVec 9) (a d : Reg) (s : State) : Result :=
  issue { guard := g, uses := fun _ => [a.toNat, d.toNat] }
    (fun _ t _ => t.localChecks fun f => localAddr f a.toNat imm)
    (fun s t act =>
      let addr (i : Nat) : Nat := localAddr (t.fibre i) a.toNat imm
      if act.any fun i => s.readBlocked t (addr i) 4 then s.stall
      else s.writeFibres act 4 fun i f => f.setReg d.toNat (s.localWord t (addr i))) s

def execLst (g : Guard) (imm : BitVec 9) (a d : Reg) (s : State) : Result :=
  issue { guard := g, uses := fun _ => [a.toNat, d.toNat] }
    (fun _ t _ => t.localChecks fun f => localAddr f a.toNat imm)
    (fun s t act =>
      let addr (i : Nat) : Nat := localAddr (t.fibre i) a.toNat imm
      if act.any fun i => s.writeBlocked t (addr i) 4 then s.stall
      else (act.foldl (fun s i => s.setLocal t (addr i) ((t.fibre i).reg d.toNat)) s).advance 4) s

/-- Apply the lanes in ascending order; each receives the value before it. -/
def State.latomAll (s : State) (t : Team) (op : AtomOp) (a d : Nat) : List Nat → State × List (Nat × Word)
  | [] => (s, [])
  | i :: is =>
    let f := t.fibre i
    let addr := (f.reg a).toNat % 2 ^ 19
    let old := s.localWord t addr
    let r := (s.setLocal t addr (atomNew op old (f.reg d) (f.reg (d + 1)))).latomAll t op a d is
    (r.1, (i, old) :: r.2)

/-- `latom.op vD, lm[vA]`; for `.cas` vD names an even pair. -/
def latom (g : Guard) (op : AtomOp) (a d : Reg) (s : State) : Result :=
  issue { guard := g, uses := fun _ => a.toNat :: atomData op d.toNat }
    (fun _ t _ => t.localChecks fun f => (f.reg a.toNat).toNat % 2 ^ 19)
    (fun s t act =>
      if act.any fun i => s.writeBlocked t (((t.fibre i).reg a.toNat).toNat % 2 ^ 19) 4 then s.stall
      else
        let r := s.latomAll t op a.toNat d.toNat act
        r.1.writeFibres act 4 fun i f => f.setReg d.toNat ((assoc r.2 i).getD 0)) s

def execLatomAddS32 (g : Guard) (a d : Reg) (s : State) : Result := latom g .addS32 a d s
def execLatomAddF32 (g : Guard) (a d : Reg) (s : State) : Result := latom g .addF32 a d s
def execLatomMinS32 (g : Guard) (a d : Reg) (s : State) : Result := latom g .minS32 a d s
def execLatomMaxS32 (g : Guard) (a d : Reg) (s : State) : Result := latom g .maxS32 a d s
def execLatomAnd (g : Guard) (a d : Reg) (s : State) : Result := latom g .and a d s
def execLatomOr (g : Guard) (a d : Reg) (s : State) : Result := latom g .or a d s
def execLatomExch (g : Guard) (a d : Reg) (s : State) : Result := latom g .exch a d s
def execLatomCas (g : Guard) (a d : Reg) (s : State) : Result := latom g .cas a d s

/-! ## Barrier objects (R134 to R138) -/

def objExpected (o : BitVec 128) : Nat := (o.extractLsb' 0 32).toNat
def objArrived (o : BitVec 128) : Nat := (o.extractLsb' 32 32).toNat
def objPhase (o : BitVec 128) : Bool := o.getLsbD 64
def objRnext (o : BitVec 128) : BitVec 16 := o.extractLsb' 80 16
def objPkind (o : BitVec 128) : Nat := (o.extractLsb' 102 2).toNat
def objParty (o : BitVec 128) : Nat := (o.extractLsb' 104 24).toNat
def objScope (o : BitVec 128) : Nat := (o.extractLsb' 96 3).toNat

/-- Replace `n` bits from `lo` on. -/
def putBits (o : BitVec 128) (lo n v : Nat) : BitVec 128 :=
  BitVec.ofNat 128 (o.toNat / 2 ^ (lo + n) * 2 ^ (lo + n) + v % 2 ^ n * 2 ^ lo + o.toNat % 2 ^ lo)

/-- The scope of an object's acquires, never narrower than `.team` (R137). -/
def ascopeOf (o : BitVec 128) : Scope :=
  match objScope o with
  | 3 => .core
  | 4 => .die
  | 5 => .pkg
  | 6 => .dom
  | 7 => .sys
  | _ => .team

/-- Raise a core's logical time (R288). -/
def State.raiseLt (s : State) (c : Nat) (w : Option (BitVec 24)) : State :=
  match w with
  | some w => s.modCore c fun k => { k with lt := timeMax k.lt w }
  | none => s

def optMax (a b : Option (BitVec 24)) : Option (BitVec 24) :=
  match a, b with
  | some x, some y => some (timeMax x y)
  | some x, none => some x
  | none, y => y

/-- An arrival of the current phase carries a wts (R329). -/
def State.noteTime (s : State) (team obj : Nat) (w : Option (BitVec 24)) : State :=
  match w with
  | none => s
  | some _ => s.modTeam team fun t =>
    let x := (assoc t.objTimes obj).getD (none, none)
    { t with objTimes := assocSet t.objTimes obj (optMax x.1 w, x.2) }

/-- The phase completes: what its arrivals carried is there to be observed. -/
def State.turnTime (s : State) (team obj : Nat) : State :=
  s.modTeam team fun t =>
    match assoc t.objTimes obj with
    | some x => { t with objTimes := assocSet t.objTimes obj (none, optMax x.1 x.2) }
    | none => t

/-- The acquire of an observed object, with the logical time that its arrivals carried (R137, R329). -/
def State.acquireObject (s : State) (t : Team) (obj : Nat) : State :=
  (s.acquireOf t (ascopeOf (s.object t obj))).raiseLt t.core ((assoc t.objTimes obj).bind fun x => x.2)

/-- Fibres that wait on the object for a phase that has come leave, each with its acquire (R137). -/
def State.wakeObject (s : State) (team obj : Nat) : State :=
  match s.team? team with
  | none => s
  | some t =>
    let o := s.object t obj
    let gone := t.live.filter fun i =>
      match (t.fibre i).wait with
      | some (.bowait a p) => a == obj && p != objPhase o
      | _ => false
    if gone.isEmpty then s else (s.acquireObject t obj).release team gone

/-- The armed record on an object starts (R136, R220). -/
def State.fireArm (s : State) (t : Team) (obj : Nat) : State :=
  s.modCore t.core fun k =>
    { k with arms := k.arms.map fun a => if a.2.team == t.id && a.2.obj == obj then (a.1, { a.2 with fired := true }) else a }

/-- An arrival of `n` bytes at a scope code (R136). -/
def State.arrive (s : State) (team obj n scope : Nat) : State :=
  if n = 0 then s
  else
    match s.team? team with
    | none => s
    | some t =>
      let o := s.object t obj
      let o := putBits o 96 3 (max (objScope o) scope)
      let sum := objArrived o + n
      let s := s.progress team
      if sum < objExpected o then s.setObject t obj (putBits o 32 32 sum)
      else
        let o' := putBits (putBits (putBits o 32 32 0) 80 16 0) 64 1 (if objPhase o then 0 else 1)
        let o' := if objExpected o < sum then putBits o' 71 1 1 else o'
        let s := (s.setObject t obj o').turnTime team obj
        (if o.getLsbD armedBit then s.fireArm t obj else s).wakeObject team obj

/-- The arrival of 2,048 bytes that ends a row operation or near-bank run, carrying the largest wts: a release of its writes at `.pkg` scope, it waits
for those made by posts to windows on other devices (R329). -/
def State.arriveAfter (s : State) (team obj : Nat) (w : Option (BitVec 24)) (posts : List Nat) : State :=
  if posts.isEmpty then (s.noteTime team obj w).arrive team obj 2048 5
  else { s with coh := { s.coh with arrivals := s.coh.arrivals ++ [{ team := team, obj := obj, posts := posts, wts := w }] } }

/-- A post is over: the arrivals that waited for it alone are made. -/
def State.settleArrivals (s : State) (post : Nat) : State :=
  let rest := s.coh.arrivals.map fun (a : Arrival) => { a with posts := a.posts.filter fun i => i != post }
  (rest.filter fun a => a.posts.isEmpty).foldl (fun s a => s.arriveAfter a.team a.obj a.wts [])
    { s with coh := { s.coh with arrivals := rest.filter fun a => !a.posts.isEmpty } }

def objAddr (f : Fibre) (a : Nat) : Nat := (f.reg a).toNat % 2 ^ 19

def execBar (g : Guard) (k : Class) (s : State) : Result :=
  issue { guard := g } (fun _ t _ => [checkAll (if State.legalOwn t k then none else some { code := 0x20 })])
    (fun s t act =>
      if !s.performedAt t act .team then s.stall
      else (s.blockSome (fun _ f => if guardHolds g f then some .bar else none) (fun _ f => f)).settle t.id) s

/-- The object that `boinit` writes (R135). -/
def initObject (e w : Word) : BitVec 128 :=
  let pkind := bitsOf w.toNat 31 30
  BitVec.ofNat 128 (e.toNat + 2 * 2 ^ 96 + pkind * 2 ^ 102 + (if pkind = 1 then bitsOf w.toNat 23 0 else 0) * 2 ^ 104)

def initLegal (e w : Word) : Bool := e != 0 && bitsOf w.toNat 29 24 == 0 && bitsOf w.toNat 31 30 ≤ 1

/-- One lane of `boinit`: an armed record on the object is dropped (R220). -/
def State.boinitLane (s : State) (t : Team) (obj : Nat) (o : BitVec 128) : State :=
  (((s.dropArms t.core fun a => a.team == t.id && a.obj == obj).setObject t obj o).modTeam t.id fun t =>
    { t with objTimes := assocDel t.objTimes obj }).wakeObject t.id obj

def execBoinit (g : Guard) (b a : Reg) (s : State) : Result :=
  issue { guard := g, uses := fun _ => [a.toNat, b.toNat, b.toNat + 1] }
    (fun _ t _ => (t.objectChecks fun f => objAddr f a.toNat)
      ++ [fun _ f => if initLegal (f.reg b.toNat) (f.reg (b.toNat + 1)) then none else some { code := 0x62 }])
    (fun s t act =>
      if act.any fun i => s.writeBlocked t (objAddr (t.fibre i) a.toNat) 16 then s.stall
      else
        (act.foldl (fun s i =>
          let f := t.fibre i
          s.boinitLane t (objAddr f a.toNat) (initObject (f.reg b.toNat) (f.reg (b.toNat + 1)))) s).advance 4) s

def execBoarr (g : Guard) (b a : Reg) (s : State) : Result :=
  issue { guard := g, uses := fun _ => [a.toNat, b.toNat] }
    (fun _ t _ => t.objectChecks fun f => objAddr f a.toNat)
    (fun s t act =>
      if act.any (fun i => s.writeBlocked t (objAddr (t.fibre i) a.toNat) 16) || !s.performedAt t act .team then s.stall
      else
        (act.foldl (fun s i => s.arrive t.id (objAddr (t.fibre i) a.toNat) ((t.fibre i).reg b.toNat).toNat 2) s).advance 4) s

/-- The check of a `bowait` against its object's party (R138). -/
def State.bowaitError (s : State) (k : Class) (o : BitVec 128) : Option Cause :=
  match objPkind o with
  | 0 => if k = .own then none else some { code := 0x20 }
  | 1 => if legalWait k (s.numbered (objParty o)) then none else some { code := 0x20 }
  | _ => some { code := 0x62 }

def execBowait (g : Guard) (k : Class) (a d : Reg) (s : State) : Result :=
  issue { guard := g, uses := fun _ => [a.toNat, d.toNat] }
    (fun s t _ => (t.objectChecks fun f => objAddr f a.toNat) ++ [fun _ f => s.bowaitError k (s.object t (objAddr f a.toNat))])
    (fun s t act =>
      if act.any fun i => s.writeBlocked t (objAddr (t.fibre i) a.toNat) 16 then s.stall
      else
        let obj (i : Nat) : Nat := objAddr (t.fibre i) a.toNat
        let seen (i : Nat) : Bool := objPhase (s.object t (obj i)) != ((t.fibre i).reg d.toNat).getLsbD 0
        let s' := (act.filter seen).foldl (fun x i => x.acquireObject t (obj i)) s
        s'.blockSome
          (fun i f => if act.contains i && !seen i then some (.bowait (objAddr f a.toNat) ((f.reg d.toNat).getLsbD 0)) else none)
          (fun _ f => f)) s

def execBotest (g : Guard) (a : Reg) (p : Pred) (s : State) : Result :=
  issue { guard := g, uses := fun _ => [a.toNat] }
    (fun _ t _ => t.objectChecks fun f => objAddr f a.toNat)
    (fun s t act =>
      if act.any fun i => s.writeBlocked t (objAddr (t.fibre i) a.toNat) 16 then s.stall
      else
        let o (i : Nat) : BitVec 128 := s.object t (objAddr (t.fibre i) a.toNat)
        let s' := act.foldl (fun x i => x.acquireObject t (objAddr (t.fibre i) a.toNat)) s
        s'.writeFibres act 4 fun i f => f.setPred p (objPhase (o i))) s

/-! ## Tile handles (R140 to R145) -/

def Team.handle (t : Team) (h : Nat) : HandleState := t.handles.getD h .unallotted

def Team.setHandle (t : Team) (h : Nat) (x : HandleState) : Team := { t with handles := t.handles.set h x }

def State.setHandle (s : State) (t : Team) (h : Nat) (x : HandleState) : State := s.modTeam t.id fun t => t.setHandle h x

/-- The handle exists (0x61), and no engine fault is recorded on it (0x64). -/
def handleChecks (t : Team) (h : Nat) : List Check :=
  [checkAll (if h < t.handles.length then none else some { code := 0x61 }),
   checkAll (if (t.handle h).fault then
     some { code := 0x64, inner := (t.handle h).inner, addr := (t.handle h).faddr, handle := some h } else none)]

/-- The handle is in one of the states that accept the instruction (0x60). -/
def checkState (t : Team) (h : Nat) (ok : HandleState → Bool) : Check :=
  checkAll (if ok (t.handle h) then none else some { code := 0x60 })

def HandleState.idle (x : HandleState) : Bool := x.allotted && (x.st == .free || x.st == .full)

/-- Fibres that wait for the handle's state leave (R145). -/
def State.wakeHandle (s : State) (team h : Nat) : State :=
  match s.team? team with
  | none => s
  | some t =>
    let gone := t.live.filter fun i => (t.fibre i).wait == some (.hwait h (t.handle h).st)
    if gone.isEmpty then s else s.release team gone

/-- Set a handle's state, and wake those that wait for it. -/
def State.moveHandle (s : State) (t : Team) (h : Nat) (f : HandleState → HandleState) : State :=
  (s.modTeam t.id fun t => { t with handles := t.handles.modify h f }).wakeHandle t.id h

/-- Where a new region ends: below the lowest region allotted (R143). -/
def Team.regionTop (t : Team) : Nat := (t.handles.filter fun h => h.allotted).foldl (fun m h => min m h.base) t.lsize

def regionLegal (n : Nat) : Bool := n % 256 == 0 && 256 ≤ n && n ≤ 524288

def execHalloc (g : Guard) (a : Reg) (h : Handle) (s : State) : Result :=
  issue { guard := g, uses := fun _ => [a.toNat] }
    (fun _ t act => handleChecks t h.toNat ++ [checkState t h.toNat fun x => !x.allotted,
      checkActing t act fun f =>
        let n := (f.reg a.toNat).toNat
        if regionLegal n && n ≤ t.regionTop then none else some { code := 0x63 }])
    (fun s t act =>
      if act.isEmpty then s.advance 4
      else
        let n := ((t.fibre (actingLane act)).reg a.toNat).toNat
        (s.moveHandle t h.toNat fun _ => { HandleState.unallotted with allotted := true, base := t.regionTop - n, size := n }).advance 4) s

/-- A scoreboard entry covers part of the handle's region (R143, R165). -/
def State.regionBusy (s : State) (t : Team) (h : Nat) : Bool :=
  ((s.cmdsOf t).any fun m => overlaps (t.handle h).base (t.handle h).size m.base m.size)
    || s.imageRead t (t.handle h).base (t.handle h).size

def execHfree (g : Guard) (h : Handle) (s : State) : Result :=
  issue { guard := g } (fun _ t _ => handleChecks t h.toNat ++ [checkState t h.toNat HandleState.idle])
    (fun s t act =>
      if act.isEmpty then s.advance 4
      else if s.regionBusy t h.toNat then s.stall
      else (s.setHandle t h.toNat .unallotted).advance 4) s

def execHbind (g : Guard) (n : Rec) (a : Reg) (h : Handle) (s : State) : Result :=
  issue { guard := g, uses := fun _ => [a.toNat] } (fun _ t _ => handleChecks t h.toNat ++ [checkState t h.toNat HandleState.idle])
    (fun s t act =>
      if act.isEmpty then s.advance 4
      else if s.regionBusy t h.toNat then s.stall
      else
        let off := ((t.fibre (actingLane act)).reg a.toNat).toNat
        (s.moveHandle t h.toNat fun x => { x with st := .free, hwptr := 0, bound := some (n.toNat, off) }).advance 4) s

/-- The word of `hstate` (R144). -/
def HandleState.word (x : HandleState) : Word :=
  if x.allotted then
    BitVec.ofNat 32 (x.base / 256 * 2 ^ 21 + x.size / 256 * 2 ^ 9 + (if x.fault then 2 ^ 8 else 0)
      + (if x.bound.isSome then 16 else 0) + 8 + stateCode x.st)
  else 0

def execHstate (g : Guard) (a : Reg) (h : Handle) (s : State) : Result :=
  issue { guard := g, uses := fun _ => [a.toNat] }
    (fun _ t _ => [checkAll (if h.toNat < t.handles.length then none else some { code := 0x61 })])
    (fun s t act => s.writeFibres act 4 fun _ f => f.setReg a.toNat (t.handle h.toNat).word) s

def execHwptr (g : Guard) (a : Reg) (h : Handle) (s : State) : Result :=
  issue { guard := g, uses := fun _ => [a.toNat] } (fun _ t _ => handleChecks t h.toNat)
    (fun s t act =>
      let x := t.handle h.toNat
      s.writeFibres act 4 fun _ f => f.setReg a.toNat (BitVec.ofNat 32 (if x.allotted then x.hwptr else 0))) s

def execHwait (g : Guard) (st : HState) (k : Class) (h : Handle) (s : State) : Result :=
  issue { guard := g }
    (fun _ t _ => handleChecks t h.toNat ++ [checkState t h.toNat fun x => x.allotted,
      checkAll (if State.legalOwn t k then none else some { code := 0x20 })])
    (fun s t act =>
      if (t.handle h.toNat).st = st then s.advance 4
      else s.blockSome (fun i _ => if act.contains i then some (.hwait h.toNat st) else none) (fun _ f => f)) s

/-! ## Copy commands at issue (R146 to R150, R155, R313) -/

/-- What a command does to its handle's state when it starts (R140). -/
def CmdKind.during (k : CmdKind) : HState := if k.fills then .filling else .draining

/-- Put an engine command in flight from the acting lane of `act`: it takes a scoreboard entry, and the handle moves (R146). -/
def State.addCmd (s : State) (t : Team) (act : List Nat) (h : Nat) (k : CmdKind) (epc : Word) (implicit : Bool) : State :=
  let x := t.handle h
  let m : Cmd := { id := s.nextId, team := t.id, fib := actingLane act, h := h, kind := k, epc := epc, base := x.base, size := x.size
                   started := false, done := 0, inst := s.nextId, sent := false, refused := false, noted := false, age := 0, held := [], tried := []
                   implicit := implicit, fibs := act }
  let s := (s.modCore t.core fun c => { c with cmds := c.cmds ++ [m] }).fresh
  s.moveHandle t h fun x => { x with st := k.during, hwptr := if k.fills then 0 else x.hwptr }

/-- The range check of `cpin` and `cpout` (R146). -/
def rangeError (t : Team) (n h elem : Nat) : Option Cause :=
  let r := recordOfBits (t.record n)
  let m := (t.handle h).size / 2 ^ r.esz
  if r.oox ∧ r.extent < elem + m then some { code := 0x32 } else none

/-- The checks of a copy command. -/
def copyChecks (t : Team) (act : List Nat) (n : Option Nat) (h : Nat) (elem : Fibre → Nat) (out : Bool) : List Check :=
  let form : List Check := match n with
    | some n => [checkAll (if malformed (t.record n) then some { code := 0x36 } else none)]
    | none => []
  let range : List Check := match n with
    | some n => [checkActing t act fun f => rangeError t n h (elem f)]
    | none => []
  let ro : List Check := match n with
    | some n => [checkAll (if out && t.refuses n then some { code := 0x31 } else none)]
    | none => []
  form ++ handleChecks t h ++ [checkState t h HandleState.idle] ++ range ++ ro

/-- Fewer than `n` of the 256 entries of a core's scoreboard are free (R152, R154). DESIGN CHOICE: the stopped commands of a saved team keep theirs
(log entry 74). -/
def State.scoreboardLacks (s : State) (c n : Nat) : Bool := Config.coreHandles < (s.core c).cmds.length + (s.core c).reads.length + n

/-- All 256 entries of a core's scoreboard are held (R154). -/
def State.scoreboardFull (s : State) (c : Nat) : Bool := s.scoreboardLacks c 1

/-- A copy instruction: its checks, the stall of a full scoreboard (R154), and its command. -/
def copyOp (g : Guard) (uses : List Nat) (n : Option Nat) (h : Nat) (elem : Fibre → Nat) (out : Bool)
    (more : Team → List Nat → List Check) (kind : Team → Fibre → CmdKind) (s : State) : Result :=
  issue { guard := g, uses := fun _ => uses } (fun _ t act => copyChecks t act n h elem out ++ more t act)
    (fun s t act =>
      if act.isEmpty then s.advance 4
      else if s.scoreboardFull t.core then s.stall
      else (s.addCmd t act h (kind t (t.fibre (actingLane act))) (s.curPc t) false).advance 4) s

def execCpin (g : Guard) (n : Rec) (a : Reg) (h : Handle) (s : State) : Result :=
  copyOp g [a.toNat] (some n.toNat) h.toNat (fun f => (f.reg a.toNat).toNat) false (fun _ _ => [])
    (fun _ f => .cpin n.toNat (f.reg a.toNat).toNat) s

def execCpout (g : Guard) (n : Rec) (a : Reg) (h : Handle) (s : State) : Result :=
  copyOp g [a.toNat] (some n.toNat) h.toNat (fun f => (f.reg a.toNat).toNat) true (fun _ _ => [])
    (fun _ f => .cpout n.toNat (f.reg a.toNat).toNat) s

/-- The check of a push's destination pointer (R182); `align` is 4 for a contribution (R155). -/
def pushChecks (a h align : Nat) (t : Team) (act : List Nat) : List Check :=
  [checkActing t act fun f => match pointerAligned t (f.pair a) (t.handle h).size align with
    | .error c => some c
    | .ok _ => none]

/-- The destination address of a push. A dropped pointer's lies in no window: 2^57 more than the pointer names (R181). -/
def pushAddr (t : Team) (f : Fibre) (a h align : Nat) : Nat :=
  match pointerAligned t (f.pair a) (t.handle h).size align with
  | .ok (some va) => va
  | _ =>
    let p := f.pair a
    2 ^ 57 + ((recordOfBits (t.record (pointerRec p))).base + (p.extractLsb' 0 59).toNat) % 2 ^ 57

def execCppush (g : Guard) (a : Reg) (h : Handle) (s : State) : Result :=
  copyOp g [a.toNat, a.toNat + 1] none h.toNat (fun _ => 0) false (pushChecks a.toNat h.toNat 1)
    (fun t f => .push (pushAddr t f a.toNat h.toNat 1)) s

def execCpred (g : Guard) (a : Reg) (h : Handle) (s : State) : Result :=
  copyOp g [a.toNat, a.toNat + 1, a.toNat + 2] none h.toNat (fun _ => 0) false (pushChecks a.toNat h.toNat 4)
    (fun t f => .red (pushAddr t f a.toNat h.toNat 4) (f.reg (a.toNat + 2)).toNat) s

def execCpfill (g : Guard) (a : Reg) (h : Handle) (s : State) : Result :=
  copyOp g [a.toNat] none h.toNat (fun _ => 0) false (fun _ _ => []) (fun _ f => .fill (f.reg a.toNat)) s

/-! ## cpcancel (R148) -/

/-- The party to which a push or a contribution for an address goes: this device where it holds the window, else the address's home, and
once that has answered that it holds none, the other devices in turn (R132, R313; log entry 16). -/
def State.windowParty (s : State) (p : Page) (tried : List Nat) : Party :=
  if (s.published (blkOf p.home p.pa)).isSome || s.windowClosed (blkOf p.home p.pa) then s.here .home
  else ⟨((p.home :: s.otherDevices).find? fun d => !tried.contains d).getD p.home, .home⟩

/-- The last line that a push has sent, again, with the bytes delivered whole: its arrival ends the stopped push (R148). -/
def State.endPush (s : State) (t : Team) (m : Cmd) : State :=
  match m.kind with
  | .push va =>
    if m.done = 0 ∨ m.sent then s
    else
      match s.translate t.core t.asid (va + m.done - 256) .store t.privileged with
      | .ok p =>
        let bytes := (m.held.drop (m.done - 256)).take 256
        s.send (s.here (.die (s.core t.core).die)) (s.windowParty p m.tried)
          (.push m.id (p.home * 2 ^ 52 + p.pa) (BitVec.ofNat 2048 (bytesNat bytes)) (some m.done) [])
      | .error _ => s
  | _ => s

/-- The read that an engine command has under way is abandoned. -/
def State.dropEngineRead (s : State) (c id : Nat) : State :=
  s.abandon c fun r => r.kind == .fetch && r.cmd == some (engineBase + id)

/-- Stop a handle's command: filling becomes free and draining becomes full. -/
def State.cancelCmd (s : State) (t : Team) (h : Nat) : State :=
  let s := (s.cmdsOf t).foldl (fun s m => if m.h = h then (s.endPush t m).dropEngineRead t.core m.id else s) s
  let s := s.modCore t.core fun c => { c with cmds := c.cmds.filter fun m => !(m.team == t.id && m.h == h) }
  s.moveHandle t h fun x =>
    { x with st := match x.st with
        | .filling => .free
        | .draining => .full
        | y => y }

def execCpcancel (g : Guard) (h : Handle) (s : State) : Result :=
  issue { guard := g } (fun _ t _ => handleChecks t h.toNat ++ [checkState t h.toNat fun x => x.allotted])
    (fun s t act => if act.isEmpty then s.advance 4 else (s.cancelCmd t h.toNat).advance 4) s

end Sys2Proof.Machine
end

