-- ==== Sys2Proof/Machine/Rows.lean ====
section
/-! DEFINITION. Row instructions and near-bank units (R320 to R338, R340), with their events. -/

namespace Sys2Proof.Machine

/-! ## Rows and their checks (R320, R322) -/

/-- The base address of a row pointer (R182): malformed record, or not a multiple of 2,048. -/
def rowBase (t : Team) (p : BitVec 64) : Except Cause Nat :=
  let b := t.record (pointerRec p)
  if malformed b then .error { code := 0x36 }
  else
    let a := ((recordOfBits b).base + (p.extractLsb' 0 59).toNat) % 2 ^ 57
    if a % 2048 ≠ 0 then .error { code := 0x50, addr := a } else .ok a

/-- A page of R320. -/
def State.rowPage (s : State) (e : BitVec 64) : Bool :=
  isDram (leafFrame e) && e.getLsbD 7 && leafType e == .normal && !leafMigrating e && leafHome e == s.dev

/-- One operand: its pointer, its count of rows, and what it needs. -/
structure RowOperand where
  ptr : BitVec 64
  n : Nat
  read : Bool
  write : Bool
  deriving DecidableEq, Repr

/-- The cause that row `i` of an operand meets (R322). -/
def State.rowError (s : State) (t : Team) (o : RowOperand) (i : Nat) : Option Cause :=
  match rowBase t o.ptr with
  | .error c => some c
  | .ok a =>
    let r := recordOfBits (t.record (pointerRec o.ptr))
    let va := (a + 2048 * i) % 2 ^ 57
    if pointerSpan t r < (o.ptr.extractLsb' 0 59).toNat + 2048 * (i + 1) then some { code := 0x32, addr := va }
    else
      match s.leaf t.core t.asid va with
      | .error c => some (({ c with page := if o.write then 1 else 0 } : Cause).refused (o.write && r.ro) va)
      | .ok e =>
        if !s.rowPage e then some { code := 0x51, addr := va }
        else if (o.read && !permitted e .load t.privileged) || (o.write && (r.ro || !permitted e .store t.privileged))
        then some { code := 0x31, addr := va }
        else none

/-- The causes of the operands, by code, in the order of R322 and R189. -/
def State.rowCause (s : State) (t : Team) (os : List RowOperand) (code : Nat) : Option Cause :=
  os.findSome? fun o => (List.range o.n).findSome? fun i =>
    match s.rowError t o i with
    | some c => if c.code = code then some c else none
    | none => none

/-- The checks of row operands that the acting lane's fibre gives. -/
def State.rowChecks (s : State) (t : Team) (act : List Nat) (os : Fibre → List RowOperand) : List Check :=
  [0x36, 0x50, 0x32, 0x38, 0x51, 0x31, 0x30, 0x70].map fun code => checkActing t act fun f => s.rowCause t (os f) code

/-- Physical and virtual address of row `i` of an operand that has passed its checks. -/
def State.rowAt (s : State) (t : Team) (o : RowOperand) (i : Nat) : Nat × Nat :=
  match rowBase t o.ptr with
  | .error _ => (0, 0)
  | .ok a =>
    let va := (a + 2048 * i) % 2 ^ 57
    match s.leaf t.core t.asid va with
    | .ok e => ((pageOf e t.asid va).pa, va)
    | .error _ => (0, va)

/-! ## The row instructions (R321 to R323) -/

def ctlRows (w : Word) : Nat := bitsOf w.toNat 7 0 + 1

/-- The operands of a row instruction with control word `w`; a pattern row is one row. -/
def rowOperands (fn : Word → RowFn) (d : Nat) (f : Fibre) : List RowOperand :=
  let w := f.reg (d + 6)
  let dst : RowOperand := ⟨f.pair d, ctlRows w, false, true⟩
  let a : RowOperand := ⟨f.pair (d + 2), ctlRows w, true, false⟩
  let b : RowOperand := ⟨f.pair (d + 4), ctlRows w, true, false⟩
  match fn w with
  | .zeros => [dst]
  | .ones => [dst]
  | .pattern => [dst, { a with n := 1 }]
  | .copy => [dst, a]
  | .not => [dst, a]
  | _ => [dst, a, b]

/-- The row operations of an instruction. -/
def State.rowSteps (s : State) (t : Team) (os : List RowOperand) : List RowStep :=
  match os with
  | [] => []
  | d :: src =>
    (List.range d.n).map fun i =>
      let at_ (o : RowOperand) : Nat × Nat := s.rowAt t o (if o.n = 1 then 0 else i)
      { d := (s.rowAt t d i).1, dva := (s.rowAt t d i).2, a := src.head?.map at_, b := (src.drop 1).head?.map at_ }

/-- Row instructions that hold a row slot of a core. -/
def State.slotsHeld (s : State) (c : Nat) : Nat := (s.rows.filter fun r => r.slot == some c).length

def rowObj (w : Word) : Nat := bitsOf w.toNat 14 0 * 16

/-- A feature of R346 that an instruction needs. -/
def State.checkFeature (s : State) (i : Nat) : Check := checkLegal (s.featureOn i)

/-- A row instruction (R322). -/
def rowOp (g : Guard) (fn : Word → RowFn) (d : Nat) (s : State) : Result :=
  issue { guard := g, uses := fun _ => (List.range 8).map fun k => d + k, early := [s.checkFeature 4] }
    (fun s t act => checkActing t act (fun f => t.objectError (rowObj (f.reg (d + 7)))) :: s.rowChecks t act (rowOperands fn d))
    (fun s t act =>
      if act.isEmpty then s.advance 4
      else if Config.rowSlots ≤ s.slotsHeld t.core then s.stall
      else
        let f := t.fibre (actingLane act)
        let cmd : RowCmd := { id := s.nextId, team := t.id, issuer := t.core, slot := some t.core, fn := fn (f.reg (d + 6))
                              rows := s.rowSteps t (rowOperands fn d f), obj := rowObj (f.reg (d + 7)), fib := actingLane act
                              epc := s.curPc t, inst := s.nextId }
        { s with rows := s.rows ++ [cmd] }.fresh.advance 4) s

def execRcopy (g : Guard) (d : Reg) (s : State) : Result := rowOp g (fun _ => .copy) d.toNat s
def execRfill (g : Guard) (d : Reg) (s : State) : Result :=
  rowOp g (fun w => if w.getLsbD 8 then .pattern else if w.getLsbD 9 then .ones else .zeros) d.toNat s
def execRand (g : Guard) (d : Reg) (s : State) : Result := rowOp g (fun _ => .and) d.toNat s
def execRor (g : Guard) (d : Reg) (s : State) : Result := rowOp g (fun _ => .or) d.toNat s
def execRxor (g : Guard) (d : Reg) (s : State) : Result := rowOp g (fun _ => .xor) d.toNat s
def execRnot (g : Guard) (d : Reg) (s : State) : Result := rowOp g (fun _ => .not) d.toNat s

/-! ## Tokens of a row (R326, R327) -/

def Meta.isLease : Meta → Bool
  | .lease .. => true
  | .token .. => false

/-- What a window on another device has answered to an engine for a block of a step: the data, whether they are poisoned, and the holder (R132, R327). -/
def State.gathered? (s : State) (e : Place) (b : Nat) : Option (BlockData × Bool × Party) :=
  (s.coh.gathered.find? fun g => g.1 == e && g.2.1 == b).map fun g => g.2.2

/-- The engine's request for a block has become persistent: it now needs every token (R279, R280). -/
def State.engineWaits (s : State) (e : Place) (b : Nat) : Bool := (s.want? e b).any fun w => w.stage != .no && !s.satisfied w

/-- A source block may be read: its pole is at home, or its value lies in a window. -/
def State.sourceReady (s : State) (e : Place) (b : Nat) : Bool :=
  (s.localCopy b).isSome || (s.gathered? e b).isSome || ((s.homeTokens b).2.2 && !s.engineWaits e b)

/-- The write of a leased block at meridian time does not run too far ahead of it (R290, R327). -/
def State.leaseDue (s : State) (b : Nat) : Bool :=
  match s.metaOf b with
  | .lease _ _ _ r => timeLe (timeMax (r + 1) s.sys.mtime) (s.sys.mtime + 2 ^ 21)
  | .token .. => true

/-- A destination block may be written: all its tokens are at home, or its value lies in a window, which stands still (R157). -/
def State.destReady (s : State) (e : Place) (b : Nat) : Bool :=
  if (s.localCopy b).isSome then !s.windowMoving b
  else (s.gathered? e b).isSome || ((s.homeTokens b).2.1 == 4096 && s.leaseDue b)

/-- A home's block stands still during an audit (R284) or a conversion of its form. -/
def State.blockStill (s : State) (b : Nat) : Bool :=
  (s.coh.frozen.any fun z => z.blk == b && z.who == .home) || s.coh.converting.any fun c => c.1 == b

/-- Ask for what the blocks of a step lack, in two stages: first the poles of the sources, then all tokens of the destinations (R326). -/
def State.engineAsk (s : State) (e : Place) (asid : BitVec 10) (src dst : List Nat) : State :=
  let ask (kind : WantKind) (bs : List Nat) : State := bs.foldl (fun s b => s.ask e (s.agentOf e b).2 b kind false asid) s
  let lack := src.filter fun b => !s.sourceReady e b
  if lack.isEmpty then ask .write (dst.filter fun b => !s.destReady e b) else ask .pole lack

/-- All blocks of a step may be used. -/
def State.engineReady (s : State) (e : Place) (src dst : List Nat) : Bool :=
  src.all (fun b => s.sourceReady e b && !s.blockStill b) && dst.all fun b => s.destReady e b && !s.blockStill b

/-- The value of a block that a step reads, and whether it is poisoned. -/
def State.stepValue (s : State) (e : Place) (b : Nat) : BlockData × Bool :=
  match s.gathered? e b with
  | some g => (g.1, g.2.1)
  | none => (s.current b, s.poisoned b)

/-- The wants of the engine for the blocks of a step that was made, and what windows have answered, are over. -/
def State.engineDone (s : State) (e : Place) (bs : List Nat) : State :=
  let s := bs.foldl (fun s b => s.finishWant e b) s
  { s with coh := { s.coh with gathered := s.coh.gathered.filter fun g => !(g.1 == e && bs.contains g.2.1) } }

/-- One whole block written at its home (R290, R326 to R328): the wts that a leased block takes. -/
def State.putBlock (s : State) (b : Nat) (d : BlockData) (poison : Bool) : State × Option (BitVec 24) :=
  if (s.localCopy b).isSome then ((s.writeBlock b 0 (blockBytesOf d)).setPoison b poison, none)
  else
    let s := s.setMemBlock b d
    match s.metaOf b with
    | .token r p _ se n => (s.setMeta b (.token r p poison se n), none)
    | .lease _ se _ rts =>
      let w := timeMax (rts + 1) s.sys.mtime
      (s.setMeta b (.lease poison se w w), some w)

/-- The post of a row step's write to a window on another device, without its place and its bytes. -/
def stepPost (core team fib inst : Nat) (epc : Word) (va : Nat) : Post :=
  { id := 0, kind := .store, core := core, team := team, fib := fib, epc := epc, va := va, pa := 0, home := 0, fibs := [], ty := .normal, cls := .token
    ord := .rlx, lanes := 0, mask := 0, data := 0, flags := [], cmd := none, sent := true, refused := false, age := 0, inst := inst, num := 0, told := false }

/-- One whole block written at the holder of a window on another device (R132, R327), which marks the block there where its bytes are poisoned (R328).
-/
def State.postBlock (s : State) (p : Post) (b : Nat) (d : BlockData) (poison : Bool) (holder : Party) : State :=
  let h := 128 * (b % 2)
  let q : Post := { p with id := s.nextId, home := s.dev, pa := blkPa (b - b % 2), va := (p.va + blkPa b % 2048) / 256 * 256, bad := poison
                           mask := BitVec.ofNat 256 ((2 ^ 128 - 1) * 2 ^ h), data := BitVec.ofNat 2048 (d.toNat * 2 ^ (8 * h)) }
  let s : State := { s.fresh with fab := { s.fab with posts := s.fab.posts ++ [q] } }
  (s.send (s.here (.die (s.core p.core).die)) holder (.pubStore q.id (2 ^ 52 * s.dev + q.pa) q.mask q.data)).markBad s.nextId
    (if poison then [b] else [])

/-- Write the 16 blocks of a row, as one step: at home, or as posts like `p` where a window on another device holds them. The step is over once such
lines have left, and its arrival is made once they are acknowledged (R329; log entry 97). -/
def State.putRow (s : State) (e : Place) (p : Post) (blks : List Nat) (data : List BlockData) (poison : List Bool) : State × Option (BitVec 24) :=
  (List.range 16).foldl (fun x k =>
    let b := blks.getD k 0
    match s.gathered? e b with
    | some g => (x.1.postBlock p b (data.getD k 0) (poison.getD k false) g.2.2, x.2)
    | none =>
      let r := x.1.putBlock b (data.getD k 0) (poison.getD k false)
      (r.1, optMax x.2 r.2)) (s, none)

/-! ## ROW_OPERATION (R323 to R329, R340) -/

def allOnes : BlockData := BitVec.allOnes 1024

/-- What one block of the destination becomes. -/
def rowBlock (fn : RowFn) (a b : BlockData) : BlockData :=
  match fn with
  | .copy => a
  | .zeros => 0
  | .ones => allOnes
  | .pattern => a
  | .and => a &&& b
  | .or => a ||| b
  | .xor => a ^^^ b
  | .not => ~~~a

/-- The operation is made in the array (R324). -/
def State.inArray (s : State) (x : RowStep) : Bool :=
  let same (o : Option (Nat × Nat)) : Bool := match o with
    | some p => subarrayOf p.1 == subarrayOf x.d
    | none => true
  let window (o : Option (Nat × Nat)) : Bool := match o with
    | some p => (s.rowBlocks p.1).any fun b => (s.localCopy b).isSome || (s.gathered? (engineOf x.d) b).isSome
    | none => false
  same x.a && same x.b && !(window (some (x.d, 0)) || window x.a || window x.b)

/-- Count an operation on a path (R325). -/
def countPath (w : Word) (inArray : Bool) : Word :=
  let st := bitsOf w.toNat 31 16
  let ia := bitsOf w.toNat 15 0
  if inArray then BitVec.ofNat 32 (st * 65536 + min (ia + 1) 65535) else BitVec.ofNat 32 (min (st + 1) 65535 * 65536 + ia)

/-- The first row operation of a command, whose blocks are ready. -/
def State.rowStep (s : State) (r : RowCmd) (x : RowStep) : State :=
  let dst := s.rowBlocks x.d
  let src := s.stepSources x
  let e := engineOf x.d
  let val (o : Option (Nat × Nat)) (k : Nat) : BlockData := match o with
    | some p => (s.stepValue e (blkOf s.dev p.1 + k)).1
    | none => 0
  let bad (o : Option (Nat × Nat)) (k : Nat) : Bool := match o with
    | some p => (s.stepValue e (blkOf s.dev p.1 + k)).2
    | none => false
  let poison := (List.range 16).map fun k => bad x.a k || bad x.b k
  let w := s.putRow e (stepPost r.issuer r.team r.fib r.inst r.epc x.dva) dst ((List.range 16).map fun k => rowBlock r.fn (val x.a k) (val x.b k)) poison
  let s' := w.1.engineDone e (src ++ dst)
  let report (s : State) (o : Option (Nat × Nat)) : State := match o with
    | some p =>
      match (List.range 16).find? (bad o) with
      | some k => s.reportFor r.team 0x70 0 s.dev 8 r.fib r.epc (p.2 + 128 * k / 256 * 256) 0
      | none => s
    | none => s
  let s' := report (report s' x.a) x.b
  let s' := s'.modCore r.issuer fun c => { c with rpath := countPath c.rpath (s.inArray x) }
  let pop (q : RowCmd) : RowCmd := if q.id == r.id then { q with rows := q.rows.drop 1 } else q
  let s' := { s' with rows := (s'.rows.map pop).filter fun (q : RowCmd) => !q.rows.isEmpty }
  s'.idleEngines.arriveAfter r.team r.obj w.2 ((w.1.fab.posts.filter fun p => s.nextId ≤ p.id).map (·.id))

/-- A row instruction of a number in a row slot of a core, with its next operation. -/
def State.rowNext (s : State) (core id : Nat) : Option (RowCmd × RowStep) :=
  match s.rows.find? fun r => r.id == id && r.slot == some core with
  | some r => if s.teamRuns r.team && !s.releaseBusy r.issuer r.team r.fib r.inst then r.rows.head?.map fun x => (r, x) else none
  | none => none

/-- A row of a step lies on a channel that a running near-bank unit keeps shut (R338). -/
def State.stepShut (s : State) (x : RowStep) : Bool :=
  s.channelShut x.d || [x.a, x.b].any fun o => o.any fun p => s.channelShut p.1

/-- ROW_OPERATION: the next operation of a row instruction collects its tokens, or is made. -/
def execRowOperation (core id : Nat) (s : State) : Result :=
  match s.rowNext core id with
  | none => .next s
  | some (r, x) =>
    let src := s.stepSources x
    let dst := s.rowBlocks x.d
    if s.stepShut x then .next s
    else if s.engineReady (engineOf x.d) src dst then .next (s.rowStep r x)
    else .next (s.engineAsk (engineOf x.d) ((s.team? r.team).map (·.asid) |>.getD 0) src dst)

/-- The first row instruction of a core's teams that waits for a slot (R331). -/
def State.rowWaiting (s : State) (core : Nat) : Option RowCmd :=
  s.rows.find? fun r => r.slot.isNone && (s.team? r.team).any fun t => t.core == core && t.works

/-- ROW_SLOT_ACQUIRE (R331). -/
def execRowSlotAcquire (core : Nat) (s : State) : Result :=
  match s.rowWaiting core with
  | some r =>
    if s.slotsHeld core < Config.rowSlots then
      .next { s with rows := s.rows.map fun (q : RowCmd) => if q.id == r.id then { q with slot := some core } else q }
    else .next s
  | none => .next s

/-! ## Near-bank units (R332 to R337) -/

/-- The unit of a channel, when a team holds it. -/
def State.unit? (s : State) (st ch : Nat) : Option NearBank := s.nb.find? fun u => u.stack == st && u.channel == ch

def State.putUnit (s : State) (u : NearBank) : State :=
  { s with nb := (s.nb.filter fun x => !(x.stack == u.stack && x.channel == u.channel)) ++ [u] }

def State.freeUnit (s : State) (st ch : Nat) : State :=
  { s with nb := s.nb.filter fun x => !(x.stack == st && x.channel == ch) }

/-- The pointer that names a unit: one row that may be read (R333). -/
def unitOperand (d : Nat) (f : Fibre) : RowOperand := ⟨f.pair d, 1, true, false⟩

/-- Stack and channel that the pointer names. -/
def State.unitNamed (s : State) (t : Team) (d : Nat) (f : Fibre) : Nat × Nat :=
  let pa := (s.rowAt t (unitOperand d f) 0).1
  (stackOf pa, channelOf pa)

/-- A unit as its first holder finds it (R332). -/
def newUnit (st ch owner : Nat) : NearBank :=
  { stack := st, channel := ch, owner := owner, cond := .held, acc := List.replicate 32 0, ctr := List.replicate 4 0
    scales := [], table := [], upc := 0, streams := [], ending := 0, steps := 0, obj := 0, fib := 0, epc := 0, inst := 0
    window := 0, queue := [], wts := none }

/-- Fields of a state-table entry (R334). -/
def entNt (e : BitVec 64) : Nat := (e.extractLsb' 58 6).toNat
def entNf (e : BitVec 64) : Nat := (e.extractLsb' 52 6).toNat
def entCond (e : BitVec 64) : Nat := (e.extractLsb' 48 4).toNat
def entAcc (e : BitVec 64) : Nat := (e.extractLsb' 37 5).toNat
def entScl (e : BitVec 64) : Nat := (e.extractLsb' 34 3).toNat
def entCtr (e : BitVec 64) : Nat := (e.extractLsb' 32 2).toNat
def entImm (e : BitVec 64) : BitVec 16 := e.extractLsb' 16 16

/-- An entry that `nbload` accepts in a table of `k` entries (R336). -/
def entLegal (k : Nat) (e : BitVec 64) : Bool :=
  entOp e < 8 && entCond e < 4 && e.extractLsb' 0 16 == 0 && entNt e < k && entNf e < k

/-- The image's place and its entry count. -/
def imageAddr (f : Fibre) (d : Nat) : Nat := bitsOf (f.reg (d + 2)).toNat 18 0
def imageCount (f : Fibre) (d : Nat) : Nat := bitsOf (f.reg (d + 3)).toNat 6 0

/-- The image's table. -/
def State.imageTable (s : State) (t : Team) (a k : Nat) : List (BitVec 64) :=
  (pieces 8 k ((s.core t.core).lmem.read (t.lbase.getD 0 + a) (8 * k))).map fun b => BitVec.ofNat 64 (bytesNat b)

/-- The result of `nbload` where the unit is not free to load, or the count is 0. -/
def State.nbBusy (s : State) (t : Team) (u : Nat × Nat) : Option Word :=
  match s.unit? u.1 u.2 with
  | some x => if x.owner ≠ t.id then some 0x80000001 else if x.cond ≠ .held then some 0x80000002 else none
  | none => none

/-- The checks of `nbload` after its pointer: the image (R126), then its entries, once no engine command still writes them (R153). A count above 64
is refused as a faulty program (log entry 13). -/
def State.nbloadChecks (s : State) (t : Team) (d : Nat) : List (Fibre → Option Cause) :=
  [fun f => if imageAddr f d % 8 ≠ 0 then some { code := 0x33, addr := imageAddr f d } else none,
   fun f => if t.lbase.isNone ∨ t.lsize < imageAddr f d + 8 * imageCount f d + 32 then some { code := 0x34, addr := imageAddr f d } else none,
   fun f =>
     let k := imageCount f d
     if (s.nbBusy t (s.unitNamed t d f)).isNone && !s.readBlocked t (imageAddr f d) (8 * k + 32) && (64 < k || !(s.imageTable t (imageAddr f d) k).all (entLegal k))
     then some { code := 0x52 } else none]

def execNbload (g : Guard) (d : Reg) (s : State) : Result :=
  let r := d.toNat
  issue { guard := g, uses := fun _ => [r, r + 1, r + 2, r + 3], early := [s.checkFeature 5] }
    (fun s t act => s.rowChecks t act (fun f => [unitOperand r f]) ++ (s.nbloadChecks t r).map fun c => checkActing t act c)
    (fun s t act =>
      if act.isEmpty then s.advance 4
      else
        let f := t.fibre (actingLane act)
        let k := imageCount f r
        let a := imageAddr f r
        let u := s.unitNamed t r f
        let put (s : State) (w : Word) : State := s.writeFibres [actingLane act] 4 fun _ x => x.setReg (r + 3) w
        if s.readBlocked t a (8 * k + 32) then s.stall
        else
          match s.nbBusy t u with
          | some w => put s w
          | none =>
            if k = 0 then put (s.freeUnit u.1 u.2) 0
            else
              let x := (s.unit? u.1 u.2).getD (newUnit u.1 u.2 t.id)
              let scales := (List.range 8).map fun j => (s.core t.core).lmem.word (t.lbase.getD 0 + a + 8 * k + 4 * j)
              put (s.putUnit { x with scales := scales, table := s.imageTable t a k, upc := 0 }) 0) s

/-- Count of stream `i`, its enable bit, and its operand; it is a destination where an entry with op 4 names it. -/
def streamCount (f : Fibre) (d i : Nat) : Nat := bitsOf (f.reg (d + 8)).toNat (8 * i + 7) (8 * i) + 1
def streamOn (f : Fibre) (d i : Nat) : Bool := (f.reg (d + 11)).getLsbD (16 + i)
def storesTo (u : NearBank) (i : Nat) : Bool := u.table.any fun e => entOp e == 4 && entStrm e == i

def streamOperand (u : NearBank) (f : Fibre) (d i : Nat) : RowOperand := ⟨f.pair (d + 2 * i), streamCount f d i, true, storesTo u i⟩

def enabledStreams (f : Fibre) (d : Nat) : List Nat := (List.range 4).filter fun i => streamOn f d i

/-- An entry uses a stream: ops 2 to 4, or condition 3. -/
def usesStream (e : BitVec 64) : Bool := (2 ≤ entOp e && entOp e ≤ 4) || entCond e == 3

/-- The checks of `nbrun` after its pointer, in the order of R336. -/
def State.nbrunChecks (s : State) (t : Team) (act : List Nat) (d : Nat) : List Check :=
  let f0 := t.fibre (actingLane act)
  let n := s.unitNamed t d f0
  let u := (s.unit? n.1 n.2).getD (newUnit n.1 n.2 t.id)
  let held : Bool := (s.unit? n.1 n.2).any fun x => x.owner == t.id && x.cond == .held && !x.table.isEmpty
  let streams (f : Fibre) : List RowOperand := (enabledStreams f d).map fun i => streamOperand u f d i
  let outside (f : Fibre) : Bool := (streams f).any fun o => (List.range o.n).any fun i =>
    let pa := (s.rowAt t o i).1
    (stackOf pa, channelOf pa) != n
  checkAll (if held then none else some { code := 0x52 })
    :: checkActing t act (fun f => t.objectError (rowObj (f.reg (d + 11)))) :: s.rowChecks t act streams
    ++ [checkActing t act fun f => if outside f then some { code := 0x52 } else none,
        checkActing t act fun f =>
          if u.table.any fun e => usesStream e && !streamOn f d (entStrm e) then some { code := 0x52 } else none]

def execNbrun (g : Guard) (d : Reg) (s : State) : Result :=
  let r := d.toNat
  issue { guard := g, uses := fun _ => (List.range 12).map fun k => r + k, early := [s.checkFeature 5] }
    (fun s t act => s.rowChecks t act (fun f => [unitOperand r f]) ++ if act.isEmpty then [] else s.nbrunChecks t act r)
    (fun s t act =>
      if act.isEmpty then s.advance 4
      else
        let f := t.fibre (actingLane act)
        let n := s.unitNamed t r f
        match s.unit? n.1 n.2 with
        | none => s.advance 4
        | some u =>
          let rows (i : Nat) : Option (List (Nat × Nat)) :=
            if streamOn f r i then
              let o := streamOperand u f r i
              some ((List.range o.n).map fun k => s.rowAt t o k)
            else none
          let half (w : Word) (k : Nat) : BitVec 16 := w.extractLsb' (16 * k) 16
          let ctr := [half (f.reg (r + 9)) 0, half (f.reg (r + 9)) 1, half (f.reg (r + 10)) 0, half (f.reg (r + 10)) 1]
          ({ s.putUnit { u with
              cond := .running, ctr := ctr, upc := 0, steps := 0, streams := (List.range 4).map rows, obj := rowObj (f.reg (r + 11))
              fib := actingLane act, epc := s.curPc t, inst := s.nextId, wts := none } with nextId := s.nextId + 1 }).advance 4) s

/-- The word of `nbstat` (R336). -/
def nbWord (t : Team) : Option NearBank → Word
  | none => 0
  | some u =>
    let st := match u.cond with
      | .held => 1
      | .running => 2
      | .suspended _ => 3
    if u.owner = t.id then BitVec.ofNat 32 (st * 2 ^ 30 + u.ending.toNat * 2 ^ 28 + 2 ^ 26 + u.upc * 2 ^ 20 + u.steps % 2 ^ 20)
    else BitVec.ofNat 32 (st * 2 ^ 30 + 2 * 2 ^ 26)

def execNbstat (g : Guard) (d : Reg) (s : State) : Result :=
  let r := d.toNat
  issue { guard := g, uses := fun _ => [r, r + 1, r + 2], early := [s.checkFeature 5] }
    (fun s t act => s.rowChecks t act fun f => [unitOperand r f])
    (fun s t act =>
      if act.isEmpty then s.advance 4
      else
        let n := s.unitNamed t r (t.fibre (actingLane act))
        s.writeFibres [actingLane act] 4 fun _ x => x.setReg (r + 2) (nbWord t (s.unit? n.1 n.2))) s

/-- A run ends (R335, R336): the unit is held and idle, and makes its arrival once the writes it made are performed. -/
def State.endRun (s : State) (u : NearBank) (ending : BitVec 2) : State :=
  (s.putUnit { u with cond := .held, ending := ending }).arriveAfter u.owner u.obj u.wts
    ((s.fab.posts.filter fun p => p.team == u.owner && p.inst == u.inst).map (·.id))

def execNbcancel (g : Guard) (d : Reg) (s : State) : Result :=
  let r := d.toNat
  issue { guard := g, uses := fun _ => [r, r + 1], early := [s.checkFeature 5] }
    (fun s t act => s.rowChecks t act fun f => [unitOperand r f])
    (fun s t act =>
      if act.isEmpty then s.advance 4
      else
        let n := s.unitNamed t r (t.fibre (actingLane act))
        match s.unit? n.1 n.2 with
        | some u =>
          if u.owner ≠ t.id then s.advance 4
          else
            let s := if u.cond = .held then s else s.endRun u 2
            (s.freeUnit n.1 n.2).idleEngines.advance 4
        | none => s.advance 4) s

/-! ## NEAR_BANK_STEP (R335) -/

/-- The 512 elements of a row. -/
def rowWords (d : RowData) : List Word := (List.range 512).map fun e => d.extractLsb' (32 * e) 32
def rowOfWords (ws : List Word) : RowData := BitVec.ofNat 16384 (bytesNat (ws.flatMap wordBytes))

/-- The value of a row of this device, as its engine reads it. -/
def State.rowData (s : State) (pa : Nat) : RowData :=
  BitVec.ofNat 16384 (bytesNat ((s.rowBlocks pa).flatMap fun b => blockBytesOf (s.stepValue (engineOf pa) b).1))

/-- What an entry does to the accumulators and counters, given the row it reads. -/
def NearBank.compute (u : NearBank) (e : BitVec 64) (x : RowData) : NearBank :=
  let a := entAcc e
  let old := u.acc.getD a 0
  match entOp e with
  | 1 => { u with acc := u.acc.set a 0 }
  | 2 => { u with acc := u.acc.set a x }
  | 3 =>
    let sc := u.scales.getD (entScl e) 0
    { u with acc := u.acc.set a (rowOfWords (((rowWords old).zip (rowWords x)).map fun p => ffma sc p.2 p.1)) }
  | 5 => { u with ctr := u.ctr.set (entCtr e) (entImm e) }
  | 6 => { u with ctr := u.ctr.modify (entCtr e) fun c => c + entImm e }
  | _ => u

/-- The condition of an entry, after its op; condition 3 reads a free bit (R335). -/
def NearBank.cond? (u : NearBank) (e : BitVec 64) (bit : Bool) : Bool :=
  match entCond e with
  | 1 => u.ctr.getD (entCtr e) 0 == 0
  | 2 => u.ctr.getD (entCtr e) 0 != 0
  | 3 => bit
  | _ => true

/-- The entry has been executed: the run ends, or goes on at the next entry. DESIGN CHOICE: a run that the step limit ends leaves `upc` at its last
entry (R335; log entry 111). -/
def State.nbNext (s : State) (u : NearBank) (e : BitVec 64) : State :=
  let u := { u with steps := u.steps + 1 }
  if entOp e = 0 then s.endRun u 0
  else if u.steps = 1048575 then s.endRun u 1
  else
    let go (bit : Bool) : NearBank := { u with upc := if u.cond? e bit then entNt e else entNf e }
    if entCond e = 3 then s.drawn.putUnit (go (Config.freeBit s.draws)) else s.putUnit (go false)

/-- A row step whose blocks are ready (R335). DESIGN CHOICE: the row step that ends a run with ending 3 is not counted in its steps (log entry 101). -/
def State.nbRow (s : State) (u : NearBank) (e : BitVec 64) (row : Nat × Nat) : State :=
  let blks := s.rowBlocks row.1
  let place := engineOf row.1
  if entOp e = 4 then
    let d := u.acc.getD (entAcc e) 0
    let core := ((s.team? u.owner).map (·.core)).getD 0
    let w := s.putRow place (stepPost core u.owner u.fib u.inst u.epc row.2) blks ((List.range 16).map fun k => d.extractLsb' (1024 * k) 1024) (List.replicate 16 false)
    ((w.1.engineDone place blks).nbNext { u with wts := optMax u.wts w.2 } e).idleEngines
  else
    match (List.range 16).find? fun k => (s.stepValue place (blks.getD k 0)).2 with
    | some k => ((s.reportFor u.owner 0x70 0 s.dev 8 u.fib u.epc (row.2 + 128 * k / 256 * 256) 0).engineDone place blks).endRun u 3 |>.idleEngines
    | none => ((s.engineDone place blks).nbNext (u.compute e (s.rowData row.1)) e).idleEngines

/-- A unit that runs, outside arbitration windows (R335, R338). -/
def State.nbRunning (s : State) (st ch : Nat) : Option NearBank :=
  match s.unit? st ch with
  | some u =>
    let core := ((s.team? u.owner).map (·.core)).getD 0
    if u.cond = .running ∧ u.window = 0 ∧ s.teamRuns u.owner ∧ !s.releaseBusy core u.owner u.fib u.inst then some u else none
  | none => none

/-- NEAR_BANK_STEP: one entry, or the collection of its tokens. -/
def execNearBankStep (stack channel : Nat) (s : State) : Result :=
  match s.nbRunning stack channel with
  | none => .next s
  | some u =>
    let e := u.table.getD u.upc 0
    if 2 ≤ entOp e ∧ entOp e ≤ 4 then
      match u.row (entStrm e) with
      | none => .next s
      | some row =>
        let blks := s.rowBlocks row.1
        let src := if entOp e = 4 then [] else blks
        let dst := if entOp e = 4 then blks else []
        if s.engineReady (engineOf row.1) src dst then .next (s.nbRow u e row)
        else .next (s.engineAsk (engineOf row.1) ((s.team? u.owner).map (·.asid) |>.getD 0) src dst)
    else .next (s.nbNext (u.compute e 0) e)

/-- ARBITRATION_WINDOW (R338): at a meridian time that is a multiple of 32 ticks, the unit of a channel executes nothing for 64 ns. -/
def execArbitrationWindow (stack channel : Nat) (s : State) : Result :=
  match s.unit? stack channel with
  | some u =>
    if u.cond = .running ∧ s.sys.mtime.toNat % 32 = 0 ∧ u.window = 0 then .next (s.putUnit { u with window := 4 }) else .next s
  | none => .next s

end Sys2Proof.Machine
end

