-- ==== Sys2Proof/Machine/Perform.lean ====
section
/-! DEFINITION. The steps that perform accesses: loads, the enqueueing and draining of stores, write-backs and drops, late causes and late
results (R243 to R249, R254, R255, R353). -/

namespace Sys2Proof.Machine

/-! ## Requests -/

def State.req? (s : State) (c id : Nat) : Option Req := (s.core c).reqs.find? fun r => r.id == id

def State.modReq (s : State) (c id : Nat) (f : Req → Req) : State :=
  s.modCore c fun k => { k with reqs := k.reqs.map fun r => if r.id == id then f r else r }

/-- The lanes of a request's line (R310). -/
def Req.mask (r : Req) : Word := r.all.foldl (fun m l => m ||| (1#32 <<< l.1)) 0

/-- The fibre that an error entry for a request's line names: that of its lowest lane. -/
def Req.first (r : Req) : Nat := (r.all.head?.map (·.2)).getD 0

/-- The code of a request's kind in an error entry (R310). -/
def Req.code (r : Req) : Nat :=
  if r.cmd.isSome then 6
  else match r.kind with
    | .red _ => 1
    | .flagged => 2
    | _ => 0

/-- A failure of a request's line makes one error entry (R308, R310). -/
def State.tell (s : State) (c : Nat) (r : Req) (cause detail peer kind : Nat) : State :=
  let k := s.core c
  if (k.reqs ++ k.storeQ).any fun q => q.id == r.id && q.told then s
  else
    let mark (q : Req) : Req := if q.id == r.id then { q with told := true } else q
    let s := s.reportFor r.team cause detail peer kind r.first r.epc r.va (if r.cmd.isSome then 0 else r.mask.toNat)
    s.modCore c fun k => { k with reqs := k.reqs.map mark, storeQ := k.storeQ.map mark }

def State.dropReq (s : State) (c id : Nat) : State :=
  s.modCore c fun k => { k with reqs := k.reqs.filter fun r => r.id != id }

/-- Two requests meet in one line of memory. -/
def Req.sameLine (r q : Req) : Bool := r.page.home == q.page.home && r.page.pa / 256 == q.page.pa / 256

/-- An earlier access of the same fibre to overlapping bytes that a load must follow (R247). -/
def State.behind (s : State) (c : Nat) (r : Req) (l : LaneReq) : Bool :=
  let meets (q : Req) : Bool :=
    q.inst < r.inst && q.team == r.team && q.sameLine r && q.lanes.any fun k => k.fib == l.fib && lapped k.off k.size l.off l.size
  let waits (q : Req) : Bool := match q.kind with
    | .store => false
    | .flagged => false
    | _ => true
  ((s.core c).reqs ++ (s.core c).storeQ).any fun q => waits q && meets q

/-- A line request may not leave yet: an access that it carries must follow an earlier one of its fibre (R247), an earlier store of its fibre to
a block of another device is not yet acknowledged (R260), or an earlier miss to its line is not yet filled (R275). -/
def State.lineHeld (s : State) (c : Nat) (r : Req) : Bool :=
  r.openLanes.any (s.behind c r) || s.remoteHeld c r || s.linkedBehind c r

/-! ## Forwarding (R245, case 1) -/

/-- The bytes that a lane stores. -/
def LaneReq.stored (l : LaneReq) : List Byte := (natBytes 8 (l.x.toNat + l.y.toNat * 2 ^ 32)).take l.size

/-- Earlier stores of the lane's fibre that are not yet drained, oldest first. -/
def State.ownStores (s : State) (c : Nat) (r : Req) (l : LaneReq) : List LaneReq :=
  let isStore (q : Req) : Bool := match q.kind with
    | .store => q.cmd.isNone
    | .flagged => true
    | _ => false
  (((s.core c).storeQ ++ (s.core c).reqs).filter fun q => isStore q && q.inst < r.inst && q.team == r.team && q.sameLine r).flatMap
    fun q => q.lanes.filter fun k => k.fib == l.fib && lapped k.off k.size l.off l.size

/-- Byte `o` of a line as a store leaves it. -/
def overlay (st : LaneReq) (o : Nat) (b : Byte) : Byte := if st.off ≤ o ∧ o < st.off + st.size then st.stored.getD (o - st.off) b else b

/-- The bytes of a lane with the fibre's own stores over them. -/
def forward (sts : List LaneReq) (off : Nat) (bs : List Byte) : List Byte :=
  (List.range bs.length).map fun k => sts.foldl (fun b st => overlay st (off + k) b) (bs.getD k 0)

/-! ## Reading one lane -/

/-- What a read of one lane meets: it must wait, a cause, or bytes. -/
inductive LaneRead where
  | wait
  | fail (code : Nat)
  | bytes (bs : List Byte)
  deriving DecidableEq

/-- Bytes at a physical address that an uncached access reads (R202). -/
def State.uncachedRead (s : State) (pa n : Nat) : List Byte :=
  if isRegs pa then (List.range n).map fun i => s.regByte (pa % 2 ^ 40 + i)
  else if isHost pa then s.host.mem.read (pa % 2 ^ 51) n
  else if (s.windowOf pa).isSome then List.replicate n 0
  else s.readPa pa n

def putLease (l : List LeaseCopy) (x : LeaseCopy) : List LeaseCopy := (l.filter fun y => y.blk != x.blk) ++ [x]

/-- The leased copy that a core may use: its own, or its die's. -/
def State.leaseCopy (s : State) (c blk : Nat) : Option LeaseCopy :=
  let k := s.core c
  match (findLease k.leases blk).filter (usable k.lt s.band) with
  | some x => some x
  | none => (findLease (s.die k.die).leases blk).filter (usable k.lt s.band)

/-- The sector of a byte of a private page is fetched from a poisoned block (R191, R245). -/
def State.fetchesPoison (s : State) (c : Nat) (r : Req) (l : LaneReq) : Bool :=
  let a := (r.page.pa + l.off) / 64
  !((findSector (s.core c).view a).isSome || (findSector (s.die (s.core c).die).view a).isSome) && s.poisoned (r.laneBlk l)

/-- Read one lane of a request by its route (R202, R203, R245). -/
def State.readLane (s : State) (c : Nat) (r : Req) (l : LaneReq) : LaneRead :=
  let pa := r.page.pa + l.off
  let blk := r.laneBlk l
  if !s.migrated r.page pa then .wait
  else
    match s.route r.page with
    | .uncached => if isDram pa && s.poisoned blk then .fail 0x70 else .bytes (s.uncachedRead pa l.size)
    | .priv =>
      if s.fetchesPoison c r l then .fail 0x70
      else
        let x := s.fetchSector c (pa / 64) r.page.asid
        .bytes ((List.range l.size).map fun i => x.1.extractLsb' ((pa % 64 + i) * 8) 8)
    | .leased =>
      match s.leaseCopy c blk with
      | some x => .bytes (blockSlice x.data (pa % 128) l.size)
      | none => .wait
    | .token =>
      match s.localCopy blk with
      | some (h, la) => if s.poisoned blk then .fail 0x70 else .bytes ((s.core h).lmem.read (la + pa % 128) l.size)
      | none =>
        match s.hold? (.die (s.core c).die) blk with
        | some h =>
          if !h.readable || !h.lent.any fun p => p.1 == c then .wait
          else if h.valid.getLsbD (pa % 128 / 64) then
            if s.poisoned blk then .fail 0x70 else .bytes (blockSlice h.data (pa % 128) l.size)
          else
            match r.data with
            | some d => .bytes ((List.range l.size).map fun i => d.extractLsb' ((l.off + i) * 8) 8)
            | none => .wait
        | none => .wait
    | .remote =>
      match r.data with
      | some d => .bytes ((List.range l.size).map fun i => d.extractLsb' ((l.off + i) * 8) 8)
      | none => .wait

/-- Keep what a lane of a load returns; a prefetch returns nothing to an instruction (R184). -/
def State.noteLane (s : State) (c : Nat) (r : Req) (l : LaneReq) : State :=
  if r.kind ≠ .prefetch ∧ r.page.home = s.dev ∧ r.page.ty = .normal then s.noteSeen c ⟨r.team, l.fib, r.inst, (r.page.pa + l.off) / 64⟩ else s

/-- A `wait` keeps the rts of the copy, or of the home's reply, that answers it (R298). -/
def State.noteRts (s : State) (c : Nat) (r : Req) (rts : BitVec 24) (byHome : Bool) : State :=
  if r.kind = .fetch then s.modReq c r.id fun q => { q with rts := some (rts, byHome) } else s

/-- The core's logical time once a read has used a copy written at `w` (R288); a prefetch reads nothing (R184). -/
def Req.timeAfter (r : Req) (lt w : BitVec 24) : BitVec 24 := if r.kind = .prefetch then lt else timeMax lt w

/-- What the reads of some lanes of one block leave: a sector or a copy enters the views, logical time rises, and what they returned is
kept. -/
def State.readEffect (s : State) (c : Nat) (r : Req) (ls : List LaneReq) : State :=
  let s := ls.foldl (fun s l => s.noteLane c r l) s
  match s.route r.page with
  | .priv => ls.foldl (fun s l => (s.fetchSector c ((r.page.pa + l.off) / 64) r.page.asid).2) s
  | .leased =>
    match ls with
    | [] => s
    | l :: _ =>
      match s.leaseCopy c (r.laneBlk l) with
      | some x => (s.noteRts c r x.rts false).modCore c fun k => { k with lt := r.timeAfter k.lt x.wts, leases := putLease k.leases x }
      | none => s
  | _ => s

/-- The values that a lane's bytes give its destination registers (R183, R184). -/
def loadValues (signed : Bool) (bs : List Byte) : List Word :=
  let n := bytesNat bs
  match bs.length with
  | 1 => [if signed then (BitVec.ofNat 8 n).signExtend 32 else BitVec.ofNat 32 n]
  | 2 => [if signed then (BitVec.ofNat 16 n).signExtend 32 else BitVec.ofNat 32 n]
  | 4 => [BitVec.ofNat 32 n]
  | _ => [BitVec.ofNat 32 n, BitVec.ofNat 32 (n / 2 ^ 32)]

/-- Late results wait in their fibre (R89). -/
def State.putPend (s : State) (team fib inst : Nat) (vals : List (Nat × Word)) : State :=
  let put (p : Pend) : Pend := if p.req = inst then { p with value := (assoc vals p.reg).orElse fun _ => p.value } else p
  s.modTeam team fun t => t.modFibre fib fun f => { f with pend := f.pend.map put }

/-- A lane of a request receives its bytes. -/
def State.laneDone (s : State) (c : Nat) (r : Req) (l : LaneReq) (bs : List Byte) : State :=
  let bs := forward (s.ownStores c r l) l.off bs
  match r.kind with
  | .load signed => s.putPend r.team l.fib r.inst (l.dst.zip (loadValues signed bs))
  | _ => s.modReq c r.id fun q => { q with data := some (BitVec.ofNat 2048 (patch 256 (q.data.getD 0).toNat l.off bs)) }

/-- Perform the lanes of a request in one block, at one point of the block's order (R188): the lanes done, and those that met a cause. None is
done while one of them must wait. -/
def State.performBlock (s : State) (c : Nat) (r : Req) (blk : Nat) : State × List LaneReq × List (LaneReq × Nat) :=
  let ls := r.openLanes.filter fun l => r.laneBlk l == blk
  let xs := ls.map fun l => (l, s.readLane c r l)
  if xs.any fun x => x.2 == .wait then (s, [], [])
  else
    let good := xs.filterMap fun x => match x.2 with
      | .bytes bs => some (x.1, bs)
      | _ => none
    let bad := xs.filterMap fun x => match x.2 with
      | .fail code => some (x.1, code)
      | _ => none
    (good.foldl (fun s x => s.laneDone c r x.1 x.2) (s.readEffect c r (good.map (·.1))), good.map (·.1), bad)

/-- Perform what can be of some blocks of a request. -/
def State.performBlocks (s : State) (c : Nat) (r : Req) (blks : List Nat) : State × List LaneReq × List (LaneReq × Nat) :=
  blks.foldl (fun x b =>
    let y := x.1.performBlock c r b
    (y.1, x.2.1 ++ y.2.1, x.2.2 ++ y.2.2)) (s, [], [])

/-- The wants of a core's die that an access has used. -/
def State.wantsDone (s : State) (c : Nat) (blks : List Nat) : State :=
  blks.foldl (fun s b => s.finishWant (.die (s.core c).die) b) s

/-- A request after some of its lanes were performed: `rest` are left, `bad` met causes. A load that is done leaves its queue. A copy
engine's read takes poisoned bytes as zeros, and reports them (R151), as a prefetch does (R191). -/
def State.settleLoad (s : State) (core : Nat) (r : Req) (rest : List LaneReq) (bad : List (LaneReq × Nat)) : State :=
  let rest := rest.filter fun l => !bad.any fun b => b.1 == l
  let s := if r.quiet && !bad.isEmpty && !r.told then
      (s.reportFor r.team 0x70 0 r.page.home 8 r.first r.epc r.va 0).modReq core r.id fun q => { q with told := true }
    else s
  let bad := if r.quiet then [] else r.bad ++ bad
  if rest.isEmpty && bad.isEmpty && r.kind != .fetch then (s.dropReq core r.id).reqAcquire core r.ord
  else s.modReq core r.id fun q => { q with lanes := rest ++ bad.map (·.1), bad := bad }

/-- A request that reads, with lanes left to read. -/
def Req.reads (r : Req) : Bool :=
  !r.openLanes.isEmpty && match r.kind with
    | .load _ => true
    | .fetch => true
    | .prefetch => true
    | _ => false

/-- A load leaves for its home, or meets the cause of one that cannot be reached (R305, R306). -/
def State.sendLoad (s : State) (c : Nat) (r : Req) : State :=
  if s.reachable r.page.home then s.sendRemote c r
  else if r.kind = .prefetch then s.dropReq c r.id
  else s.modReq c r.id (Req.failAll 0x40)

/-- Tokens are asked for so that a request can read: its timer starts (R306), and answers to earlier requests are not for it (R245, R246). -/
def Req.asked (r : Req) (next : Nat) : Req := { r with tried := r.tried.orElse fun _ => some next, age := if r.tried.isSome then r.age else 0 }

/-- Blocks of this device whose order a load reads itself: those of private sectors that no view of its core holds, and of uncached pages (R202,
R245). -/
def State.orderReads (s : State) (c : Nat) (r : Req) : List Nat :=
  let view (a : Nat) : Bool := (findSector (s.core c).view a).isSome || (findSector (s.die (s.core c).die).view a).isSome
  let reads (l : LaneReq) : Bool := s.migrated r.page (r.page.pa + l.off) && match s.route r.page with
    | .priv => !view ((r.page.pa + l.off) / 64)
    | .uncached => isDram r.page.pa && (s.windowOf r.page.pa).isNone
    | _ => false
  distinct ((r.openLanes.filter reads).map r.laneBlk)

/-- What a load that reads the order of a block of this device waits for (R245, R338). -/
def State.gatherRead (s : State) (c : Nat) (r : Req) : Option State :=
  let bs := s.orderReads c r
  if bs.any fun b => s.channelShut (blkPa b) then some s
  else (s.gatherAll bs false).map fun u => u.modReq c r.id fun q => q.asked s.nextId

/-- A load whose line may leave is performed as far as its blocks' data can be had. -/
def State.performLoad (s : State) (core : Nat) (r : Req) : State :=
  let own := s.orderReads core r
  let s := if s.route r.page = .uncached then s.reqRelease core r.ord else s
  let x := s.performBlocks core r (distinct (r.openLanes.map r.laneBlk))
  let s' := if s.route r.page = .token then x.1.wantsDone core (distinct (x.2.1.map r.laneBlk)) else x.1.homeDone own
  s'.settleLoad core r (r.openLanes.filter fun l => !x.2.1.contains l) x.2.2

/-- PERFORM_LOAD (R244, R245, R247): a load whose line may leave is sent, or the blocks whose data can be had return their values; a strongly ordered
one makes the write-backs of a release first (R202). One in the ingress queue takes its miss-status entries first (R275). -/
def execPerformLoad (core id : Nat) (s : State) : Result :=
  match s.req? core id with
  | none => .next s
  | some r =>
    if !r.reads then .next s
    else if r.miss = .ingress then .next ((s.fromIngress core r).getD s)
    else if s.lineHeld core r then .next s
    else if s.route r.page = .remote ∧ !r.sent then .next (s.sendLoad core r)
    else .next ((s.gatherRead core r).getD (s.performLoad core r))

/-! ## LINE_FILL (R274, R275) -/

/-- A core has an access that wants a block of a token page; for writing, where `w`. -/
def State.coreWants (s : State) (c blk : Nat) (w : Bool) : Option Req :=
  let qs := if w then (s.core c).storeQ.filter fun r => r.kind == .store || r.kind == .flagged else (s.core c).reqs.filter Req.reads
  qs.find? fun r => s.route r.page == .token && r.miss != .ingress && (w || !s.lineHeld c r)
    && r.lanes.any fun l => r.laneBlk l == blk && s.migrated r.page (r.page.pa + l.off)

/-- An access of one of a die's cores, or one of its store lines, needs a block. -/
def State.dieUses (s : State) (d blk : Nat) : Bool :=
  (s.cores.any fun k => k.die == d && (k.reqs ++ k.storeQ).any fun r => r.blocks.contains blk)
    || s.fab.posts.any fun p => p.kind == .storeLine && (s.core p.core).die == d && p.blocks.contains blk

/-- The halves of a block that a request reads. -/
def Req.halvesOf (r : Req) (blk : Nat) : BitVec 2 :=
  (r.openLanes.filter fun l => r.laneBlk l == blk).foldl (fun (m : BitVec 2) l => m ||| (1#2 <<< ((r.page.pa + l.off) % 128 / 64))) 0

/-- A half of a block of host memory that is missing is read from the host for one load alone (R294): by this device's bridge, or through
the bridge of the device that is the block's home. -/
def State.askHalf (s : State) (c : Nat) (r : Req) (blk : Nat) (lack : BitVec 2) : State :=
  if s.isLocal blk then s.hostAsk (hostLine blk (if lack.getLsbD 0 then 0 else 1)) (.rdCurr c r.id)
  else if r.sent then s
  else
    (s.noteSent c r.id).send (s.here (.die (s.core c).die)) ⟨r.page.home, .home⟩
      (.loadReq r.page.pa (sectorMask r.lanes) (r.tokenTag * 64) 0)

/-- The die asks for a block for a core to read. -/
def State.askRead (s : State) (c blk : Nat) (asid : BitVec 10) (halves : BitVec 2) : State :=
  let mark (r : Req) : Req :=
    if r.reads && r.tried.isNone && s.route r.page == .token && r.blocks.contains blk && !s.lineHeld c r then r.asked s.nextId else r
  (s.askCore c blk .read asid halves).modCore c fun k => { k with reqs := k.reqs.map mark }

/-- LINE_FILL: the slice lends the core's L1 what it needs to read, or the die asks for the block; a half that is missing is read for that
load alone (R294). What a prefetch, or an access that has gone, has asked for ends once it has come. -/
def execLineFill (core blk : Nat) (s : State) : Result :=
  if (s.localCopy blk).isSome then .next s
  else
    match s.coreWants core blk false with
    | none =>
      let d := (s.core core).die
      match s.want? (.die d) blk with
      | some w =>
        if w.kind = .read ∧ s.satisfied w ∧ !s.dieUses d blk then .next ((s.lend core blk w.asid).finishWant (.die d) blk) else .next s
      | none => .next s
    | some r =>
      match s.hold? (.die (s.core core).die) blk with
      | some h =>
        let lack := r.halvesOf blk &&& ~~~h.valid
        if !h.readable then .next (s.askRead core blk r.page.asid (r.halvesOf blk))
        else if lack = 0 ∨ !h.lent.any (fun p => p.1 == core) then .next (s.lend core blk r.page.asid)
        else .next (s.askHalf core r blk lack)
      | none => .next (s.askRead core blk r.page.asid (r.halvesOf blk))

/-! ## Late results and late causes (R89, R353) -/

/-- The value of a pending register that can be written. -/
def State.pendReady (s : State) (t : Team) (fib reg : Nat) : Option Word :=
  match (t.fibre fib).pend.find? fun p => p.reg == reg with
  | some p =>
    if ((s.core t.core).reqs ++ (s.core t.core).storeQ).any fun r => r.inst == p.req && r.team == t.id then none else p.value
  | none => none

/-- PENDING_WRITE_COMPLETE (R89). -/
def execPendingWriteComplete (team fib reg : Nat) (s : State) : Result :=
  match s.team? team with
  | none => .next s
  | some t =>
    match s.pendReady t fib reg with
    | none => .next s
    | some w =>
      .next (s.modTeam team fun t => t.modFibre fib fun f =>
        { f.setReg reg w with pend := f.pend.filter fun p => p.reg != reg, counts := countWrite f.counts reg })

/-- A failed access whose cause may be taken: each lane of its instruction is done or has met a cause, and every earlier open access of
its fibres is settled. -/
def State.faultReady (s : State) (c : Nat) (r : Req) : Bool :=
  r.failed.isSome && r.openLanes.isEmpty &&
    (s.core c).reqs.all fun q =>
      !(q.isOpen || q.failed.isSome) || q.team != r.team || !(q.lanes.any fun l => r.bundle.contains l.fib) || r.inst < q.inst
        || (q.inst == r.inst && q.openLanes.isEmpty)

/-- What is left of a later request when some fibres fall back: the lanes of the others, which have joined the bundle since (R52, R353). -/
def Req.without (is : List Nat) (q : Req) : Req :=
  { q with lanes := q.lanes.filter fun l => !is.contains l.fib, bad := q.bad.filter fun b => !is.contains b.1.fib
           all := q.all.filter fun a => !is.contains a.2, bundle := q.bundle.filter fun i => !is.contains i }

/-- OPEN_ACCESS_FAULT (R353): the record names the access; its bundle resumes there, and its later loads are discarded. -/
def execOpenAccessFault (core id : Nat) (s : State) : Result :=
  match s.req? core id with
  | none => .next s
  | some r =>
    match s.team? r.team with
    | none => .next s
    | some t =>
      if !s.faultReady core r || r.byCopy then .next s
      else
        let same := (s.core core).reqs.filter fun q => q.inst == r.inst && q.team == r.team && q.failed.isSome
        let code := firstCode (same.filterMap (·.failed))
        let bad := same.flatMap fun q => (q.bad.filter fun b => b.2 == code).map fun b => (b.1.fib, q.va + b.1.off)
        let fibs := distinct (bad.map (·.1))
        let addr := (((sortLanes fibs).head?.bind fun i => bad.find? fun b => b.1 == i).map (·.2)).getD r.va
        let later (q : Req) : Bool :=
          q.team == r.team && (q.isOpen || q.kind == .fetch) && r.inst ≤ q.inst && q.lanes.any fun l => r.bundle.contains l.fib
        let same (q : Req) : Bool := q.team == r.team && q.inst == r.inst && (q.isOpen || q.kind == .fetch)
        let s' := s.abandon core fun q => same q || (later q && (q.without r.bundle).lanes.isEmpty)
        let s' := s'.modCore core fun k => { k with reqs := k.reqs.map fun q => if later q then q.without r.bundle else q }
        let s' := s'.modTeam t.id fun t => t.modFibres r.bundle fun _ f =>
          { f with pc := r.epc, pend := f.pend.filter fun p => p.req < r.inst, wait := none }
        .next (s'.raise t { code := code, addr := addr } fibs r.bundle r.epc)

/-! ## Uncached and remote writes (R202, R308, R312, R314) -/

/-- Write bytes at an uncached physical address of this device. -/
def State.uncachedWrite (s : State) (pa : Nat) (bs : List Byte) : State :=
  if isRegs pa then s.regWrite (pa % 2 ^ 40) bs
  else if isHost pa then { s with host := { s.host with mem := s.host.mem.write (pa % 2 ^ 51) bs } }
  else s.writePa pa bs

/-- The bytes of a line that lanes write, later lanes over earlier ones, with their mask. -/
def lineImage (ls : List LaneReq) : BitVec 256 × LineData :=
  ls.foldl (fun x l =>
    (x.1 ||| BitVec.ofNat 256 ((2 ^ l.size - 1) * 2 ^ l.off), BitVec.ofNat 2048 (patch 256 x.2.toNat l.off l.stored))) (0, 0)

def fullMask : BitVec 256 := BitVec.allOnes 256

def State.post? (s : State) (id : Nat) : Option Post := s.fab.posts.find? fun p => p.id == id

def State.modPost (s : State) (id : Nat) (f : Post → Post) : State :=
  { s with fab := { s.fab with posts := s.fab.posts.map fun p => if p.id == id then f p else p } }

def State.dropPost (s : State) (id : Nat) : State :=
  { s with fab := { s.fab with posts := s.fab.posts.filter fun p => p.id != id } }

/-- The post of a request's lanes. -/
def Req.post (r : Req) (id core : Nat) (kind : PostKind) (ls : List LaneReq) : Post :=
  let x := lineImage ls
  { id := id, kind := kind, core := core, team := r.team, fib := r.first, epc := r.epc, va := r.va, pa := r.page.pa
    home := r.page.home, fibs := distinct (ls.map (·.fib)), ty := r.page.ty, cls := r.page.cls, ord := r.ord, lanes := r.mask, mask := x.1, data := x.2, flags := ls.map (·.flag), cmd := r.cmd, sent := true
    refused := false, age := 0, inst := r.inst, num := 0, told := r.told }

/-- Number the next launch line to a device and frame (R315). -/
def State.lineNumber (s : State) (dev frame : Nat) : Nat × State :=
  let n := ((s.fab.numbers.find? fun x => x.1 == dev && x.2.1 == frame).map (·.2.2)).getD 0
  (n, { s with fab := { s.fab with
    numbers := (s.fab.numbers.filter fun x => !(x.1 == dev && x.2.1 == frame)) ++ [(dev, frame, n + 1)] } })

/-- Lanes of a reduction to another device's private page leave as posted writes. -/
def State.postReds (s : State) (c : Nat) (r : Req) (op : AtomOp) (ls : List LaneReq) : State :=
  ls.foldl (fun s l => s.fresh.sendPost (r.post s.nextId c .reduction [l]) (.postedRed s.nextId (r.page.pa + l.off) op l.x)) s

/-- Lanes of a store to a device or strongly ordered page of another device leave as posted writes, each performed once, unmerged (R202). -/
def State.postStores (s : State) (c : Nat) (r : Req) (ls : List LaneReq) : State :=
  ls.foldl (fun s l =>
    let q := r.post s.nextId c .store [l]
    s.fresh.sendPost q (.posted q.id r.page.pa q.mask q.data)) s

/-- What the flags of an instruction's lanes yet to be written, or to be sent, become. -/
def State.mapFlags (s : State) (inst : Nat) (f : FlagRef → FlagRef) : State :=
  let mark (p : Post) : Post := if p.inst = inst then { p with flags := p.flags.map fun x => x.map f } else p
  let req (r : Req) : Req :=
    if r.inst = inst then { r with lanes := r.lanes.map fun (l : LaneReq) => { l with flag := l.flag.map f } } else r
  { s with
    fab := { s.fab with posts := s.fab.posts.map mark }
    cores := s.cores.map fun (k : Core) => { k with reqs := k.reqs.map req, storeQ := k.storeQ.map req } }

/-- A failed flag line has been reported: the instruction's other lanes do not report it again (R310). -/
def State.flagTold (s : State) (inst va : Nat) : State :=
  let near (v : Nat) : Bool := v / 256 == va / 256
  let mark (p : Post) : Post := if p.inst = inst then { p with told := p.told || (p.kind == .flag && near p.va) } else p
  let s := s.mapFlags inst fun f => if near f.va then { f with told := true } else f
  { s with fab := { s.fab with posts := s.fab.posts.map mark } }

/-- A flag whose report leaves out the lanes of some fibres, which make no flag update: their data failed (R310, R312). -/
def FlagRef.without (fibs : List Nat) (f : FlagRef) : FlagRef := { f with lanes := f.lanes &&& ~~~laneMask fibs }

/-- The data of some lanes of a flagged store have failed: no report of a flag line names them. -/
def State.voidFlags (s : State) (inst : Nat) (fibs : List Nat) : State :=
  if fibs.isEmpty then s else s.mapFlags inst (FlagRef.without fibs)

/-- The lanes of a line, or of what is left of it, that may be on their way together: an engine's stores go one by one. -/
def Req.turn (r : Req) (ls : List LaneReq) : List LaneReq := if r.cmd.isSome then ls.take 1 else firstLanes ls

/-- A line of a remote private or uncached page leaves as a posted write, a launch line, or one posted reduction or flagged word for each
lane. Lanes of an `stf` that name one word all carry the word of the highest of them, so that it stands there whatever their order (R312). -/
def State.postLine (s : State) (c : Nat) (r : Req) : State :=
  if !s.reachable r.page.home then
    match r.kind with
    | .red _ => s.reportPost (r.post 0 c .reduction []) 0x43 1
    | .flagged => (s.reportPost (r.post 0 c .flagData []) 0x43 1).voidFlags r.inst (r.lanes.map (·.fib))
    | _ =>
      let p := r.post 0 c .store r.lanes
      s.reportPost (if p.mask = fullMask ∧ !r.page.ty.isDevice then { p with kind := .launchLine } else p) 0x43 1
  else
  let s := s.reqRelease c r.ord
  match r.kind with
  | .red op => s.postReds c r op (r.turn r.lanes)
  | .flagged =>
    r.lanes.foldl (fun s l =>
      let flag : Option FlagWord := match l.flag with
        | some f => if f.page.home = r.page.home then some ⟨f.page.home, f.page.pa⟩ else none
        | none => none
      let word := (((r.lanes.filter fun k => k.off == l.off).getLast?).getD l).x
      s.fresh.sendPost (r.post s.nextId c .flagData [l]) (.flagData s.nextId (r.page.pa + l.off) word flag)) s
  | _ =>
    let id := s.nextId
    let s := s.fresh
    let p := r.post id c .store r.lanes
    if p.mask = fullMask ∧ !r.page.ty.isDevice then
      let x := s.lineNumber r.page.home (r.page.pa / 8192)
      x.2.sendPost { p with kind := .launchLine, num := x.1 } (.launchLine id (r.page.pa / 256) x.1 p.data)
    else if r.page.ty.isDevice then
      s.postStores c r (r.turn r.lanes)
    else s.sendPost p (.posted id r.page.pa p.mask p.data)

/-- A remote store line to a token or leased page collects its tokens first (R316). -/
def State.startStoreLine (s : State) (c : Nat) (r : Req) : State :=
  let id := s.nextId
  let s := s.fresh
  let p := r.post id c .storeLine r.lanes
  if !s.reachable p.home then s.reportPost p 0x43 1
  else
    let s := { s with fab := { s.fab with posts := s.fab.posts ++ [{ p with sent := false }] } }
    r.blocks.foldl (fun s b => s.askCore c b .write r.page.asid) s

/-! ## Private atomics (R254) -/

/-- Merge bytes into a sector of the core view, fetching it first (R255); the sector stays recorded under the space that filled it (R207). -/
def State.mergeSector (s : State) (c pa : Nat) (asid : BitVec 10) (bs : List Byte) : State :=
  let x := s.fetchSector c (pa / 64) asid
  let d : SectorData := BitVec.ofNat 512 (patch 64 x.1.toNat (pa % 64) bs)
  x.2.modCore c fun k =>
    { k with view := putSector k.view ⟨pa / 64, d, true, ((findSector k.view (pa / 64)).map (·.asid)).getD asid⟩ }

/-- One lane of an atomic or a reduction in the core view: the old word. -/
def State.viewAtom (s : State) (c : Nat) (op : AtomOp) (pa : Nat) (asid : BitVec 10) (x y : Word) : Word × State :=
  let f := s.fetchSector c (pa / 64) asid
  let old := f.1.extractLsb' (pa % 64 * 8) 32
  (old, f.2.mergeSector c pa asid (wordBytes (atomNew op old x y)))

/-- Write back the sectors of a release store or atomic on a private page (R249). -/
def State.writeBackOwn (s : State) (c : Nat) (ord : OrdScope) (sectors : List Nat) : State :=
  match relScope ord with
  | none => s
  | some sc =>
    let up (s : State) (a : Nat) : State := match findSector (s.core c).view a with
      | some x => if x.dirty then s.writeBackCore c x else s
      | none => s
    let down (s : State) (a : Nat) : State := match findSector (s.die (s.core c).die).view a with
      | some x => if x.dirty then s.writeBackDie (s.core c).die x else s
      | none => s
    match sc with
    | .die => sectors.foldl up s
    | .pkg => sectors.foldl down (sectors.foldl up s)
    | .dom => sectors.foldl down (sectors.foldl up s)
    | .sys => sectors.foldl down (sectors.foldl up s)
    | _ => s

/-- An atomic or a reduction on a private page of this device. -/
def State.atomView (s : State) (c : Nat) (r : Req) (op : AtomOp) : State :=
  let isRed : Bool := match r.kind with
    | .red _ => true
    | _ => false
  let s := if isRed && r.lanes.any (s.fetchesPoison c r) then s.tell c r 0x70 0 s.dev r.code else s
  let s := s.reqRelease c r.ord
  let s' := r.lanes.foldl (fun s l =>
    let x := s.viewAtom c op (r.page.pa + l.off) r.page.asid l.x l.y
    match r.kind with
    | .atom _ => x.2.putPend r.team l.fib r.inst (l.dst.map fun d => (d, x.1))
    | _ => x.2) s
  ((s'.writeBackOwn c r.ord (distinct (r.lanes.map fun l => (r.page.pa + l.off) / 64))).dropReq c r.id).reqAcquire c r.ord

/-! ## Atomics are precise over all their lines (R189, R191, R353) -/

/-- The line requests of an atomic's instruction. -/
def State.instLines (s : State) (c : Nat) (r : Req) : List Req := (s.core c).reqs.filter fun q => q.inst == r.inst && q.team == r.team

/-- A lane of an atomic on a page of this device meets poisoned data (R191). -/
def State.meetsPoison (s : State) (c : Nat) (r : Req) (l : LaneReq) : Bool :=
  r.page.home == s.dev && match s.route r.page with
    | .priv => s.fetchesPoison c r l
    | _ => isDram r.page.pa && s.poisoned (r.laneBlk l)

/-- A line of an atomic whose answer is known is free of causes: its home has named none, or its data here are good. -/
def State.lineGood (s : State) (c : Nat) (r : Req) : Bool :=
  r.failed.isNone && (r.page.home != s.dev || !r.lanes.any (s.meetsPoison c r))

/-- All lines of an atomic are known to be good: they may now be performed. -/
def State.markGood (s : State) (c : Nat) (r : Req) : State :=
  let mark (q : Req) : Req := if q.inst = r.inst ∧ q.team = r.team then { q with good := true, data := none } else q
  s.modCore c fun k => { k with reqs := k.reqs.map mark }

/-- A lane of an atomic has taken effect (R189; log entry 79). -/
def State.markActed (s : State) (c : Nat) (r : Req) : State :=
  let mark (q : Req) : Req := if q.inst = r.inst ∧ q.team = r.team then { q with acted := true } else q
  s.modCore c fun k => { k with reqs := k.reqs.map mark }

/-- An atomic of which some line has met a cause, and no lane has taken effect: the lanes that meet one are marked, what has not reached the
home is taken back, and no lane has an effect. -/
def State.voidAtom (s : State) (c : Nat) (r : Req) : State :=
  let ls := s.instLines c r
  let hit (q : Req) (l : LaneReq) : Bool := s.meetsPoison c q l || q.bad.any fun b => b.1 == l
  let sent (m : Msg) : Bool := m.dst.dev == s.dev && match m.body with
    | .atomReq _ _ _ _ tag _ => ls.any fun q => tag / 64 == q.tokenTag
    | _ => false
  let s' := { s with msgs := s.msgs.filter fun m => !sent m }
  ls.foldl (fun s q => s.modReq c q.id fun x => { x with sent := false, lanes := q.lanes.filter (hit q) }.failAll 0x70) s'

/-- The home of an atomic's line is asked whether the line can be had. -/
def State.probeLine (s : State) (c : Nat) (r : Req) : State :=
  if s.route r.page = .remote then s.sendRemote c r
  else
    (s.noteSent c r.id).send (s.here (.die (s.core c).die)) ⟨r.page.home, .home⟩
      (.loadReq r.page.pa (sectorMask r.lanes) (r.tokenTag * 64) 0)

/-- The answer for a line of an atomic is known, whichever it is. -/
def State.lineKnown (s : State) (r : Req) : Bool := r.page.home == s.dev || r.data.isSome || r.good || r.failed.isSome

/-- A line of an atomic that another one must wait for: the first lane of the first line of another device says whether the instruction can act. -/
def State.atomLater (s : State) (ls : List Req) (r : Req) : Bool :=
  (ls.find? fun q => q.page.home != s.dev).any fun q => q.id != r.id

/-- What a line of an atomic does before it may be performed; none when it may. A lane that meets lost data once another has acted raises its cause too
(R191; log entry 79). One lane alone needs no question: its answer says all. -/
def State.atomTurn (s : State) (c : Nat) (r : Req) : Option State :=
  let ls := s.instLines c r
  let away := r.page.home != s.dev
  let alone := (ls.flatMap (·.lanes)).length == 1
  if r.acted then
    let bad := r.openLanes.filter (s.meetsPoison c r)
    if bad.isEmpty || r.sent then none else some (s.modReq c r.id fun q => { q with bad := q.bad ++ bad.map fun l => (l, 0x70) })
  else if ls.all s.lineKnown && !ls.all (s.lineGood c) then some (s.voidAtom c r)
  else if away && !s.reachable r.page.home then some (s.modReq c r.id (Req.failAll 0x40))
  else if away && alone then none
  else if !s.lineKnown r then some (s.probeLine c r)
  else if !ls.all s.lineKnown || s.atomLater ls r then some s
  else none

/-- A line of an atomic is performed, or goes to its home. -/
def State.atomGo (s : State) (c : Nat) (r : Req) (op : AtomOp) : State :=
  let s := s.markGood c r
  let r := { r with good := true, data := none }
  match s.route r.page with
  | .priv => (s.markActed c r).atomView c r op
  | .token => ((s.reqRelease c r.ord).noteSent c r.id).sendLanes c r op r.tokenTag 0
  | .remote => (s.reqRelease c r.ord).sendRemote c r
  | _ => s

/-! ## ENQUEUE_STORE (R244) -/

/-- An earlier entry of the issue queues or the store queue that an entry must follow: overlapping bytes of one fibre (R247). -/
def storeBehind (r : Req) (queues : List Req) : Bool :=
  queues.any fun q =>
    q.inst < r.inst && q.team == r.team && q.sameLine r &&
      q.lanes.any fun k => r.lanes.any fun l => k.fib == l.fib && lapped k.off k.size l.off l.size

/-- A request of the issue queues or the store queue has asked for tokens. -/
def State.markAsked (s : State) (c id next : Nat) : State :=
  let mark (q : Req) : Req := if q.id == id then q.asked next else q
  s.modCore c fun k => { k with reqs := k.reqs.map mark, storeQ := k.storeQ.map mark }

/-- What a write to private or uncached pages of this device waits for before it merges into the core view, or is made in the order of its blocks
(R244, R255, R267); one that fetches a sector waits for its channel too (R338). -/
def State.gatherWrite (s : State) (c : Nat) (r : Req) : Option State :=
  let order : Bool := s.route r.page == .uncached && isDram r.page.pa && (s.windowOf r.page.pa).isNone
  if s.route r.page = .priv ∨ order = true then
    if (s.orderReads c r).any fun b => s.channelShut (blkPa b) then some s
    else (s.gatherAll r.blocks true).map fun u => u.markAsked c r.id s.nextId
  else none

/-- Every block of a request has come to its frame. -/
def State.reqMigrated (s : State) (r : Req) : Bool := r.lanes.all fun l => s.migrated r.page (r.page.pa + l.off)

/-- An uncached store of this device is made at once; a full line to a queue window is a launch line (R314, R315). -/
def State.uncachedStore (s : State) (c : Nat) (r : Req) : State :=
  match if isDram r.page.pa then s.windowOf r.page.pa else none with
  | some q =>
    let x := lineImage r.lanes
    let report (detail : Nat) : State := s.reportFor r.team 0x44 detail s.dev 7 r.first r.epc r.va 0
    if x.1 ≠ fullMask then s.tell c r 0x44 6 s.dev r.code
    else if !s.queueOn q || !(s.queue q).fab then (report 5).countOvf q
    else if s.queueFull q then (report 4).countOvf q
    else s.accept r.id q x.2 0 none .sys
  | none => (r.lanes.foldl (fun s l => s.uncachedWrite (r.page.pa + l.off) l.stored) (s.reqRelease c r.ord)).reqAcquire c r.ord

/-- The lanes write all 128 bytes of a block. -/
def coversBlock (r : Req) (ls : List LaneReq) (blk : Nat) : Bool :=
  let off := (blkPa blk - r.page.pa) % 256
  (List.range 128).all fun k => ls.any fun l => l.off ≤ off + k && off + k < l.off + l.size

/-- Poison met by a store: a write of the whole block clears it, another is reported (R191, R285). -/
def State.storePoison (s : State) (c : Nat) (r : Req) (ls : List LaneReq) (blk : Nat) : State :=
  if !s.poisoned blk then s
  else if coversBlock r ls blk then s.setPoison blk false
  else s.tell c r 0x70 0 s.dev r.code

/-- Poison met by an uncached store to DRAM of this device: a write of a whole block clears it, another is reported (R191, R285). -/
def State.uncachedPoison (s : State) (c : Nat) (r : Req) : State :=
  if isDram r.page.pa && (s.windowOf r.page.pa).isNone then
    r.blocks.foldl (fun s b => s.storePoison c r (r.lanes.filter fun l => r.laneBlk l == b) b) s
  else s

/-- The class of a launch line of this device is read first, where its image lies on another device (R215). -/
def State.gatherLine (s : State) (r : Req) : Option State :=
  let x := lineImage r.lanes
  if isDram r.page.pa && (s.windowOf r.page.pa).isSome && x.1 == fullMask then s.gatherClass r.id x.2 else none

/-- A page whose frame may be a queue's window: one of this device is, and one of another device may be (R314). -/
def State.mayTakeLines (s : State) (p : Page) : Bool := s.intercepted p || (p.home != s.dev && !p.ty.isDevice)

/-- A store of a whole line that may be a launch line (R314). -/
def State.mayLaunch (s : State) (r : Req) : Bool := r.kind == .store && (lineImage r.lanes).1 == fullMask && s.mayTakeLines r.page

/-- A `cpout` some of whose stores, to such a page, are still in its engine. -/
def State.lineInEngine (s : State) (m : Cmd) : Bool :=
  match m.kind, s.team? m.team with
  | .cpout .., some t => 256 ≤ m.size && (s.pagesAhead t m).any s.mayTakeLines
  | _, _ => false

/-- Earlier lines of one of its fibres that may be launch lines have not left: the launch lines of a fibre leave in program order, whichever queue and
device they are for (R315). -/
def State.lineBehind (s : State) (c : Nat) (r : Req) : Bool :=
  let ours (team fib : Nat) : Bool := team == r.team && r.lanes.any fun l => l.fib == fib
  let before (inst id : Nat) : Bool := inst < r.inst || (inst == r.inst && id < r.id)
  let out (p : Post) : Bool := s.msgs.any fun m => m.dst.dev != s.dev && match m.body with
    | .launchLine i .. => i == p.id
    | .storeLine i .. => i == p.id
    | _ => false
  let waits (p : Post) : Bool :=
    if p.kind = .storeLine then p.mask == fullMask && (!p.sent || (p.home != r.page.home && out p))
    else p.kind == .launchLine && p.home != r.page.home && out p
  s.mayLaunch r &&
    (((s.core c).reqs.any fun q => before q.inst q.id && s.mayLaunch q && q.lanes.any fun k => ours q.team k.fib)
      || ((s.core c).cmds.any fun m => m.inst < r.inst && ours m.team m.fib && s.lineInEngine m)
      || s.fab.posts.any fun p => before p.inst p.id && waits p && p.fibs.any (ours p.team))

/-- Lanes of one word of a reduction, and lanes of a store to a device or strongly ordered page that share a byte, go one after another: the line stays
in the store queue until the last of them is acknowledged (R186, R188). -/
def Req.inTurns (r : Req) : Bool :=
  match r.kind with
  | .red _ => true
  | .store => r.page.ty.isDevice && r.turn r.lanes != r.lanes
  | _ => false

/-- A store, reduction or flagged store of another device's page leaves, or waits for its tokens. -/
def State.storeAway (s : State) (c : Nat) (r : Req) : State :=
  match s.route r.page, r.kind with
  | .token, .store => (s.dropReq c r.id).startStoreLine c r
  | .token, .red op =>
    if !s.reachable r.page.home then (s.tell c r 0x43 1 r.page.home 1).dropReq c r.id
    else
      let q := { r with sent := true, age := 0 }
      ((s.dropReq c r.id).modCore c fun k => { k with storeQ := k.storeQ ++ [q] }).sendLanes c r op r.tokenTag 0
  | _, _ =>
    if !s.reachable r.page.home || !r.inTurns then (s.dropReq c r.id).postLine c r
    else ((s.dropReq c r.id).modCore c fun k => { k with storeQ := k.storeQ ++ [{ r with sent := true, age := 0 }] }).postLine c r

/-- An atomic, a reduction or a flagged store to a queue's window of this device: it reads zeros, and its write is discarded and reported (R314).
DESIGN CHOICE: an atomic is reported as a store, kind 0 (R310; log entry 110). -/
def State.interceptedWrite (s : State) (c : Nat) (r : Req) : State :=
  let s := r.lanes.foldl (fun s l => s.putPend r.team l.fib r.inst (l.dst.map fun d => (d, 0))) s
  let s := if r.kind = .flagged then s.voidFlags r.inst (r.lanes.map (·.fib)) else s
  ((s.tell c r 0x44 6 s.dev r.code).dropReq c r.id).reqAcquire c r.ord

/-- ENQUEUE_STORE: a store, reduction, atomic or flagged store leaves its issue queue. -/
def execEnqueueStore (core id : Nat) (s : State) : Result :=
  match s.req? core id with
  | none => .next s
  | some r =>
    if r.sent || storeBehind r (s.core core).reqs || !s.reqMigrated r || s.remoteHeld core r || s.lineBehind core r then .next s
    else
      let queued : State := (s.dropReq core id).modCore core fun k => { k with storeQ := k.storeQ ++ [r] }
      let early := storeBehind r (s.core core).storeQ
      match r.kind with
      | .load _ => .next s
      | .fetch => .next s
      | .prefetch => .next s
      | .atom op =>
        if early || (s.instLines core r).all fun q => q.openLanes.isEmpty then .next s
        else
          match s.atomTurn core r with
          | some s' => .next s'
          | none =>
            if r.openLanes.isEmpty then .next s
            else if s.intercepted r.page then .next ((s.markActed core r).interceptedWrite core r)
            else .next ((s.gatherWrite core r).getD ((s.atomGo core r op).homeDone r.blocks))
      | .red op =>
        if s.intercepted r.page then .next (s.interceptedWrite core r)
        else if r.page.home ≠ s.dev then .next (s.storeAway core r)
        else
          match s.route r.page with
          | .priv => if early then .next s else .next ((s.gatherWrite core r).getD ((s.atomView core r op).homeDone r.blocks))
          | .token =>
            if early then .next s
            else
              let q := { r with sent := true }
              .next (((s.dropReq core id).modCore core fun k => { k with storeQ := k.storeQ ++ [q] }).sendLanes core r op r.tokenTag 0)
          | _ => .next queued
      | .store =>
        if r.page.home ≠ s.dev then .next (s.storeAway core r)
        else if s.route r.page = .uncached then
          .next (((s.gatherLine r).orElse fun _ => s.gatherWrite core r).getD
            ((((s.uncachedPoison core r).dropReq core id).uncachedStore core r).homeDone r.blocks))
        else .next queued
      | .flagged => if s.intercepted r.page then .next (s.interceptedWrite core r) else if r.page.home ≠ s.dev then .next (s.storeAway core r) else .next queued

/-! ## DRAIN (R244, R255, R270, R274) -/

/-- The oldest store of its fibres in the store queue that touches its blocks. -/
def State.oldest (s : State) (c : Nat) (r : Req) : Bool :=
  ((s.core c).storeQ.takeWhile fun q => q.id != r.id).all fun q =>
    q.team != r.team || !(q.lanes.any fun k => r.lanes.any fun l => k.fib == l.fib)
      || !(q.blocks.any fun b => r.blocks.contains b)

def State.dropStore (s : State) (c id : Nat) : State :=
  s.modCore c fun k => { k with storeQ := k.storeQ.filter fun r => r.id != id }

/-- The lanes of a flagged store whose data failed make no flag update (R312). -/
def State.goodLanes (s : State) (r : Req) (ls : List LaneReq) : List LaneReq := ls.filter fun l => !s.poisoned (r.laneBlk l)

/-- The write of some lanes to one block of a die that holds all its tokens. -/
def State.writeHeld (s : State) (c : Nat) (h : Hold) (r : Req) (ls : List LaneReq) : State :=
  let d := ls.foldl (fun d l => patchBlock d ((r.page.pa + l.off) % 128) l.stored) h.data
  let s := (s.putHold (Hold.fill { h with data := d, dirty := true, lent := [] } c h.n r.page.asid)).notePeer c h.blk
  ((s.storePoison c r ls h.blk).wakeWaits (fun k => (s.core k).die == (s.core c).die) h.blk).wakeDrain c h.blk |>.finishWant h.who h.blk

/-- The write of some lanes to a block of a published window, word by word (R132). -/
def State.writeWindow (s : State) (c : Nat) (r : Req) (blk : Nat) (ls : List LaneReq) : State :=
  (ls.foldl (fun s l => s.writeBlock blk ((r.page.pa + l.off) % 128) l.stored) s).storePoison c r ls blk


/-- A flag update goes to its home (R312); its report names the fibre of its own lane (R310). -/
def State.sendFlag (s : State) (p : Post) (f : FlagRef) : State :=
  let q : Post := { p with id := s.nextId, kind := .flag, fib := p.fibs.headD p.fib, va := f.va, pa := f.page.pa / 256 * 256, home := f.page.home
                           ty := f.page.ty, cls := f.page.cls, lanes := f.lanes, mask := BitVec.ofNat 256 (15 * 2 ^ (f.page.pa % 256))
                           flags := [], age := 0, told := f.told }
  if s.reachable q.home then s.fresh.sendPost q (.flagUpd q.id f.page.pa) else (s.reportPost q 0x43 1).flagTold q.inst q.va

/-- Flag updates of lanes whose data are visible (R312): sent to their homes. A line that cannot be reached is reported once. -/
def State.sendFlags (s : State) (c : Nat) (r : Req) (ls : List LaneReq) : State :=
  (ls.foldl (fun (x : State × List Nat) l =>
    match l.flag with
    | none => x
    | some f =>
      let lost := !x.1.reachable f.page.home
      let f := { f with told := f.told || (lost && x.2.contains (f.va / 256)) }
      (x.1.sendFlag (r.post x.1.nextId c .flag [l]) f, if lost then (f.va / 256) :: x.2 else x.2)) (s, [])).1

/-- The flag updates of drained lanes of a flagged store: those of the lanes whose data did not fail (R312). -/
def State.flagsOf (s : State) (c : Nat) (r : Req) (drained good : List LaneReq) : State :=
  let gone := (drained.filter fun l => !good.contains l).map (·.fib)
  (s.voidFlags r.inst gone).sendFlags c r (good.map fun (l : LaneReq) => { l with flag := l.flag.map (FlagRef.without gone) })

/-- Drain the lanes of one block of a token page, or ask for its tokens. -/
def State.drainBlock (s : State) (c : Nat) (r : Req) (blk : Nat) : State × List LaneReq :=
  let ls := r.lanes.filter fun l => r.laneBlk l == blk
  if s.windowMoving blk then (s, [])
  else if (s.localCopy blk).isSome then (s.writeWindow c r blk ls, ls)
  else
    match s.hold? (.die (s.core c).die) blk with
    | some h => if h.writable then (s.writeHeld c h r ls, ls) else (s.askCore c blk .write r.page.asid, [])
    | none => (s.askCore c blk .write r.page.asid, [])

/-- A block of a store drains now: it lies in a window that stands still, or the die holds all its tokens. -/
def State.drainable (s : State) (c blk : Nat) : Bool :=
  !s.windowMoving blk && ((s.localCopy blk).isSome || (s.hold? (.die (s.core c).die) blk).any Hold.writable)

/-- Drain a store to a token page of this device: the blocks that the die holds whole. A release makes its write-backs first (R249). -/
def State.drainToken (s : State) (c : Nat) (r : Req) : State :=
  let s := if r.blocks.any (s.drainable c) then s.reqRelease c r.ord else s
  let x := r.blocks.foldl (fun (x : State × List LaneReq) b =>
    let y := x.1.drainBlock c r b
    (y.1, x.2 ++ y.2)) (s, [])
  let rest := r.lanes.filter fun l => !x.2.contains l
  let s := if r.kind = .flagged then x.1.flagsOf c r x.2 (x.1.goodLanes r x.2) else x.1
  if rest.isEmpty then s.dropStore c r.id
  else s.modCore c fun k => { k with storeQ := k.storeQ.map fun q => if q.id == r.id then { q with lanes := rest } else q }

/-- Drain a store to a private page: it merges into the core view; a flagged one goes on to the block order at once (R312). DESIGN CHOICE: a full
write clears the poison of its block here, before the write-back (R285; log entry 109). -/
def State.drainPrivate (s : State) (c : Nat) (r : Req) : State :=
  let s := s.reqRelease c r.ord
  let s := r.blocks.foldl (fun s b =>
    let ls := r.lanes.filter fun l => r.laneBlk l == b
    if coversBlock r ls b || ls.any (s.fetchesPoison c r) then s.storePoison c r ls b else s) s
  let good := s.goodLanes r r.lanes
  let s' := r.lanes.foldl (fun s l => s.mergeSector c (r.page.pa + l.off) r.page.asid l.stored) s
  let sectors := distinct (r.lanes.map fun l => (r.page.pa + l.off) / 64)
  let s' := s'.writeBackOwn c (if r.kind = .flagged then .rel .pkg else r.ord) sectors
  (if r.kind = .flagged then s'.flagsOf c r r.lanes good else s').dropStore c r.id

/-- DRAIN (R244). -/
def execDrain (core id : Nat) (s : State) : Result :=
  match (s.core core).storeQ.find? fun r => r.id == id with
  | none => .next s
  | some r =>
    if r.sent || !s.oldest core r || !s.reqMigrated r || s.remoteHeld core r then .next s
    else
      match s.route r.page with
      | .priv => .next ((s.gatherWrite core r).getD ((s.drainPrivate core r).homeDone r.blocks))
      | .token => .next (s.drainToken core r)
      | _ => .next s

/-! ## WRITE_BACK and SECTOR_DROP (R244, R255) -/

def execWriteBack (view : View) (sector : Nat) (s : State) : Result :=
  match view with
  | .core c => match findSector (s.core c).view sector with
    | some x => if x.dirty ∧ c < s.cores.length then .next (s.writeBackCore c x) else .next s
    | none => .next s
  | .die d => match findSector (s.die d).view sector with
    | some x => if x.dirty ∧ s.channelShut (sector * 64) = false then .next (s.writeBackDie d x) else .next s
    | none => .next s

def execSectorDrop (view : View) (sector : Nat) (s : State) : Result :=
  let keep (x : Sector) : Bool := x.dirty || x.addr != sector
  match view with
  | .core c => .next (s.modCore c fun k => { k with view := k.view.filter keep })
  | .die d => .next (s.modDie d fun k => { k with view := k.view.filter keep })

/-! ## PAGE_WALK and GENERATION_SWEEP (R197, R205, R206) -/

/-- PAGE_WALK: a walk that finds a present leaf leaves it in the core's and its die's translation caches. -/
def execPageWalk (core asid va : Nat) (s : State) : Result :=
  let a : BitVec 10 := BitVec.ofNat 10 asid
  match s.walk a va with
  | .error _ => .next s
  | .ok e =>
    let lg := pageLg (leafSize e)
    let x : TlbEntry := { asid := a, gen := s.genOf a, va := va / 2 ^ lg * 2 ^ lg, lg := lg, leaf := e }
    let put (l : List TlbEntry) : List TlbEntry := (l.filter fun y => !(y.asid == x.asid && y.va == x.va && y.lg == x.lg)) ++ [x]
    .next ((s.modCore core fun k => { k with tlb := put k.tlb }).modDie (s.core core).die fun k => { k with tlb := put k.tlb })

/-- GENERATION_SWEEP: a whole pass of the sweep. -/
def execGenerationSweep (s : State) : Result :=
  let cur (e : TlbEntry) : Bool := e.gen == s.genOf e.asid
  .next { s with
    cores := s.cores.map fun (k : Core) => { k with tlb := k.tlb.filter cur }
    dies := s.dies.map fun (k : Die) => { k with tlb := k.tlb.filter cur }
    sys := { s.sys with retiredGens := [] } }

end Sys2Proof.Machine
end

