-- ==== Sys2Proof/Machine/Leases.lean ====
section
/-! DEFINITION. Leased pages: reads and writes at the home, conversions of form, sweeps (R273, R286 to R292, R298). -/

namespace Sys2Proof.Machine

/-- Timestamps of a block in lease form. -/
def State.leaseTimes (s : State) (blk : Nat) : Option (BitVec 24 × BitVec 24) :=
  match s.metaOf blk with
  | .lease _ _ w r => some (w, r)
  | .token .. => none

def State.setTimes (s : State) (blk : Nat) (w r : BitVec 24) : State :=
  match s.metaOf blk with
  | .lease p se _ _ => s.setMeta blk (.lease p se w r)
  | .token .. => s

/-- The home is about to give the block token form: leased requests wait (R273). -/
def State.leaseShut (s : State) (blk : Nat) : Bool := s.coh.converting.any fun c => c.1 == blk && !c.2

/-! ## LEASE_READ (R289) -/

/-- The rts of the home's reply to a read by a core. -/
def State.replyRts (s : State) (c : Nat) (r : BitVec 24) (asid : BitVec 10) : BitVec 24 :=
  timeMax r ((s.core c).lt + (s.leaseOf asid.toNat).setWidth 24)

/-- A read miss at the home: rts rises, and the core and its die keep the copy. -/
def State.leaseMiss (s : State) (c : Nat) (q : Req) (blk : Nat) (w r : BitVec 24) : State :=
  let r' := s.replyRts c r q.page.asid
  let x : LeaseCopy := { blk := blk, data := s.memBlock blk, wts := w, rts := r', asid := q.page.asid }
  let s := s.setTimes blk w r'
  (s.modCore c fun k => { k with lt := q.timeAfter k.lt w, leases := putLease k.leases x }).modDie (s.core c).die fun k =>
    { k with leases := putLease k.leases x }

/-- Read one block of a request at the home, and perform its lanes: the lanes performed, or those that met poison. -/
def State.leaseBlock (s : State) (c : Nat) (r : Req) (blk : Nat) : State × List LaneReq × List (LaneReq × Nat) :=
  let ls := r.openLanes.filter fun l => r.laneBlk l == blk
  match s.leaseTimes blk with
  | none => (s, [], [])
  | some (w, t) =>
    if ls.isEmpty || s.leaseShut blk then (s, [], [])
    else if s.poisoned blk then (s, [], ls.map fun l => (l, 0x70))
    else
      let s' := ((ls.foldl (fun s l => s.noteLane c r l) s).leaseMiss c r blk w t).noteRts c r (s.replyRts c t r.page.asid) true
      (ls.foldl (fun s l => s.laneDone c r l (blockSlice (s.memBlock blk) ((r.page.pa + l.off) % 128) l.size)) s', ls, [])

/-- Blocks of a leased read for which no copy can be used. -/
def State.leaseMisses (s : State) (c : Nat) (r : Req) : List Nat := r.blocks.filter fun b => (s.leaseCopy c b).isNone

/-- A block that a leased read must fetch lies on a channel that a running near-bank unit keeps shut (R338). -/
def State.leaseHeld (s : State) (c : Nat) (r : Req) : Bool := (s.leaseMisses c r).any fun b => s.channelShut (blkPa b)

def execLeaseRead (core id : Nat) (s : State) : Result :=
  match s.req? core id with
  | none => .next s
  | some r =>
    if !r.reads || s.route r.page != .leased || r.miss = .ingress || s.lineHeld core r || !s.reqMigrated r || s.leaseHeld core r then .next s
    else
      let x := (s.leaseMisses core r).foldl (fun (x : State × List LaneReq × List (LaneReq × Nat)) b =>
        let y := x.1.leaseBlock core r b
        (y.1, x.2.1 ++ y.2.1, x.2.2 ++ y.2.2)) (s, [], [])
      .next (x.1.settleLoad core r (r.openLanes.filter fun l => !x.2.1.contains l) x.2.2)

/-! ## LEASE_WRITE (R290) -/

/-- The wts of a write by a core to a leased block, unless it must wait at the home, or for its channel (R338). -/
def State.writeTime (s : State) (c blk : Nat) : Option (BitVec 24) :=
  match s.leaseTimes blk with
  | none => none
  | some (_, r) =>
    let w := timeMax (r + 1) (s.core c).lt
    if !s.leaseShut blk && !s.channelShut (blkPa blk) && timeLe w (s.sys.mtime + 2 ^ 21) then some w else none

/-- One write of bytes to a leased block, with its times; the core's own waiters load again (R298). -/
def State.leasePut (s : State) (c blk off : Nat) (w : BitVec 24) (bs : List Byte) : State :=
  (((s.setMemBlock blk (patchBlock (s.memBlock blk) off bs)).setTimes blk w w).modCore c fun k =>
    { k with lt := timeMax k.lt w }).wakeDrain c blk

/-- One lane of an atomic or reduction on a leased block: an `atom` that meets lost data has no effect (R191). -/
def State.leaseAtom (s : State) (c : Nat) (r : Req) (op : AtomOp) (l : LaneReq) : State × List LaneReq :=
  let blk := r.laneBlk l
  let off := (r.page.pa + l.off) % 128
  let isAtom : Bool := match r.kind with
    | .atom _ => true
    | _ => false
  match s.writeTime c blk with
  | none => (s, [])
  | some w =>
    if isAtom && s.poisoned blk then (s.modReq c r.id fun q => { q with bad := q.bad ++ [(l, 0x70)] }, [])
    else
    let old := BitVec.ofNat 32 (bytesNat (blockSlice (s.memBlock blk) off 4))
    let s' := s.leasePut c blk off w (wordBytes (atomNew op old l.x l.y))
    match r.kind with
    | .atom _ => ((s'.markActed c r).putPend r.team l.fib r.inst (l.dst.map fun d => (d, old)), [l])
    | _ => (s'.storePoison c r [l] blk, [l])

/-- The lanes of a store to one leased block, as one write. -/
def State.leaseStore (s : State) (c : Nat) (r : Req) (blk : Nat) : State × List LaneReq :=
  let ls := r.lanes.filter fun l => r.laneBlk l == blk
  match s.writeTime c blk with
  | none => (s, [])
  | some w =>
    let d := ls.foldl (fun d l => patchBlock d ((r.page.pa + l.off) % 128) l.stored) (s.memBlock blk)
    ((s.leasePut c blk 0 w (blockBytesOf d)).storePoison c r ls blk, ls)

/-- The write of a request at the home: what is done, and the lanes that were. -/
def State.leaseLanes (s : State) (c : Nat) (r : Req) : State × List LaneReq :=
  let join (x : State × List LaneReq) (y : State × List LaneReq) : State × List LaneReq := (y.1, x.2 ++ y.2)
  match r.kind with
  | .atom op => r.openLanes.foldl (fun (x : State × List LaneReq) l => join x (x.1.leaseAtom c r op l)) (s, [])
  | .red op => r.lanes.foldl (fun (x : State × List LaneReq) l => join x (x.1.leaseAtom c r op l)) (s, [])
  | _ => r.blocks.foldl (fun (x : State × List LaneReq) b => join x (x.1.leaseStore c r b)) (s, [])

/-- The home can take a write to one of a request's blocks now: a release then makes its write-backs first (R249). -/
def State.leaseRelease (s : State) (c : Nat) (r : Req) : State :=
  if r.blocks.any fun b => (s.writeTime c b).isSome then s.reqRelease c r.ord else s

/-- A line of an atomic may be performed at the home: its lines are known to be good, and still are while none of its lanes has acted (R189), and no
earlier access to its bytes is left (R247). -/
def State.leaseReady (s : State) (c : Nat) (r : Req) : Bool :=
  let isAtom : Bool := match r.kind with
    | .atom _ => true
    | _ => false
  let ls := s.instLines c r
  isAtom && r.good && (r.acted || (ls.all (s.lineGood c) && !s.atomLater ls r))
    && !storeBehind r (s.core c).reqs && !storeBehind r (s.core c).storeQ

/-- A leased write of a core goes to its home. -/
def State.leaseWrite (s : State) (core id : Nat) : State :=
  match s.req? core id with
  | some r =>
    if !s.leaseReady core r || s.route r.page != .leased || !s.reqMigrated r || s.ordShut core r then s
    else
      let x := (s.leaseRelease core r).leaseLanes core r
      let rest := r.lanes.filter fun l => !x.2.contains l
      if rest.isEmpty then (x.1.dropReq core id).reqAcquire core r.ord else x.1.modReq core id fun q => { q with lanes := rest }
  | none =>
    match (s.core core).storeQ.find? fun r => r.id == id with
    | none => s
    | some r =>
      if s.route r.page != .leased || !s.oldest core r || !s.reqMigrated r || s.ordShut core r then s
      else
        let x := (s.leaseRelease core r).leaseLanes core r
        let rest := r.lanes.filter fun l => !x.2.contains l
        let s := if r.kind = .flagged then x.1.flagsOf core r x.2 (x.1.goodLanes r x.2) else x.1
        if rest.isEmpty then s.dropStore core id
        else s.modCore core fun k => { k with storeQ := k.storeQ.map fun q => if q.id == id then { q with lanes := rest } else q }

/-- LEASE_WRITE: the home sets wts and rts and replies. -/
def execLeaseWrite (core id : Nat) (s : State) : Result := .next (s.leaseWrite core id)

/-- LEASE_WRITE_HELD: a write that ran too far ahead of meridian time proceeds once it does not. -/
def execLeaseWriteHeld (core id : Nat) (s : State) : Result := .next (s.leaseWrite core id)

/-! ## FORM_CONVERSION (R273) -/

/-- The home may give a block its other form. -/
def State.convertible (s : State) (blk : Nat) (toLease : Bool) : Bool :=
  match s.metaOf blk with
  | .token _ pole _ _ n => toLease && pole && n == 4096
  | .lease _ _ _ r => !toLease && !timeLe s.sys.mtime (r + 3)

/-- The block has its new form. -/
def State.convert (s : State) (blk : Nat) : State :=
  let m : Meta := match s.metaOf blk with
    | .token _ _ p se _ => .lease p se s.sys.mtime s.sys.mtime
    | .lease p se _ _ => .token false true p se 4096
  let s := s.finishWant .home blk
  { s.setMeta blk m with coh := { (s.setMeta blk m).coh with converting := s.coh.converting.filter fun c => c.1 != blk } }

/-- A place's request for a block becomes persistent at once. -/
def State.persistNow (s : State) (p : Place) (blk : Nat) : State :=
  match s.want? p blk with
  | some w => if w.stage = .no ∧ !s.satisfied w then s.sendPersist w else s
  | none => s

/-- A block takes its other form, or its home prepares for it: to collect the tokens for lease form it asks persistently at once, as a requester of
top priority (log entry 113). -/
def State.convertForm (s : State) (blk : Nat) (toLease : Bool) : State :=
  if !s.isLocal blk || isHost (blkPa blk) || (s.metaOf blk).isLease == toLease || (s.localCopy blk).isSome then s
  else if s.convertible blk toLease then s.convert blk
  else
    let known := s.coh.converting.any fun c => c.1 == blk
    let s := if known then s else { s with coh := { s.coh with converting := s.coh.converting ++ [(blk, toLease)] } }
    if toLease then (s.ask .home 74 blk .write false 0).persistNow .home blk else s

def execFormConversion (blk : Nat) (toLease : Bool) (s : State) : Result := .next (s.convertForm blk toLease)

/-! ## Prefetch (R184) -/

/-- In the place of a fibre's number: the lanes of a prefetch, for which no fibre waits. -/
def pfFib : Nat := 2 ^ 30 + 1

/-- The accesses of the lanes of a `pf` that name a normal page whose home can be reached; the others do nothing. DESIGN CHOICE: it has no access
size, so no address is misaligned for it (log entry 78). -/
def State.pfItems (s : State) (t : Team) (act : List Nat) (r i : Nat) : List Item :=
  act.filterMap fun n =>
    match elementPlace t r i 0 1 n (t.fibre n) with
    | .ok (some va) =>
      match s.translate t.core t.asid va .load t.privileged with
      | .ok p =>
        if p.ty = .normal ∧ s.reachable p.home ∧ s.route p ≠ .uncached then
          some { lane := { lane := laneOf n, fib := n, off := va % 256, size := 1, dst := [], reads := [], x := 0, y := 0, flag := none }
                 va := va, page := p }
        else none
      | .error _ => none
    | _ => none

/-- One whole line comes to the core's L1, as a load of it would bring it there: with tokens, as a leased copy, or in both its views. Data that are
lost are reported for the fibre (R191), and nothing is read (R184; log entry 78). -/
def State.startPrefetch (s : State) (t : Team) (g : Nat × List Item) : State :=
  match g.2 with
  | [] => s
  | x :: _ =>
    let r := s.lineReq t.id x.lane.fib x.va .prefetch x.page (wordLanes pfFib 0 256 [])
    s.enqueue t.core { r with epc := s.curPc t }

/-- `pf` (R184). -/
def execPf (g : Guard) (r : Rec) (i : Reg) (s : State) : Result :=
  issue { guard := g, uses := fun _ => [i.toNat] } (fun _ _ _ => [])
    (fun s t act =>
      let groups := lineGroups (s.pfItems t act r.toNat i.toNat)
      if s.accessStalls t act true groups then s.stall
      else (groups.foldl (fun s g => s.startPrefetch t g) s).writeFibres act 4 fun _ f => f) s

/-! ## Sweeps (R292) -/

/-- A timestamp lies more than 2^22 ticks behind meridian time. -/
def farBehind (now t : BitVec 24) : Bool := timeLe t now && 2 ^ 22 < (now - t).toNat

/-- HOME_LEASE_SWEEP: a block too far behind is renewed. -/
def execHomeLeaseSweep (blk : Nat) (s : State) : Result :=
  match s.leaseTimes blk with
  | some (_, r) => if farBehind s.sys.mtime r then .next (s.setTimes blk s.sys.mtime s.sys.mtime) else .next s
  | none => .next s

/-- CACHE_LEASE_SWEEP: copies too far behind are dropped. -/
def execCacheLeaseSweep (view : View) (s : State) : Result :=
  let keep (x : LeaseCopy) : Bool := !farBehind s.sys.mtime x.rts
  match view with
  | .core c => .next (s.modCore c fun k => { k with leases := k.leases.filter keep })
  | .die d => .next (s.modDie d fun k => { k with leases := k.leases.filter keep })

end Sys2Proof.Machine
end

