-- ==== Sys2Proof/Machine/TokenEvents.lean ====
section
/-! DEFINITION. The token protocol: tries, persistent requests, token messages, evictions, audits, recreation, atomics at the home, published
windows and migration (R132, R133, R204, R265 to R285, R293, R296, R316 to R318). -/

namespace Sys2Proof.Machine

/-! ## What stands in the way -/

/-- A party is frozen for a block (R284). -/
def State.isFrozen (s : State) (p : Place) (blk : Nat) : Bool := s.coh.frozen.any fun f => f.who == p && f.blk == blk

/-- The activation that a place knows of for a block (R280). -/
def State.actOf (s : State) (p : Place) (blk : Nat) : Option Act := s.coh.acts.find? fun a => a.who == p && a.blk == blk

/-- The active persistent request of a block of this device (R279). -/
def State.activeOf (s : State) (blk : Nat) : Option PEntry := s.coh.table.find? fun e => e.blk == blk && e.active

/-- A party is a row engine of this device: what reaches it reaches the home (R326). -/
def State.isEngine (s : State) (p : Party) : Bool :=
  p.dev == s.dev && match p.place with
    | .engine .. => true
    | _ => false

/-- The party is the home itself, or stands there: the home sends it nothing. -/
def State.atHome (s : State) (p : Party) : Bool := p == s.here .home || s.isEngine p

/-- The core's local bytes stand for a block: of a published window, or of one that is not yet written back (R132, R133). -/
def State.windowAtCore (s : State) (p : Place) (blk : Nat) : Bool :=
  match p, s.localCopy blk with
  | .pubCore c, some (k, _) => c == k
  | _, _ => false

/-- The bridge must hear from the host before it gives tokens up: what it asks then (R296). DESIGN CHOICE: for a read that takes its last token
the lines are invalidated, since the host may hold none of them without a token here (log entry 83). -/
def State.recall (s : State) (p : Place) (blk : Nat) (kind : WantKind) (n : Nat) : Option State :=
  match p with
  | .bridge =>
    let hs := s.hostHeld blk
    let inv : Bool := kind == .write || n == 1
    let need := if inv then hs else hs.filter fun h => Grant.writable h.2
    if need.isEmpty then none
    else some (need.foldl (fun s h => s.hostAsk h.1 (if inv then .snoopInv else .snoopData)) s)
  | _ => none

/-! ## Answering a request (R270) -/

/-- A holder's answer: the state after it, or that the request waits. -/
def State.answerHold (s : State) (h : Hold) (kind : WantKind) (req : Party) (tag : Nat) : Dealt :=
  if kind ≠ .write ∧ !h.pole then .done s
  else match s.recall h.who h.blk kind h.n with
  | some s => .wait s
  | none =>
    match kind with
    | .read =>
      if 2 ≤ h.n then .done (s.sendTokens h req (min 72 (h.n - 1)) false true tag)
      else .done (s.sendTokens h req h.n true true tag)
    | .write => .done (s.sendTokens h req h.n h.pole false tag)
    | .pole => .done (s.sendTokens h req 1 true true tag)

/-- The bridge must hear from the host before the home grants a block of host memory, of which a read needs some halves (R293): what it asks
then. -/
def State.hostGrants (s : State) (blk : Nat) (kind : WantKind) (halves : BitVec 2 := 3) : Option State :=
  if !isHost (blkPa blk) then none
  else
    let l0 := hostLine blk 0
    let l1 := hostLine blk 1
    if s.host.snoops.any (fun x => x.1 / 2 == l0 / 2)
        || (65536 ≤ s.host.table.length && !(s.host.table.any fun x => x.1 == blk)) then some s
    else
      match kind with
      | .write =>
        let lack := [l0, l1].filter fun l => !Grant.writable (s.grantOf l)
        if lack.isEmpty then none else some (lack.foldl (fun s l => s.hostAsk l .rdOwn) s)
      | _ =>
        if s.validOf blk ≠ 0 then none
        else some (((List.range 2).filter halves.getLsbD).foldl (fun s k => s.hostAsk (l0 + k) .rdShared) s)

/-- A home starts to convert a block to token form (R273). -/
def State.toTokens (s : State) (blk : Nat) : State :=
  if s.coh.converting.any fun c => c.1 == blk then s
  else { s with coh := { s.coh with converting := s.coh.converting ++ [(blk, false)] } }

/-- The home must wait before it serves a request for tokens: a conversion of form, or the host. -/
def State.homeWaits (s : State) (blk : Nat) (kind : WantKind) (halves : BitVec 2 := 3) : Option State :=
  if (s.metaOf blk).isLease && !isHost (blkPa blk) then some (s.toTokens blk)
  else if s.coh.converting.any fun c => c.1 == blk then some s
  else s.hostGrants blk kind halves

/-- The home's answer (R270, R282, R306). DESIGN CHOICE: the bridge answers a read of a block of host memory by R270 too, so that all 4,096 tokens go
with the pole also where the host has granted its halves only in S (against the Write row of R293), or only one half (against the S of R294):
log entries 95 and 96. -/
def State.answerHome (s : State) (blk : Nat) (kind : WantKind) (req : Party) (tag : Nat) (halves : BitVec 2) : Dealt :=
  if (s.activeOf blk).isSome || s.atHome req then .done s
  else if s.unbacked (blkPa blk) then .done (s.sendHalves (s.here .home) req (.loadResp ((2 ^ 20 + tag) * 64) 0 .notBacked 0) 3 (some blk))
  else
    match s.homeWaits blk kind halves with
    | some s => .wait s
    | none =>
      let (serial, n, pole) := s.homeTokens blk
      let notice : State := s.send (s.here .home) req (.notice blk serial tag)
      match kind with
      | .read =>
        if !pole then .done notice
        else if n = 4096 then .done (s.homeSend blk req n true true tag)
        else if 2 ≤ n then .done (s.homeSend blk req (min 72 (n - 1)) false true tag)
        else .done (s.homeSend blk req n true true tag)
      | .write => if n = 0 then .done notice else .done (s.homeSend blk req n pole false tag)
      | .pole => if pole then .done (s.homeSend blk req 1 true true tag) else .done notice

/-- Write a block of an unpublished window back, if it is one. -/
def State.writeLeftOf (s : State) (blk : Nat) : State :=
  match s.leftover blk with
  | some (c, la) => s.writeLeft c { blk := blk, la := la, team := 0 }
  | none => s

/-- The holder of a published window answers without tokens: with the data, which the requester uses once (R132), or a published notice to
a publish request (R209). A block of an unpublished window is answered for in the same way, but a publish request has it written back (R133). -/
def State.answerWindow (s : State) (p : Place) (blk : Nat) (publish : Bool) (req : Party) (tag : Nat) : State :=
  if publish then
    if (s.published blk).isSome then s.send (s.here p) req (.publishNotice blk) else s.writeLeftOf blk
  else s.send (s.here p) req (.tokens blk ((s.hold? p blk).map (·.serial) |>.getD 0) 0 false false (some (s.current blk)) tag)

/-- A request reaches a party of this device. -/
def State.answer (s : State) (p : Place) (blk : Nat) (kind : WantKind) (publish : Bool) (req : Party) (tag : Nat) (halves : BitVec 2) : Dealt :=
  if s.isFrozen p blk then .wait s
  else
    match p with
    | .home => if s.isLocal blk then s.answerHome blk kind req tag halves else .done s
    | _ =>
      if s.windowAtCore p blk then .done (s.answerWindow p blk publish req tag)
      else if (s.actOf p blk).isSome then .done s
      else
        match s.hold? p blk with
        | some h => s.answerHold h kind req tag
        | none => .done s

/-- TRY (R270, R277). -/
def execTryArrive (id : Nat) (s : State) : Result :=
  s.deal id fun m =>
    match m.body with
    | .tryTok blk kind req tag => s.answer m.dst.place blk kind false req tag m.halves
    | _ => .wait s

/-- PUBLISH_REQUEST (R132, R209). -/
def execPublishRequest (id : Nat) (s : State) : Result :=
  s.deal id fun m =>
    match m.body with
    | .publishReq blk req tag => s.answer m.dst.place blk .write true req tag m.halves
    | _ => .wait s

/-! ## Tries and persistent requests at the requester (R277 to R279) -/

def State.wantId? (s : State) (id : Nat) : Option Want := s.coh.wants.find? fun w => w.id == id

/-- What the timer of a want's try goes on by in a tick: by cycles of its die for a block homed here, else by time (R9, R278). -/
def State.tryStep (s : State) (w : Want) : Nat := if s.isLocal w.blk then Clock.perTick (s.die w.die).clock else 200

/-- Where the timer of a try ends: after 1,250 cycles, or 5 µs (R278). -/
def State.tryLimit (s : State) (blk : Nat) : Nat := if s.isLocal blk then 12500 else 62500

/-- The want is unsatisfied and still makes tries. -/
def State.trying (s : State) (w : Want) : Bool := !s.satisfied w && w.stage == .no

/-- It is time for the persistent request (R278). -/
def State.persistTime (s : State) (w : Want) : Bool := usTicks 20 ≤ w.age || (4 ≤ w.tries && s.tryLimit w.blk ≤ w.tryAge)

/-- TRY_TIMEOUT (R277, R278). -/
def execTryTimeout (want : Nat) (s : State) : Result :=
  match s.wantId? want with
  | none => .next s
  | some w =>
    if s.trying w && s.tryLimit w.blk ≤ w.tryAge && w.tries < 4 then .next (s.sendTry w) else .next s

/-- PERSISTENT_REQUEST_ISSUE (R278). -/
def execPersistentRequestIssue (want : Nat) (s : State) : Result :=
  match s.wantId? want with
  | none => .next s
  | some w => if s.trying w && s.persistTime w then .next (s.sendPersist w) else .next s

/-- PERSISTENT_RETRY (R279): a refused request is sent again after 1 µs. -/
def execPersistentRetry (want : Nat) (s : State) : Result :=
  match s.wantId? want with
  | none => .next s
  | some w =>
    match w.stage with
    | .refused age => if usTicks 1 ≤ age then .next (s.sendPersist w) else .next s
    | _ => .next s

/-! ## The persistent table (R279, R280) -/

/-- Homes share a table when they stand on one channel; the bridge's is its own. -/
def sameTable (a b : Nat) : Bool :=
  let pa := blkPa a
  let pb := blkPa b
  if isHost pa || isHost pb then isHost pa && isHost pb else stackOf pa == stackOf pb && channelOf pa == channelOf pb

/-- Parties that hear of an activation (R279). -/
def State.activeParties (s : State) (blk : Nat) (req : Party) : List Party :=
  let remote : Bool := match s.metaOf blk with
    | .token r _ _ _ _ => r
    | .lease .. => false
  let far := if remote || req.dev != s.dev then s.otherDevices.map fun d => (⟨d, .die 0⟩ : Party) else []
  (s.placesOf blk).map (fun p => s.here p) ++ far

/-- The home gives all it has to the activated requester. -/
def State.homeServe (s : State) (e : PEntry) : State :=
  let (_, n, pole) := s.homeTokens e.blk
  if n = 0 ∨ s.atHome e.req ∨ s.isFrozen .home e.blk then s else s.homeSend e.blk e.req n pole false e.tag

/-- A requester hears of its activation; where it asks no more under that tag, it says again that its request has ended (R279). -/
def State.startActive (s : State) (p : Place) (blk key tag : Nat) : State :=
  match (s.want? p blk).filter fun w => w.id == tag with
  | some w => s.modWant w.id fun w => { w with stage := .active }
  | none => s.send (s.here p) (homeParty blk) (.deactivate blk (s.here p) key tag)

/-- Activate a pending request. -/
def State.activate (s : State) (e : PEntry) : State :=
  let ps := s.activeParties e.blk e.req
  let mark (x : PEntry) : PEntry := if x.blk == e.blk && x.req == e.req && x.tag == e.tag then { x with active := true, age := 0, parties := ps } else x
  let s := { s with coh := { s.coh with table := s.coh.table.map mark } }
  let s := s.sendAll (s.here .home) ps (.activate e.blk e.req e.key e.tag)
  let s := if e.req = s.here .home then s.startActive .home e.blk e.key e.tag else s
  s.homeServe e

/-- The entry of the lowest key. -/
def lowestKey : List PEntry → Option PEntry
  | [] => none
  | e :: es =>
    match lowestKey es with
    | none => some e
    | some x => if x.key < e.key then some x else some e

/-- Start a wave, or the next request of the wave, when no request of the block is active (R279). The home's own request comes first while it converts
the block to lease form: it has top priority (R273; log entry 113). -/
def State.nextWave (s : State) (blk : Nat) : State :=
  if (s.activeOf blk).isSome then s
  else
    let mine := s.coh.table.filter fun e => e.blk == blk
    let s := if mine.any fun e => e.inWave then s
      else { s with coh := { s.coh with table := s.coh.table.map fun (e : PEntry) => if e.blk == blk then { e with inWave := true } else e } }
    let own := if s.coh.converting.contains (blk, true) then mine.find? fun e => e.req == s.here .home else none
    match own.orElse fun _ => lowestKey (s.coh.table.filter fun e => e.blk == blk && e.inWave) with
    | some e => s.activate e
    | none => s

/-- PERSISTENT_REQUEST (R279). One that finds an earlier request of the same requester for the block still in the table waits for the end of that
one (log entry 99). -/
def execPersistentRequest (id : Nat) (s : State) : Result :=
  s.deal id fun m =>
    match m.body with
    | .persist blk req key tag =>
      if !s.isLocal blk || s.unbacked (blkPa blk) then .done s
      else
        match if s.atHome req then none else s.homeWaits blk .write with
        | some s => .wait s
        | none =>
          if s.coh.table.any fun e => e.blk == blk && e.req == req then .wait s
          else if 32 ≤ (s.coh.table.filter fun e => sameTable e.blk blk).length then
            .done (s.send (s.here .home) req (.persistFull blk tag))
          else
            let e : PEntry := { blk := blk, req := req, key := key, tag := tag, inWave := false, active := false, age := 0, parties := [] }
            .done ({ s with coh := { s.coh with table := s.coh.table ++ [e] } }.nextWave blk)
    | _ => .wait s

/-- The party asks in order to publish. -/
def partyPublishes (p : Party) : Bool :=
  match p.place with
  | .pubCore _ => true
  | _ => false

/-- A holder sends all it has to the activated requester (R280). -/
def State.giveActive (s : State) (p : Place) (blk : Nat) (req : Party) (tag : Nat) : Dealt :=
  if req = s.here p then .done s
  else if s.windowAtCore p blk then .done (s.answerWindow p blk (partyPublishes req) req tag)
  else
    match s.hold? p blk with
    | none => .done s
    | some h =>
      match s.recall p blk .write h.n with
      | some s => .wait s
      | none => .done (s.sendTokens h req h.n h.pole false tag)

/-- ACTIVATION (R280). -/
def execActivation (id : Nat) (s : State) : Result :=
  s.deal id fun m =>
    match m.body with
    | .activate blk req key tag =>
      let p := m.dst.place
      if s.isFrozen p blk then .wait s
      else
        let known : Bool := s.coh.acts.contains ⟨p, blk, req, tag⟩
        let s := if known then s else { s with coh := { s.coh with acts := s.coh.acts ++ [⟨p, blk, req, tag⟩] } }
        let s := if req = s.here p then s.startActive p blk key tag else s
        s.giveActive p blk req tag
    | _ => .wait s

/-- The home ends a persistent request: the parties that heard of it hear of its end; then it activates the next (R279). -/
def State.endPersist (s : State) (e : PEntry) : State :=
  let s := { s with coh := { s.coh with table := s.coh.table.filter fun x => !(x.blk == e.blk && x.req == e.req && x.tag == e.tag) } }
  (s.sendAll (s.here .home) e.parties (.deactivate e.blk e.req e.key e.tag)).nextWave e.blk

/-- A party forgets an activation; a copy of it that is still on its way to the party means nothing any more. -/
def State.endAct (s : State) (a : Act) : State :=
  let late (m : Msg) : Bool := m.dst == s.here a.who && match m.body with
    | .activate b r _ t => b == a.blk && r == a.req && t == a.tag
    | _ => false
  { s with
    coh := { s.coh with acts := s.coh.acts.filter fun x => x != a }
    msgs := s.msgs.filter fun m => !late m }

/-- The request that a deactivation ends at the home. -/
def State.entryOf (s : State) (blk : Nat) (req : Party) (tag : Nat) : Option PEntry :=
  s.coh.table.find? fun e => e.blk == blk && e.req == req && e.tag == tag

/-- What a deactivation ends here; none where it has overtaken the request, or the activation, that it names (R260). -/
def State.deactivated (s : State) (m : Msg) : Option State :=
  match m.body, m.dst.place with
  | .deactivate blk req _ tag, .home => (s.entryOf blk req tag).map s.endPersist
  | .deactivate blk req _ tag, p =>
    let a : Act := ⟨p, blk, req, tag⟩
    if s.coh.acts.contains a || m.src.dev == s.dev then some (s.endAct a) else none
  | _, _ => none

/-- DEACTIVATION (R279). One that has overtaken what it ends stays on its way until that has come, or 1 ms has passed (R260, R304). -/
def execDeactivation (id : Nat) (s : State) : Result :=
  match (s.msg? id).filter fun m => (s.deactivated m).isSome || Msg.tooOld m with
  | some _ => s.deal id fun m => .done ((s.deactivated m).getD s)
  | none => .next s

/-! ## Token messages (R269, R271, R282, R283) -/

/-- The serial that a place knows for a block: that of its tokens, or of its notice. -/
def State.knownSerial (s : State) (p : Place) (blk : Nat) : Option (BitVec 8) :=
  match s.hold? p blk with
  | some h => some h.serial
  | none => (s.want? p blk).bind fun w => w.serial

/-- Acknowledge a dirty pole (R271). -/
def State.ackPole (s : State) (p : Place) (blk : Nat) (src : Party) (pole dirty : Bool) : State :=
  if pole && dirty then s.send (s.here p) src (.poleAck blk) else s

/-- Tokens are accepted by a place; an activation that stands there sends them on (R280), once the host has answered for what it holds (R296). -/
def State.acceptTokens (s : State) (p : Place) (blk : Nat) (serial : BitVec 8) (n : Nat) (pole dirty : Bool) (data : Option BlockData)
    (halves : BitVec 2) : State :=
  let asid := ((s.want? p blk).map fun w => w.asid).getD 0
  let s := s.giveTokens p blk serial n pole dirty data halves asid (s.sliceOf (s.staleDie p blk) asid blk)
  match s.actOf p blk, s.hold? p blk with
  | some a, some h => if a.req = s.here p then s else (s.recall p blk .write h.n).getD (s.sendTokens h a.req h.n h.pole false a.tag)
  | _, _ => s

/-- A place learns the serial of its request: replies that came early are accepted or discarded (R282). -/
def State.learnSerial (s : State) (p : Place) (blk : Nat) (serial : BitVec 8) : State :=
  match s.want? p blk with
  | none => s
  | some w =>
    if w.serial.isSome ∨ (s.hold? p blk).isSome then s
    else
      let s := s.modWant w.id fun w => { w with serial := some serial, early := [] }
      w.early.foldl (fun s e =>
        if e.serial = serial then s.acceptTokens p blk e.serial e.n e.pole e.dirty e.data e.halves else s.countStale (s.staleDie p blk)) s

/-- The serial of an unfreeze takes the place of what a miss entry knew: a notice under an older serial that came while the block was frozen says nothing
any more (R318). -/
def State.relearn (s : State) (p : Place) (blk : Nat) (serial : BitVec 8) : State :=
  match s.want? p blk with
  | none => s
  | some w => (if w.serial = some serial then s else s.modWant w.id fun w => { w with serial := none }).learnSerial p blk serial

/-- Tokens reach the home (R283). -/
def State.homeTakes (s : State) (p : Place) (m : Msg) (blk : Nat) (serial : BitVec 8) (n : Nat) (pole dirty : Bool)
    (data : Option BlockData) : State :=
  if serial ≠ (s.homeTokens blk).1 then s.countStale (s.staleDie p blk)
  else
    let s := (s.homeReceive blk n pole dirty data).ackPole p blk m.src pole dirty
    match s.activeOf blk with
    | some e => s.homeServe e
    | none => s

/-- Tokens reach a holder or a requester (R282, R283). A home's answer to a request tells its serial (log entry 15). -/
def State.placeTakes (s : State) (p : Place) (m : Msg) (blk : Nat) (serial : BitVec 8) (n : Nat) (pole dirty : Bool)
    (data : Option BlockData) (tag : Nat) : State :=
  let s := match p with
    | .die d => if (s.want? p blk).isSome then s.notePredict d blk m.src.dev else s
    | _ => s
  match s.knownSerial p blk, s.want? p blk with
  | some k, _ =>
    if k = serial then (s.acceptTokens p blk serial n pole dirty data m.halves).ackPole p blk m.src pole dirty
    else s.countStale (s.staleDie p blk)
  | none, some w =>
    if m.src = homeParty blk ∧ (tag = w.id ∨ w.stage = .active) then
      ((s.learnSerial p blk serial).acceptTokens p blk serial n pole dirty data m.halves).ackPole p blk m.src pole dirty
    else
      (s.modWant w.id fun w => { w with early := w.early ++ [⟨serial, n, pole, dirty, data, m.halves⟩] }).ackPole p blk m.src pole dirty
  | none, none =>
    let s := (s.giveTokens p blk serial n pole dirty data m.halves 0 (s.sliceOf (s.staleDie p blk) 0 blk)).ackPole p blk m.src pole dirty
    match s.hold? p blk with
    | some h => s.evictTokens h
    | none => s

/-! ### Data of a window on another device (R132) -/

/-- Lanes of one request that read a block take a window's data, once; of a poisoned block they meet its cause (R285). -/
def State.windowLoad (s : State) (c : Nat) (r : Req) (blk : Nat) (d : BlockData) (bad : Bool) : State :=
  let ls := r.openLanes.filter fun l => r.laneBlk l == blk
  let rest := r.openLanes.filter fun l => !ls.contains l
  if ls.isEmpty || r.miss = .ingress || s.lineHeld c r || ls.any (fun l => !s.migrated r.page (r.page.pa + l.off)) then s
  else if bad then s.settleLoad c r rest (ls.map fun l => (l, 0x70))
  else
    let s := ls.foldl (fun s l => (s.noteLane c r l).laneDone c r l (blockSlice d ((r.page.pa + l.off) % 128) l.size)) s
    s.settleLoad c ((s.req? c r.id).getD r) rest []

/-- The loads of some cores that wait for a block, on routes for which `on` holds, take a window's data: those that were free to leave, and had asked,
before the request that it answers was made; later ones could see an old value (R245, R246, R251). -/
def State.windowLoads (s : State) (cores : List Nat) (on : Route → Bool) (w : Want) (x : BlockData) (bad : Bool) : State :=
  cores.foldl (fun s c =>
    ((s.core c).reqs.filter fun r => r.reads && on (s.route r.page) && r.tried.any fun n => n ≤ w.id).foldl
      (fun s r => s.windowLoad c r w.blk x bad) s) s

/-- The store lines of a die that wait for a block of a window go to the window's holder instead. -/
def State.windowStores (s : State) (d blk : Nat) (holder : Party) : State :=
  let mine := s.fab.posts.filter fun q =>
    q.kind == .storeLine && !q.sent && (s.core q.core).die == d && q.home * 2 ^ 45 + q.pa / 128 ≤ blk && blk ≤ q.home * 2 ^ 45 + q.pa / 128 + 1
  mine.foldl (fun s q =>
    (s.modPost q.id fun q => { q with kind := .store, sent := true, age := 0 }).send (s.here (.die d)) holder
      (.pubStore q.id (2 ^ 52 * q.home + q.pa) q.mask q.data)) s

/-- Bytes of a store to a block of this device that lies in a window of another device go there as one post; its flags follow once they have been
written there (R132, R312). -/
def State.postAway (s : State) (c : Nat) (r : Req) (ls : List LaneReq) (x : BitVec 256 × LineData) (holder : Party) : State :=
  let p := { r.post s.nextId c (if r.kind = .flagged then .flagData else .store) ls with mask := x.1, data := x.2 }
  let s : State := { s.fresh with fab := { s.fab with posts := s.fab.posts ++ [p] } }
  s.send (s.here (.die (s.core c).die)) holder (.pubStore p.id (2 ^ 52 * s.dev + r.page.pa) p.mask p.data)

/-- A sector of the core view, as it stands after a write-back: clean in both views (R244). -/
def State.cleanSector (s : State) (c a : Nat) : State :=
  match findSector (s.core c).view a with
  | none => s
  | some x =>
    let clean : Sector := { x with dirty := false }
    (s.modCore c fun k => { k with view := putSector k.view clean }).modDie (s.core c).die fun k =>
      { k with view := putSector k.view { clean with asid := ((findSector k.view a).map (·.asid)).getD x.asid } }

/-- The sectors of the core view that some lanes have written are written back to the holder of the block's window, each whole (R255, R257), and stay
in both views; a whole block goes as one post (R285). -/
def State.sectorsAway (s : State) (c : Nat) (r : Req) (ls : List LaneReq) (blk : Nat) (holder : Party) : State :=
  let sectorOf (l : LaneReq) : Nat := (r.page.pa + l.off) / 64
  let as := distinct (ls.map sectorOf)
  let s := as.foldl (fun s a => s.cleanSector c a) s
  let image (a : Nat) : BitVec 256 × LineData :=
    let off := a * 64 - r.page.pa
    let d := ((findSector (s.core c).view a).map (·.data)).getD 0
    (BitVec.ofNat 256 ((2 ^ 64 - 1) * 2 ^ off), BitVec.ofNat 2048 (d.toNat * 2 ^ (8 * off)))
  if coversBlock r ls blk && (r.kind == .store || r.kind == .flagged) then s.postAway c r ls (lineImage ls) holder
  else as.foldl (fun s a => s.postAway c r (ls.filter fun l => sectorOf l == a) (image a) holder) s

/-- The lanes of a request in one block, and the others. -/
def Req.lanesIn (r : Req) (blk : Nat) : List LaneReq := r.lanes.filter fun l => r.laneBlk l == blk
def Req.lanesOut (r : Req) (blk : Nat) : List LaneReq := r.lanes.filter fun l => r.laneBlk l != blk

/-- A post of this device into a window on another device, of a private sector or of the same instruction, is not yet acknowledged: the next one waits
for it, so that they are written in their order (R188, R246). -/
def State.awayBusy (s : State) (r : Req) (blk : Nat) : Bool :=
  s.fab.posts.any fun p => p.home == s.dev && p.blocks.contains blk && (p.cls == .priv || p.inst == r.inst)

/-- A request is left with the lanes that are not in a block, in whichever queue it stands. -/
def State.leaveLanes (s : State) (c : Nat) (r : Req) (rest : List LaneReq) : State :=
  let cut (q : Req) : Req := if q.id == r.id then { q with lanes := rest } else q
  if rest.isEmpty then (s.dropReq c r.id).dropStore c r.id else s.modCore c fun k => { k with reqs := k.reqs.map cut, storeQ := k.storeQ.map cut }

/-- The lanes of a store to one block of this device that lies in a window of another device go there: of a token page as they are; of a private page
in whole sectors, once they have merged into the core view (R255, R257); of an uncached page one by one, a lower lane before a higher one to the
same byte (R188, R202). -/
def State.divert (s : State) (c : Nat) (r : Req) (blk : Nat) (holder : Party) : State :=
  let ls := r.lanesIn blk
  if ls.isEmpty || s.remoteHeld c r || s.awayBusy r blk then s
  else
    let s := s.reqRelease c r.ord
    match s.route r.page with
    | .priv =>
      let held (l : LaneReq) : Bool := (findSector (s.core c).view ((r.page.pa + l.off) / 64)).isSome
      if !ls.all held then s
      else
        let s := ls.foldl (fun s l => s.mergeSector c (r.page.pa + l.off) r.page.asid l.stored) s
        (s.sectorsAway c r ls blk holder).leaveLanes c r (r.lanesOut blk)
    | .uncached =>
      let first := ls.filter fun l => !ls.any fun k => k.lane < l.lane && lapped k.off k.size l.off l.size
      (first.foldl (fun s l => s.postAway c r [l] (lineImage [l]) holder) s).leaveLanes c r (r.lanes.filter fun l => !first.contains l)
    | _ => (s.postAway c r ls (lineImage ls) holder).leaveLanes c r (r.lanesOut blk)

/-- An atomic or a reduction on a private page whose block lies in a window of another device: its lanes there are made in the core view, and their
sectors written back to the holder (R254, R255). -/
def State.divertAtom (s : State) (c : Nat) (r : Req) (op : AtomOp) (blk : Nat) (holder : Party) : State :=
  let ls := (r.lanesIn blk).filter fun l => !r.bad.any fun b => b.1 == l
  let held (l : LaneReq) : Bool := (findSector (s.core c).view ((r.page.pa + l.off) / 64)).isSome
  if ls.isEmpty || !ls.all held || s.remoteHeld c r || s.awayBusy r blk then s
  else
    let s := ((s.markGood c r).markActed c r).reqRelease c r.ord
    let s := ls.foldl (fun s l =>
      let x := s.viewAtom c op (r.page.pa + l.off) r.page.asid l.x l.y
      match r.kind with
      | .atom _ => x.2.putPend r.team l.fib r.inst (l.dst.map fun d => (d, x.1))
      | _ => x.2) s
    let rest := r.lanes.filter fun l => !ls.contains l
    let s := (s.sectorsAway c r ls blk holder).leaveLanes c r rest
    if rest.isEmpty then s.reqAcquire c r.ord else s

/-- A store of the core in its queues may go to a window on another device: it is the oldest there that touches its blocks, and nothing holds it. -/
def State.mayDivert (s : State) (c : Nat) (route : Route) (blk : Nat) (r : Req) : Bool :=
  let queued : Bool := (s.core c).storeQ.any fun q => q.id == r.id
  !r.sent && r.page.home == s.dev && s.route r.page == route && r.blocks.contains blk && s.reqMigrated r
    && if queued then s.oldest c r else !storeBehind r (s.core c).reqs && !storeBehind r (s.core c).storeQ && !s.lineBehind c r

/-- Writes of some cores to a block of this device, on one route, that could be made but for a window on another device. -/
def State.windowDrains (s : State) (cores : List Nat) (route : Route) (blk : Nat) (holder : Party) : State :=
  if !s.isLocal blk then s
  else
    cores.foldl (fun s c =>
      ((s.core c).storeQ ++ (s.core c).reqs).foldl (fun s r =>
        if !s.mayDivert c route blk r then s
        else match r.kind, route with
        | .store, .token => if (s.core c).storeQ.any fun q => q.id == r.id then s.divert c r blk holder else s
        | .flagged, .token => if (s.core c).storeQ.any fun q => q.id == r.id then s.divert c r blk holder else s
        | .store, .priv => if (s.core c).storeQ.any fun q => q.id == r.id then s.divert c r blk holder else s
        | .flagged, .priv => if (s.core c).storeQ.any fun q => q.id == r.id then s.divert c r blk holder else s
        | .store, .uncached => s.divert c r blk holder
        | .red op, .priv => s.divertAtom c r op blk holder
        | .atom op, .priv => if (s.atomTurn c r).isNone then s.divertAtom c r op blk holder else s
        | _, _ => s) s) s

/-- The sectors of a block that a window on another device holds enter the views of the cores whose accesses to private pages wait for them, clean
(R245, case 4; R255): those that had asked before the request that the answer is for was made. DESIGN CHOICE: they are kept there, though R132 lets
a requester use the data once (log entry 115). -/
def State.windowSectors (s : State) (w : Want) (d : BlockData) : State :=
  (List.range s.cores.length).foldl (fun s c =>
    ((s.core c).reqs ++ (s.core c).storeQ).foldl (fun s r =>
      if s.route r.page != .priv || r.tried.all fun n => w.id < n then s
      else (distinct ((r.lanesIn w.blk).map fun l => (r.page.pa + l.off) / 64)).foldl (fun s a =>
        s.enterSector c a (d.extractLsb' (512 * (a % 2)) 512) r.page.asid) s) s) s

/-- Accesses to a block that wait at this home go to the holder of its window (R132). -/
def State.windowWaiting (s : State) (blk : Nat) (holder : Party) : State :=
  let full (pa : Nat) : Nat := 2 ^ 52 * s.dev + pa
  let word (pa : Nat) : Bool := blkOf s.dev pa == blk
  let line (pa : Nat) : Bool := blkOf s.dev pa / 2 == blk / 2
  let pass (m : Msg) (yes : Bool) (b : Body) : Msg := if yes then { m with dst := holder, body := b, age := 0, taken := false } else m
  let move (m : Msg) : Msg :=
    if m.dst ≠ s.here .home then m
    else match m.body with
    | .atomReq pa op x y tag ep => pass m (word pa) (.pubAtom (full pa) op x y tag ep)
    | .posted id pa mask d => pass m (line pa) (.pubStore id (full pa) mask d)
    | .loadReq pa _ tag ep => pass m (line pa) (.pubLoad (full pa) tag ep)
    | .postedRed id pa op x => pass m (word pa) (.postedRed id (full pa) op x)
    | .flagData id pa w flag => pass m (word pa) (.flagData id (full pa) w flag)
    | .flagUpd id pa => pass m (word pa) (.flagUpd id (full pa))
    | _ => m
  { s with msgs := s.msgs.map move }

/-- The cores of a die. -/
def State.coresOf (s : State) (d : Nat) : List Nat := (List.range s.cores.length).filter fun c => (s.core c).die == d

/-- A message without tokens and with data: the answer of a published window to the request `w`, which is then withdrawn. -/
def State.windowAnswer (s : State) (w : Want) (d : BlockData) (bad : Bool) (holder : Party) : State :=
  let blk := w.blk
  let all := List.range s.cores.length
  let u := match w.who with
    | .die k => ((s.windowLoads (s.coresOf k) (· == Route.token) w d bad).windowStores k blk holder).windowDrains (s.coresOf k) .token blk holder
    | .home =>
      let s := if bad then s.windowLoads all (· == Route.priv) w d bad else s.windowSectors w d
      let s := (s.windowLoads all (· == Route.uncached) w d bad).windowWaiting blk holder
      (s.windowDrains all .priv blk holder).windowDrains all .uncached blk holder
    | .bridge =>
      -- The host's read takes the value, and the bridge keeps no token (R132, R352).
      let half (k : Nat) : Nat × SectorData := (blkPa blk / 64 + k, d.extractLsb' (512 * k) 512)
      { s with host := { s.host with answers := half 1 :: half 0 :: s.host.answers } }
    | .engine .. => { s with coh := { s.coh with gathered := s.coh.gathered ++ [(w.who, blk, d, bad, holder)] } }
    | _ => s
  u.withdraw w

/-- What a message's data say of poison: of a block homed here only dirty data from another device say anything. -/
def State.takePoison (s : State) (m : Msg) (blk : Nat) (dirty : Bool) : State :=
  if s.isLocal blk && !(dirty && m.src.dev != s.dev) then s else s.setPoison blk (m.poison.contains blk)

/-- TOKEN_MESSAGE: tokens, a serial notice, a published notice, or the refusal of a persistent request. -/
def execTokenMessage (id : Nat) (s : State) : Result :=
  s.deal id fun m =>
    let p := m.dst.place
    match m.body with
    | .tokens blk serial n pole dirty data tag =>
      let s := if data.isSome then s.takePoison m blk dirty else s
      if s.isFrozen p blk then .wait s
      else if n = 0 then
        match data, s.want? p blk with
        | some d, some w => .done (if tag = w.id then s.windowAnswer w d (m.poison.contains blk) m.src else s)
        | _, _ => .done s
      else
        match p with
        | .home => if s.isLocal blk then .done (s.homeTakes p m blk serial n pole dirty data) else .done s
        | .engine .. => .done (s.homeTakes p m blk serial n pole dirty data)
        | _ => .done (s.placeTakes p m blk serial n pole dirty data tag)
    | .notice blk serial tag =>
      if (s.want? p blk).any fun w => w.id == tag then .done (s.learnSerial p blk serial) else .done s
    | .publishNotice blk =>
      match s.want? p blk with
      | some w => if w.publish then .done (s.modWant w.id fun w => { w with denied := true }) else .done s
      | none => .done s
    | .persistFull blk tag =>
      match s.want? p blk with
      | some w => if w.stage = .sent ∧ w.id = tag then .done (s.modWant w.id fun w => { w with stage := .refused 0 }) else .done s
      | none => .done s
    | _ => .wait s

/-- The first shadow that a place keeps for a receiver goes. -/
def dropShadow (p : Place) (blk : Nat) (to_ : Party) : List Shadow → List Shadow
  | [] => []
  | x :: xs => if x.who = p ∧ x.blk = blk ∧ x.toParty = to_ ∧ x.line = none then xs else x :: dropShadow p blk to_ xs

/-- POLE_ACK (R271): the shadow kept for its receiver is freed. -/
def execPoleAck (id : Nat) (s : State) : Result :=
  s.deal id fun m =>
    match m.body with
    | .poleAck blk => .done { s with coh := { s.coh with shadows := dropShadow m.dst.place blk m.src s.coh.shadows } }
    | _ => .wait s

/-! ## Evictions, peers, recalls (R271, R274, R276) -/

/-- A place may evict a block: no window, no freeze, no line that the host holds. -/
def State.evictable (s : State) (p : Place) (blk : Nat) : Bool :=
  !s.isFrozen p blk && match p with
    | .die _ => true
    | .puller _ => true
    | .bridge => (s.hostHeld blk).isEmpty
    | _ => false

/-- EVICTION (R271). -/
def execEviction (place : Place) (blk : Nat) (s : State) : Result :=
  match s.hold? place blk with
  | some h => if s.evictable place blk then .next (s.evictTokens h) else .next s
  | none => .next s

/-- PEER_PROBE (R276): a peer L1 with two tokens or more lends one of them with the data. -/
def execPeerProbe (core blk : Nat) (s : State) : Result :=
  match s.hold? (.die (s.core core).die) blk, assoc (s.core core).peers blk with
  | some h, some peer =>
    match s.coreWants core blk false with
    | none => .next s
    | some r =>
      if !h.readable || h.lent.any (fun p => p.1 == core) || peer == core then .next s
      else if (assoc h.lent peer).any fun k => 2 ≤ k then
        let lent := h.lent.map fun p => if p.1 == peer then (p.1, p.2 - 1) else p
        .next ((s.putHold (Hold.fill { h with lent := lent } core 1 r.page.asid)).notePeer core blk)
      else .next s
  | _, _ => .next s

/-- TOKEN_RECALL (R274): a slice takes back what it has lent. -/
def execTokenRecall (die blk : Nat) (s : State) : Result :=
  match s.hold? (.die die) blk with
  | some h => if h.lent.isEmpty then .next s else .next ((s.putHold { h with lent := [] }).loseCopy (.die die) blk)
  | none => .next s

/-! ## Audits (R284) and recreation (R285, R318) -/

def State.audit? (s : State) (blk : Nat) : Option Audit := s.coh.audits.find? fun a => a.blk == blk

def State.putAudit (s : State) (a : Audit) : State :=
  { s with coh := { s.coh with audits := (s.coh.audits.filter fun x => x.blk != a.blk) ++ [a] } }

def State.freeze (s : State) (p : Place) (blk : Nat) : State :=
  if s.isFrozen p blk then s else { s with coh := { s.coh with frozen := s.coh.frozen ++ [⟨p, blk⟩] } }

def State.thaw (s : State) (p : Place) (blk : Nat) : State :=
  { s with coh := { s.coh with frozen := s.coh.frozen.filter fun f => !(f.who == p && f.blk == blk) } }

/-- Ticks after which an activated request is audited (R284). -/
def State.auditTicks (s : State) (e : PEntry) : Nat :=
  let remote : Bool := match s.metaOf e.blk with
    | .token r _ _ _ _ => r
    | .lease .. => false
  usTicks (if remote || e.req.dev != s.dev then 16 else 8)

/-- AUDIT_START (R284). -/
def execAuditStart (blk : Nat) (s : State) : Result :=
  match s.activeOf blk, s.audit? blk with
  | some e, none =>
    if e.age < s.auditTicks e then .next s
    else
      let ps := s.activeParties blk e.req
      let a : Audit := { blk := blk, stage := .asking, waiting := ps.map fun p => (p, 0), asked := ps, sum := 0, poleData := none
                         shadow := none, poleSeen := false }
      .next (((s.putAudit a).freeze .home blk).sendAll (s.here .home) ps (.audit blk (s.homeTokens blk).1))
  | _, _ => .next s

/-- Places of this device that a message to a party means: an audit from another device is answered for all of them (R317). -/
def State.meant (s : State) (m : Msg) (blk : Nat) : List Place := if m.src.dev = s.dev then [m.dst.place] else s.placesOf blk

/-- What places report: tokens, pole, dirty, data of the pole, and the newest shadow; replies that wait for a serial count too. -/
def State.reportOf (s : State) (ps : List Place) (blk : Nat) : Body :=
  let hs := ps.filterMap fun p => s.hold? p blk
  let es := (ps.filterMap fun p => s.want? p blk).flatMap fun w => w.early
  let n := hs.foldl (fun k h => k + h.n) 0 + es.foldl (fun k e => k + e.n) 0
  let owner := hs.find? fun h => h.pole
  let early := es.find? fun e => e.pole
  let data := match owner with
    | some h => some h.data
    | none => early.bind fun e => e.data
  .report blk n (owner.isSome || early.isSome) (owner.any (·.dirty) || early.any fun e => e.dirty) data
    ((s.coh.shadows.filter fun x => x.blk == blk && ps.contains x.who).getLast?.map (·.data))

/-- A place drops a block's tokens, shadow and serial (R285, step 2). -/
def State.invalidate (s : State) (p : Place) (blk : Nat) : State :=
  let s := (s.dropHold p blk).loseCopy p blk
  let s := { s with coh := { s.coh with shadows := s.coh.shadows.filter fun x => !(x.who == p && x.blk == blk) } }
  match s.want? p blk with
  | some w => s.modWant w.id fun w => { w with serial := none, early := [] }
  | none => s

/-- AUDIT: a party freezes the block and reports, or drops what it holds when the home recreates the block. -/
def execAudit (id : Nat) (s : State) : Result :=
  s.deal id fun m =>
    match m.body with
    | .audit blk _ =>
      let ps := s.meant m blk
      .done ((ps.foldl (fun s p => s.freeze p blk) s).send m.dst m.src (s.reportOf ps blk))
    | .invalidate blk =>
      -- The bridge drops tokens only once the host holds no line under them (R296).
      let ps := s.meant m blk
      match if ps.contains .bridge then s.recall .bridge blk .write 0 else none with
      | some s => .wait s
      | none => .done ((ps.foldl (fun s p => s.invalidate p blk) s).send m.dst m.src (.invAck blk))
    | _ => .wait s

/-- AUDIT_REPEAT (R284): after 10 µs without an answer. -/
def execAuditRepeat (blk : Nat) (party : Party) (s : State) : Result :=
  match s.audit? blk with
  | some a =>
    if a.stage = .asking ∧ a.waiting.any fun w => w.1 == party && usTicks 10 ≤ w.2 then
      let a := { a with waiting := a.waiting.map fun w => if w.1 == party then (party, 0) else w }
      .next ((s.putAudit a).send (s.here .home) party (.audit blk (s.homeTokens blk).1))
    else .next s
  | none => .next s

/-- The active request of a block starts its wait for an audit again. -/
def State.renewActive (s : State) (blk : Nat) : State :=
  { s with coh := { s.coh with table := s.coh.table.map fun (e : PEntry) => if e.blk == blk && e.active then { e with age := 0 } else e } }

/-- An audit ends: every party unfreezes, and an activated request is served from the home. -/
def State.endAudit (s : State) (a : Audit) : State :=
  let s := { s with coh := { s.coh with audits := s.coh.audits.filter fun x => x.blk != a.blk } }
  let s := ((s.thaw .home a.blk).renewActive a.blk).sendAll (s.here .home) a.asked (.unfreeze a.blk (s.homeTokens a.blk).1)
  match s.activeOf a.blk with
  | some e => s.homeServe e
  | none => s

/-- RECREATION, steps 1 and 2 (R285). -/
def State.recreate (s : State) (a : Audit) : State :=
  let source : Option BlockData :=
    if a.poleSeen then a.poleData else a.shadow
  let s := match source with
    | some d => s.setMemBlock a.blk d
    | none =>
      if a.poleSeen || (s.homeTokens a.blk).2.2 then s
      else s.setMeta a.blk ((s.metaOf a.blk).setPoison true)
  (s.putAudit { a with stage := .dropping, waiting := a.asked.map fun p => (p, 0) }).sendAll (s.here .home) a.asked (.invalidate a.blk)

/-- A block was recreated within the last 2 ms (R285). -/
def State.recentlyMade (s : State) (blk : Nat) : Bool := (assoc s.coh.recreated blk).any fun t => t < usTicks 2000

/-- AUDIT_REPORT (R284): the last report ends the audit, or starts a recreation. -/
def execAuditReport (id : Nat) (s : State) : Result :=
  s.deal id fun m =>
    match m.body with
    | .report blk n pole _ data shadow =>
      match s.audit? blk with
      | none =>
        -- A copy of a repeated audit has come after the end: its party goes on again (log entry 114).
        .done (s.send (s.here .home) m.src (.unfreeze blk (s.homeTokens blk).1))
      | some a =>
        if a.stage ≠ .asking ∨ !(a.waiting.any fun w => w.1 == m.src) then .done s
        else
          let a := { a with
            waiting := a.waiting.filter fun w => w.1 != m.src, sum := a.sum + n, poleSeen := a.poleSeen || pole
            poleData := if pole then data else a.poleData, shadow := a.shadow.orElse fun _ => shadow }
          if !a.waiting.isEmpty then .done (s.putAudit a)
          else if a.sum + (s.homeTokens blk).2.1 = 4096 then .done (s.endAudit a)
          else if s.recentlyMade blk then .done (s.putAudit { a with stage := .holdoff })
          else .done (s.recreate a)
    | _ => .wait s

/-- AUDIT_HOLDOFF_EXPIRE (R285). -/
def execAuditHoldoffExpire (blk : Nat) (s : State) : Result :=
  match s.audit? blk with
  | some a => if a.stage = .holdoff ∧ !s.recentlyMade blk then .next (s.recreate a) else .next s
  | none => .next s

/-- Step 3 of a recreation: a new serial, and every token at home (R285). -/
def State.renew (s : State) (blk : Nat) : State :=
  let serial := (s.homeTokens blk).1 + 1
  let s := if isHost (blkPa blk) then (s.setHomeTokens blk serial 4096 true false)
    else s.setMeta blk (.token false true (s.metaOf blk).poison serial 4096)
  { s with coh := { s.coh with recreated := assocSet s.coh.recreated blk 0 } }

/-- RECREATION_ACK (R285): the last acknowledgement ends the recreation. -/
def execRecreationAck (id : Nat) (s : State) : Result :=
  s.deal id fun m =>
    match m.body with
    | .invAck blk =>
      match s.audit? blk with
      | none => .done s
      | some a =>
        if a.stage ≠ .dropping then .done s
        else
          let a := { a with waiting := a.waiting.filter fun w => w.1 != m.src }
          if a.waiting.isEmpty then .done ((s.renew blk).endAudit a) else .done (s.putAudit a)
    | _ => .wait s

/-- UNFREEZE (R284, R318): the party goes on; a miss entry takes the serial as its notice. -/
def execUnfreeze (id : Nat) (s : State) : Result :=
  s.deal id fun m =>
    match m.body with
    | .unfreeze blk serial => .done ((s.meant m blk).foldl (fun s p => (s.thaw p blk).relearn p blk serial) s)
    | _ => .wait s

/-! ## Atomics at the home (R254, R281) -/

/-- The tag of a reduction's lane on a token route. -/
def isRedTag (tag : Nat) : Bool := 2 ^ 20 ≤ tag / 64 && 32 ≤ tag % 64

/-- A lane of the same instruction that comes earlier and touches the same word waits at the home too (R186). -/
def State.lowerLane (s : State) (m : Msg) (pa tag : Nat) : Bool :=
  s.msgs.any fun x => x.dst == m.dst && match x.body with
    | .atomReq a _ _ _ t _ => a == pa && t / 64 == tag / 64 && t < tag
    | _ => false

/-- The request of a number in the issue queues or the store queues, with its core. -/
def findReq (id : Nat) : List Core → Nat → Option (Nat × Req)
  | [], _ => none
  | k :: ks, c =>
    match (k.reqs ++ k.storeQ).find? fun r => r.id == id with
    | some r => some (c, r)
    | none => findReq id ks (c + 1)

/-- The line of this device that an atomic or a reduction at its home belongs to. -/
def State.atomLine (s : State) (m : Msg) (tag : Nat) : Option (Nat × Req) :=
  if m.src.dev = s.dev ∧ 2 ^ 20 ≤ tag / 64 then findReq (tag / 64 - 2 ^ 20) s.cores 0 else none

/-- The write-backs of its release wait for their channels (R338). -/
def State.mineShut (s : State) (m : Msg) (tag : Nat) : Bool := (s.atomLine m tag).any fun x => s.ordShut x.1 x.2

/-- The operation on the block's current value, and its answer. A release of this device makes its write-backs first (R249). An `atom` that meets lost
data leaves them (R191). -/
def State.doAtomic (s : State) (m : Msg) (blk pa : Nat) (op : AtomOp) (x y : Word) (tag : Nat) (ep : BitVec 4) : State :=
  let old := BitVec.ofNat 32 (bytesNat (blockSlice (s.current blk) (pa % 128) 4))
  let bad := s.poisoned blk
  let s := match s.atomLine m tag with
    | some (c, r) => if bad || isRedTag tag then s.reqRelease c r.ord else (s.markActed c r).reqRelease c r.ord
    | none => s
  let s := if bad && !isRedTag tag then s else s.writeBlock blk (pa % 128) (wordBytes (atomNew op old x y))
  (s.finishWant .home blk).replyTo m (.atomResp tag ep (if bad then .dataError else .ok) old)

/-- One lane of an atomic at the home. -/
def State.homeAtomic (s : State) (m : Msg) (pa : Nat) (op : AtomOp) (x y : Word) (tag : Nat) (ep : BitVec 4) : Dealt :=
  let blk := blkOf s.dev pa
  if s.lowerLane m pa tag || s.mineShut m tag then .wait s
  else if s.unbacked pa then .done (s.replyTo m (.atomResp tag ep .notBacked 0))
  else if isDram pa && (s.windowOf pa).isSome then .done (s.replyTo m (.atomResp tag ep .partialLine 0))
  else if isRegs pa then
    let old := BitVec.ofNat 32 (bytesNat (s.uncachedRead pa 4))
    .done ((s.uncachedWrite pa (wordBytes (atomNew op old x y))).replyTo m (.atomResp tag ep .ok old))
  else if s.windowMoving blk then .wait s
  else if (s.localCopy blk).isSome then .done (s.doAtomic m blk pa op x y tag ep)
  else if s.isFrozen .home blk then .wait s
  else
    match s.homeWaits blk .write with
    | some s => .wait s
    | none =>
      if (s.homeTokens blk).2.1 = 4096 ∧ (s.activeOf blk).all fun e => e.req == s.here .home then .done (s.doAtomic m blk pa op x y tag ep)
      else .wait (s.ask .home 74 blk .write false 0)

/-- HOME_ATOMIC (R281). -/
def execHomeAtomic (id : Nat) (s : State) : Result :=
  s.deal id fun m =>
    match m.body with
    | .atomReq pa op x y tag ep => s.homeAtomic m pa op x y tag ep
    | _ => .wait s

/-! ## The answer of an atomic (R281, R306, R307, R308) -/

/-- Free the remote tag of a request (R307). -/
def State.freeTag (s : State) (c id : Nat) : State :=
  s.modCore c fun k => { k with tags := k.tags.filter fun x => x.2 != id }

/-- The next lane of an atomic or a reduction on the word of one that is over goes to its home (R186); the timer of a reduction's line starts again
(R308). -/
def State.nextLane (s : State) (c : Nat) (r : Req) (lane : Nat) (rest : List LaneReq) : State :=
  let next := (r.lanes.find? fun l => l.lane == lane).bind fun l => rest.find? fun k => k.off == l.off && !r.bad.any fun b => b.1 == k
  let tag := ((s.core c).tags.find? fun x => x.2 == r.id).map (·.1)
  let send (s : State) (op : AtomOp) (k : LaneReq) : State :=
    match tag with
    | some t => s.sendLanes c { r with lanes := [k], acted := true } op (c * 512 + t) ((s.core c).epoch t)
    | none => s.sendLanes c { r with lanes := [k], acted := true } op r.tokenTag 0
  match next, r.kind with
  | some k, .atom op => send (s.noteSent c r.id) op k
  | some k, .red op => send (s.modCore c fun k => { k with storeQ := k.storeQ.map fun q => if q.id == r.id then { q with age := 0 } else q }) op k
  | _, _ => s

/-- A lane of a request is over: its request ends with the last one. Where it was the first of its instruction to act at another device, the others go
after it. -/
def State.endLane (s : State) (c : Nat) (r : Req) (lane : Nat) : State :=
  let rest := r.lanes.filter fun l => l.lane != lane
  let first : Bool := r.page.home != s.dev && !r.acted && match r.kind with
    | .atom _ => true
    | _ => false
  if rest.isEmpty then (((s.dropReq c r.id).dropStore c r.id).freeTag c r.id).reqAcquire c r.ord
  else
    let cut (q : Req) : Req := if q.id == r.id then { q with lanes := rest, sent := q.sent && !first } else q
    let s := s.modCore c fun k => { k with reqs := k.reqs.map cut, storeQ := k.storeQ.map cut }
    if first then s.freeTag c r.id else s.nextLane c r lane rest

/-- A lane of an atomic meets a cause: before any lane has acted, so do the lanes on its block; afterwards it alone, and the others go on. -/
def State.failLane (s : State) (c : Nat) (r : Req) (l : LaneReq) (code : Nat) : State :=
  let rest := r.openLanes.filter fun k => k != l
  if r.acted && !rest.isEmpty then (s.modReq c r.id fun q => { q with bad := q.bad ++ [(l, code)] }).nextLane c r l.lane rest
  else
    let hit := r.openLanes.filter fun k => r.laneBlk k == r.laneBlk l
    (s.modReq c r.id fun q => { q with bad := q.bad ++ hit.map (fun k => (k, code)), sent := false }).freeTag c r.id

/-- The answer of one lane: a value, a cause, or a report. A cause of a lane of an atomic is raised also where another lane has acted (log entry
79). DESIGN CHOICE: an atomic whose write was discarded is reported with kind 1 (R310; log entry 110). -/
def State.atomAnswer (s : State) (c : Nat) (r : Req) (lane : Nat) (st : RemStatus) (old : Word) : State :=
  match r.openLanes.find? fun l => l.lane == lane with
  | none => s
  | some l =>
    match r.kind with
    | .red _ =>
      let s := match st with
        | .ok => s
        | .dataError => s.tell c r 0x70 0 r.page.home 1
        | .partialLine => s.tell c r 0x44 6 r.page.home 1
        | _ => s
      s.endLane c r lane
    | _ =>
      let done : State := (s.markActed c r).putPend r.team l.fib r.inst (l.dst.map fun d => (d, old))
      match st with
      | .ok => done.endLane c r lane
      | .partialLine => (done.tell c r 0x44 6 r.page.home 1).endLane c r lane
      | .dataError => s.failLane c r l 0x70
      | _ => s.failLane c r l 0x40

/-- The core and tag that a remote tag names, with the request that uses it under an epoch; a stale answer has none. -/
def State.tagged (s : State) (tag : Nat) (ep : BitVec 4) : Option (Nat × Req) :=
  let c := tag / 64 / 512
  let k := tag / 64 % 512
  match assoc (s.core c).tags k with
  | some id => if (s.core c).epoch k = ep then (s.req? c id).map fun r => (c, r) else none
  | none => none

/-- ATOMIC_REPLY. -/
def execAtomicReply (id : Nat) (s : State) : Result :=
  s.deal id fun m =>
    match m.body with
    | .atomResp tag ep st old =>
      if 2 ^ 20 ≤ tag / 64 then
        match findReq (tag / 64 - 2 ^ 20) s.cores 0 with
        | some (c, r) => .done (s.atomAnswer c r (tag % 32) st old)
        | none => .done s
      else
        match s.tagged tag ep with
        | some (c, r) => .done (s.atomAnswer c r (tag % 64) st old)
        | none => .done (s.countStale (s.core (tag / 64 / 512)).die)
    | _ => .wait s

/-! ## Published windows from outside (R132, R133) -/

/-- The bytes that a mask selects, each with its offset. -/
def maskedBytes (mask : BitVec 256) (d : LineData) : List (Nat × Byte) :=
  ((List.range 256).filter fun i => mask.getLsbD i).map fun i => (i, d.extractLsb' (8 * i) 8)

/-- Write masked bytes of the line that begins with a block, block by block: one write of each block's order (R188). -/
def State.writeMasked (s : State) (b0 : Nat) (mask : BitVec 256) (d : LineData) : State :=
  (touched mask).foldl (fun s h =>
    let bs := (maskedBytes mask d).filter fun b => b.1 / 128 == h
    s.changeBlock (b0 + h) fun x => bs.foldl (fun x b => patchBlock x (b.1 % 128) [b.2]) x) s

/-- A posted line's mask covers a whole block. -/
def blockMasked (mask : BitVec 256) (half : Nat) : Bool := (mask.extractLsb' (128 * half) 128) == BitVec.allOnes 128

/-- Poison under masked bytes of the line that begins with a block: whole blocks clear it, and others keep it and say so (R285). -/
def State.maskPoison (s : State) (b0 : Nat) (mask : BitVec 256) : Bool × State :=
  (touched mask).foldl (fun x h =>
    if !x.2.poisoned (b0 + h) then x
    else if blockMasked mask h then (x.1, x.2.setPoison (b0 + h) false)
    else (true, x.2)) (false, s)

/-- A load from another device of a line of a window, or of a line whose owner is here. Where neither is here any more it goes back to the home, but
for the home's own question (R295). -/
def State.answerWindowLoad (s : State) (m : Msg) (pa tag : Nat) (ep : BitVec 4) : State :=
  let b := blkOf 0 (pa / 256 * 256)
  let line := bytesNat (blockBytesOf (s.current b) ++ blockBytesOf (s.current (b + 1)))
  if s.valueHere (blkOf 0 pa) then
    let bad := [b, b + 1].filter fun k => s.valueHere k && s.poisoned k
    let answer (st : RemStatus) : State := s.replyTo m (.loadResp tag ep st (BitVec.ofNat 2048 line))
    if bad.isEmpty then answer .ok else (answer .dataError).markBad s.nextId bad
  else if m.src.dev = pa / 2 ^ 52 then s.replyTo m (.loadResp tag ep .refused 0)
  else s.send m.src (homeParty b) (.loadReq (pa % 2 ^ 52) 15 tag ep)

/-- PUBLISHED_ACCESS: an access from another device at the holder of a window. A block that a row operation has read from an affected sector is marked
there (R328). -/
def execPublishedAccess (id : Nat) (s : State) : Result :=
  s.deal id fun m =>
    match m.body with
    | .pubLoad pa tag ep => .done (s.answerWindowLoad m pa tag ep)
    | .pubStore pid pa mask d =>
      let blks := (touched mask).map fun h => blkOf 0 pa + h
      if blks.any s.windowMoving then .wait s
      else if blks.all fun b => (s.localCopy b).isSome then
        let (bad, s) := s.maskPoison (blkOf 0 pa) mask
        let s := m.poison.foldl (fun s b => s.setPoison b true) (s.writeMasked (blkOf 0 pa) mask d)
        .done (s.replyTo m (.postedAck pid (if bad then .dataError else .ok)))
      else .done (s.replyTo m (.postedAck pid .refused))
    | .pubAtom pa op x y tag ep =>
      let blk := blkOf 0 pa
      if s.windowMoving blk then .wait s
      else if (s.localCopy blk).isSome then .done (s.doAtomic m blk pa op x y tag ep)
      else .done (s.send m.src (homeParty blk) (.atomReq (pa % 2 ^ 52) op x y tag ep))
    | _ => .wait s

/-- WINDOW_WRITEBACK (R133). -/
def execWindowWriteback (core blk : Nat) (s : State) : Result :=
  match (s.core core).unpub.find? fun u => u.blk == blk with
  | some u => .next (s.writeLeft core u)
  | none => .next s

/-! ## Migration (R204) -/

/-- MIGRATION_PULL: a block of an active entry is pulled from the old frame. -/
def execMigrationPull (entry block : Nat) (s : State) : Result := .next (s.pull entry block)

end Sys2Proof.Machine
end

