-- ==== Sys2Proof/Machine/Engines.lean ====
section
/-! DEFINITION. Copy engines: the start, the lines and the end of a command, pushes, and reduction at the destination (R146 to R157, R258,
R313). -/

namespace Sys2Proof.Machine

def State.cmd? (s : State) (c id : Nat) : Option Cmd := (s.core c).cmds.find? fun m => m.id == id

def State.modCmd (s : State) (c id : Nat) (f : Cmd → Cmd) : State :=
  s.modCore c fun k => { k with cmds := k.cmds.map fun m => if m.id == id then f m else m }

def State.dropCmd (s : State) (c id : Nat) : State := s.modCore c fun k => { k with cmds := k.cmds.filter fun m => m.id != id }

/-- A command of a core whose team's engines run, with the team. -/
def State.running (s : State) (c id : Nat) : Option (Cmd × Team) :=
  match s.cmd? c id with
  | some m =>
    match s.team? m.team with
    | some t => if t.works ∧ t.core = c then some (m, t) else none
    | none => none
  | none => none

/-- The command ends: its scoreboard entry clears, and the handle becomes full (R140, R147). -/
def State.endCmd (s : State) (c : Nat) (t : Team) (m : Cmd) : State :=
  (s.dropCmd c m.id).moveHandle t m.h fun x => { x with st := .full }

/-! ## COPY_COMMAND_START (R153, R258) -/

/-- An earlier entry of the team that a command waits for. -/
def Cmd.waitsFor (m x : Cmd) : Bool :=
  x.inst < m.inst && x.team == m.team && overlaps m.base m.size x.base x.size && (x.kind.fills || (m.kind.fills && x.reading))

/-- An earlier access of the issuing fibre that is not yet performed. -/
def State.fibreBusy (s : State) (t : Team) (m : Cmd) : Bool :=
  ((s.pendingReqs t [m.fib]).any fun r => r.inst < m.inst) || (s.pendingPosts t [m.fib]).any fun p => p.inst < m.inst

/-- A fill would change window bytes that are not yet written back (R133). -/
def State.windowBytesLeft (s : State) (t : Team) (m : Cmd) : Bool :=
  m.kind.fills && (s.core t.core).unpub.any fun u => overlaps (t.lbase.getD 0 + m.base + m.done) (m.size - m.done) u.la 128

def execCopyCommandStart (core id : Nat) (s : State) : Result :=
  match s.running core id with
  | none => .next s
  | some (m, t) =>
    if m.started || (s.core core).cmds.any m.waitsFor || s.fibreBusy t m || s.windowBytesLeft t m || (m.kind.fills && s.imageRead t m.base m.size) then
      .next s
    else .next (s.modCmd core id fun m => { m with started := true })

/-! ## Faults of a command (R151, R239) -/

/-- A fault after issue at a line: page not present saves the team; another stops the command and is recorded on its handle. The address is
that of the line (R239). DESIGN CHOICE: a push that is stopped so makes no arrival of the bytes delivered (log entry 75). -/
def State.engineFault (s : State) (t : Team) (m : Cmd) (c : Cause) : State :=
  let c := { c with addr := c.addr / 256 * 256 }
  if c.code = 0x30 then
    let is := if m.implicit then m.fibs else [m.fib]
    s.raise t { c with page := 3 } is is m.epc
  else
    (s.dropCmd t.core m.id).moveHandle t m.h fun x =>
      { x with st := if m.kind.fills then .free else .full, fault := true, inner := c.code, faddr := c.addr }

/-! ## Elements (R146) -/

/-- The next elements of a record that one transfer moves: dropped ones, or elements of one source or destination line, each with its
virtual address; `none` for dropped ones. -/
def gather (place : Nat → Place?) : Nat → Nat → Option (List (Option Nat)) → List (Option Nat)
  | 0, _, acc => acc.getD []
  | fuel + 1, i, acc =>
    match place i with
    | .ok x =>
      match acc with
      | none => gather place fuel (i + 1) (some [x])
      | some l =>
        let same : Bool := match l.head?, x with
          | some none, none => true
          | some (some a), some b => a / 256 == b / 256
          | _, _ => false
        if same then gather place fuel (i + 1) (some (l ++ [x])) else l
    | .error _ => acc.getD [none]

/-- The elements of the next transfer of a command through record `n` from element `elem` on. -/
def Cmd.nextElements (m : Cmd) (t : Team) (n elem : Nat) : Nat × List (Option Nat) :=
  let z := 2 ^ (recordOfBits (t.record n)).esz
  (z, gather (fun k => elementAddr (t.record n) m.fib (elem + k) z) (min (256 / z) ((m.size - m.done) / z)) (m.done / z) none)

/-- The read of a command that is under way. -/
def State.engineRead (s : State) (c id : Nat) : Option Req :=
  (s.core c).reqs.find? fun r => r.kind == .fetch && r.cmd == some (engineBase + id)

/-- Start the read of a line for a command: one lane for each element. -/
def State.startEngineRead (s : State) (t : Team) (m : Cmd) (z : Nat) (vas : List Nat) (p : Page) : State :=
  let va := vas.headD 0
  let lanes := vas.map fun a =>
    ({ lane := 0, fib := engineBase + m.id, off := a % 256, size := z, dst := [], reads := [], x := 0, y := 0, flag := none } : LaneReq)
  let r : Req := { id := s.nextId, inst := m.inst, team := t.id, bundle := [m.fib], epc := m.epc, kind := .fetch, ord := pageOrd p .rlx
                   va := va / 256 * 256, page := { p with pa := p.pa / 256 * 256 }, lanes := lanes, data := none
                   sent := false, age := 0, bad := [], all := [(0, m.fib)], told := false, cmd := some (engineBase + m.id), miss := .hit
                   good := false, acted := false, tried := none, rts := none }
  s.enqueue t.core r

/-- The block at an offset of a window. -/
def PubEntry.blockAt (e : PubEntry) (off : Nat) : Nat := e.pages.getD (off / 8192) 0 + off % 8192 / 128

/-- Bytes of a team's local memory have been written: the whole blocks among them of its windows lose their poison (R285). -/
def State.coverLocal (s : State) (t : Team) (a n : Nat) : State :=
  (((s.core t.core).pubs.map (·.2)).filter (·.team == t.id)).foldl (fun s e =>
    ((List.range (e.size / 128)).filter fun k => a ≤ e.lbase + 128 * k && e.lbase + 128 * k + 128 ≤ a + n).foldl
      (fun s k => s.clearPoison (e.blockAt (128 * k)) 0 128) s) s

/-- Bytes reach the region of a fill: hwptr advances. DESIGN CHOICE: each line that a fill delivers counts as an arrival at its handle, and the end
of a drain does not (R93; log entry 76). -/
def State.deliverLine (s : State) (t : Team) (m : Cmd) (bs : List Byte) : State :=
  let s := (s.progress t.id).coverLocal t (m.base + m.done) bs.length
  let s := s.modCore t.core fun k => { k with lmem := k.lmem.write (t.lbase.getD 0 + m.base + m.done) bs }
  let s := s.modTeam t.id fun t =>
    { t with handles := t.handles.modify m.h fun x => { x with hwptr := m.done + bs.length } }
  s.modCmd t.core m.id fun x => { x with done := m.done + bs.length }

/-! ## COPY_LINE_TRANSFER (R146, R147, R155, R313) -/

/-- An engine's access to a device or strongly ordered page waits for the earlier ones of its fibre that the type orders before it (R202, R258). -/
def State.copyHeld (s : State) (t : Team) (m : Cmd) (p : Page) : Bool :=
  let old := ((s.pendingReqs t [m.fib]).filter fun r => r.inst < m.inst).map (fun r => r.page.ty)
    ++ (((s.pendingPosts t [m.fib]).filter fun q => q.inst < m.inst).map fun q => q.ty)
  let mine := (((s.core t.core).reqs ++ (s.core t.core).storeQ).any fun r => r.cmd == some m.id && r.kind == .store)
    || s.fab.posts.any fun q => q.cmd == some m.id
  (p.ty.isStrong && !old.isEmpty) || (p.ty.isDevice && (mine || (old ++ s.copyTypes t [m.fib] m.inst).any MemType.isDevice))

/-- One line of a `cpin`: its read starts, or its bytes arrive. -/
def State.copyIn (s : State) (t : Team) (m : Cmd) (n elem : Nat) : State :=
  let (z, es) := m.nextElements t n elem
  let vas := es.filterMap id
  match vas with
  | [] => s.deliverLine t m (List.replicate (z * es.length) 0)
  | va :: _ =>
    match s.engineRead t.core m.id with
    | some r =>
      match r.failed with
      | some code => (s.useFetch t.core r).engineFault t m { code := code, addr := r.va }
      | none => if r.settled then (s.useFetch t.core r).deliverLine t m (vas.flatMap fun a => r.bytesAt a z) else s
    | none =>
      match s.translate t.core t.asid va .load t.privileged with
      | .error c => s.engineFault t m c
      | .ok p => if s.copyHeld t m p then s else if s.reachable p.home then s.startEngineRead t m z vas p else s.engineFault t m { code := 0x40, addr := va }

/-- Local bytes of a command's region from the next one on. -/
def State.regionBytes (s : State) (t : Team) (m : Cmd) (n : Nat) : List Byte :=
  (s.core t.core).lmem.read (t.lbase.getD 0 + m.base + m.done) n

/-- One line of a `cpout`: a relaxed store of its bytes, in package scope once performed. -/
def State.copyOut (s : State) (t : Team) (m : Cmd) (n elem : Nat) : State :=
  let (z, es) := m.nextElements t n elem
  let bytes := s.regionBytes t m (z * es.length)
  let moved : State := s.modCmd t.core m.id fun x => { x with done := m.done + z * es.length }
  match es.filterMap id with
  | [] => moved
  | va :: rest =>
    match s.translate t.core t.asid va .store t.privileged with
    | .error c => s.engineFault t m c
    | .ok p =>
      if s.copyHeld t m p then s
      else
      let vas := va :: rest
      let lane (k : Nat) : LaneReq :=
        let b := bytesNat ((bytes.drop (z * k)).take z)
        { lane := 0, fib := m.fib, off := vas.getD k 0 % 256, size := z, dst := [], reads := [], x := BitVec.ofNat 32 b
          y := BitVec.ofNat 32 (b / 2 ^ 32), flag := none }
      let r : Req := { id := s.nextId, inst := m.inst, team := t.id, bundle := [m.fib], epc := m.epc, kind := .store
                       ord := pageOrd p (.rel .pkg), va := va / 256 * 256
                       page := { p with pa := p.pa / 256 * 256 }, lanes := (List.range vas.length).map lane, data := none
                       sent := false, age := 0, bad := [], all := [(0, m.fib)], told := false, cmd := some m.id, miss := .hit, good := false, acted := false, tried := none, rts := none }
      (moved.modCore t.core fun c => { c with reqs := c.reqs ++ [r] }).fresh

/-- The error entry of a push or a contribution, and its end (R147, R313). -/
def State.failPush (s : State) (t : Team) (m : Cmd) (cause detail peer va : Nat) : State :=
  let kind := match m.kind with
    | .red .. => 5
    | _ => 4
  (s.reportFor t.id cause detail peer kind m.fib m.epc (va / 256 * 256) 0).endCmd t.core t m

/-- Home and physical address of a virtual address that a push may write, as one number. -/
def State.placeAt (s : State) (t : Team) (va : Nat) : Option Nat :=
  match s.translate t.core t.asid va .store t.privileged with
  | .ok p => some (p.home * 2 ^ 52 + p.pa)
  | .error _ => none

/-- Lines of a push, or a contribution, that have not yet left for another device. -/
def State.pushWaits (s : State) (id : Nat) (m : Msg) : Bool :=
  m.dst.dev != s.dev && match m.body with
    | .push i _ _ _ _ => i == id
    | .contrib i _ _ _ => i == id
    | _ => false

/-- The window's device cannot be reached: what has not left stays, and the command ends (R305, R313). -/
def State.cutPush (s : State) (t : Team) (m : Cmd) (peer va : Nat) : State :=
  { s with msgs := s.msgs.filter fun x => !s.pushWaits m.id x }.failPush t m 0x43 1 peer va

/-- One line of a push. -/
def State.pushOne (s : State) (t : Team) (m : Cmd) (va : Nat) : State :=
  if 2 ^ 57 ≤ va then s.failPush t m 0x66 0 s.dev (va - 2 ^ 57)
  else
  match s.translate t.core t.asid (va + m.done) .store t.privileged with
  | .error c => s.engineFault t m c
  | .ok p =>
    let dst := s.windowParty p m.tried
    if !s.reachable dst.dev then s.cutPush t m dst.dev va
    else
      let last : Option Nat := if m.done + 256 = m.size then some m.size else none
      let lines := (List.range (m.size / 256)).filterMap fun k => s.placeAt t (va + 256 * k)
      let held := if m.held.length < m.done + 256 then m.held ++ s.regionBytes t m 256 else m.held
      let body := Body.push m.id (p.home * 2 ^ 52 + p.pa) (BitVec.ofNat 2048 (bytesNat ((held.drop m.done).take 256))) last lines
      (s.send (s.here (.die (s.core t.core).die)) dst body).modCmd t.core m.id fun x =>
        { x with done := m.done + 256, sent := last.isSome, age := 0, held := held }

/-- A contribution, whole. -/
def State.sendContribution (s : State) (t : Team) (m : Cmd) (va index : Nat) : State :=
  if 2 ^ 57 ≤ va then s.failPush t m 0x66 0 s.dev (va - 2 ^ 57)
  else
  match s.translate t.core t.asid va .store t.privileged with
  | .error c => s.engineFault t m c
  | .ok p =>
    let dst := s.windowParty p m.tried
    if !s.reachable dst.dev then s.cutPush t m dst.dev va
    else
      let bytes := if m.held.isEmpty then (s.core t.core).lmem.read (t.lbase.getD 0 + m.base) m.size else m.held
      let words := (List.range (m.size / 4)).map fun k => BitVec.ofNat 32 (bytesNat ((bytes.drop (4 * k)).take 4))
      (s.send (s.here (.die (s.core t.core).die)) dst (.contrib m.id (p.home * 2 ^ 52 + p.pa) index words)).modCmd t.core m.id fun x =>
        { x with done := m.size, sent := true, refused := false, noted := false, age := 0, held := bytes }

/-- Move the next line of a command. -/
def State.moveLine (s : State) (t : Team) (m : Cmd) : State :=
  match m.kind with
  | .cpin n elem => s.copyIn t m n elem
  | .cpout n elem => s.copyOut t m n elem
  | .fill w => s.deliverLine t m (wordsOf (List.replicate 64 w))
  | .push va => s.pushOne t m va
  | .red va index => s.sendContribution t m va index

def execCopyLineTransfer (core id : Nat) (s : State) : Result :=
  match s.running core id with
  | none => .next s
  | some (m, t) => if m.started && m.done < m.size && !s.windowBytesLeft t m then .next (s.moveLine t m) else .next s

/-! ## COPY_COMMAND_COMPLETE (R147, R313) -/

/-- A copy out's stores that are not yet performed. -/
def State.storesOf (s : State) (c id : Nat) : Bool := ((s.core c).reqs ++ (s.core c).storeQ).any fun r => r.cmd == some id

/-- A command whose end its team still attends: of running engines, or a push that a save of its team waits for. -/
def State.attended (s : State) (c id : Nat) : Option (Cmd × Team) :=
  match s.running c id with
  | some x => some x
  | none =>
    match s.cmd? c id with
    | some m =>
      match s.team? m.team with
      | some t =>
        let saving : Bool := match t.cond with
          | .saving .. => true
          | _ => false
        if saving && m.sent && t.core == c then some (m, t) else none
      | none => none
    | none => none

/-- The device to which a push or a contribution goes. -/
def State.pushPeer (s : State) (t : Team) (m : Cmd) (va : Nat) : Nat :=
  match s.translate t.core t.asid va .store t.privileged with
  | .ok p => (s.windowParty p m.tried).dev
  | .error _ => s.dev

/-- What is left of a push or a contribution waits here for a device that can no longer be reached. -/
def State.pushCut (s : State) (t : Team) (m : Cmd) (va : Nat) : Bool :=
  !s.reachable (s.pushPeer t m va) && s.msgs.any (s.pushWaits m.id)

/-- The end of a fill or a copy out, and of a push whose device cannot be reached or that has waited for its acknowledgement too long. -/
def execCopyCommandComplete (core id : Nat) (s : State) : Result :=
  match s.attended core id with
  | none => .next s
  | some (m, t) =>
    if m.done < m.size ∨ !m.started then .next s
    else
      match m.kind with
      | .push va => if s.pushCut t m va then .next (s.cutPush t m (s.pushPeer t m va) va) else if m.sent ∧ s.rtoTicks ≤ m.age then .next (s.failPush t m 0x43 2 (s.pushPeer t m va) va) else .next s
      | .red va _ => if s.pushCut t m va then .next (s.cutPush t m (s.pushPeer t m va) va) else if m.sent ∧ !m.refused ∧ s.rtoTicks ≤ m.age then .next (s.failPush t m 0x43 2 (s.pushPeer t m va) va) else .next s
      | .cpout .. => if s.storesOf core id then .next s else .next (s.endCmd core t m)
      | _ => .next (s.endCmd core t m)

/-! ## At the window (R132, R155, R156, R313) -/

/-- The window that an address of a push names: core, entry and the offset in the window. -/
def State.windowAtPa (s : State) (pa : Nat) : Option (Nat × PubEntry × Nat) :=
  (findWindow (pa / 128) s.cores 0).map fun x => (x.1, x.2.2.1, x.2.2.2 + pa % 128)

/-- Write whole blocks at an offset of a window: they lose their poison (R285). -/
def State.putWindow (s : State) (c : Nat) (e : PubEntry) (off : Nat) (bs : List Byte) : State :=
  let base := s.localBase e.team + e.lbase + off
  let s := (List.range (bs.length / 128)).foldl (fun s k => s.clearPoison (e.blockAt (off + 128 * k)) 0 128) s
  s.modCore c fun k => { k with lmem := k.lmem.write base bs }

/-- Bytes of a push that have been written. -/
def State.pushedIn (s : State) (dev id : Nat) : Nat :=
  ((s.fab.pushIn.find? fun p => p.1 == dev && p.2.1 == id).map fun p => p.2.2).getD 0

def State.setPushedIn (s : State) (dev id n : Nat) : State :=
  let rest := s.fab.pushIn.filter fun p => !(p.1 == dev && p.2.1 == id)
  { s with fab := { s.fab with pushIn := if n = 0 then rest else rest ++ [(dev, id, n)] } }

/-- The arrival of a push or a contribution on a window's object, at domain scope (R136). -/
def State.windowArrive (s : State) (e : PubEntry) (n : Nat) : State := s.arrive e.team (e.lbase + e.arr) n 6

/-- The last line of a push is there: once every byte is written, the arrival is made and acknowledged. -/
def State.finishPush (s : State) (m : Msg) (e : PubEntry) (id n : Nat) : State :=
  ((s.setPushedIn m.src.dev id 0).windowArrive e n).send m.dst m.src (.pushAck id .ok)

/-- The message is a line of a push at its window's device. -/
def atWindow (m : Msg) : Bool := m.dst.place == .home

/-- The lines of a push lie in the window `e` of core `c`. -/
def State.linesFit (s : State) (c : Nat) (e : PubEntry) (lines : List Nat) : Bool :=
  lines.all fun pa => match s.windowAtPa pa with
    | some (k, x, off) => k == c && x == e && off + 256 ≤ e.size
    | none => false

/-- PUSH_LINE_WRITE. A moving window, and one that is closed while its team moves, sends the line back (R157). -/
def execPushLineWrite (id : Nat) (s : State) : Result :=
  s.deal id fun m =>
    match m.body with
    | .push pid pa data last lines =>
      if !atWindow m then .wait s
      else
        match s.windowAtPa pa with
        | none =>
          if s.windowClosed (pa / 128) then .done (s.send m.dst m.src m.body)
          else .done ((s.setPushedIn m.src.dev pid 0).send m.dst m.src (.pushAck pid .noWindow))
        | some (c, e, off) =>
          if !e.arrEn || !s.linesFit c e lines then .done ((s.setPushedIn m.src.dev pid 0).send m.dst m.src (.pushAck pid .noWindow))
          else if e.moving then .done (s.send m.dst m.src m.body)
          else
            let got := s.pushedIn m.src.dev pid + if lines.isEmpty then 0 else 256
            match last with
            | some n =>
              if got < n then .wait s
              else
                let s := if lines.isEmpty then s else s.putWindow c e off (natBytes 256 data.toNat)
                .done (s.finishPush m e pid n)
            | none => .done ((s.putWindow c e off (natBytes 256 data.toNat)).setPushedIn m.src.dev pid got)
    | _ => .wait s

/-- A contribution is added to the window's words (R155). -/
def State.addWords (s : State) (c : Nat) (e : PubEntry) (off : Nat) (ws : List Word) : State :=
  let base := s.localBase e.team + e.lbase + off
  let add (l : Mem) (k : Nat) : Mem :=
    let a := base + 4 * k
    l.write a (wordBytes (atomNew .addF32 (l.word a) (ws.getD k 0) 0))
  s.modCore c fun x => { x with lmem := (List.range ws.length).foldl add x.lmem }

/-- Wake the noted sender whose turn has come (R156). -/
def State.wakeSender (s : State) (dst : Party) (c obj : Nat) (rnext : BitVec 16) : State :=
  match (s.core c).noted.find? fun x => x.obj == obj && x.index == rnext.toNat with
  | none => s
  | some x =>
    (s.modCore c fun k => { k with noted := k.noted.filter fun y => !(y == x) }).send dst x.who (.wake x.cmd)

/-- CONTRIBUTION_ARRIVAL (R156). -/
def execContributionArrival (id : Nat) (s : State) : Result :=
  s.deal id fun m =>
    match m.body with
    | .contrib pid pa index words =>
      let answer (s : State) (st : RemStatus) : State := s.send m.dst m.src (.pushAck pid st)
      match s.windowAtPa pa with
      | none => .done (answer s (if s.windowClosed (pa / 128) then .queueFull else .noWindow))
      | some (c, e, off) =>
        if !e.arrEn || e.size < off + 4 * words.length then .done (answer s .noWindow)
        else if e.moving then .done (answer s .queueFull)
        else
          match s.team? e.team with
          | none => .done (answer s .noWindow)
          | some t =>
            let obj := e.lbase + e.arr
            let o := s.object t obj
            if index < (objRnext o).toNat then .done (answer s .passed)
            else if index = (objRnext o).toNat then
              let s := s.addWords c e off words
              let s := (s.setObject t obj (putBits (s.object t obj) 80 16 (index + 1))).windowArrive e (4 * words.length)
              .done ((answer s .ok).wakeSender m.dst c (s.localBase e.team + obj) (objRnext (s.object t obj)))
            else if (s.core c).noted.length < 64 then
              let x : NotedSender := { who := m.src, cmd := pid, obj := s.localBase e.team + obj, index := index }
              .done (answer (s.modCore c fun k => { k with noted := k.noted ++ [x] }) .refused)
            else .done (answer s .queueFull)
    | _ => .wait s

/-! ## Back at the issuer (R147, R156, R157, R313) -/

/-- The core and command of a number, among cores from `c` on. -/
def findCmd (id : Nat) : List Core → Nat → Option (Nat × Cmd)
  | [], _ => none
  | k :: ks, c =>
    match k.cmds.find? fun m => m.id == id with
    | some m => some (c, m)
    | none => findCmd id ks (c + 1)

def Cmd.target (m : Cmd) : Nat :=
  match m.kind with
  | .push va => va
  | .red va _ => va
  | _ => 0

/-- A device holds no window for a push: the next one is tried, and once none is left the push has failed (R147). A late answer of a device
tried before says nothing. -/
def State.nextWindow (s : State) (t : Team) (m : Cmd) (dev : Nat) : State :=
  if m.tried.contains dev then s
  else
    let tried := m.tried ++ [dev]
    let home := match s.translate t.core t.asid m.target .store t.privileged with
      | .ok p => p.home
      | .error _ => dev
    if (home :: s.otherDevices).any fun d => !tried.contains d then
      s.modCmd t.core m.id fun x => { x with tried := tried, done := 0, sent := false, refused := false, age := 0 }
    else s.failPush t m 0x66 0 home m.target

/-- The team's handle table is in its frame, which brings it back (R157, R231). -/
def Team.framed (t : Team) : Bool :=
  match t.cond with
  | .written .. => true
  | .saved .. => true
  | .trapped => true
  | _ => false

/-- PUSH_ACK: the command ends, well or with its report, or waits to be retried. An answer to a push that a save has stopped waits for its team, whose
frame holds the command's progress (R157). -/
def execPushAck (id : Nat) (s : State) : Result :=
  s.deal id fun m =>
    match m.body with
    | .pushAck pid st =>
      match findCmd pid s.cores 0 with
      | none => .done s
      | some (c, k) =>
        match s.team? k.team with
        | none => .done s
        | some t =>
          if t.framed then .wait s
          else match st with
          | .ok => .done (s.endCmd c t k)
          | .noWindow => .done (s.nextWindow t k m.src.dev)
          | .passed => .done (s.failPush t k 0x65 0 m.src.dev k.target)
          | .refused => .done (s.modCmd c pid fun x => { x with refused := true, noted := true, age := 0 })
          | .queueFull => .done (s.modCmd c pid fun x => { x with refused := true, noted := false, age := 0 })
          | _ => .done s
    | _ => .wait s

/-- Lines of a push that a moving window has sent back to its core. -/
def State.returned (s : State) (c id : Nat) : List Msg :=
  s.msgs.filter fun m => m.dst == s.here (.die (s.core c).die) && 1 ≤ m.age && match m.body with
    | .push pid _ _ _ _ => pid == id
    | _ => false

/-- PUSH_RETRY (R157): the engine sends the refused lines again, those of a stopped push too (R148). -/
def execPushRetry (core id : Nat) (s : State) : Result :=
  let back := s.returned core id
  if back.isEmpty then .next s
  else
    .next (back.foldl (fun s m => (s.dropMsg m.id).send m.dst m.src m.body)
      (s.modCmd core id fun x => { x with age := 0 }))

/-- The sender's turn has come, or it could not be noted and 1 µs has passed. -/
def State.mayRetry (s : State) (m : Cmd) : Bool :=
  m.refused && ((!m.noted && usTicks 1 ≤ m.age) || s.msgs.any fun x => x.dst.dev == s.dev && x.body == Body.wake m.id)

/-- CONTRIBUTION_RETRY (R156). -/
def execContributionRetry (core id : Nat) (s : State) : Result :=
  match s.running core id with
  | none =>
    -- A message that wakes a command that is no longer there is spent.
    if (findCmd id s.cores 0).isNone then .next { s with msgs := s.msgs.filter fun x => x.body != Body.wake id } else .next s
  | some (m, t) =>
    match m.kind with
    | .red va index =>
      if s.mayRetry m then
        .next ({ s with msgs := s.msgs.filter fun x => x.body != Body.wake id }.sendContribution t m va index)
      else .next s
    | _ => .next s

end Sys2Proof.Machine
end

