-- ==== Sys2Proof/Machine/Admission.lean ====
section
/-! DEFINITION. Launches come to run: how records arrive, the checks of a launch and its image, and the admission of teams (R41 to R46,
R80, R178, R211 to R218, R220, R313 to R315, R346). -/

namespace Sys2Proof.Machine

/-! ## Images (R41 to R46) -/

/-- How an image is read: bytes at a virtual address, unless that fails. -/
abbrev Reader := Nat → Nat → Option (List Byte)

/-- The reader of a core for `who`. -/
def State.reader (s : State) (c who : Nat) (asid : BitVec 10) : Reader := fun va n =>
  match s.readVa c who asid va n with
  | .ok bs => some bs
  | .error _ => none

/-- A header's fields lie in their ranges (R41). -/
def headerLegal (h : Nat) : Bool :=
  let fibres := bitsOf h 95 80
  let team := bitsOf h 79 64
  let winMax := bitsOf h 63 56
  bitsOf h 31 0 == 0x45574B4E && bitsOf h 39 32 == 1 && bitsOf h 47 40 ≤ 2
    && 1 ≤ winMax && winMax ≤ 32 && 1 ≤ bitsOf h 55 48 && bitsOf h 55 48 ≤ winMax
    && 1 ≤ team && team ≤ fibres && fibres ≤ 1024 && bitsOf h 111 96 ≤ 256 && bitsOf h 123 112 ≤ 2048
    && bitsOf h 127 124 == 0 && bitsOf h 167 166 == 0 && bitsOf h 511 448 == 0 && bitsOf h 223 192 % 2 == 0
    && bitsOf h 319 288 % 8 == 0 && bitsOf h 383 352 % 8 == 0 && bitsOf h 447 416 % 8 == 0
    && (bitsOf h 165 165 == 1 || bitsOf h 255 224 == 0)

/-- The target tables (R42); none where an entry is malformed. -/
def parseTargets : Nat → List Byte → Option (List (Nat × List Nat))
  | 0, _ => none
  | fuel + 1, bs =>
    if bs.isEmpty then some []
    else
      let h := bytesNat (bs.take 8)
      let n := bitsOf h 47 32
      if bs.length < 8 + 4 * n ∨ n = 0 ∨ bitsOf h 63 48 ≠ 0 then none
      else
        (parseTargets fuel (bs.drop (8 + 4 * n))).map fun l =>
          (bitsOf h 31 0, (pieces 4 n (bs.drop 8)).map bytesNat) :: l

/-- Strictly rising. -/
def rising : List Nat → Bool
  | [] => true
  | [_] => true
  | x :: y :: l => x < y && rising (y :: l)

/-- One entry of the pre-emption table (R44). -/
def parsePoint (bs : List Byte) : Nat × BitVec 256 × BitVec 8 :=
  let e := bytesNat bs
  (bitsOf e 31 0, BitVec.ofNat 256 (bitsOf e 287 32), BitVec.ofNat 8 (bitsOf e 295 288))

/-- A pre-emption entry is legal: reserved bits zero, no register at or above the declared maximum (R44, R46). -/
def pointLegal (winMax : Nat) (bs : List Byte) : Bool :=
  let e := bytesNat bs
  bitsOf e 319 296 == 0 && bitsOf e 287 32 < 2 ^ (8 * winMax)

/-- A relocation entry is legal (R45, R46). -/
def relocLegal (dataBytes : Nat) (bs : List Byte) : Bool :=
  let e := bytesNat bs
  let o := bitsOf e 31 0
  (bitsOf e 39 32 == 1 || bitsOf e 39 32 == 2) && bitsOf e 63 40 == 0 && o % 8 == 0 && o + 8 ≤ dataBytes

/-- Offsets at which instructions start (R23). -/
def starts : Nat → Nat → List Byte → List Nat
  | 0, _, _ => []
  | _ + 1, _, [] => []
  | fuel + 1, o, b :: bs =>
    let n := if b.getLsbD 0 then 4 else 2
    o :: starts fuel (o + n) ((b :: bs).drop n)

/-- The instruction at a site is an indirect branch (R42). -/
def indirect (bs : List Byte) : Bool :=
  match decode bs with
  | .ok (.brx .., _) => true
  | .ok (.brxRgp .., _) => true
  | .ok (.callx .., _) => true
  | _ => false

/-- Read a table of `n` bytes at an offset of an image; an empty table is not read. -/
def readTable (r : Reader) (va n : Nat) : Option (List Byte) := if n = 0 then some [] else r va n

/-- The parts of an image that its checks read: the header, and once that is there and legal what it names (R41 to R46). -/
def imageRanges (r : Reader) (img : Nat) : List (Nat × Nat) :=
  (img, 64) :: match r img 64 with
    | none => []
    | some hb =>
      let h := bytesNat hb
      if headerLegal h then
        [(img + 64, bitsOf h 223 192), (img + bitsOf h 319 288, bitsOf h 287 256), (img + bitsOf h 447 416, 40 * bitsOf h 415 384),
          (img + bitsOf h 383 352, 16 * bitsOf h 351 320)] ++ if bitsOf h 165 165 = 1 ∧ 32 ≤ img then [(img - 32, 32)] else []
      else []

/-- The kernel of an image, when its header and tables satisfy R41 to R46. -/
def kernelOf (r : Reader) (img : Nat) : Option Kernel :=
  match r img 64 with
  | none => none
  | some hb =>
    let h := bytesNat hb
    let codeBytes := bitsOf h 223 192
    let preN := bitsOf h 415 384
    let relN := bitsOf h 351 320
    let tgtBytes := bitsOf h 287 256
    let winMax := bitsOf h 63 56
    if !headerLegal h then none
    else
      match readTable r (img + 64) codeBytes, readTable r (img + bitsOf h 319 288) tgtBytes,
        readTable r (img + bitsOf h 447 416) (40 * preN), readTable r (img + bitsOf h 383 352) (16 * relN) with
      | some code, some tgt, some pre, some rel =>
        match parseTargets (tgt.length + 1) tgt with
        | none => none
        | some targets =>
          let ok := starts codeBytes 0 code
          let points := (pieces 40 preN pre).map parsePoint
          if rising (targets.map (·.1)) && rising (points.map (·.1))
              && targets.all (fun t => ok.contains t.1 && indirect (code.drop t.1) && t.2.all ok.contains)
              && points.all (fun p => ok.contains p.1) && (pieces 40 preN pre).all (pointLegal winMax)
              && (pieces 16 relN rel).all (relocLegal (bitsOf h 255 224)) then
            some { code := img + 64, codeBytes := codeBytes, fibres := bitsOf h 95 80, team := bitsOf h 79 64, winMax := winMax
                   winInit := bitsOf h 55 48, localBlocks := bitsOf h 123 112, handles := bitsOf h 111 96, progress := bitsOf h 47 40
                   hasData := bitsOf h 165 165 == 1, dataRec := bitsOf h 164 160, img := img, targets := targets, points := points }
          else none
      | _, _, _, _ => none

/-! ## Context descriptors (R231) -/

def ctxValid (c : BitVec 512) : Bool :=
  c.getLsbD 0 && c.extractLsb' 1 339 == 0 && c.extractLsb' 413 16 != 0 && c.extractLsb' 397 16 != 0
def ctxHandler (c : BitVec 512) : Nat := (c.extractLsb' 340 57).toNat
def ctxSlotBytes (c : BitVec 512) : Nat := (c.extractLsb' 397 16).toNat * 4096
def ctxSlots (c : BitVec 512) : Nat := (c.extractLsb' 413 16).toNat
def ctxPool (c : BitVec 512) : Nat := (c.extractLsb' 429 44).toNat * 8192

/-! ## What a team needs (R80, R217) -/

def Kernel.groups (k : Kernel) : Nat := (k.fibres + 31) / 32

/-- Numbers below `n` with home lane `lane`. -/
def inLane (n lane : Nat) : Nat := (n + 31 - lane) / 32

/-- Blocks that a team reserves in a lane column (R80). -/
def Kernel.blocksIn (k : Kernel) (lane : Nat) : Nat :=
  if k.progress = 0 then inLane k.fibres lane * k.winMax else inLane k.team lane * k.winInit

def Kernel.localSize (k : Kernel) : Nat := k.localBlocks * 256

/-- A team holds its groups, registers and handles on its core. -/
def Team.holds (t : Team) : Bool :=
  t.handlerFor.isNone && match t.cond with
    | .saved .. => t.cls == 0
    | .ended => false
    | _ => true

def sum (xs : List Nat) : Nat := xs.foldl (fun a b => a + b) 0

def State.holders (s : State) (c : Nat) : List Team := s.teams.filter fun t => t.core == c && t.holds

def State.groupsUsed (s : State) (c : Nat) : Nat := sum ((s.holders c).map fun t => t.kernel.groups)
def State.handlesUsed (s : State) (c : Nat) : Nat := sum ((s.holders c).map fun t => t.kernel.handles)

/-- Blocks of a column that a grant can take. -/
def State.blocksLeft (s : State) (c lane : Nat) : Nat :=
  (match assoc (s.core c).freeBlocks lane with
    | some bs => bs.length
    | none => Config.columnBlocks) + (s.lingerOf c lane).length

/-- The core takes teams (R2, R350, R351). -/
def State.coreOpen (s : State) (c : Nat) : Bool :=
  s.coreExists c && !(s.core c).retiring && (s.die (s.core c).die).present && !(s.die (s.core c).die).stopped

/-- A core can give groups, handles, blocks by lane, and a local range when `size` is not 0, at once (R217). -/
def State.fits (s : State) (c groups handles : Nat) (blocks : Nat → Nat) (size : Nat) : Bool :=
  s.coreOpen c && s.groupsUsed c + groups ≤ Config.groupSlots && s.handlesUsed c + handles ≤ Config.coreHandles
    && (List.range 32).all (fun l => blocks l ≤ s.blocksLeft c l) && (size == 0 || (s.findRange c size).isSome)

def State.fitsTeam (s : State) (c : Nat) (k : Kernel) : Bool := s.fits c k.groups k.handles k.blocksIn k.localSize

/-- Teams of a kernel that an empty core holds (R213, R217). -/
def Kernel.perCore (k : Kernel) : Nat :=
  let share (have_ need : Nat) : Nat := if need = 0 then have_ else have_ / need
  (List.range 32).foldl (fun m l => min m (share Config.columnBlocks (k.blocksIn l)))
    (min (min (Config.groupSlots / k.groups) (share Config.coreHandles k.handles)) (share Config.localBytes k.localSize))

/-! ## The checks of a launch (R213) -/

/-- The record's own fields (R211). -/
def recLegal (r : LineData) : Bool :=
  recField r 448 7 == 0 && recField r 384 7 == 0 && recField r 320 7 == 0 && recField r 0 208 == 0
    && recTeams r != 0 && (recStarve r == 0 || (10 ≤ recStarve r && recStarve r ≤ 40))
    && recImg r % 256 == 0 && recRtab r % 1024 == 0

/-- The kernel of a launch that passes the checks of result 1. -/
def State.acceptable (s : State) (l : Launch) : Option Kernel :=
  let asid := recAsid l.record
  let rd := s.reader 0 l.id asid
  if recLegal l.record && validSpace (s.spaceEntry asid) && ctxValid (s.contextBits asid.toNat) && l.cls != 3
      && (rd (recRtab l.record) 1024).isSome then
    match kernelOf rd (recImg l.record) with
    | some k =>
      if k.progress = l.cls ∧ (!k.hasData ∨ (32 ≤ k.img ∧ (rd (k.img - 32) 32).isSome)) then some k else none
    | none => none
  else none

/-- Bring from other devices what the checks of a launch read (R213). -/
def State.gatherLaunch (s : State) (l : Launch) : Option State :=
  let asid := recAsid l.record
  s.gatherOwn 0 l.id asid ((recRtab l.record, 1024) :: imageRanges (s.reader 0 l.id asid) (recImg l.record))

/-- The launch can never be resident: result 2. -/
def State.unfit (s : State) (l : Launch) (k : Kernel) : Bool :=
  let x := s.contextBits (recAsid l.record).toNat
  let cores := ((List.range s.cores.length).filter s.coreOpen).length
  k.perCore == 0 || ctxSlotBytes x < k.frameNeed
    || (k.progress == 0 && (ctxSlots x < recTeams l.record || cores * k.perCore < recTeams l.record))

/-- All teams of a launch have been admitted, or it has ended. -/
def Launch.allIn (l : Launch) : Bool :=
  match l.status with
  | .queued => false
  | .started => l.next == recTeams l.record
  | _ => true

/-- Earlier launches of the queue that cores have taken, all of whose teams must be in first (R216). -/
def State.takenBefore (s : State) (l : Launch) : List Launch :=
  s.launches.filter fun x => x.q == l.q && x.id < l.id && (x.kernel.isSome || x.status != .queued)

/-- LAUNCH_TAKE (R213, R216): the launch at the head of the ring; one that has ended before it was taken is passed by. -/
def execLaunchTake (launch : Nat) (s : State) : Result :=
  match s.launch? launch with
  | none => .next s
  | some l =>
    if l.taken ∨ !s.sys.go ∨ l.slot ≠ (s.queue l.q).ridx ∨ !(s.takenBefore l).all Launch.allIn then .next s
    else
      let s' := (s.modQueue l.q fun d => { d with ridx := (d.ridx + 1) % 2 ^ d.lsize }).modLaunch launch fun l => { l with taken := true }
      if l.status ≠ .queued then .next s' else
      if let some s := (if recLegal l.record then s.gatherLaunch l else none) then .next s else
      let s' := s'.dropOwn 0 launch
      match s.acceptable l with
      | none => .next (s'.markRetiring launch 1)
      | some k =>
        if s.unfit l k then .next (s'.markRetiring launch 2)
        else .next (s'.modLaunch launch fun l => { l with kernel := some k })

/-! ## A team at its start (R178, R212, R217, R232) -/

/-- Frame slots of a context that teams hold. -/
def State.framesUsed (s : State) (asid : BitVec 10) : List Nat :=
  (s.launches.filter fun l => recAsid l.record == asid).flatMap fun l => l.frames

/-- The lowest free frame slot of an address space's pool (R232). -/
def State.freeFrame (s : State) (asid : BitVec 10) : Option Nat :=
  let used := s.framesUsed asid
  (List.range (ctxSlots (s.contextBits asid.toNat))).find? fun k => !used.contains k

/-- How many frame slots of a context are free. -/
def State.framesFree (s : State) (asid : BitVec 10) : Nat := ctxSlots (s.contextBits asid.toNat) - (s.framesUsed asid).length

/-- Records of team `num`: those of the record table, the loader's data record, and the team's own bases of b30 and b31 (R178, R212). -/
def teamRecords (k : Kernel) (num : Nat) (table : List (BitVec 256)) (data : Option (BitVec 256)) : List (BitVec 256) :=
  (List.range 32).map fun n =>
    let b := match data with
      | some x => if k.hasData ∧ n = k.dataRec then x else table.getD n 0
      | none => table.getD n 0
    if 30 ≤ n then
      let r := recordOfBits b
      BitVec.ofNat 256 (b.toNat / 2 ^ 57 * 2 ^ 57 + (r.base + num * k.fibres * r.slice) % 2 ^ 57)
    else b

/-- Bring from another device what a core reads at the admission of a team (R212). -/
def State.gatherRecords (s : State) (l : Launch) (k : Kernel) : Option State :=
  s.gatherOwn 0 l.id (recAsid l.record) ((recRtab l.record, 1024) :: if k.hasData then [(k.img - 32, 32)] else [])

/-- The records as read for a launch, unless a read fails. -/
def State.recordsFor (s : State) (l : Launch) (k : Kernel) (num : Nat) : Option (List (BitVec 256)) :=
  let rd := s.reader 0 l.id (recAsid l.record)
  let bits (bs : List Byte) : BitVec 256 := BitVec.ofNat 256 (bytesNat bs)
  match rd (recRtab l.record) 1024, (if k.hasData then rd (k.img - 32) 32 else some []) with
  | some bs, some d => some (teamRecords k num ((pieces 32 32 bs).map bits) (some (bits d)))
  | _, _ => none

/-- Take `n` blocks of each of the lanes of fibres in turn. -/
def State.takeAll (s : State) (c : Nat) : List (Nat × Nat) → State × List (List Nat)
  | [] => (s, [])
  | (lane, n) :: rest =>
    match s.takeBlocks c lane n with
    | some (bs, s') =>
      let r := s'.takeAll c rest
      (r.1, bs :: r.2)
    | none =>
      let r := s.takeAll c rest
      (r.1, [] :: r.2)

/-- Blocks for a starting team: of each live fibre, and the reserve by lane (R80). -/
def State.startBlocks (s : State) (c : Nat) (k : Kernel) : State × List (List Nat) × List (List Nat) :=
  if k.progress = 0 then
    let r := s.takeAll c ((List.range 32).map fun l => (l, k.blocksIn l))
    let own (i : Nat) : List Nat := ((r.2.getD (laneOf i) []).drop (groupOf i * k.winInit)).take k.winInit
    (r.1, (List.range k.team).map own, (List.range 32).map fun l => (r.2.getD l []).drop (inLane k.team l * k.winInit))
  else
    let r := s.takeAll c ((List.range k.team).map fun i => (laneOf i, k.winInit))
    (r.1, r.2, [])

/-- A range of local memory, cleared (R125, R126, R157). -/
def State.takeRange (s : State) (c size : Nat) : Option Nat × State :=
  if size = 0 then (none, s)
  else
    match s.findRange c size with
    | some b => (some b, (s.claimRange c b size).clearLocal c b size)
    | none => (none, s)

/-- Fibres at team start (R50, R217). -/
def startFibres (k : Kernel) (blocks : List (List Nat)) : List Fibre :=
  (List.range k.fibres).map fun i =>
    if i < k.team then
      { Fibre.empty .live with regs := List.replicate (8 * k.winInit) 0, blocks := blocks.getD i [] }
    else Fibre.empty .dormant

/-- Give a core's resources to team `num` of a launch (R216, R217); none when its records cannot be read, or no frame slot is free. -/
def State.place (s : State) (l : Launch) (k : Kernel) (c num : Nat) (cond : TeamCond) : Option State :=
  let r := l.record
  let asid := recAsid r
  match s.recordsFor l k num, s.freeFrame asid with
  | some records, some slot =>
    let x := s.contextBits asid.toNat
    let (s, blocks, reserve) := s.startBlocks c k
    let (lbase, s) := s.takeRange c k.localSize
    -- A claim of lingering blocks may have failed this very launch.
    if (s.launch? l.id).any fun x => x.status.failing then some (s.putBack c blocks reserve)
    else
    let t : Team :=
      { id := s.nextId, launch := l.id, num := num, core := c, cond := cond, handlerFor := none, asid := asid, cls := k.progress
        depth := l.depth, nteam := BitVec.ofNat 32 (recTeams r), starve := if recStarve r = 0 then 24 else recStarve r, kernel := k
        records := records, fmts := (List.range 8).map (recFmt r), consts := (List.range 16).map (recConst r)
        fibres := startFibres k blocks, bundles := [], parked := [], pools := [], lbase := lbase, lsize := k.localSize
        handles := List.replicate k.handles .unallotted, frame := slot, frameVa := ctxPool x + slot * ctxSlotBytes x, faultRec := none
        reserve := reserve, linger := [], admitted := s.nextId, age := 0, objTimes := [], reopen := [], overflow := none
        lost := false }
    let s := { s with teams := s.teams ++ [t.resumeBundles s.stamp] }.fresh
    some ((s.modLaunch l.id fun x => { x with next := num + 1, frames := x.frames ++ [slot] }).acquireViews c l.acq)
  | _, _ => none

/-- A launch starts: its status says so (R214). -/
def State.startLaunch (s : State) (l : Launch) : State :=
  match (s.launch? l.id).map Launch.status with
  | some .queued => (s.modLaunch l.id fun x => { x with status := .started }).writeStatus l 2 0 false
  | _ => s

/-- What a pre-emption has freed has been taken (R216). -/
def State.keepPromise (s : State) (l : Nat) : State :=
  { s with cores := s.cores.map fun k => if k.promised = some l then { k with promised := none } else k }

/-! ## TEAM_ADMIT (R216 to R218) -/

/-- The launch whose teams a queue admits now. -/
def State.headOf (s : State) (q : Nat) : Option (Launch × Kernel) :=
  (s.launches.find? fun l => l.q == q && l.kernel.isSome && l.status.busy && !l.allIn && match l.status with
    | .retiring _ => false
    | _ => true).bind fun l => l.kernel.map fun k => (l, k)

/-- A saved team waits for re-admission. -/
def Team.waiting (t : Team) : Bool :=
  match t.cond with
  | .saved _ none true => true
  | _ => false

/-- A starving grid holds back the teams of a queue (R218). -/
def State.heldBack (s : State) (l : Launch) : Bool :=
  s.launches.any fun x =>
    x.starving && x.id != l.id && x.status == .queued && (s.queue l.q).prio.toNat ≤ (s.queue x.q).prio.toNat

/-- Saved teams come before the teams of a launch that has not started, but for what a pre-emption freed for it (R216). -/
def State.mayStart (s : State) (l : Launch) (c : Option Nat) : Bool :=
  l.status != .queued || (c.any fun c => (s.core c).promised == some l.id) || !s.teams.any Team.waiting

/-- The next team of a launch can go to a core. -/
def State.admissible (s : State) (l : Launch) (k : Kernel) (c : Nat) : Bool :=
  k.progress != 0 && (s.freeFrame (recAsid l.record)).isSome && s.mayStart l (some c) && !s.heldBack l
    && ((s.core c).promised.isNone || (s.core c).promised == some l.id) && s.fitsTeam c k

/-- A grid may use a core: one that a pre-emption has freed for it, or while no saved team waits, one that is promised to none (R216). -/
def State.forGrid (s : State) (l : Launch) (c : Nat) : Bool :=
  (s.core c).promised == some l.id || ((s.core c).promised.isNone && s.mayStart l (some c))

/-- Reserve teams `num` to `num + n − 1` of a grid, each on the first core that can hold it. -/
def State.placeGrid (s : State) (l : Launch) (k : Kernel) : Nat → Nat → Option State
  | 0, _ => some s
  | n + 1, num =>
    match (List.range s.cores.length).find? fun c => s.forGrid l c && s.fitsTeam c k with
    | some c => (s.place l k c num .reserved).bind fun s' => s'.placeGrid l k n (num + 1)
    | none => none

/-- What a queue's head waits for fits: its next team on some core, or a whole grid (R218, R229). -/
def State.headFits (s : State) (l : Launch) (k : Kernel) : Bool :=
  if k.progress = 0 then (s.gatherRecords l k).isSome || (s.placeGrid l k (recTeams l.record) 0).isSome else (List.range s.cores.length).any fun c => s.fitsTeam c k

/-- A grid that heads its queue can start now (R218). -/
def State.gridReady (s : State) (l : Launch) (k : Kernel) : Bool :=
  k.progress == 0 && l.status == .queued && !s.heldBack l && s.headFits l k

/-- Queues in round-robin order after the last one served. -/
def State.roundRobin (s : State) : List Nat := (List.range 16).map fun i => (s.lastQueue + 1 + i) % 16

/-- The head of a queue that goes next among those that satisfy `ok`: the highest priority, then round-robin (R216). -/
def State.topHead (s : State) (ok : Launch → Kernel → Bool) : Option (Launch × Kernel) :=
  let open_ := s.roundRobin.filterMap fun q => (s.headOf q).filter fun x => ok x.1 x.2
  let top := open_.foldl (fun m x => max m (s.queue x.1.q).prio.toNat) 0
  open_.find? fun x => (s.queue x.1.q).prio.toNat == top

/-- The queue from which a core takes a team, or whose grid goes first (R216, R218). -/
def State.choose (s : State) (c : Nat) : Option (Launch × Kernel) := s.topHead fun l k => s.gridReady l k || s.admissible l k c

/-- A grid's turn: no queue that goes before its own has a team that a core can take, or a grid that can start (R216, R218). -/
def State.gridTurn (s : State) (l : Launch) : Bool :=
  (s.topHead fun l k => s.gridReady l k || (List.range s.cores.length).any (s.admissible l k)).any fun x => x.1.id == l.id

def execTeamAdmit (launch core : Nat) (s : State) : Result :=
  match s.choose core with
  | none => .next s
  | some (l, k) =>
    if l.id ≠ launch ∨ k.progress = 0 then .next s
    else if let some s := s.gatherRecords l k then .next s
    else
      match s.place l k core l.next .resident with
      | some s' => .next { (((s'.dropOwn 0 launch).startLaunch l).keepPromise launch) with lastQueue := l.q }
      | none => .next (s.fail launch 1)

/-! ## GRID_WHOLE_ADMIT (R218) -/

def Team.begin (t : Team) : Team := { t with cond := .resident }

def execGridWholeAdmit (launch : Nat) (s : State) : Result :=
  match s.launch? launch with
  | none => .next s
  | some l =>
    match s.headOf l.q with
    | none => .next s
    | some (h, k) =>
      if h.id ≠ launch ∨ k.progress ≠ 0 ∨ l.status ≠ .queued ∨ s.heldBack l then .next s
      else if let some s := (if s.gridTurn l then s.gatherRecords l k else none) then .next s
      else if !s.headFits l k && (s.recordsFor l k 0).isNone && (List.range s.cores.length).any (fun c => s.forGrid l c && s.fitsTeam c k)
      then .next (s.fail launch 1)
      else if !s.gridTurn l then .next s
      else
        match s.placeGrid l k (recTeams l.record) 0 with
        | none => .next s
        | some s' =>
          let s' := { s' with teams := s'.teams.map fun (t : Team) => if t.launch = launch then t.begin else t }
          .next { (((s'.dropOwn 0 launch).startLaunch l).keepPromise launch) with lastQueue := l.q }

/-- QUEUE_HEAD_STARVE: a grid has waited 2^20 cycles at the head of its queue (R218). -/
def execQueueHeadStarve (q : Nat) (s : State) : Result :=
  match s.headOf q with
  | some (l, k) =>
    if k.progress = 0 ∧ l.status = .queued ∧ !l.starving ∧ 10485760 ≤ l.waited then
      .next (s.modLaunch l.id fun x => { x with starving := true })
    else .next s
  | none => .next s

/-! ## Records arrive (R215, R220, R314, R315) -/

/-- HOST_LAUNCH_WRITE: the host writes a record to a queue's window. -/
def execHostLaunchWrite (q : Nat) (r : LineData) (s : State) : Result :=
  if (s.sys.windows.getD q (0, false)).2 then .next (s.offer q r none) else .next s

/-- The armed bit of an object is cleared: in local memory, or where the team's bytes have been claimed in its frame (R157, R220). -/
def State.disarm (s : State) (t : Team) (obj : Nat) : State :=
  match t.lbase with
  | some _ => s.setObject t obj (putBits (s.object t obj) armedBit 1 0)
  | none =>
    let va := t.frameVa + t.kernel.localOff + obj + armedBit / 8
    match s.readVa t.core t.id t.asid va 1 with
    | .ok bs =>
      match s.writeVa t.core t.id t.asid va (bs.map fun b => b &&& ~~~(1#8 <<< (armedBit % 8))) with
      | .ok s => s
      | .error _ => s.fail t.launch 6
    | .error _ => s.fail t.launch 6

/-- ARMED_LAUNCH_ENQUEUE (R220). -/
def execArmedLaunchEnqueue (core slot : Nat) (s : State) : Result :=
  match assoc (s.core core).arms slot with
  | none => .next s
  | some a =>
    let frame (t : Team) : Option State :=
      if t.lbase.isSome then none else s.gatherOwn t.core t.id t.asid [(t.frameVa + t.kernel.localOff + a.obj + armedBit / 8, 1)]
    if !a.fired || !s.queueOn a.q || s.queueFull a.q then .next s
    else if let some s := s.gatherClass a.team a.record then .next s
    else if let some s := (s.team? a.team).bind frame then .next s
    else
      let s' := (s.accept a.team a.q a.record 0 none .sys).modCore core fun k => { k with arms := assocDel k.arms slot }
      match s'.team? a.team with
      | some t => .next (s'.disarm t a.obj)
      | none => .next s'

/-- What a source's lines to a frame of this device have come to. -/
def State.flowAt (s : State) (src frame : Nat) : LineFlow :=
  (s.fab.flows.find? fun f => f.src == src && f.frame == frame).getD { src := src, frame := frame, due := 0, early := [], passed := [] }

/-- The launch lines of a source to a queue's window. -/
def State.flow (s : State) (src q : Nat) : LineFlow := s.flowAt src ((s.sys.windows.getD q (0, false)).1 / 8192)

def State.putFlow (s : State) (f : LineFlow) : State :=
  { s with fab := { s.fab with flows := (s.fab.flows.filter fun x => !(x.src == f.src && x.frame == f.frame)) ++ [f] } }

/-- A whole line that its home writes as ordinary memory takes its number too. -/
def State.countLine (s : State) (src pa num : Nat) : State :=
  let f := s.flowAt src (pa / 8192)
  if f.early.isEmpty && f.due ≤ num then s.putFlow { f with due := num + 1 } else s

/-- Offer a launch line to its queue; its sender is answered (R315). -/
def State.offerLine (s : State) (q : Nat) (m : Msg) (id : Nat) (r : LineData) : State := s.offer q r (some (m.src, m.dst, id))

/-- Accept early lines whose turn has come; `fuel` bounds them. -/
def State.drainFlow : Nat → State → Nat → Nat → State
  | 0, s, _, _ => s
  | fuel + 1, s, src, q =>
    let f := s.flow src q
    match f.early.find? fun e => e.1 == f.due with
    | none => s
    | some e =>
      let s' := s.putFlow { f with due := f.due + 1, early := f.early.filter fun x => x.1 != e.1 }
      match e.2.1.body with
      | .launchLine id _ _ r => State.drainFlow fuel (s'.offerLine q e.2.1 id r) src q
      | _ => s'

/-- A write to a frame that is no window is an ordinary posted line. -/
def State.plainLine (s : State) (m : Msg) (id pa : Nat) (r : LineData) : State :=
  let m' : Msg := { m with body := .posted id pa fullMask r }
  { s with msgs := s.msgs.map fun x => if x.id = m.id then m' else x }

/-- A launch line with its number reaches its queue's window: it is offered in its turn, held early, or refused. -/
def State.takeLine (s : State) (q : Nat) (m : Msg) (pid num : Nat) (r : LineData) : State :=
  let f := s.flow m.src.dev q
  if num < f.due then s
  else if num = f.due then ((s.putFlow { f with due := f.due + 1 }).offerLine q m pid r).drainFlow 64 m.src.dev q
  else if f.early.length < 64 then s.putFlow { f with early := f.early ++ [(num, m, 0)] }
  else s.replyTo m (.postedAck pid .refused)

/-- LAUNCH_LINE (R315). -/
def execLaunchLine (id : Nat) (s : State) : Result :=
  s.deal id fun m =>
    match m.body with
    | .launchLine pid line num r =>
      match s.windowOf (line * 256) with
      | none => .wait ((s.countLine m.src.dev (line * 256) num).plainLine m pid (line * 256) r)
      | some q => .done (s.takeLine q m pid num r)
    | _ => .wait s

/-- LAUNCH_LINE_PASS_OVER: the number due has not come within 1 ms after a later one first came (R315). -/
def execLaunchLinePassOver (src q : Nat) (s : State) : Result :=
  let f := s.flow src q
  if f.early.all fun x => x.2.2 < usTicks 1000 then .next s
  else .next ((s.putFlow { f with due := f.due + 1, passed := f.passed ++ [f.due] }).drainFlow 64 src q)

/-- LAUNCH_LINE_RESEND: a refused line is sent again under its number. -/
def execLaunchLineResend (id : Nat) (s : State) : Result :=
  match s.post? id with
  | some p =>
    if p.kind = .launchLine ∧ p.refused then
      .next ((s.modPost id fun p => { p with refused := false }).send (s.here (.die (s.core p.core).die)) ⟨p.home, .home⟩
        (.launchLine id (p.pa / 256) p.num p.data))
    else .next s
  | none => .next s

end Sys2Proof.Machine
end

