-- ==== Sys2Proof/Machine/Fetch.lean ====
section
/-! DEFINITION. Choosing a bundle (R54), fetching an instruction (R23, R24, R191) and the fates of words that decode to none
(R39, checks 1 to 4). -/

namespace Sys2Proof.Machine

/-! ## The bundle that issues (R54) -/

/-- The bundles among some of one core that have gone longest without issuing. -/
def longest (rs : List Ready) : List Ready :=
  match rs with
  | [] => []
  | r :: rs' =>
    let m := rs'.foldl (fun m x => min m x.bundle.last) r.bundle.last
    rs.filter fun x => x.bundle.last == m

/-- The bundles that a port of some core may take next. -/
def State.choices (s : State) : List Ready :=
  let rs := s.ready
  (distinct (rs.map (·.core))).flatMap fun c => longest (rs.filter fun r => r.core == c)

/-- The bundle that issues next: one that has gone longest without issuing on its core. A free value settles a tie, and says which core
comes first within a cycle (log entry 2). -/
def State.pick (s : State) : Option (Ready × State) :=
  match s.choices with
  | [] => none
  | [r] => some (r, s)
  | rs => (rs[Config.freeIndex s.draws % rs.length]?).map fun r => (r, s.drawn)

/-! ## Fetch (R24) -/

/-- Bytes of code at a page of this device. -/
def State.codeBytes (s : State) (pa n : Nat) : List Byte :=
  if isRegs pa then (List.range n).map fun i => s.regByte (pa % 2 ^ 40 + i) else s.readPa pa n

/-- What a fetch of one unit gives: its bytes, a cause, or a read that another device must answer first. -/
inductive Unit16 where
  | bytes (bs : List Byte) (s : State)
  | cause (c : Cause)
  | wait (s : State)

/-- Fetch the unit at a virtual address for the issuing bundle. The page's type orders a fetch as it orders a load (R202). -/
def State.fetchUnit (s : State) (t : Team) (va : Nat) (pc : Word) : Unit16 :=
  match s.translate t.core t.asid va .fetch t.privileged with
  | .error c => .cause { c with page := 2 }
  | .ok p =>
    if !s.migrated p p.pa then .wait (s.pullAt p.pa)
    else if p.home = s.dev then
      if p.ty.isDevice && (s.readStalls t s.cur.fibs va p || (p.ty.isStrong && s.flushShut t.core .sys)) then .wait s
      else if !isRegs p.pa && s.poisoned (blkOf p.home p.pa) then .cause { code := 0x70, addr := va }
      else match if isRegs p.pa then none else s.gatherBlock (blkOf p.home p.pa) false with
      | some s => .wait s
      | none =>
        let s := s.reqRelease t.core (pageOrd p .rlx)
        .bytes (s.codeBytes p.pa 2) (s.reqAcquire t.core (pageOrd p .rlx))
    else if !s.reachable p.home then .cause { code := 0x40, addr := va }
    else
      let fib := s.cur.fibs.headD 0
      match s.fetched t fib va with
      | some r => if r.settled then .bytes (r.bytesAt va 2) s else .wait s
      | none =>
        if s.readStalls t s.cur.fibs va p then .wait s
        else .wait (s.startFetch t fib va (if va % 256 ≤ 252 then 4 else 2) p pc s.cur.fibs)

/-- The reads that a fetch made are used up. -/
def State.endFetch (s : State) (t : Team) (va : Nat) : State :=
  match s.fetched t (s.cur.fibs.headD 0) va with
  | some r => s.useFetch t.core r
  | none => s

/-- The bytes of the instruction at the issuing bundle's program counter: two, or four where the first unit says so. DESIGN CHOICE: a
program counter that a trap handler has left odd in the frame is used as it is (log entry 64). -/
def State.fetchCode (s : State) (t : Team) : Unit16 :=
  let pc := s.curPc t
  let va := t.kernel.code + pc.toNat
  match s.fetchUnit t va pc with
  | .bytes bs s =>
    match bs with
    | b :: _ =>
      if b.getLsbD 0 then
        match s.fetchUnit t (va + 2) pc with
        | .bytes bs' s => .bytes (bs ++ bs') ((s.endFetch t va).endFetch t (va + 2))
        | x => x
      else .bytes bs (s.endFetch t va)
    | [] => .wait s
  | x => x

/-- What the issuing bundle does next: an instruction, or the state that the fetch or an illegal word leaves (R39). -/
inductive Fetched where
  | run (i : Instr) (s : State)
  | done (s : State)

/-- Fetch and decode for the issuing bundle. -/
def State.fetchInstr (s : State) (t : Team) : Fetched :=
  match s.fetchCode t with
  | .cause c => .done (s.raise t c s.cur.fibs s.cur.fibs (s.curPc t))
  | .wait s => .done s.stall
  | .bytes bs s =>
    match decode bs with
    | .ok (i, _) => .run i s
    | .error .reservedGuard => .done (s.raise t { code := 0x02 } s.cur.fibs s.cur.fibs (s.curPc t))
    | .error (.illegal g) =>
      let act := s.active t g
      if act.isEmpty then .done (s.advance 4) else .done (s.raise t { code := 0x01 } act s.cur.fibs (s.curPc t))
    | .error .short => .done s.stall

/-! ## Stalls end with the next event (R154) -/

def Bundle.retry (b : Bundle) : Bundle := { b with stalled := false }

/-- After an event every bundle may try to issue again. -/
def State.retry (s : State) : State :=
  { s with teams := s.teams.map fun (t : Team) => { t with bundles := t.bundles.map Bundle.retry } }

end Sys2Proof.Machine
end

