-- ==== Sys2Proof/Machine/Saving.lean ====
section
/-! DEFINITION. Saving teams, entering the trap handler, and re-admission (R52, R55, R59, R91 to R93, R157, R216, R228 to R235, R309,
R331, R337, R345). -/

namespace Sys2Proof.Machine

/-! ## What a save waits for (R91, R157, R230, R231, R308) -/

/-- Every fibre that runs on to a listed point has stopped (R230). -/
def Team.stopped (t : Team) : Bool := t.live.all fun i => (t.fibre i).wait.isSome || t.atPoint i

/-- An access, a posted line, a push without its answer, a write-back that the save makes, or a register write of the team is outstanding. -/
def State.saveBusy (s : State) (t : Team) : Bool :=
  (((s.core t.core).reqs ++ (s.core t.core).storeQ).any fun r => r.team == t.id && !(r.kind == .fetch && r.settled))
    || (s.fab.posts.any fun p => p.team == t.id && p.kind != .completion)
    || ((s.cmdsOf t).any fun m => m.sent && !m.refused)
    || s.flushShut t.core .pkg || t.live.any fun i => !(t.fibre i).pend.isEmpty

/-- A wait as a save leaves it: a grant request is made again (R86), and a `wait` loads again. -/
def Wait.saved : Wait → Option Wait
  | .grow _ => none
  | .fork _ => none
  | .word w => some (.word { w with again := !w.dropped })
  | w => some w

def Fibre.saved (f : Fibre) : Fibre := { f with wait := f.wait.bind Wait.saved, late := [] }

/-- Pools close and bundles dissolve (R59, R55). -/
def Team.dissolve (t : Team) : Team := { t with bundles := [], parked := [], pools := [], fibres := t.fibres.map Fibre.saved }

/-- The lingering blocks that a save leaves of a fibre's window, by lane, block, fibre and first register (R92). -/
def lingerOfFibre (f : Fibre) (i : Nat) : List (Nat × Nat × Nat × Nat) :=
  (List.range f.blocks.length).map fun k => (laneOf i, f.blocks.getD k 0, i, 8 * k)

def Fibre.noBlocks (f : Fibre) : Fibre := { f with blocks := [] }

/-- The fibres whose windows linger after a save at listed points: those that stand at one. DESIGN CHOICE: the windows of fibres that are
blocked elsewhere are written whole and freed (log entry 70). -/
def Team.lingering (t : Team) (points : Bool) : List Nat := if points then t.live.filter t.atPoint else []

/-- The team gives up its registers: they linger after a save at listed points, or become free (R92). -/
def State.vacate (s : State) (t : Team) (points : Bool) : State :=
  let stay := t.lingering points
  let t' : Team := { t with fibres := t.fibres.map Fibre.noBlocks, linger := stay.flatMap fun i => lingerOfFibre (t.fibre i) i }
  let s := s.freeRegisters (t.modFibres stay fun _ f => f.noBlocks)
  -- The order of the list is the order of the saves.
  { s with teams := (s.teams.filter fun x => x.id != t.id) ++ [t'] }

/-- What an outside party sees of a save: row instructions lose their slots, units are suspended, latches empty (R167, R331, R337). -/
def State.suspend (s : State) (t : Team) : State :=
  let unit (u : NearBank) : NearBank :=
    if u.owner != t.id then u
    else match u.cond with
      | .held => { u with cond := .suspended false }
      | .running => { u with cond := .suspended true }
      | .suspended _ => u
  let row (r : RowCmd) : RowCmd := if r.team = t.id then { r with slot := none } else r
  { s with nb := s.nb.map unit, rows := s.rows.map row }.modCore t.core fun k =>
    { k with latches := k.latches.filter fun l => l.team != t.id }

def Team.stand (t : Team) (c : TeamCond) : Team := { t with cond := c }

/-- Where a saved team stands (R229, R233, R345). -/
def savedCond (why : SaveWhy) : TeamCond :=
  match why with
  | .trap => .trapped
  | .page k => .saved (.page k) none false
  | w => .saved w none true

/-- The save is over (R92, R229, R231, R233). -/
def State.finishSave (s0 s : State) (t : Team) (why : SaveWhy) (points : Bool) : State :=
  let s := if why = .trap ∨ t.cls = 0 then s else s.vacate t points
  let s := s.modTeam t.id fun t => t.stand (savedCond why)
  (s.clearSaveReq t.core).reseed s0 t.core

/-- The save is made (R157, R229 to R233): it is over once every write of the frame is performed (R231). -/
def State.endSave (s0 : State) (t : Team) (why : SaveWhy) (points : Bool) : State :=
  let s := ((s0.dropLoads t).dropGrants t).modTeam t.id Team.dissolve
  let s := (s.suspend t).idleEngines.releaseOf t .pkg
  match s.team? t.id with
  | none => s
  | some t =>
    if why = .trap ∧ ctxHandler (s.contextBits t.asid.toNat) = 0 then s.fail t.launch 5
    else
      match s.writeFrame t points with
      | .error _ => s.fail t.launch 6
      | .ok s => if s.ownBusy t.id then s.modTeam t.id fun t => t.stand (.written why points) else s0.finishSave s t why points

/-- TEAM_SAVE_COMPLETE. A cause raised in the handler ends the trapping launch (R234). -/
def execTeamSaveComplete (team : Nat) (s : State) : Result :=
  match s.team? team with
  | none => .next s
  | some t =>
    match t.cond with
    | .saving why points _ =>
      if t.handlerFor.isSome then .next (s.fail t.launch 4)
      else if (points && !t.stopped) || s.saveBusy t then .next s
      else .next (s.endSave t why points)
    | .written why points =>
      if t.lost then .next (s.fail t.launch 6) else if s.ownBusy team then .next s else .next (s.finishSave s t why points)
    | _ => .next s

/-! ## Why teams are saved (R93, R228 to R230, R309) -/

/-- A fibre of a core is blocked in a grant request. -/
def State.grantBlocked (s : State) (c : Nat) : Bool :=
  s.teams.any fun t => t.core == c && t.runs && t.live.any fun i =>
    match (t.fibre i).wait with
    | some (.grow _) => true
    | some (.fork _) => true
    | _ => false

/-- The most recently admitted of some teams. -/
def latest : List Team → Option Team
  | [] => none
  | t :: ts =>
    match latest ts with
    | none => some t
    | some u => if u.admitted ≤ t.admitted then some t else some u

/-- REGISTER_DEADLOCK_EVICT: after 1,024 cycles (R93). -/
def execRegisterDeadlockEvict (core : Nat) (s : State) : Result :=
  if (s.core core).deadlock < 10240 ∨ !s.grantBlocked core then .next s
  else
    let s' := s.modCore core fun k => { k with deadlock := 0 }
    match latest (s.teams.filter fun t => t.savable core) with
    | none => .next s'
    | some t => .next (s'.modTeam t.id fun t => t.stand (.saving .evict false 0))

/-- STARVATION_TIMEOUT (R228). -/
def execStarvationTimeout (team fib : Nat) (s : State) : Result :=
  match s.team? team with
  | none => .next s
  | some t =>
    let f := t.fibre fib
    if !t.runs ∨ f.cond ≠ .live ∨ f.wait.isNone ∨ f.timer < 2 ^ t.starve * 10 then .next s
    else
      let s' := (s.abandon t.core fun r => r.team == team && r.kind == .fetch && r.cmd == some fib).modTeam team fun t =>
        t.modFibre fib fun f => { f with wait := none, timer := 0 }
      .next (s'.raise t { code := 0x21 } [fib] [fib] f.pc)

/-- The state without what a save of a team would free, to ask whether it is enough (R229). -/
def State.without (s : State) (t : Team) : State :=
  let t' := t.stand (.saved .preempt none false)
  { s.freeRegisters t with teams := s.teams.map fun (x : Team) => if x.id = t.id then t' else x }

/-- A team that a pre-emption may take: 2^20 cycles after its last admission, for a queue of higher priority (R229). -/
def State.preemptible (s : State) (t : Team) (prio : Nat) : Bool :=
  t.savable t.core && 10485760 ≤ t.age
    && (s.launch? t.launch).any fun l => (s.queue l.q).prio.toNat < prio

/-- A team that is pre-empted runs on to listed points: its pools close, and their fibres go on at the targets in ordinary bundles (R59, R55,
R230). -/
def Team.runOn (t : Team) (stamp : Nat) : Team :=
  let is := sortNats (t.pools.flatMap fun p => p.fibs.map (·.1))
  let t := { t.stand (.saving .preempt true 0) with pools := [] }
  (distinct (is.map groupOf)).foldl (fun t g => t.rebundle (is.filter fun i => groupOf i == g) stamp) t

/-- Room taken for `n` teams of a launch from number `num` on, each on the first core where it fits, and how many of them are left when the next one fits
on no core: none where a frame slot is what they lack, which no save frees (R217, R229). -/
def State.placeMost (s : State) (l : Launch) (k : Kernel) : Nat → Nat → State × Nat
  | 0, _ => (s, 0)
  | n + 1, num =>
    match (List.range s.cores.length).find? fun c => s.fitsTeam c k with
    | some c =>
      match s.place l k c num .reserved with
      | some s' => s'.placeMost l k n (num + 1)
      | none => (s, 0)
    | none => if n < s.framesFree (recAsid l.record) then (s, n + 1) else (s, 0)

/-- The next team of a queue's head fits on no core (R229): the room that is left once the teams of a grid that fit have theirs. A team that is being
saved for this launch counts as gone. -/
def State.lacksRoom (s : State) (l : Launch) (k : Kernel) : Option State :=
  let leaving (t : Team) : Bool := (s.core t.core).promised == some l.id && match t.cond with
    | .saving .preempt .. => true
    | .written .preempt _ => true
    | _ => false
  if (s.gatherRecords l k).isSome then none
  else
    match ((s.teams.filter leaving).foldl State.without s).placeMost l k (if k.progress = 0 then recTeams l.record else 1) l.next with
    | (_, 0) => none
    | (b, _) => some b

/-- PREEMPT (R229, R230): where the next team fits on no core, the latest team of a core where saving it frees enough. -/
def execPreempt (q team : Nat) (s : State) : Result :=
  match s.headOf q, s.team? team with
  | some (l, k), some t =>
    let c := t.core
    let prio := (s.queue q).prio.toNat
    match s.lacksRoom l k with
    | none => .next s
    | some b =>
      let victim := latest (s.teams.filter fun x => x.core == c && s.preemptible x prio && (b.without x).fitsTeam c k)
      if s.heldBack l ∨ (s.core c).promised.any (· != l.id) ∨ victim != some t then .next s
      else
        .next ((s.modTeam team fun t => t.runOn s.stamp).modCore c fun k => { k with promised := some l.id })
  | _, _ => .next s

/-- PREEMPT_STOP_TIMEOUT: 4,096 cycles have passed (R230). -/
def execPreemptStopTimeout (team : Nat) (s : State) : Result :=
  match s.team? team with
  | none => .next s
  | some t =>
    match t.cond with
    | .saving why true age => if age < 40960 then .next s else .next (s.modTeam team fun t => t.stand (.saving why false age))
    | _ => .next s

/-- SAVE_REQUEST_WRITE (R229, R354). -/
def execSaveRequestWrite (core : Nat) (v : Bool) (s : State) : Result := .next (s.requestSave core v)

/-- The imprecise cause 0x42 (R309). -/
def Team.overflowed (t : Team) (a : BitVec 64) : Team :=
  { t with
    cond := .saving .trap false 0, overflow := none
    faultRec := some { cause := 0x42, fmask := 0, addr := a, epc := 0xFFFFFFFF, lanes := List.replicate 32 none } }

/-- ERROR_QUEUE_OVERFLOW_TRAP (R309). -/
def execErrorQueueOverflowTrap (team : Nat) (s : State) : Result :=
  match s.team? team with
  | none => .next s
  | some t =>
    match t.overflow with
    | some a =>
      if t.cond = .resident then
        let s := if t.goesToHandler 0x42 then s.modCore t.core fun k => k.trap t else s
        .next (s.modTeam team fun t => t.overflowed a)
      else .next s
    | none => .next s

/-! ## The trap handler (R234) -/

/-- The handler's records: the frame in b0, and the image's data binding (R234). -/
def handlerRecords (k : Kernel) (frameVa slotBytes : Nat) (data : BitVec 256) : List (BitVec 256) :=
  let frame : BitVec 256 := BitVec.ofNat 256 (2 ^ 132 + 2 * 2 ^ 120 + 4 * 2 ^ 96 + slotBytes / 4 * 2 ^ 64 + frameVa)
  (List.range 32).map fun n => if n = 0 then frame else if k.hasData ∧ n = k.dataRec then data else 0

/-- The handler's kernel: one fibre with a window of 64 registers. -/
def Kernel.asHandler (k : Kernel) : Kernel := { k with winMax := 8, winInit := 8, localBlocks := 0, handles := 0 }

/-- The handler's team for a trapped team. -/
def State.handlerTeam (s : State) (x : Team) (k : Kernel) (data : BitVec 256) (stamp : Nat) : Team :=
  { id := s.nextId, launch := x.launch, num := x.num, core := x.core, cond := .reserved, handlerFor := some x.id, asid := x.asid
    cls := x.cls, depth := x.depth, nteam := x.nteam, starve := x.starve, kernel := k.asHandler
    records := handlerRecords k x.frameVa (ctxSlotBytes (s.contextBits x.asid.toNat)) data
    fmts := List.replicate 8 0
    consts := [BitVec.ofNat 32 (s.launchNumber x), BitVec.ofNat 32 x.num] ++ List.replicate 14 0
    fibres := [{ Fibre.empty .live with regs := List.replicate 64 0, blocks := List.range 8 }]
    bundles := [⟨[0], stamp, false, false⟩], parked := [], pools := [], lbase := none, lsize := 0, handles := [], frame := x.frame, frameVa := x.frameVa
    faultRec := none, reserve := [], linger := [], admitted := s.nextId, age := 0, objTimes := [], reopen := [], overflow := none
    lost := false }

/-- The handler's image and data record, when the image is legal for a handler (R234). DESIGN CHOICE: an image with a team size or a fibre count other
than 1 is not (log entry 106). -/
def State.handlerImage (s : State) (x : Team) : Option (Kernel × BitVec 256) :=
  let img := ctxHandler (s.contextBits x.asid.toNat)
  let rd := s.reader x.core x.id x.asid
  if img = 0 ∨ img % 256 ≠ 0 then none
  else
    match kernelOf rd img with
    | none => none
    | some k =>
      if k.team ≠ 1 ∨ k.fibres ≠ 1 then none
      else if !k.hasData then some (k, 0)
      else if img < 32 then none
      else (rd (img - 32) 32).map fun bs => (k, BitVec.ofNat 256 (bytesNat bs))

/-- The handler `h` starts once the frame of its trapped team is whole, with an acquire at package scope (R231). -/
def State.startHandler (s : State) (h : Team) : State :=
  match h.handlerFor.bind s.team? with
  | none => s
  | some x =>
    if h.cond ≠ .reserved then s
    else if x.lost then s.fail x.launch 6
    else if s.ownBusy x.id then s
    else (s.modTeam h.id Team.begin).acquireViews h.core .pkg

/-- TRAP_HANDLER_ENTRY. The local bytes go to the frame first, and windows refuse outside writes from then on (R157). -/
def execTrapHandlerEntry (core : Nat) (s : State) : Result :=
  match (s.core core).handler, (s.core core).trapQueue with
  | some h, _ =>
    match s.team? h with
    | some h => .next (s.startHandler h)
    | none => .next s
  | none, id :: rest =>
    let s' := s.modCore core fun k => { k with trapQueue := rest }
    match s'.team? id with
    | none => .next s'
    | some x =>
      if x.cond ≠ .trapped then .next s else
      let asid := x.asid
      if let some s := s.gatherOwn core id asid (imageRanges (s.reader core id asid) (ctxHandler (s.contextBits asid.toNat))) then .next s else
      match s'.handlerImage x with
      | none => .next (s'.fail x.launch 5)
      | some (k, data) =>
        match ((s'.dropOwn core id).setMoving x true).writeFrameLocal x with
        | .error _ => .next (s'.fail x.launch 6)
        | .ok s' =>
          let h := s'.handlerTeam x k data s'.stamp
          let s' := { s' with teams := s'.teams ++ [h] }.fresh
          .next ((s'.modCore core fun k => { k with handler := some h.id }).startHandler h)
  | none, [] => .next s

/-! ## Paging (R233, R345) -/

/-- Tickets in use. -/
def State.tickets (s : State) : List (BitVec 16) := s.teams.filterMap fun t =>
  match t.cond with
  | .saved _ (some k) _ => some k
  | _ => none

/-- A ticket that is not in use, from a free number on. -/
def State.newTicket (s : State) : BitVec 16 :=
  let used := s.tickets
  let start := Config.freeTicket s.draws
  ((List.range (used.length + 1)).find? fun k => !used.contains (start + BitVec.ofNat 16 k)).elim start fun k => start + BitVec.ofNat 16 k

/-- The entry of a fault (R345). -/
def State.pagingEntry (s : State) (t : Team) (kind : BitVec 2) (ticket : BitVec 16) : Nat :=
  let r : FaultRec := t.faultRec.getD { cause := 0, fmask := 0, addr := 0, epc := 0, lanes := [] }
  2 ^ 255 + ticket.toNat * 2 ^ 224 + t.asid.toNat * 2 ^ 214 + kind.toNat * 2 ^ 212 + s.launchNumber t * 2 ^ 192 + t.num * 2 ^ 160
    + r.epc.toNat * 2 ^ 128 + r.addr.toNat % 2 ^ 57 * 2 ^ 64 + r.fmask.toNat * 2 ^ 32

/-- PAGING_QUEUE_WRITE: the entry, the write index, and MSI-X vector 0, once a slot is free (R345). The entry is a store of system scope: it waits for
the tokens of its block, and for lines of it that the host holds (R267, R296). -/
def execPagingQueueWrite (team : Nat) (s : State) : Result :=
  match s.team? team with
  | none => .next s
  | some t =>
    match t.cond with
    | .saved (.page kind) none false =>
      let wr := s.sys.pagingWr
      let at_ := s.sys.pagingBase + wr.toNat % 256 * 32
      if 256 ≤ (wr - s.sys.pagingRd).toNat then .next s
      else if let some s := (if isDram at_ then s.gatherBlock (blkOf s.dev at_) true else none) then .next s
      else
        let tk := s.newTicket
        let s' := (s.drawn.writePa at_ (natBytes 32 (s.pagingEntry t kind tk))).homeDone [blkOf s.dev at_]
        let s' := { s' with sys := { s'.sys with pagingWr := wr + 1 }, host := { s'.host with msix0 := s'.host.msix0 + 1 } }
        .next (s'.modTeam team fun t => t.stand (.saved (.page kind) (some tk) false))
    | _ => .next s

/-- PAGING_READ_INDEX_WRITE (R345). -/
def execPagingReadIndexWrite (rd : BitVec 16) (s : State) : Result := .next (s.setPagingRd rd)

/-- RESUME_TICKET_WRITE (R345). -/
def execResumeTicketWrite (ticket : BitVec 16) (s : State) : Result := .next (s.resumeTicket ticket)

/-! ## TEAM_READMIT (R55, R92, R157, R216, R233) -/

/-- A register of a fibre lingers in its block. -/
def Team.lingers (t : Team) (i n : Nat) : Bool := t.linger.any fun l => l.2.2.1 == i && l.2.2.2 ≤ n && n < l.2.2.2 + 8

/-- The registers of a fibre: lingering ones as they are, the others as the frame says. -/
def Team.mergeRegs (t : Team) (i : Nat) (f : Fibre) : Fibre :=
  { f with regs := (List.range f.regs.length).map fun n => if t.lingers i n then (t.fibre i).reg n else f.reg n }

/-- The team as its frame and its lingering registers say. -/
def State.reload (s : State) (t : Team) : Option Team :=
  match s.readFrame t with
  | .ok y => some { y with fibres := (List.range y.fibres.length).map fun i => t.mergeRegs i (y.fibre i) }
  | .error _ => none

/-- Blocks that a reloaded team needs in a lane column. -/
def Team.blocksIn (t : Team) (lane : Nat) : Nat :=
  sum (((List.range t.fibres.length).filter fun i => laneOf i == lane).map fun i => (t.fibre i).blockCount)

/-- The team leaves its core for another: its lingering registers and local bytes go to the frame, its armed records are dropped, and
its engine commands move (R92, R157, R220). -/
def State.moveTo (s : State) (t : Team) (c : Nat) : State :=
  if c = t.core then s
  else
    let write (s : State) (l : Nat × Nat × Nat × Nat) : State :=
      if (s.team? t.id).any fun x => x.linger.contains l then (s.claim t.id l.2.1 l.2.2.1 l.2.2.2).addFree t.core l.1 [l.2.1] else s
    let s := t.linger.foldl write s
    let s := match s.team? t.id with
      | some t => (s.claimLocal t).dropArms t.core fun a => a.team == t.id
      | none => s
    let cmds := s.cmdsOf t
    let s := s.dropOwn t.core t.id
    let s := s.modCore t.core fun k => { k with cmds := k.cmds.filter fun m => m.team != t.id }
    (s.modCore c fun k => { k with cmds := k.cmds ++ cmds }).modTeam t.id fun t => { t with core := c }

/-- Blocks for one window: those that still linger in their places, and granted ones for the rest. -/
def State.windowBlocks (s : State) (c : Nat) (ling : List (Nat × Nat × Nat × Nat)) (i n : Nat) : List Nat × State :=
  let own (k : Nat) : Option Nat := (ling.find? fun l => l.2.2.1 == i && l.2.2.2 == 8 * k).map fun l => l.2.1
  let lack := (List.range n).filter fun k => (own k).isNone
  match s.takeBlocks c (laneOf i) lack.length with
  | some (bs, s) =>
    let at_ (k : Nat) : Nat := match own k with
      | some b => b
      | none => bs.getD ((lack.takeWhile fun j => j != k).length) 0
    ((List.range n).map at_, s)
  | none => ([], s)

/-- Windows for all fibres of a reloaded team. -/
def State.allWindows (s : State) (c : Nat) (ling : List (Nat × Nat × Nat × Nat)) (y : Team) : List Nat → List (List Nat) × State
  | [] => ([], s)
  | i :: is =>
    let a := s.windowBlocks c ling i (y.fibre i).blockCount
    let r := a.2.allWindows c ling y is
    (a.1 :: r.1, r.2)

/-- The local range of a re-admitted team, with its bytes from the frame when they had been claimed; none when a read fails. -/
def State.localBack (s : State) (t : Team) : Option (Option Nat × State) :=
  if t.lbase.isSome ∨ t.kernel.localBlocks = 0 then some (t.lbase, s)
  else
    let (b, s) := s.takeRange t.core t.kernel.localSize
    match b, s.readFrameLocal t with
    | some b, .ok bs => some (some b, s.modCore t.core fun k => { k with lmem := k.lmem.write b bs })
    | _, _ => none

/-- Open a window again: its blocks' values, all of whose tokens are there, come into local memory (R157). -/
def State.reopenWindow (s : State) (c base : Nat) (e : PubEntry) : State :=
  let blocks := blocksOfPages e.pages
  let s := (List.range blocks.length).foldl (fun s k =>
    let b := blocks.getD k 0
    match s.hold? (.pubCore c) b with
    | some h =>
      (s.modCore c fun x => { x with lmem := x.lmem.write (base + e.lbase + 128 * k) (blockBytesOf h.data) }).finishWant (.pubCore c) b
    | none => s) s
  let slot := ((List.range Config.pubEntries).find? fun k => (assoc (s.core c).pubs k).isNone).getD 0
  s.modCore c fun x => { x with pubs := assocSet x.pubs slot { e with moving := false } }

/-- The team runs again: it is the most recently admitted one of its core (R93, R229). -/
def State.runAgain (s : State) (y : Team) : State :=
  ((s.progressBack y).dropOwn y.core y.id).fresh.resumeTeam { y with reopen := [], linger := [], admitted := s.nextId, age := 0 }

/-- Blocks of the team's closed windows for which a core has not all tokens yet. -/
def State.reopenLack (s : State) (t : Team) (c : Nat) : List Nat :=
  (t.reopen.flatMap fun e => blocksOfPages e.pages).filter fun b => !(s.hold? (.pubCore c) b).any Hold.writable

/-- A window that cannot be published again, since a block is published elsewhere (R132). -/
def State.deniedWindow (s : State) (c : Nat) (e : PubEntry) : Bool :=
  (blocksOfPages e.pages).any fun b => s.windowHere c b || (s.want? (.pubCore c) b).any fun w => w.denied

/-- The core can take the saved team back (R216). -/
def State.canReadmit (s : State) (t : Team) (c : Nat) : Bool :=
  t.waiting && (if t.cls = 0 then c == t.core else s.coreOpen c && (s.core c).promised.isNone)
    && (s.core c).pubs.length + t.reopen.length ≤ Config.pubEntries

/-- The core that collects the tokens of a saved team's closed windows. -/
def State.collector (s : State) (t : Team) : Option Nat :=
  let blks := t.reopen.flatMap fun e => blocksOfPages e.pages
  (List.range s.cores.length).find? fun c =>
    blks.any fun b => !s.windowHere c b && ((s.want? (.pubCore c) b).isSome || (s.hold? (.pubCore c) b).isSome)

/-- A saved team, as its frame says, has its resources on a core (R216); one whose frame cannot be read is tried, and fails there. -/
def State.wouldFit (s : State) (t : Team) (c : Nat) : Bool :=
  match s.reload t with
  | none => true
  | some y =>
    let size := if c = t.core && t.lbase.isSome then 0 else t.kernel.localSize
    t.cls = 0 || s.fits c t.kernel.groups t.kernel.handles y.blocksIn size

/-- Re-admit a team that is not concurrent to a core. -/
def State.readmit (s : State) (t : Team) (c : Nat) : State :=
  let s1 := s.moveTo t c
  match s1.team? t.id with
  | none => s1
  | some t1 =>
    -- What has been written from the old core must be there before it is read on the new one.
    if let some s := s1.gatherFrame t1 then s else
    match s1.reload t1 with
    | none => s1.fail t1.launch 6
    | some y =>
      let size := if t1.lbase.isSome then 0 else t1.kernel.localSize
      if !s1.fits c t1.kernel.groups t1.kernel.handles y.blocksIn size then s
      else
        let s2 := s1.modTeam t1.id fun t => { t with linger := [] }
        let (bs, s3) := s2.allWindows c t1.linger y (List.range y.fibres.length)
        match s3.localBack t1 with
        | none => (s3.putBack c bs []).fail t1.launch 6
        | some (b, s4) =>
          if (s4.team? t1.id).isNone then s4.putBack c bs [] else
          let y : Team := { y with
            lbase := b
            fibres := (List.range y.fibres.length).map fun i => { y.fibre i with blocks := bs.getD i [] } }
          let s5 := t1.reopen.foldl (fun s e => s.reopenWindow c (b.getD 0) e) s4
          s5.runAgain y

/-- DESIGN CHOICE: a window that cannot be published again, because a block of it is meanwhile published elsewhere, is given up, and the team goes
on without it (log entry 71). -/
def execTeamReadmit (team core : Nat) (s : State) : Result :=
  match s.team? team with
  | none => .next s
  | some t =>
    if !s.canReadmit t core || (s.collector t).any (fun c => c != core) then .next s
    else if t.lost then .next (s.fail t.launch 6)
    else if let some s := s.gatherFrame t then .next s
    else if !s.wouldFit t core then
      let s := s.dropOwn t.core team
      .next (if s.collector t = some core then s.returnTokens core (t.reopen.flatMap fun e => blocksOfPages e.pages) else s)
    else if t.cls = 0 then
      match s.reload t with
      | some y => .next (s.runAgain y)
      | none => .next (s.fail t.launch 6)
    else if core ≠ t.core ∧ !(s.windowsOf t).isEmpty then .next (s.claimLocal t)
    else
      match t.reopen.find? (s.deniedWindow core) with
      | some e =>
        .next ((s.returnTokens core (blocksOfPages e.pages)).modTeam team fun t => { t with reopen := t.reopen.filter fun x => x != e })
      | none =>
        let lack := s.reopenLack t core
        let left := (s.core core).unpub.filter fun u => lack.contains u.blk
        if !left.isEmpty then .next (left.foldl (fun s u => s.writeLeft core u) s)
        else if lack.isEmpty then .next (s.readmit t core)
        else .next (lack.foldl (fun s b => s.ask (.pubCore core) (s.coreAgent core) b .write true t.asid) s)

/-! ## Grouping and pools (R52, R59) -/

/-- An instruction of the bundle is in flight: it has not issued whole, and reads made for it are under way, or an `asgen` has bumped a
generation, or a publication collects tokens (R52). -/
def State.inFlight (s : State) (t : Team) (b : Bundle) : Bool :=
  ((s.core t.core).reqs.any fun r => r.kind == .fetch && r.team == t.id && r.cmd.any b.fibs.contains)
    || (s.sys.bumps.any fun x => x.team == t.id && b.fibs.contains x.fib)
    || b.begun

/-- Two bundles that the grouping stage merges; `busy` says which ones have an instruction in flight. -/
def Team.mergeable (t : Team) (busy : Bundle → Bool) (a b : Bundle) : Bool :=
  (t.fibre (a.fibs.headD 0)).pc == (t.fibre (b.fibs.headD 0)).pc && !t.whole a.fibs && !t.whole b.fibs && !busy a && !busy b
    && a.fibs.all fun i => b.fibs.all fun j => laneOf i != laneOf j

def Bundle.group (b : Bundle) : Nat := b.fibs.foldl (fun m i => min m (groupOf i)) 1024

def Bundle.merge (a b : Bundle) : Bundle :=
  { fibs := sortLanes (a.fibs ++ b.fibs), last := max a.last b.last, stalled := a.stalled && b.stalled, begun := false }

/-- Insert by home group; equal ones keep their order. -/
def insertBundle (b : Bundle) : List Bundle → List Bundle
  | [] => [b]
  | x :: xs => if b.group < x.group then b :: x :: xs else x :: insertBundle b xs

/-- Add a bundle to those of a pass: to the first that `near` joins it to, else alone. -/
def addBundle (near : Bundle → Bundle → Bool) (acc : List Bundle) (b : Bundle) : List Bundle :=
  match acc.find? fun x => near x b with
  | some x => acc.map fun y => if y = x then y.merge b else y
  | none => acc ++ [b]

/-- One pass over a team: bundles of the same home group merge first, and then, lower home groups first, those of different ones (R52). -/
def Team.grouped (t : Team) (busy : Bundle → Bool) : Team :=
  let sorted := t.bundles.foldl (fun l b => insertBundle b l) []
  let same := sorted.foldl (addBundle fun x b => t.mergeable busy x b && x.group == b.group) []
  { t with bundles := same.foldl (addBundle (t.mergeable busy)) [] }

/-- GROUPING_STAGE_PASS (R52). -/
def execGroupingStagePass (core : Nat) (s : State) : Result :=
  .next { s with teams := s.teams.map fun (t : Team) => if t.core = core ∧ t.runs then t.grouped (s.inFlight t) else t }

/-- The earlier arrival of a pool, equal ones by fibre number. -/
def earlier (a b : Nat × Nat) : Bool := a.2 < b.2 || (a.2 == b.2 && a.1 < b.1)

/-- The earliest-arrived fibre of a home lane. -/
def firstOfLane (lane : Nat) : List (Nat × Nat) → Option (Nat × Nat)
  | [] => none
  | x :: xs =>
    match firstOfLane lane xs with
    | none => if laneOf x.1 = lane then some x else none
    | some y => if laneOf x.1 = lane ∧ earlier x y then some x else some y

/-- Pack a pool into bundles (R59); `fuel` bounds them. -/
def Team.pack : Nat → Team → List (Nat × Nat) → Nat → Team
  | 0, t, _, _ => t
  | fuel + 1, t, fs, stamp =>
    if fs.isEmpty then t
    else
      let out := (List.range 32).filterMap fun l => firstOfLane l fs
      Team.pack fuel (t.bundle (out.map (·.1)) stamp) (fs.filter fun x => !out.contains x) stamp

/-- Every live fibre of the team is in a pool or blocked (R59). -/
def Team.allPooled (t : Team) : Bool :=
  t.live.all fun i => (t.fibre i).wait.isSome || t.pools.any fun q => q.fibs.any fun x => x.1 == i

/-- A pool closes (R59). -/
def Team.poolDone (t : Team) (p : Pool) : Bool :=
  640 ≤ p.age || (List.range 32).all (fun l => p.fibs.any fun x => laneOf x.1 == l) || t.allPooled

def Team.closePool (t : Team) (p : Pool) (stamp : Nat) : Team :=
  Team.pack 1024 { t with pools := t.pools.filter fun q => q != p } p.fibs stamp

/-- Close a pool; where every live fibre is in a pool or blocked, that closes all the pools of the team. -/
def Team.closePools (t : Team) (p : Pool) (stamp : Nat) : Team :=
  if t.allPooled then t.pools.foldl (fun x q => x.closePool q stamp) t else t.closePool p stamp

/-- GATHERING_POOL_CLOSE (R59). -/
def execGatheringPoolClose (team : Nat) (target : Word) (s : State) : Result :=
  match s.team? team with
  | none => .next s
  | some t =>
    match t.pools.find? fun p => p.target == target with
    | some p => if t.runs ∧ t.poolDone p then .next (s.modTeam team fun t => t.closePools p s.stamp) else .next s
    | none => .next s

end Sys2Proof.Machine
end

