-- ==== Sys2Proof/Machine/Retiring.lean ====
section
/-! DEFINITION. The end of teams and launches (R66, R125, R220, R222, R223, R224, R331, R337). -/

namespace Sys2Proof.Machine

/-- Accesses of a team that are not yet performed at system scope. -/
def State.accessesLeft (s : State) (t : Team) : Bool :=
  (((s.core t.core).reqs ++ (s.core t.core).storeQ).any fun r => r.team == t.id)
    || s.flushShut t.core .sys || s.fab.posts.any fun p => p.team == t.id && p.kind != .completion

/-- Engine commands, row instructions and near-bank runs of a team are complete (R222). -/
def State.workDone (s : State) (t : Team) : Bool :=
  (s.cmdsOf t).isEmpty && (s.rows.all fun r => r.team != t.id) && (s.coh.arrivals.all fun a => a.team != t.id) && s.nb.all fun u => u.owner != t.id || u.cond == .held

/-- The team holds a published window, or an armed record. -/
def State.keepsLocal (s : State) (t : Team) : Bool :=
  !(s.windowsOf t).isEmpty || (s.core t.core).arms.any fun a => a.2.team == t.id

/-- TEAM_END_FREE (R222). -/
def execTeamEndFree (team : Nat) (s : State) : Result :=
  match s.team? team with
  | none => .next s
  | some t =>
    if t.cond ≠ .resident ∨ t.handlerFor.isSome ∨ !t.live.isEmpty ∨ !s.workDone t then .next s
    else
      let keep := s.keepsLocal t
      let free (t : Team) : Team := { t with
        cond := .ended, reserve := [], linger := [], fibres := t.fibres.map Fibre.noBlocks
        lbase := if keep then t.lbase else none }
      .next ((s.freeRegisters t).modTeam team free)

/-- The team is gone from its launch and its core. -/
def State.retireTeam (s0 : State) (t : Team) : State :=
  let s := ((s0.releaseViews t.core .sys).unpublishAll t).dropArms t.core fun a => a.team == t.id
  let s := { s with teams := s.teams.filter fun x => x.id != t.id, nb := s.nb.filter fun u => u.owner != t.id }
  let gone (l : Launch) : Launch := { l with done := l.done + 1, frames := l.frames.filter fun f => f != t.frame }
  (s.modLaunch t.launch gone).reseed s0 t.core

/-- TEAM_RETIRE: once the last child has retired (R222, R223). -/
def execTeamRetire (team : Nat) (s : State) : Result :=
  match s.team? team with
  | none => .next s
  | some t =>
    if t.cond ≠ .ended ∨ !(s.outstanding team).isEmpty ∨ s.accessesLeft t then .next s else .next (s.retireTeam t)

/-- The launch `x` is `l` or lies below it; `fuel` bounds the nesting (R222). -/
def State.under (s : State) : Nat → Nat → Nat → Bool
  | 0, _, _ => false
  | fuel + 1, x, l =>
    x == l || (((s.launch? x).bind fun y => y.parent).bind s.origin).any fun g => s.under fuel g.launch l

/-- A team removed without saving has left accesses behind. -/
def State.leftOver (s : State) (g : Gone) : Bool :=
  (s.cores.any fun c => (c.reqs ++ c.storeQ).any fun r => r.team == g.team)
    || s.fab.posts.any fun p => p.kind != .completion && p.team == g.team

/-- Accesses that removed teams of a launch or of its descendants have left behind (R223). -/
def State.orphans (s : State) (l : Nat) : Bool := s.gone.any fun g => s.under 16 g.launch l && s.leftOver g

/-- The teams removed from a launch and from those below it have written back their private sectors; its own are forgotten (R223, R264). -/
def State.settleGone (s : State) (l : Nat) : State :=
  let mine := s.gone.filter fun g => s.under 16 g.launch l
  let s := (distinct (mine.map (·.core))).foldl (fun s c => s.releaseViews c .sys) s
  { s with gone := s.gone.filter fun g => g.launch != l }

/-- The result with which a launch may retire now. -/
def State.retiresWith (s : State) (l : Launch) : Option Nat :=
  if s.gone.any fun g => s.under 16 g.launch l.id && s.flushShut g.core .sys then none
  else match l.status with
  | .started => if l.next = recTeams l.record ∧ l.done = l.next then some 0 else none
  | .retiring r => if s.orphans l.id || s.teams.any fun t => t.launch == l.id then none else some r
  | _ => none

/-- Fibres at `wchild` whose last child has retired leave, with an acquire (R224). -/
def State.wakeParent (s : State) (team : Nat) : State :=
  match s.team? team with
  | none => s
  | some t =>
    let is := t.live.filter fun i => (t.fibre i).wait == some .wchild
    if is.isEmpty ∨ !(s.outstanding team).isEmpty then s else (s.acquireOf t .sys).release team is

/-- LAUNCH_RETIRE (R223): the status word, then the completion record; a parent's `wchild` ends. -/
def execLaunchRetire (launch : Nat) (s : State) : Result :=
  match s.launch? launch with
  | none => .next s
  | some l =>
    match s.retiresWith l with
    | none => .next s
    | some r =>
      let s := (s.settleGone launch).modLaunch launch fun l => { l with status := .retired r }
      let s := (s.keepPromise launch).writeStatus l 3 r false
      let (s, bad) := s.complete 0 l.record r (some (l.q * 65536 + l.slot)) launch
      let s := if bad then s.modLaunch launch fun l => { l with lost := true } else s
      match l.parent with
      | some p => .next (s.wakeParent p)
      | none => .next s

/-- COMPLETION_WRITE_FAIL: the status word says so (R223). -/
def execCompletionWriteFail (launch : Nat) (s : State) : Result :=
  match s.launch? launch with
  | none => .next s
  | some l =>
    match l.status with
    | .retired r =>
      if l.lost then .next ((s.modLaunch launch fun l => { l with lost := false }).writeStatus l 3 r true) else .next s
    | _ => .next s

end Sys2Proof.Machine
end

