-- ==== Sys2Proof/Machine/Fabric.lean ====
section
/-! DEFINITION. The fabric: slots, orbits, digests and relays, messages that arrive, remote loads, posted writes, store lines and flagged
stores (R244, R260, R300 to R317). -/

namespace Sys2Proof.Machine

/-! ## Dies and ports (R300, R305) -/

/-- The link between two dies is in service. -/
def State.linkLive (s : State) (d e : Nat) : Bool := d != e && (s.die d).live.getLsbD e

/-- FRAME_REPLAY: a frame is sent again, which takes 2 ns and changes nothing else (R300). -/
def execFrameReplay (_d _e : Nat) (s : State) : Result := .next s

/-- Messages go to the escape channel of a die; those that have arrived leave it. -/
def State.inject (s : State) (d : Nat) (ids : List Nat) : State :=
  let here (i : Nat) : Bool := (s.msgs ++ s.fab.relay).any fun m => m.id == i
  s.modDie d fun k => { k with escape := distinct (k.escape.filter here ++ ids) }

/-! ## Slots and orbits (R302, R303) -/

/-- Slots from slot `k` on until an entry for which `ok` holds, within one orbit; `entry` gives entry 32s + p. -/
def meeting (entry : Nat → Word) (on : Nat → Bool) (d k : Nat) : Option Nat :=
  (List.range 32).find? fun j => (List.range 32).any fun p =>
    let e := entry (32 * ((k + j) % 32) + p)
    on p && e.getLsbD 31 && (e.extractLsb' 10 10).toNat == d

/-- Slots until a port of this device meets a device, from the current slot on. -/
def State.meetsIn (s : State) (d : Nat) : Option Nat :=
  meeting (fun i => (assoc s.fab.sched i).getD 0) s.fab.portEn.getLsbD d s.fab.slot

/-- Slots until a message for a device arrives through a relay, by its digest: the first hop, then a later slot of the relay. -/
def State.viaRelay (s : State) (d : Nat) (g : Nat × List Word × Nat) : Option Nat :=
  if g.1 = d then none
  else
    (s.meetsIn g.1).bind fun j =>
      (meeting (fun i => g.2.1.getD i 0) (fun _ => true) d (s.fab.slot + j + 1)).map fun k => j + 1 + k

/-- The better of two routes: the earlier, then the lower device. -/
def better (a b : Nat × Nat) : Nat × Nat := if b.1 < a.1 ∨ (b.1 = a.1 ∧ b.2 < a.2) then b else a

/-- The device to which a message for `d` goes next: direct where that is not later than the best relay (R303). -/
def State.hopTo (s : State) (d : Nat) : Option Nat :=
  let relays := s.fab.digests.filterMap fun g => (s.viaRelay d g).map fun n => (n, g.1)
  let best := match relays with
    | [] => none
    | x :: xs => some (xs.foldl better x)
  match s.meetsIn d, best with
  | some j, some (n, r) => if n < j then some r else some d
  | some _, none => some d
  | none, some (_, r) => some r
  | none, none => none

/-- The enabled port that meets a device in its next meeting. -/
def State.portOf (s : State) (d : Nat) : Option Nat :=
  (s.meetsIn d).bind fun j => (List.range 32).find? fun p =>
    let e := (assoc s.fab.sched (32 * ((s.fab.slot + j) % 32) + p)).getD 0
    s.fab.portEn.getLsbD p && e.getLsbD 31 && (e.extractLsb' 10 10).toNat == d

/-- The request that a load response answers: by its remote tag and epoch, or by its own number (R306, R307). -/
def State.asker (s : State) (tag : Nat) (ep : BitVec 4) : Option (Nat × Req) :=
  if 2 ^ 20 ≤ tag / 64 then findReq (tag / 64 - 2 ^ 20) s.cores 0 else s.tagged tag ep

/-- The block that a message concerns: that of its body, that which it is about, or that of the request or the post that it answers. -/
def State.msgBlock (s : State) (m : Msg) : Nat :=
  let ofReq (x : Option (Nat × Req)) : Option Nat := x.map fun x => blkOf x.2.page.home x.2.page.pa
  let ofPost (id : Nat) : Option Nat :=
    match s.post? id with
    | some p => some (blkOf p.home p.pa)
    | none => ofReq (findReq id s.cores 0)
  (((m.body.block? s.dev).orElse fun _ => m.about).orElse fun _ =>
    match m.body with
    | .loadResp tag ep _ _ => ofReq (s.asker tag ep)
    | .atomResp tag ep _ _ => ofReq (s.asker tag ep)
    | .postedAck id _ => ofPost id
    | .flagAck id _ _ => ofPost id
    | _ => none).getD 0

/-- The die on which a party stands for a message: of this device, its own; of another, that of the port through which the message leaves.
DESIGN CHOICE: ports 8d to 8d + 7 belong to die d (log entry 90). -/
def State.dieOf (s : State) (p : Party) (blk : Nat) : Option Nat :=
  if p.dev = s.dev then some (s.staleDie p.place blk) else ((s.hopTo p.dev).bind s.portOf).map fun k => k / 8

/-- Messages on their way from one die of this device to another. -/
def State.between (s : State) (d e : Nat) : List Nat :=
  ((s.msgs ++ s.fab.relay).filter fun m =>
    !m.taken && s.dieOf m.src (s.msgBlock m) == some d && s.dieOf m.dst (s.msgBlock m) == some e).map fun m => m.id

def cutLink (e : Nat) (k : Die) : Die := { k with live := k.live &&& ~~~(1#4 <<< e) }

/-- A link is out of service: each die's buffer goes to its escape channel (R300). -/
def State.loseLink (s : State) (d e : Nat) : State :=
  (((s.inject d (s.between d e)).inject e (s.between e d)).modDie d (cutLink e)).modDie e (cutLink d)

/-- LINK_DEAD (R300). -/
def execLinkDead (d e : Nat) (s : State) : Result := if !s.linkLive d e then .next s else .next (s.loseLink d e)

/-- A message of this device waits at a port (R303). -/
def State.atPort (s : State) (p : Nat) (m : Msg) : Bool := m.dst.dev != s.dev && (s.hopTo m.dst.dev).bind s.portOf == some p

/-- A message that this device relays waits at a port: at that which meets its target, until it has lost one (R303, R305). -/
def State.relayAtPort (s : State) (p : Nat) (m : Msg) : Bool :=
  if m.rerouted then s.atPort p m else s.portOf m.dst.dev == some p

/-- A port sends nothing until it is enabled again; what waits at it goes to the escape channel of its die, and another way (R305). DESIGN CHOICE:
the die of port p is p / 8 (log entry 90). -/
def State.losePort (s : State) (p : Nat) : State :=
  let mark (lost : Bool) (m : Msg) : Msg := if lost then { m with rerouted := true } else m
  let out := (s.msgs.filter (s.atPort p) ++ s.fab.relay.filter (s.relayAtPort p)).map fun m => m.id
  ({ s with
    msgs := s.msgs.map fun m => mark (s.atPort p m) m
    fab := { s.fab with
      portEn := s.fab.portEn &&& ~~~(1#32 <<< p), relay := s.fab.relay.map fun m => mark (s.relayAtPort p m) m } }).inject (p / 8) out

/-- PORT_FAILURE (R305). -/
def execPortFailure (p : Nat) (s : State) : Result := if !s.fab.portEn.getLsbD p then .next s else .next (s.losePort p)

/-- What an enabled port with a valid entry receives in the slot: the peer, when the exchange matches, and whether its relay buffer lacks room. -/
def portMatch (e : Word) (x : Exchange) : Option (Nat × Bool) :=
  match x with
  | .silent => none
  | .numbers dev port full => if dev = e.extractLsb' 10 10 ∧ port = e.extractLsb' 5 5 then some (dev.toNat, full) else none

/-- Count a schedule mismatch of a port (R302). -/
def State.mismatch (s : State) (p : Nat) : State :=
  let n := (assoc s.fab.mismatch p).getD 0
  { s with fab := { s.fab with mismatch := assocSet s.fab.mismatch p (if n = 0xFFFFFFFF then n else n + 1) } }

/-- Bytes of a message of the fabric: the manual gives none (log entry 17). -/
def msgBytes : Nat := 512

/-- A message without the first `n` of a list for which `p` holds. -/
def dropFirst (p : Msg → Bool) : Nat → List Msg → List Msg
  | _, [] => []
  | 0, ms => ms
  | n + 1, m :: ms => if p m then dropFirst p n ms else m :: dropFirst p (n + 1) ms

/-- Up to `n` messages leave in a meeting with a peer: those for it, those through it unless its relay buffer lacks room (R303), and relayed ones
for it; a relayed one that has lost its port goes through another relay too (R305). -/
def State.sendTo (s : State) (peer : Nat) (full : Bool) (n : Nat) : State :=
  let goes (m : Msg) : Bool := m.dst.dev != s.dev && s.hopTo m.dst.dev == some peer && (m.dst.dev == peer || !full)
  let left := n - (s.msgs.filter goes).length
  { s with
    msgs := dropFirst goes n s.msgs
    fab := { s.fab with relay := dropFirst (fun m => m.dst.dev == peer || (m.rerouted && goes m)) left s.fab.relay } }

/-- One port at the start of a slot, which carries 16,250 bytes: 4,096 of them are this device's own digest in the first slot of an orbit in which the
port's exchange matches (R302). -/
def State.portSlot (s : State) (xs : List Exchange) (p : Nat) : State :=
  let e := (assoc s.fab.sched (32 * s.fab.slot + p)).getD 0
  if !s.fab.portEn.getLsbD p || !e.getLsbD 31 then s
  else
    match portMatch e (xs.getD p .silent) with
    | none => s.mismatch p
    | some (peer, full) =>
      let room := if s.fab.met.getLsbD p then 16250 else 16250 - 4096
      ({ s with fab := { s.fab with met := s.fab.met ||| (1#32 <<< p) } }).sendTo peer full (room / msgBytes)

/-- ROTOR_SLOT_START (R302, R303), every 150 ns, 32 times in an orbit. -/
def execRotorSlotStart (xs : List Exchange) (s : State) : Result :=
  if s.fab.slotAge < 150 ∨ 32 ≤ s.fab.slot then .next s
  else
    let s := (List.range 32).foldl (fun s p => s.portSlot xs p) s
    .next { s with fab := { s.fab with slot := s.fab.slot + 1, slotAge := s.fab.slotAge - 150 } }

/-- ORBIT_START: when the 32 slots are over; changed entries take effect, and slot 0 starts at once (R302). -/
def execOrbitStart (s : State) : Result :=
  if s.fab.slot < 32 ∨ s.fab.slotAge < 150 then .next s
  else
    let sched := s.fab.schedNext.foldl (fun l e => if e.2 = 0 then assocDel l e.1 else assocSet l e.1 e.2) s.fab.sched
    .next { s with fab := { s.fab with
      slot := 0, met := 0, sched := sched, schedNext := [] } }

/-- SCHEDULE_DIGEST: a peer's latest digest is kept (R302). -/
def execScheduleDigest (peer : Nat) (entries : List Word) (s : State) : Result :=
  .next { s with fab := { s.fab with digests := (s.fab.digests.filter fun g => g.1 != peer) ++ [(peer, entries, 0)] } }

/-- Ticks of two orbits of 4.8 µs. -/
def digestTicks : Nat := 600

/-- DIGEST_DISCARD: two orbits after it arrived. -/
def execDigestDiscard (peer : Nat) (s : State) : Result :=
  .next { s with fab := { s.fab with digests := s.fab.digests.filter fun g => g.1 != peer || g.2.2 < digestTicks } }

/-- Messages of other devices that the relay buffers take: 8 MiB on each live die while a port is enabled (R301). A message that has not been
rerouted leaves the places that are kept for those that have (R305): one for each port (log entry 17). -/
def State.relayRoom (s : State) (rerouted : Bool) : Nat :=
  if s.fab.portEn = 0 then 0 else s.liveDies.length * (Config.relayBytes / msgBytes - if rerouted then 0 else 8)

/-- RELAY_FORWARD: this device takes a message of others, or refuses it for want of room (R303). -/
def execRelayForward (m : Msg) (s : State) : Result :=
  if m.dst.dev = s.dev ∨ usTicks 1000 ≤ m.age ∨ s.relayRoom m.rerouted ≤ s.fab.relay.length then .next s
  else .next { s with fab := { s.fab with relay := s.fab.relay ++ [{ m with id := s.nextId }] } }.fresh

/-- MESSAGE_AGE_DROP: a message reaches 1 ms where it stands: on its way, at its party, or in the relay buffer (R304). -/
def execMessageAgeDrop (id : Nat) (s : State) : Result :=
  .next { s with
    msgs := s.msgs.filter fun m => !(m.id == id && Msg.tooOld m)
    fab := { s.fab with relay := s.fab.relay.filter fun m => !(m.id == id && usTicks 1000 ≤ m.age) } }

/-! ## DELIVER (R244, R317) -/

/-- What a message brings of blocks that this device has written while it was away (R267; log entry 9). -/
def State.patchBody (s : State) : Body → Body
  | .tokens b se n p d (some x) tag => .tokens b se n p d (some (s.patched b x)) tag
  | .storeLine id bs w => .storeLine id (bs.map fun b => (b.1, b.2.1, s.patched b.1 b.2.2)) w
  | b => b

/-- A message has come in. -/
def State.takeIn (s : State) (m : Msg) (p : Place) : State :=
  { s with msgs := s.msgs ++ [{ m with id := s.nextId, dst := s.here p, body := s.patchBody m.body, taken := false, rerouted := false }] }.fresh

/-- Places of this device that a message about a block means (R317). -/
def State.allPlaces (s : State) (blk : Nat) : List Place := (if s.isLocal blk then [Place.home] else []) ++ s.placesOf blk

/-- The sectors of a line that a remote load asks for. -/
def State.sectorsOf (s : State) (pa : Nat) (mask : BitVec 4) : LineData :=
  let part (k : Nat) : List Byte := if mask.getLsbD k then s.uncachedRead (pa + 64 * k) 64 else List.replicate 64 0
  BitVec.ofNat 2048 (bytesNat ((List.range 4).flatMap part))

/-- The poisoned blocks under some sectors. -/
def State.poisonUnder (s : State) (pa : Nat) (mask : BitVec 4) : List Nat :=
  if isDram pa then distinct (((List.range 4).filter mask.getLsbD).map fun k => blkOf s.dev (pa + 64 * k)) |>.filter s.poisoned else []

/-- The home answers a remote load (R306). With a data error it names the blocks that have one (R191; log entry 48), and their bytes are
zeros. -/
def State.answerLoad (s : State) (m : Msg) (pa : Nat) (mask : BitVec 4) (tag : Nat) (ep : BitVec 4) : State :=
  let answer (st : RemStatus) (d : LineData) : State := s.replyTo { m with dst := s.here .home } (.loadResp tag ep st d)
  if s.unbacked pa then answer .notBacked 0
  else
    let bad := s.poisonUnder pa mask
    if bad.isEmpty then answer .ok (s.sectorsOf pa mask)
    else
      let good := (List.range 4).foldl (fun (x : BitVec 4) k => if bad.contains (blkOf s.dev (pa + 64 * k)) then x &&& ~~~(1#4 <<< k) else x) mask
      (answer .dataError (s.sectorsOf pa good)).markBad s.nextId bad

/-- The blocks of this device under some bytes of a line that hold data of their own: none of a register, nor of a queue's window (R314). -/
def State.lineBlocks (s : State) (pa : Nat) (mask : BitVec 256) : List Nat :=
  if isRegs pa || s.unbacked pa || (isDram pa && (s.windowOf pa).isSome) then [] else (touched mask).map fun h => blkOf s.dev (pa / 256 * 256) + h

/-- Bytes of the sectors that a remote load asks for. -/
def sectorBytes (mask : BitVec 4) : BitVec 256 :=
  (List.range 4).foldl (fun (m : BitVec 256) k => if mask.getLsbD k then m ||| BitVec.ofNat 256 ((2 ^ 64 - 1) * 2 ^ (64 * k)) else m) 0

/-- The home deals with a remote load: once the owners of its blocks are here (R245). -/
def State.serveLoad (s : State) (m : Msg) (pa : Nat) (mask : BitVec 4) (tag : Nat) (ep : BitVec 4) : Dealt :=
  match s.gatherAll (s.lineBlocks pa (sectorBytes mask)) false with
  | some s => .wait s
  | none => .done ((s.answerLoad m pa mask tag ep).homeDone (s.lineBlocks pa (sectorBytes mask)))

/-- A remote load that waits at the home is dealt with. -/
def execHomeLoad (id : Nat) (s : State) : Result :=
  s.deal id fun m =>
    match m.body with
    | .loadReq pa mask tag ep => s.serveLoad m pa mask tag ep
    | _ => .wait s

/-- DELIVER: a message of another device reaches this one. A remote load is answered at once, where its home's values are here. -/
def execDeliver (m : Msg) (s : State) : Result :=
  if m.dst.dev ≠ s.dev ∨ usTicks 1000 ≤ m.age then .next s
  else
    let spread (blk : Nat) : State := (s.allPlaces blk).foldl (fun s p => s.takeIn m p) s
    match m.body with
    | .tryTok blk _ _ _ => .next (spread blk)
    | .publishReq blk _ _ => .next (spread blk)
    | .activate blk _ _ _ => .next (spread blk)
    | .deactivate blk _ _ _ => .next (if m.dst.place = .home then s.takeIn m .home else spread blk)
    | .loadReq pa mask tag ep =>
      if s.shutOut { m with dst := s.here .home } then .next (s.takeIn m .home)
      else match s.serveLoad m pa mask tag ep with
      | .done u => .next u
      | .wait u => .next (u.takeIn m .home)
    | _ => .next (s.takeIn m m.dst.place)

/-! ## Remote loads (R306, R307) -/

/-- A prefetch that has failed is over: it raises nothing (R184). -/
def State.dropPrefetch (s : State) (c id : Nat) : State :=
  s.modCore c fun k => { k with reqs := k.reqs.filter fun r => !(r.id == id && r.kind == .prefetch) }

/-- A request meets a cause. -/
def State.failReq (s : State) (c id code : Nat) : State := ((s.modReq c id (Req.failAll code)).freeTag c id).dropPrefetch c id

/-- The tag of a request is freed, and its epoch advances (R307). -/
def State.retireTag (s : State) (c id : Nat) : State :=
  s.modCore c fun k =>
    let freed := k.tags.filter fun x => x.2 == id
    { k with
      tags := k.tags.filter fun x => x.2 != id
      epochs := freed.foldl (fun e x => assocSet e x.1 ((assoc e x.1).getD 0 + 1)) k.epochs }

/-- The wants of a core's die for some blocks are withdrawn, and what was collected goes home (R306, R316). -/
def State.withdrawAll (s : State) (c : Nat) (blks : List Nat) : State :=
  blks.foldl (fun s b =>
    match s.want? (.die (s.core c).die) b with
    | some w => s.withdraw w
    | none => s) s

/-- Store lines of a core's die that still collect some blocks ask for them again, for what was collected has gone (R316). -/
def State.reAsk (s : State) (c : Nat) (blks : List Nat) : State :=
  (s.fab.posts.filter fun q => q.kind == .storeLine && !q.sent && (s.core q.core).die == (s.core c).die).foldl (fun s q =>
    (q.blocks.filter blks.contains).foldl (fun s b => s.askCore q.core b .write ((s.spaceOf q.team).getD 0)) s) s

/-- What a core's die has collected of some blocks for an access that is given up goes home; its other store lines go on (R306, R316). -/
def State.giveUp (s : State) (c : Nat) (blks : List Nat) : State := (s.withdrawAll c blks).reAsk c blks

/-- A message that has not yet left this device belongs to a remote load or atomic line of a core. -/
def State.asksFor (s : State) (c : Nat) (r : Req) (m : Msg) : Bool :=
  let named (tag : Nat) : Bool := tag / 64 == r.tokenTag || (s.core c).tags.any fun x => x.2 == r.id && tag / 64 == c * 512 + x.1
  m.dst.dev == r.page.home && match m.body with
    | .loadReq _ _ tag _ => named tag
    | .atomReq _ _ _ _ tag _ => named tag
    | _ => false

/-- The home of a remote line has become unreachable, and its request is still here: it fails at once (R305, R306). -/
def State.cutOff (s : State) (c : Nat) (r : Req) : Bool :=
  !s.reachable r.page.home && (s.route r.page == .token && r.kind.isRead || s.msgs.any (s.asksFor c r))

/-- A remote line ends with a cause: its request, and the tokens it has collected, are given up. -/
def State.abandonLine (s : State) (c : Nat) (r : Req) (code : Nat) : State :=
  let s := if s.route r.page = Route.token ∧ r.kind.isRead then s.giveUp c r.blocks else s
  let s := { s with msgs := s.msgs.filter fun m => !s.asksFor c r m }
  ((s.retireTag c r.id).modReq c r.id (Req.failAll code)).dropPrefetch c r.id

/-- REMOTE_LOAD_TIMEOUT: a remote load or atomic line without its response within rto µs (R306), or whose home can no longer be reached
(R305). -/
def execRemoteLoadTimeout (core id : Nat) (s : State) : Result :=
  match s.req? core id with
  | none => .next s
  | some r =>
    let read := r.isOpen || r.kind == .prefetch
    if !read || r.openLanes.isEmpty || r.page.home == s.dev || !(r.sent || (r.kind.isRead && r.tried.isSome)) || (s.route r.page == .remote && r.data.isSome) then .next s
    else if s.cutOff core r then .next (s.abandonLine core r 0x40)
    else if r.age < s.rtoTicks then .next s
    else .next (s.abandonLine core r 0x41)

/-! ## Writes at their home (R308, R312, R316) -/

/-- What a write at the home of a token block waits for; none when it may be made (R281, R290). -/
def State.homeNeeds (s : State) (blk : Nat) : Option State :=
  if (s.localCopy blk).isSome then (if s.windowMoving blk then some s else none)
  else if s.isFrozen .home blk || s.coh.converting.any (fun c => c.1 == blk) then some s
  else if (s.metaOf blk).isLease && !isHost (blkPa blk) then none
  else
    match s.hostGrants blk .write with
    | some s => some s
    | none =>
      if (s.homeTokens blk).2.1 = 4096 ∧ (s.activeOf blk).all (fun e => e.req == s.here .home) then none
      else some (s.ask .home 74 blk .write false 0)

/-- Bytes of a block written at its home. -/
def State.homePut (s : State) (pa : Nat) (bs : List Byte) : State :=
  let blk := blkOf s.dev pa
  (s.putBlock blk (patchBlock (s.current blk) (pa % 128) bs) (s.poisoned blk)).1.finishWant .home blk

/-- Poison under a posted line: none where no data lie (R314). -/
def State.linePoison (s : State) (pa : Nat) (mask : BitVec 256) : Bool × State :=
  if isDram pa then s.maskPoison (blkOf s.dev pa) mask else (false, s)

/-- Runs of bytes that follow each other, each with the offset of its first. -/
def byteRuns : List (Nat × Byte) → List (Nat × List Byte)
  | [] => []
  | (o, b) :: xs =>
    match byteRuns xs with
    | (p, bs) :: rs => if p = o + 1 then (o, b :: bs) :: rs else (o, [b]) :: (p, bs) :: rs
    | [] => [(o, [b])]

/-- A posted line is applied at its home (R308), or taken by a queue's window (R314). -/
def State.applyPosted (s : State) (m : Msg) (id pa : Nat) (mask : BitVec 256) (d : LineData) : State :=
  let ack (s : State) (st : RemStatus) : State := s.replyTo m (.postedAck id st)
  if s.unbacked pa then ack s .notBacked
  else
    match if isDram pa then s.windowOf pa else none with
    | some q => if mask = fullMask then s.offerLine q m id d else ack s .partialLine
    | none =>
      let (bad, s) := s.linePoison pa mask
      if isDram pa then ack (s.writeMasked (blkOf s.dev pa) mask d) (if bad then .dataError else .ok)
      else ack ((byteRuns (maskedBytes mask d)).foldl (fun s b => s.uncachedWrite (pa + b.1) b.2) s) .ok

/-- A posted reduction of one word. -/
def State.applyRed (s : State) (m : Msg) (id pa : Nat) (op : AtomOp) (x : Word) : State :=
  let ack (s : State) (st : RemStatus) : State := s.replyTo m (.postedAck id st)
  if s.unbacked pa then ack s .notBacked
  else if isDram pa && (s.windowOf pa).isSome then ack s .partialLine
  else
    let old := BitVec.ofNat 32 (bytesNat (s.uncachedRead pa 4))
    ack (s.uncachedWrite pa (wordBytes (atomNew op old x 0))) (if isDram pa && s.poisoned (blkOf s.dev pa) then .dataError else .ok)

/-- An access that its home has passed on reaches the holder of the window, or goes back home where the window has gone (R132). -/
def State.passedOn (s : State) (m : Msg) (pa : Nat) (back : Body) (f : State → State) : Dealt :=
  let blk := blkOf 0 pa
  if s.windowMoving blk then .wait s else if (s.localCopy blk).isSome then .done (f s) else .done (s.send m.src (homeParty blk) back)

/-- A posted reduction at the holder of a window. -/
def State.redAtWindow (s : State) (m : Msg) (id pa : Nat) (op : AtomOp) (x : Word) : Dealt :=
  s.passedOn m pa (.postedRed id (pa % 2 ^ 52) op x) fun s =>
    let blk := blkOf 0 pa
    let old := BitVec.ofNat 32 (bytesNat (blockSlice (s.current blk) (pa % 128) 4))
    (s.writeBlock blk (pa % 128) (wordBytes (atomNew op old x 0))).replyTo m (.postedAck id (if s.poisoned blk then .dataError else .ok))

/-- A block of a store line, with its tokens, reaches the home (R283, R316). -/
def State.takeStored (s : State) (m : Msg) (b : Nat × BitVec 8 × BlockData) : State :=
  if b.2.1 ≠ (s.homeTokens b.1).1 then s.countStale (s.staleDie .home b.1)
  else
    let s := (s.homeReceive b.1 4096 true true (some b.2.2)).setPoison b.1 (m.poison.contains b.1)
    match s.activeOf b.1 with
    | some e => s.homeServe e
    | none => s

/-- POSTED_WRITE. -/
def execPostedWrite (id : Nat) (s : State) : Result :=
  s.deal id fun m =>
    match m.body with
    | .posted pid pa mask d =>
      let bs := s.lineBlocks pa mask
      match s.gatherAll bs true with
      | some s => .wait s
      | none => .done ((s.applyPosted m pid pa mask d).homeDone bs)
    | .postedRed pid pa op x =>
      if m.dst.place ≠ .home then s.redAtWindow m pid pa op x
      else
        let bs := s.lineBlocks pa (BitVec.ofNat 256 (2 ^ (pa % 256)))
        match s.gatherAll bs true with
        | some s => .wait s
        | none => .done ((s.applyRed m pid pa op x).homeDone bs)
    | .storeLine pid bs num =>
      if bs.any fun b => s.isFrozen .home b.1 then .wait s
      else
        let fresh := bs.all fun b => b.2.1 == (s.homeTokens b.1).1
        let s := bs.foldl (fun s b => s.takeStored m b) s
        let window := bs.findSome? fun b => s.windowOf (blkPa b.1)
        let line : LineData := BitVec.ofNat 2048 (bytesNat (bs.flatMap fun b => blockBytesOf b.2.2))
        .done (if !fresh then s
          else match window with
            | none => ((num.map (s.countLine m.src.dev (blkPa ((bs.head?.map (·.1)).getD 0)))).getD s).replyTo m (.postedAck pid .ok)
            | some q =>
              match num with
              | some n =>
                let m' : Msg := { m with body := .launchLine pid (blkPa ((bs.head?.map (·.1)).getD 0) / 256) n line }
                s.takeLine q m' pid n line
              | none => s.replyTo m (.postedAck pid .partialLine))
    | _ => .wait s

/-! ## Posts at their issuer (R308 to R310, R312, R316) -/

/-- The shadows of a store line are freed: another line of the die to the same block keeps its own. -/
def State.dropShadows (s : State) (p : Post) : State :=
  if p.kind ≠ .storeLine then s
  else { s with coh := { s.coh with shadows := s.coh.shadows.filter fun x => x.line != some p.id } }

/-- A store line is acknowledged: what its die has asked for again ends, unless another access of the die uses it (R316). -/
def State.dropAgain (s : State) (p : Post) : State :=
  if p.kind ≠ .storeLine then s
  else p.blocks.foldl (fun s b =>
    match s.want? (.die (s.core p.core).die) b with
    | some w => if s.dieUses (s.core p.core).die b then s else s.withdraw w
    | none => s) s

/-- The flag updates that the issuing device sends, once the data's home has acknowledged (R312). -/
def State.flagsAfter (s : State) (p : Post) : State :=
  p.flags.foldl (fun s f =>
    match f with
    | some g =>
      if g.page.home = p.home ∧ p.home ≠ s.dev then s else s.sendFlag p g
    | none => s) s

/-- A lane of a line whose lanes go one after another is over: those that waited for it alone leave (R186, R188), and the line ends with the last. -/
def State.nextTurn (s : State) (p : Post) : State :=
  let turns (r : Req) : Bool := match r.kind with
    | .red _ => p.kind == .reduction
    | .store => p.kind == .store
    | _ => false
  match (s.core p.core).storeQ.find? fun r => r.sent && turns r && r.inst == p.inst && r.team == p.team && r.va == p.va with
  | none => s
  | some r =>
    let out := r.turn r.lanes
    let rest := match out.find? fun l => (lineImage [l]).1 == p.mask with
      | some l => r.lanes.erase l
      | none => r.lanes
    let next := (r.turn rest).filter fun l => !out.contains l || r.cmd.isSome
    let s := s.modCore p.core fun k => { k with storeQ := k.storeQ.map fun q => if q.id == r.id then { q with lanes := rest } else q }
    if next.isEmpty then if rest.isEmpty then s.dropStore p.core r.id else s
    else if !s.reachable p.home then (s.tell p.core r 0x43 1 p.home r.code).dropStore p.core r.id
    else match r.kind with
      | .red op => s.postReds p.core r op next
      | _ => s.postStores p.core r next

/-- A post is over: the acquire of a strongly ordered store is made (R202), and an arrival that waited for it alone (R329). -/
def State.endPost (s : State) (p : Post) : State := (((s.dropPost p.id).nextTurn p).settleArrivals p.id).reqAcquire p.core p.ord

/-- A post ends with a report. -/
def State.failPost (s : State) (p : Post) (cause detail : Nat) : State :=
  let s := (s.endPost p).reportPost p cause detail
  if p.kind = .flag then s.flagTold p.inst p.va
  else
    let s := if p.kind = .flagData then s.voidFlags p.inst p.fibs else s
    let mark (q : Post) : Post := if q.inst == p.inst && q.kind == p.kind && q.va == p.va then { q with told := true } else q
    let told (r : Req) : Req := if r.inst == p.inst && r.team == p.team && r.va == p.va then { r with told := true } else r
    { s with fab := { s.fab with posts := s.fab.posts.map mark } }.modCore p.core fun k => { k with storeQ := k.storeQ.map told }

/-- A token request of a die is for a frame that its home does not serve: its loads meet cause 0x40, and its store lines are reported (R306,
R308). -/
def State.lineRefused (s : State) (w : Want) : State :=
  let s := s.withdraw w
  let cores := (List.range s.cores.length).filter fun c => Place.die (s.core c).die == w.who
  let s := cores.foldl (fun s c =>
    ((s.core c).reqs.filter fun r => r.reads && s.route r.page == .token && r.blocks.contains w.blk).foldl (fun s r => s.abandonLine c r 0x40) s) s
  (s.fab.posts.filter fun p => p.kind == .storeLine && !p.sent && cores.contains p.core && p.blocks.contains w.blk).foldl
    (fun s p => (s.failPost p 0x43 3).giveUp p.core p.blocks) s

/-- An answer for which no request of a core waits: the current data for a snoop of the host (R295), or word that a frame is not served. -/
def State.otherAnswer (s : State) (id : Nat) (st : RemStatus) (d : LineData) : State :=
  let mine (x : Nat × HostWait) : Bool := match x.2 with
    | .snoopCur k _ => k == id
    | _ => false
  match s.host.snoops.find? mine, st with
  | some x, .ok => (s.hostAnswer x.1 (d.extractLsb' (512 * (x.1 % 4)) 512)).endSnoop x.1
  | none, .notBacked =>
    match s.wantId? id with
    | some w => s.lineRefused w
    | none => s
  | _, _ => s

/-- The lanes of a line that a data error hits: those of the blocks that the answer names, or all where it names none. -/
def Req.hit (r : Req) (blks : List Nat) : List LaneReq := r.openLanes.filter fun l => blks.isEmpty || blks.contains (r.laneBlk l)

/-- An answer brings the bytes of a line. An atomic's line is then known to be good or not, and is sent anew to be performed. -/
def State.lineCame (s : State) (c : Nat) (r : Req) (data : LineData) : State :=
  let back : Bool := match r.kind with
    | .atom _ => true
    | _ => false
  (s.modReq c r.id fun q => { q with data := some data, sent := !back }).freeTag c r.id

/-- REMOTE_RESPONSE (R307). Poisoned data reach a copy engine as zeros, and are reported (R151). -/
def execRemoteResponse (id : Nat) (s : State) : Result :=
  s.deal id fun m =>
    match m.body with
    | .loadResp tag ep st data =>
      match s.asker tag ep with
      | none => .done (if 2 ^ 20 ≤ tag / 64 then s.otherAnswer (tag / 64 - 2 ^ 20) st data else s.countStale (s.core (tag / 64 / 512)).die)
      | some (c, r) =>
        match st with
        | .ok => .done (s.lineCame c r data)
        | .dataError =>
          let bad := (r.hit m.poison).map fun l => (l, 0x70)
          if r.quiet then .done ((s.lineCame c r data).settleLoad c r r.openLanes bad)
          else .done ((s.lineCame c r data).modReq c r.id fun q => { q with bad := q.bad ++ bad })
        | _ => .done (s.failReq c r.id 0x40)
    | _ => .wait s

/-- A store line whose window has gone goes back to collecting tokens (R132, R316). -/
def State.recollect (s : State) (p : Post) : State :=
  let asid := (s.spaceOf p.team).getD 0
  let s := s.modPost p.id fun q => { q with kind := .storeLine, sent := false, refused := p.refused }
  (touched p.mask).foldl (fun s h => s.askCore p.core (blkOf p.home p.pa + h) .write asid) s

/-- A whole line that its home has treated as an ordinary store (R310, kind 0), or as a launch line (kind 7). Until the home has said which, a whole
line of a write-combining page is reported as a launch line, and one of a normal page as a store. DESIGN CHOICE: log entry 98. -/
def Post.asStore (p : Post) : Post := if p.kind = .launchLine then { p with kind := .store } else p
def Post.asLine (p : Post) : Post := { p with kind := .launchLine, ty := .writeCombining }

/-- The answer to a post. -/
def State.postAnswer (s : State) (p : Post) (st : RemStatus) : State :=
  match st with
  | .ok => (((s.endPost p).dropShadows p).dropAgain p).flagsAfter p
  | .refused =>
    if p.kind = .launchLine then s.modPost p.id fun p => { p with refused := true }
    else if p.kind = .storeLine then
      -- A whole line of a token page that has come early at a queue's window (R315): it is sent again, with its number.
      (s.dropShadows p).recollect { p with refused := true }
    else if p.home ≠ s.dev ∧ (p.ty ≠ .normal ∨ p.cls = .priv) then
      -- Passed on by its home to a window that has gone (R132): the line goes to its home again.
      s.send (s.here (.die (s.core p.core).die)) ⟨p.home, .home⟩ (.posted p.id p.pa p.mask p.data)
    else s.recollect p
  | .dataError => s.failPost p.asStore 0x70 0
  | .queueFull => (s.dropShadows p).failPost p.asLine 0x44 4
  | .queueOff => (s.dropShadows p).failPost p.asLine 0x44 5
  | .partialLine => (s.dropShadows p).failPost p 0x44 6
  | _ => s.failPost p.asStore 0x43 3

/-- A flagged store's post at the point where its flag failed (R312). -/
def Post.asFlag (p : Post) : Post :=
  match p.flags with
  | some f :: _ => { p with kind := .flag, fib := p.fibs.headD p.fib, va := f.va, lanes := f.lanes, told := f.told }
  | _ => { p with kind := .flag }

/-- POSTED_WRITE_ACK. -/
def execPostedWriteAck (id : Nat) (s : State) : Result :=
  s.deal id fun m =>
    match m.body with
    | .postedAck pid st =>
      match s.post? pid with
      | some p => .done (s.postAnswer p st)
      | none => .done s
    | .flagAck pid isFlag st =>
      match s.post? pid with
      | some p => .done (s.postAnswer (if isFlag then p.asFlag else p) st)
      | none => .done s
    | _ => .wait s

/-- A message that has not yet left this device carries a post. -/
def carries (m : Msg) (id : Nat) : Bool :=
  match m.body with
  | .posted i _ _ _ => i == id
  | .postedRed i _ _ _ => i == id
  | .flagData i _ _ _ => i == id
  | .flagUpd i _ => i == id
  | .launchLine i _ _ _ => i == id
  | .pubStore i _ _ _ => i == id
  | .storeLine i _ _ => i == id
  | _ => false

/-- A message answers a post. -/
def answers (m : Msg) (id : Nat) : Bool :=
  match m.body with
  | .postedAck i _ => i == id
  | .flagAck i _ _ => i == id
  | _ => false

/-- POSTED_WRITE_TIMEOUT: a post, or a reduction to a token page, without its acknowledgement within rto µs (R308); at once where it is still
here and its home can no longer be reached (R305). -/
def execPostedWriteTimeout (post : Nat) (s : State) : Result :=
  match s.post? post with
  | some p =>
    let here (m : Msg) : Bool := m.dst.dev != s.dev && carries m post
    if p.kind = .storeLine then .next s
    else if p.home = s.dev then
      -- A line that went to a window on another device (R132).
      let near (m : Msg) : Bool := m.dst.dev == s.dev && (carries m post || answers m post)
      .next (if s.rtoTicks ≤ p.age ∧ s.msgs.all fun m => !near m then s.failPost p 0x43 2 else s)
    else if !s.reachable p.home && s.msgs.any here then
      .next ({ s with msgs := s.msgs.filter fun m => !here m }.failPost p 0x43 1)
    else if s.rtoTicks ≤ p.age then .next (s.failPost p 0x43 2)
    else .next s
  | none =>
    match findReq post s.cores 0 with
    | some (c, r) =>
      match r.kind with
      | .red _ =>
        if !r.sent ∨ r.page.home = s.dev ∨ s.route r.page = .remote then .next s
        else if s.cutOff c r then
          let s := s.tell c r 0x43 1 r.page.home 1
          .next (({ s with msgs := s.msgs.filter fun m => !s.asksFor c r m }.dropReq c post).dropStore c post)
        else if s.rtoTicks ≤ r.age then
          let s := s.tell c r 0x43 2 r.page.home 1
          .next ((s.dropReq c post).dropStore c post)
        else .next s
      | _ => .next s
    | none => .next s

/-! ## Store lines (R316) -/

/-- The holdings of a store line's blocks, when its die has all their tokens. -/
def State.collected (s : State) (p : Post) : Option (List Hold) :=
  let hs := p.blocks.filterMap fun b => (s.hold? (.die (s.core p.core).die) b).filter Hold.writable
  if hs.length = p.blocks.length then some hs else none

/-- The bytes of a post in one of its blocks, applied. -/
def Post.applyTo (p : Post) (h : Hold) : BlockData :=
  let half := h.blk - blkOf p.home p.pa
  ((maskedBytes p.mask p.data).filter fun b => b.1 / 128 == half).foldl (fun d b => patchBlock d (b.1 % 128) [b.2]) h.data

/-- Poison met by a block of a store line: a write of the whole block clears it, another is reported (R191, R285). -/
def State.postPoison (s : State) (p : Post) (h : Hold) : State :=
  if p.bad then s.setPoison h.blk true
  else if !s.poisoned h.blk then s
  else if blockMasked p.mask (h.blk - blkOf p.home p.pa) then s.setPoison h.blk false
  else (s.reportPost ((s.post? p.id).getD p) 0x70 0).modPost p.id fun q => { q with told := true }

/-- One block of a store line leaves its die: a shadow stays. -/
def State.giveStored (s : State) (p : Post) (h : Hold) : State :=
  let s := (s.reqRelease p.core p.ord).postPoison p h
  let d := p.applyTo h
  let x : Shadow := { who := h.who, blk := h.blk, data := d, toParty := homeParty h.blk, line := some p.id }
  let s := (s.putHold { h with data := d, dirty := true }).finishWant h.who h.blk
  let s := (s.dropHold h.who h.blk).loseCopy h.who h.blk
  { s with coh := { s.coh with shadows := s.coh.shadows ++ [x] } }

/-- The number of a whole store line, which may be a launch line: the next one for its home's frame, or the one that it was refused with (R315). -/
def State.lineNum (s : State) (p : Post) : Option Nat × State :=
  if p.mask ≠ fullMask then (none, s)
  else if p.refused then (some p.num, s)
  else
    let x := s.lineNumber p.home (p.pa / 8192)
    (some x.1, x.2)

/-- STORE_LINE_POST. -/
def execStoreLinePost (post : Nat) (s : State) : Result :=
  match s.post? post with
  | none => .next s
  | some p =>
    if p.kind ≠ .storeLine ∨ p.sent ∨ (relScope p.ord).any (s.flushShut p.core) then .next s
    else
      match s.collected p with
      | none => .next s
      | some hs =>
        let s := hs.foldl (fun s h => s.giveStored p h) s
        let (num, s) := s.lineNum p
        let s := s.modPost post fun p => { p with sent := true, age := 0, num := num.getD p.num }
        let s := s.reAsk p.core p.blocks
        .next (s.send (s.here (.die (s.core p.core).die)) ⟨p.home, .home⟩
          (.storeLine post (hs.map fun h => (h.blk, h.serial, p.applyTo h)) num))

/-- STORE_LINE_TIMEOUT: the tokens were not collected within rto µs, or the home can no longer be reached (R305). -/
def execStoreLineTimeout (post : Nat) (s : State) : Result :=
  match s.post? post with
  | none => .next s
  | some p =>
    if p.kind ≠ .storeLine ∨ p.sent ∨ p.home = s.dev then .next s
    else if !s.reachable p.home then .next ((s.failPost p 0x43 1).giveUp p.core p.blocks)
    else if p.age < s.rtoTicks then .next s
    else .next ((s.failPost p 0x43 2).giveUp p.core p.blocks)

/-- The die asks persistently for a block of an unacknowledged store line. -/
def State.askAgain (s : State) (p : Post) (b : Nat) : State :=
  let d := Place.die (s.core p.core).die
  let asid := (s.spaceOf p.team).getD 0
  match s.want? d b with
  | some w =>
    match w.stage with
    | .no => s.sendPersist w
    | _ => s
  | none =>
    let w : Want := { id := s.nextId, who := d, die := (s.core p.core).die, agent := s.coreAgent p.core, blk := b, kind := .write
                      publish := false, asid := asid, serial := none, early := [], tries := 4, tryAge := 0, age := 0
                      stage := .no, denied := false, halves := 3 }
    ({ s with coh := { s.coh with wants := s.coh.wants ++ [w] } }.fresh).sendPersist w

/-- STORE_ACK_TIMEOUT: a posted store line without its acknowledgement within rto µs; the request that then brings its blocks back counts as
the acknowledgement. A line whose home can no longer be reached is reported, at once where it is still here (R305). -/
def execStoreAckTimeout (post : Nat) (s : State) : Result :=
  match s.post? post with
  | none => .next s
  | some p =>
    let here (m : Msg) : Bool := m.dst.dev != s.dev && carries m post
    if p.kind ≠ .storeLine ∨ !p.sent then .next s
    else if !s.reachable p.home && s.msgs.any here then
      .next ((({ s with msgs := s.msgs.filter fun m => !here m }).dropShadows p).failPost p 0x43 1)
    else if p.age < s.rtoTicks then .next s
    else if !s.reachable p.home then .next ((s.dropShadows p).failPost p 0x43 1)
    else
      match s.collected p with
      | some hs => .next (((hs.foldl (fun s h => s.finishWant h.who h.blk) s).dropShadows p).endPost p)
      | none => .next ((p.blocks.filter fun b => (s.hold? (.die (s.core p.core).die) b).all fun h => !h.writable).foldl
          (fun s b => s.askAgain p b) s)

/-! ## Flagged stores (R312) -/

/-- The data word of a flagged store at its home; then the flag, when it lies here too, or the acknowledgement. -/
def State.applyFlagged (s : State) (m : Msg) (id pa : Nat) (w : Word) (flag : Option FlagWord) : Dealt :=
  let ack (s : State) (st : RemStatus) : State := s.replyTo m (.flagAck id false st)
  let blk := blkOf s.dev pa
  if s.unbacked pa then .done (ack s .notBacked)
  else if isDram pa && (s.windowOf pa).isSome then .done (ack s .partialLine)
  else
    match s.homeNeeds blk with
    | some s => .wait s
    | none =>
      let bad := s.poisoned blk
      let s := s.homePut pa (wordBytes w)
      if bad then .done (ack s .dataError)
      else
        match flag with
        | some f => .done (s.send m.src m.dst (.flagUpd id f.pa))
        | none => .done (ack s .ok)

/-- The data word of a flagged store at the holder of a window; then its flag's home, or the issuer, hears of it. -/
def State.flaggedAtWindow (s : State) (m : Msg) (id pa : Nat) (w : Word) (flag : Option FlagWord) : Dealt :=
  s.passedOn m pa (.flagData id (pa % 2 ^ 52) w flag) fun s =>
    let blk := blkOf 0 pa
    let u := s.writeBlock blk (pa % 128) (wordBytes w)
    if s.poisoned blk then u.replyTo m (.flagAck id false .dataError)
    else
      match flag with
      | some f => u.send m.src ⟨f.dev, .home⟩ (.flagUpd id f.pa)
      | none => u.replyTo m (.flagAck id false .ok)

/-- FLAGGED_DATA. -/
def execFlaggedData (id : Nat) (s : State) : Result :=
  s.deal id fun m =>
    match m.body with
    | .flagData pid pa w flag => if m.dst.place = .home then s.applyFlagged m pid pa w flag else s.flaggedAtWindow m pid pa w flag
    | _ => .wait s

/-- The window whose arrival object lies at an address of a device. -/
def State.objectAtPa (s : State) (pa : Nat) : Option PubEntry :=
  match s.windowAtPa pa with
  | some (_, e, off) => if e.arrEn ∧ off = e.arr then some e else none
  | none => none

/-- The flag update: an arrival of 4 bytes on a window's object, or an increment of the word (R312). -/
def State.applyFlag (s : State) (m : Msg) (id pa : Nat) : Dealt :=
  let ack (s : State) (st : RemStatus) : State := s.replyTo m (.flagAck id true st)
  let blk := blkOf s.dev pa
  if s.unbacked pa then .done (ack s .notBacked)
  else if isDram pa && (s.windowOf pa).isSome then .done (ack s .partialLine)
  else if s.absentAt pa then .wait (s.pullAt pa)
  else
    match s.homeNeeds blk with
    | some s => .wait s
    | none =>
      match s.objectAtPa (s.dev * 2 ^ 52 + pa) with
      | some e => .done (ack (s.windowArrive e 4) .ok)
      | none =>
        let old := BitVec.ofNat 32 (s.readPaNat pa 4)
        .done (ack (s.homePut pa (wordBytes (old + 1))) (if s.poisoned blk then .dataError else .ok))

/-- A flag update at the holder of a window. -/
def State.flagAtWindow (s : State) (m : Msg) (id pa : Nat) : Dealt :=
  s.passedOn m pa (.flagUpd id (pa % 2 ^ 52)) fun s =>
    let blk := blkOf 0 pa
    match s.objectAtPa pa with
    | some e => (s.windowArrive e 4).replyTo m (.flagAck id true .ok)
    | none =>
      let old := BitVec.ofNat 32 (bytesNat (blockSlice (s.current blk) (pa % 128) 4))
      (s.writeBlock blk (pa % 128) (wordBytes (old + 1))).replyTo m (.flagAck id true (if s.poisoned blk then .dataError else .ok))

/-- FLAG_UPDATE. -/
def execFlagUpdate (id : Nat) (s : State) : Result :=
  s.deal id fun m =>
    match m.body with
    | .flagUpd pid pa => if m.dst.place = .home then s.applyFlag m pid pa else s.flagAtWindow m pid pa
    | _ => .wait s

end Sys2Proof.Machine
end

