-- ==== Sys2Proof/Machine/Bridge.lean ====
section
/-! DEFINITION. The host bridge: the host's snoops and grants, back-invalidation, and the host's own accesses to device memory (R293 to
R296, R327, R346, R352). -/

namespace Sys2Proof.Machine

/-! ## Host memory (R293 to R295) -/

/-- The block of a host line, and the line's half. -/
def State.hostBlk (s : State) (line : Nat) : Nat := blkOf s.dev (2 ^ 51 + line * 64)
def halfOf (line : Nat) : Nat := line % 2

def halfData (d : BlockData) (half : Nat) : SectorData := d.extractLsb' (512 * half) 512

def State.setGrant (s : State) (line : Nat) (g : Grant) : State :=
  { s with host := { s.host with grants := if g = .i then assocDel s.host.grants line else assocSet s.host.grants line g } }

/-- A snoop is under way: internal requests for its block wait (R295). -/
def State.startSnoop (s : State) (line : Nat) (k : HostWait) : State :=
  if s.host.snoops.any fun x => x.1 == line then s
  else { s with host := { s.host with snoops := s.host.snoops ++ [(line, k)] } }

/-- The snoop is answered, and the host line stands at a grant. -/
def State.answerSnoop (s : State) (line : Nat) (g : Grant) : State :=
  let blk := s.hostBlk line
  (((s.hostAnswer line (halfData (s.current blk) (halfOf line))).endSnoop line).setGrant line g).finishWant .home blk

/-- The home's request for a block of host memory goes on as the bridge's: under its agent number, whatever it was made for (R279, R295). -/
def State.asBridge (s : State) (blk : Nat) : State :=
  let key := s.dev * 1024 + 72
  { s with coh := { s.coh with
      wants := s.coh.wants.map fun (w : Want) => if w.who == .home && w.blk == blk then { w with agent := 72 } else w
      table := s.coh.table.map fun (e : PEntry) => if e.blk == blk && e.req == s.here .home then { e with key := key } else e } }

/-- HOST_SNP_INV: a persistent request at once, with agent number 72; then the answer (R295). -/
def execHostSnpInv (line : Nat) (s : State) : Result :=
  let blk := s.hostBlk line
  if s.grantOf line = .i ∨ (s.homeTokens blk).2.1 = 4096 then .next (s.answerSnoop line .i)
  else
    let s := ((s.startSnoop line .snoopInv).ask .home 72 blk .write false 0).asBridge blk
    match s.want? .home blk with
    | some w =>
      match w.stage with
      | .no => .next (s.sendPersist w)
      | _ => .next s
    | none => .next s

/-- HOST_SNP_DATA: the pole comes to the bridge with dirty data (R295). -/
def execHostSnpData (line : Nat) (s : State) : Result :=
  let blk := s.hostBlk line
  if s.grantOf line = .i then .next (s.answerSnoop line .i)
  else if (s.homeTokens blk).2.2 then .next (s.answerSnoop line .s)
  else .next ((s.startSnoop line .snoopData).ask .home 72 blk .pole false 0)

/-- The bridge asks the other devices for the current data of a line's block (R295). DESIGN CHOICE: the owner answers as the holder of a window
does, and the question is put again after 5 µs (log entry 85). -/
def State.askCurrent (s : State) (line : Nat) : State :=
  let blk := s.hostBlk line
  let id := s.nextId
  let s := { s.endSnoop line with nextId := s.nextId + 1 }
  ({ s with host := { s.host with snoops := s.host.snoops ++ [(line, HostWait.snoopCur id 0)] } }).sendAll (s.here .home)
    (s.otherDevices.map fun d => (⟨d, .die 0⟩ : Party)) (.pubLoad (2 ^ 52 * s.dev + blkPa blk) ((2 ^ 20 + id) * 64) 0)

/-- HOST_SNP_CUR: the current data, with no change of tokens (R295); from the owner on another device where the block is there. -/
def execHostSnpCur (line : Nat) (s : State) : Result :=
  let blk := s.hostBlk line
  let waits : Bool := s.host.snoops.any fun x => x.1 == line && match x.2 with
    | .snoopCur _ age => age < usTicks 5
    | _ => false
  if s.ownerHere blk || s.otherDevices.isEmpty then .next ((s.hostAnswer line (halfData (s.current blk) (halfOf line))).endSnoop line)
  else if waits then .next s
  else .next (s.askCurrent line)

/-- The one load that asked takes the host's value for a missing half; what it reads of the half that is held it takes from there at the same point
(R188, R294). A load that can no longer use the value asks again. -/
def State.halfLoad (s : State) (core req line : Nat) (d : SectorData) : State :=
  let blk := s.hostBlk line
  match s.req? core req with
  | none => s
  | some r =>
    let ls := r.openLanes.filter fun l => r.laneBlk l == blk
    let half (l : LaneReq) : Nat := (r.page.pa + l.off) % 128 / 64
    let h? := (s.hold? (.die (s.core core).die) blk).filter fun h => h.readable && h.lent.any fun x => x.1 == core
    let has (l : LaneReq) : Bool := half l == halfOf line || h?.any fun h => h.valid.getLsbD (half l)
    if !r.reads || ls.isEmpty || !ls.all has || s.lineHeld core r then s
    else
      let far : BlockData := BitVec.ofNat 1024 (d.toNat * 2 ^ (512 * halfOf line))
      if s.poisoned blk then s.settleLoad core r (r.openLanes.filter fun l => !ls.contains l) (ls.map fun l => (l, 0x70))
      else
      let from_ (l : LaneReq) : BlockData := if half l = halfOf line then far else (h?.map (·.data)).getD 0
      (ls.foldl (fun s l => s.laneDone core r l (blockSlice (from_ l) ((r.page.pa + l.off) % 128) l.size)) s).settleLoad core
        ((s.req? core r.id).getD r) (r.openLanes.filter fun l => !ls.contains l) []

/-- The host lets go of a request of the bridge. -/
def State.endHostWait (s : State) (line : Nat) (back : Bool) : State :=
  { s with host := { s.host with waits := s.host.waits.filter fun w => !(w.1 == line && w.2.back == back) } }

/-- The host's value of a line comes to the bridge. -/
def State.putHostLine (s : State) (line : Nat) (d : SectorData) : State :=
  { s with host := { s.host with mem := s.host.mem.write (line * 64) (natBytes 64 d.toNat) } }

/-- A half that the host has just granted joins the data of its block's copies (R293, R294). DESIGN CHOICE: at once, wherever they are on this
device (log entry 84). -/
def State.fillHalf (s : State) (line : Nat) (d : SectorData) : State :=
  let blk := s.hostBlk line
  let k := halfOf line
  let bit : BitVec 2 := 1#2 <<< k
  let put (x : BlockData) : BlockData := patchBlock x (64 * k) (natBytes 64 d.toNat)
  let held (h : Hold) : Hold := if h.blk == blk && h.valid != 0 && !h.valid.getLsbD k then { h with data := put h.data, valid := h.valid ||| bit } else h
  let sent (m : Msg) : Msg :=
    match m.body with
    | .tokens b se n p dy (some x) tag =>
      if b == blk && !m.halves.getLsbD k then { m with body := .tokens b se n p dy (some (put x)) tag, halves := m.halves ||| bit } else m
    | _ => m
  let early (e : Early) : Early := if e.halves.getLsbD k then e else { e with data := e.data.map put, halves := e.halves ||| bit }
  let waits (w : Want) : Want := if w.blk == blk then { w with early := w.early.map early } else w
  if s.grantOf line ≠ .i then s
  else
    { s with
      coh := { s.coh with holds := s.coh.holds.map held, wants := s.coh.wants.map waits }
      msgs := s.msgs.map sent }

/-- HOST_LINE_GRANT: the host's answer to a request for a host line (R293, R294). -/
def execHostLineGrant (line : Nat) (grant : Grant) (data : SectorData) (s : State) : Result :=
  match s.host.waits.find? fun w => w.1 == line && !w.2.back with
  | none => .next s
  | some (_, k) =>
    let done : State := ({ s with host := { s.host with waits := s.host.waits.erase (line, k) } }).putHostLine line data
    match k with
    | .rdCurr c r => .next (done.halfLoad c r line data)
    | .rdOwn => if Grant.writable grant then .next ((done.fillHalf line data).setGrant line grant) else .next s
    | _ => if grant = .i then .next s else .next ((done.fillHalf line data).setGrant line grant)

/-! ## Device memory that the host caches (R296) -/

/-- The block of a device line. -/
def State.devBlk (s : State) (line : Nat) : Nat := blkOf s.dev (line * 64)

def State.setHeld (s : State) (line : Nat) (g : Grant) : State :=
  { s with host := { s.host with held := if g = .i then assocDel s.host.held line else assocSet s.host.held line g } }

def State.heldOf (s : State) (line : Nat) : Grant := (assoc s.host.held line).getD .i

/-- A line's data change in the bridge's holding, which is then dirty; what this device has written since the host took the line stands over them (log
entry 9). -/
def State.bridgeTakes (s : State) (line : Nat) (d : SectorData) : State :=
  match s.hold? .bridge (s.devBlk line) with
  | some h => s.putHold { h with data := s.patched h.blk (patchBlock h.data (64 * halfOf line) (natBytes 64 d.toNat)), dirty := true }
  | none => s

/-- BACK_INVALIDATE: the host answers BISnpInv (`inv`) or BISnpData (R296). -/
def execBackInvalidate (line : Nat) (inv : Bool) (data : SectorData) (s : State) : Result :=
  if !(s.host.waits.contains (line, if inv then .snoopInv else .snoopData)) then .next s
  else
    let s' := if Grant.writable (s.heldOf line) then s.bridgeTakes line data else s
    .next ((s'.endHostWait line true).setHeld line (if inv then .i else .s))

/-- BI_CONFLICT: the snoop is taken back, and the host's own request for the line goes first (R296). -/
def execBiConflict (line : Nat) (s : State) : Result :=
  let yield (w : Nat × HostWait) : Nat × HostWait :=
    if w.1 = line then match w.2 with
      | .snoopInv => (line, .conflict true)
      | .snoopData => (line, .conflict false)
      | _ => w
    else w
  .next { s with host := { s.host with waits := s.host.waits.map yield } }

/-- The host's request for a line is complete: a snoop that has yielded to it is sent again (R296). -/
def State.hostServed (s : State) (line : Nat) : State :=
  let again (w : Nat × HostWait) : Nat × HostWait :=
    if w.1 = line then match w.2 with
      | .conflict inv => (line, if inv then .snoopInv else .snoopData)
      | _ => w
    else w
  { s with host := { s.host with waits := s.host.waits.map again } }

/-- The bridge's holding of a block, with a line's data as the answer. -/
def State.answerHeld (s : State) (line : Nat) (h : Hold) : State :=
  (s.hostAnswer line (halfData h.data (halfOf line))).finishWant .bridge h.blk

/-- The bridge's holding as it now is answers; the host then caches the line (R296), and dirty private sectors have been written back (R257). -/
def State.answerOwn (s : State) (line : Nat) (h : Hold) : State := s.answerHeld line ((s.hold? .bridge h.blk).getD h)

/-! ## Accesses of the host (R352) -/

/-- A read of device memory or of a device register that the bridge makes: bytes of the 64-byte line at an address. DESIGN CHOICE: an access of the
host that reaches no live stack (R2) has no effect and no answer (log entry 86). -/
def execHostUncachedRead (pa : Nat) (s : State) : Result :=
  let line := pa / 64
  let blk := s.devBlk line
  let plain (bs : List Byte) : Result := .next (s.hostAnswer line (BitVec.ofNat 512 (bytesNat bs)))
  if s.unbacked pa then .next s
  else if !isDram pa then plain (s.uncachedRead (line * 64) 64)
  else if (s.windowOf pa).isSome then plain (List.replicate 64 0)
  else if (s.localCopy blk).isSome ∨ (s.metaOf blk).isLease then plain (s.readPa (line * 64) 64)
  else
    match s.hold? .bridge blk with
    | some h => if h.readable then .next (s.answerHeld line h) else .next (s.ask .bridge 72 blk .read false 0)
    | none => .next (s.ask .bridge 72 blk .read false 0)

/-- Poison after a write by the bridge: a whole block clears it (R285). -/
def State.clearIfWhole (s : State) (blk n : Nat) : State :=
  if n = 128 ∧ s.poisoned blk then s.setMeta blk ((s.metaOf blk).setPoison false) else s

/-- HOST_UNCACHED_WRITE: bytes within one block, or of device registers. A write to a queue's window that is no record is discarded. -/
def execHostUncachedWrite (pa : Nat) (bytes : List Byte) (s : State) : Result :=
  let blk := blkOf s.dev pa
  if s.unbacked pa ∨ isHost pa ∨ (isDram pa ∧ ((s.windowOf pa).isSome ∨ 128 < pa % 128 + bytes.length)) then .next s
  else if !isDram pa then .next (s.uncachedWrite pa bytes)
  else if s.windowMoving blk then .next s
  else if (s.localCopy blk).isSome then .next (s.writeBlock blk (pa % 128) bytes)
  else if (s.metaOf blk).isLease then
    .next (s.putBlock blk (patchBlock (s.current blk) (pa % 128) bytes) (s.poisoned blk && bytes.length != 128)).1
  else
    match s.hold? .bridge blk with
    | some h =>
      if h.writable then
        let s' := s.putHold { h with data := patchBlock h.data (pa % 128) bytes, dirty := true }
        .next ((s'.clearIfWhole blk bytes.length).finishWant .bridge blk)
      else .next (s.ask .bridge 72 blk .write false 0)
    | none => .next (s.ask .bridge 72 blk .write false 0)

/-- HOST_CACHED_MEM_REQUEST (R296). While back-invalidation is off the access is uncached (R346). -/
def execHostCachedMemRequest (line : Nat) (req : HostCacheReq) (data : SectorData) (s : State) : Result :=
  let blk := s.devBlk line
  if !isDram (line * 64) ∨ s.unbacked (line * 64) then .next s
  else if !s.featureOn 2 then
    match req with
    | .writeBack => execHostUncachedWrite (line * 64) (natBytes 64 data.toNat) s
    | _ => execHostUncachedRead (line * 64) s
  else
    match req with
    | .writeBack =>
      .next (((if Grant.writable (s.heldOf line) then s.bridgeTakes line data else s).setHeld line .i).hostServed line)
    | .shared =>
      match s.hold? .bridge blk with
      | some h => if h.readable then .next ((((s.spill blk).answerOwn line h).setHeld line .s).hostServed line) else .next (s.ask .bridge 72 blk .read false 0)
      | none => .next (s.ask .bridge 72 blk .read false 0)
    | .exclusive =>
      match s.hold? .bridge blk with
      | some h => if h.writable then .next ((((s.spill blk).answerOwn line h).setHeld line .e).hostServed line) else .next (s.ask .bridge 72 blk .write false 0)
      | none => .next (s.ask .bridge 72 blk .write false 0)

end Sys2Proof.Machine
end

