-- ==== Sys2Proof/Machine/Health.lean ====
section
/-! DEFINITION. Start-up, device registers, health, and the meridian tick (R2, R93, R116, R117, R214, R287, R288, R291, R300, R302, R338,
R342 to R351, R354). -/

namespace Sys2Proof.Machine

/-! ## Start-up and registers (R342 to R346, R354) -/

/-- Dead cores of each die: those that earlier resets have left out, and those that are absent or whose lane column is lasting (R2, R350). Another
part has none. -/
def State.deadCores (s : State) (part : Part) : List Nat :=
  if s.health.part ≠ part then []
  else (List.range 4).map fun d => s.health.dead.getD d 0 + (s.cores.filter fun k => k.die == d && (k.retiring || !k.present)).length

/-- RESET: the start-up stages run; a stage that fails stops the device (R344). What lies outside the device, in its one-time-programmable
arrays and in its flash stays (R348), and the cores are numbered over those that still live (R2). DESIGN CHOICE: a retired slice or die-to-die link
comes back, and the record of corrected errors is cleared (R350; log entry 112). -/
def execReset (part : Part) (s : State) : Result :=
  let r := State.resetPart part
  let dead := s.deadCores part
  let stage := (Config.freeStage s.draws).toNat
  let r : State := { r with
    cores := coresFrom (Part.coresPerDie part) dead (Part.dies part) 0
    host := { r.host with mem := s.host.mem, rate := s.host.rate }
    health := { r.health with lmsTop := s.health.lmsTop, lmsLeaf := s.health.lmsLeaf, released := s.health.released, dead := dead }
    nextId := s.nextId, draws := s.draws + 1, schedule := s.schedule }
  if 1 ≤ stage ∧ stage ≤ 5 then
    .next { r with sys := { r.sys with failing := BitVec.ofNat 8 stage, startupDone := false, offer := 0 } }
  else .next r

/-- HOST_LINK_TRAIN: at the highest rate, up to 64 GT/s, that both ends support (R342). -/
def execHostLinkTrain (rate : Nat) (s : State) : Result := .next { s with host := { s.host with rate := min rate 64 } }

/-- GO_WRITE (R344). -/
def execGoWrite (v : Bool) (s : State) : Result := .next (s.setGo v)

/-- FEATURE_ACCEPT_WRITE (R346). -/
def execFeatureAcceptWrite (v : BitVec 256) (s : State) : Result := .next (s.setAccept v)

/-- LINK_RETRAIN_WRITE (R354). -/
def execLinkRetrainWrite (die : Nat) (bits : BitVec 4) (s : State) : Result := .next (s.requestRetrain die bits)

/-- One side of a link after training. -/
def Die.trained (e : Nat) (ok : Bool) (k : Die) : Die :=
  let bit : BitVec 4 := 1#4 <<< e
  { k with live := if ok then k.live ||| bit else k.live, retrain := k.retrain &&& ~~~bit }

/-- LINK_RETRAIN_DONE: the link is back in service, or training has failed (R300, R354). -/
def execLinkRetrainDone (die e : Nat) (ok : Bool) (s : State) : Result :=
  if !(s.die die).retrain.getLsbD e || (s.die die).retired.getLsbD e || e == die then .next s
  else .next ((s.modDie die (Die.trained e ok)).modDie e (Die.trained die ok))

/-- UMISS_CLEAR, STALE_COUNTER_CLEAR, SEED_WRITE, MISMATCH_COUNTER_CLEAR, QUEUE_OVF_CLEAR (R214, R302, R354). -/
def execUmissClear (core : Nat) (v : Word) (s : State) : Result := .next (s.clearUmiss core v)
def execStaleCounterClear (die : Nat) (v : Word) (s : State) : Result := .next (s.clearStale die v)
def execSeedWrite (core : Nat) (v : Word) (s : State) : Result := .next (s.setSeed core v)
def execMismatchCounterClear (port : Nat) (v : Word) (s : State) : Result := .next (s.clearMismatch port v)
def execQueueOvfClear (q : Nat) (v : BitVec 16) (s : State) : Result := .next (s.clearOvf q v)

/-- REGISTER_WRITE: the host writes `bytes` bytes at an offset of the register region (R343). -/
def execRegisterWrite (off bytes v : Nat) (s : State) : Result := .next (s.regWrite off (natBytes bytes v))

/-! ## Corrected errors (R350) -/

/-- Milliseconds since start-up. DESIGN CHOICE: since the end of all stages, as if stages 2 to 5 took no time (R350 counts from the end of stage 1; log
entry 102). -/
def State.millis (s : State) : Nat := s.ticks / 62500

/-- Kind and location of a log entry. -/
def locationBits : Location → Nat × Nat
  | .dramRow pa => (0, pa.toNat)
  | .laneColumn core lane => (1, core % 512 * 2 ^ 16 + lane % 32)
  | .l2Slice die slice => (2, die % 4 * 2 ^ 8 + slice % 64)
  | .fabricPort p => (3, p % 32)
  | .dieLink d e => (4, max (d % 4) (e % 4) + min (d % 4) (e % 4) * 4)

/-- Write an entry of the retirement log, and signal vector 1. -/
def State.logRetirement (s : State) (l : Location) (count : Nat) : State :=
  let (kind, loc) := locationBits l
  let e : BitVec 128 := BitVec.ofNat 128 (s.millis % 2 ^ 48 * 2 ^ 80 + kind * 2 ^ 72 + count * 2 ^ 64 + loc % 2 ^ 52)
  let h := s.health
  let n := h.retireCount
  { s with
    health := { h with
      retirements := assocSet h.retirements (n.toNat % 64) e, retireCount := if n = 0xFFFFFFFF then n else n + 1
      lasting := h.lasting ++ [l] }
    host := { s.host with msix1 := s.host.msix1 + 1 } }

/-- One side of a link that is retired. -/
def Die.withoutLink (e : Nat) (k : Die) : Die :=
  let bit : BitVec 4 := 1#4 <<< e
  { k with live := k.live &&& ~~~bit, retrain := k.retrain &&& ~~~bit, retired := k.retired ||| bit }

/-- The dirty sectors of a die view in an L2 slice. -/
def State.sliceSectors (s : State) (d slice : Nat) : List Sector :=
  (s.die d).view.filter fun x => x.dirty && s.sliceOf d x.asid (blkOf s.dev (x.addr * 64)) == slice

/-- Retire a lasting location. -/
def State.retireLocation (s : State) (l : Location) : State :=
  match l with
  | .dramRow _ => s
  | .laneColumn c _ => (s.modCore c fun k => { k with retiring := true }).reseed s c
  | .l2Slice d slice =>
    let s := (s.sliceSectors d slice).foldl (fun s x => s.writeBackDie d x) s
    let s := (s.coh.holds.filter fun h => h.who == .die d && h.slice == slice).foldl (fun s h => s.evictTokens h) s
    s.modDie d fun k => { k with slicesOut := k.slicesOut ++ [slice] }
  | .fabricPort p => if s.fab.portEn.getLsbD p then s.losePort p else s
  | .dieLink d e => ((if s.linkLive d e then s.loseLink d e else s).modDie d (Die.withoutLink e)).modDie e (Die.withoutLink d)

/-- The errors of a location. -/
def errorsOf (l : List (Location × List Nat)) (x : Location) : List Nat := ((l.find? fun p => p.1 == x).map (·.2)).getD []

/-- CORRECTED_ERROR: the third within 24 hours makes a location lasting. -/
def execCorrectedError (loc : Location) (s : State) : Result :=
  let now := s.millis
  let ms := now :: ((errorsOf s.health.corrected loc).filter fun m => now < m + 86400000)
  let s := { s with health := { s.health with
    corrected := (s.health.corrected.filter fun p => p.1 != loc) ++ [(loc, ms)] } }
  if ms.length < 3 ∨ s.health.lasting.contains loc then .next s
  else .next ((s.logRetirement loc ms.length).retireLocation loc)

/-! ## Wear, temperature and signatures (R348, R349, R351) -/

/-- WEAR_REFRESH: 48 records in their order. -/
def execWearRefresh (values eols : List Word) (s : State) : Result :=
  .next { s with health := { s.health with
    wear := (List.range 48).map fun k => (values.getD k 0, eols.getD k 0xFFFFFFFF) } }

def Clock.slower : Clock → Clock
  | .full => .step1
  | .step1 => .step2
  | _ => .step3

def Clock.faster : Clock → Clock
  | .step3 => .step2
  | .step2 => .step1
  | _ => .full

/-- THERMAL_STEP: above 95 °C the clock steps down; below 90 °C it steps up (`up`). -/
def execThermalStep (die : Nat) (up : Bool) (s : State) : Result :=
  .next (s.modDie die fun k => { k with clock := if up then k.clock.faster else k.clock.slower })

/-- THERMAL_STOP: at 105 °C. -/
def execThermalStop (die : Nat) (s : State) : Result := .next (s.modDie die fun k => { k with stopped := true })

def useIndex : SignUse → Nat
  | .identity => 0
  | .attestation => 1

/-- Top-level bits burned so far. -/
def burned (w : BitVec 1024) : Nat := (List.range 1024).countP fun i => w.getLsbD i

/-- SIGN_REQUEST (R348): the next leaf of the lower tree; a new tree where there is none, where it is used up, or where the flash cannot be
read; an error code once all indices are used. The index is written before the signature is released. -/
def execSignRequest (use : SignUse) (flashOk : Bool) (s : State) : Result :=
  let u := useIndex use
  let h := s.health
  let top := h.lmsTop.getD u 0
  let n := burned top
  let leaf := h.lmsLeaf.getD u 0
  let fresh : Bool := n == 0 || !flashOk || leaf == 1024
  if fresh ∧ n = 1024 then .next { s with health := { h with released := (use, none) :: h.released } }
  else
    let top' := if fresh then top ||| (1#1024 <<< n) else top
    let index := if fresh then n else n - 1
    let leaf' := if fresh then 0 else leaf
    .next { s with health := { h with
      lmsTop := h.lmsTop.set u top', lmsLeaf := h.lmsLeaf.set u (leaf' + 1)
      released := (use, some (Config.freeSignature (u == 1) index leaf')) :: h.released } }

/-! ## MERIDIAN_TICK (R287, R288) -/

/-- Cycles of a tick on a core, in tenths. -/
def State.tenths (s : State) (c : Nat) : Nat := Clock.perTick (s.die (s.core c).die).clock

/-- A wait ages: the loads of `wait` by cycles, a class question by ticks. A word of a leased block is loaded again from the first tick at which
the copy that answered is `stale` (R298). -/
def Wait.older (n : Nat) (stale : BitVec 24 → Bool) : Wait → Wait
  | .word w => .word { w with since := w.since + n, again := w.again || w.rts.any stale }
  | .query w p d l k age => .query w p d l k (age + 1)
  | w => w

def Fibre.older (n : Nat) (stale : BitVec 24 → Bool) (f : Fibre) : Fibre :=
  match f.wait with
  | some w => { f with wait := some (w.older n stale), timer := f.timer + n }
  | none => f

def Pool.older (n : Nat) (p : Pool) : Pool := { p with age := p.age + n }

def TeamCond.older (n : Nat) : TeamCond → TeamCond
  | .saving why points age => .saving why points (age + n)
  | c => c

/-- Timers of teams that run and the ages of saves go on; a saved team's stand still (R93, R228). -/
def Team.older (n : Nat) (stale : BitVec 24 → Bool) (t : Team) : Team :=
  let t : Team := { t with cond := t.cond.older n, age := t.age + n }
  if t.runs then { t with fibres := t.fibres.map (Fibre.older n stale), pools := t.pools.map (Pool.older n) } else t

/-- A fibre of the core has issued since the last tick (R93). -/
def State.issuedOn (s : State) (c : Nat) : Bool := s.issues.contains c || s.issuers.contains c

def Req.older (dev : Nat) (r : Req) : Req := if r.page.home = dev then r else { r with age := r.age + 1 }

def Cmd.older (m : Cmd) : Cmd := { m with age := m.age + 1 }

/-- A core at a tick: lt rises to meridian time (R288), register deadlock counts (R93), and what waits for other devices ages. -/
def State.tickCore (s : State) (now : BitVec 24) (c : Nat) (k : Core) : Core :=
  { s.coolCore (20 - s.slice) k with
    lt := timeMax k.lt now
    deadlock := if s.grantBlocked c && !s.issuedOn c then k.deadlock + s.tenths c else 0
    reqs := k.reqs.map (Req.older s.dev), storeQ := k.storeQ.map (Req.older s.dev), cmds := k.cmds.map Cmd.older }

def tickCores (s : State) (now : BitVec 24) : Nat → List Core → List Core
  | _, [] => []
  | c, k :: ks => s.tickCore now c k :: tickCores s now (c + 1) ks

def PStage.older : PStage → PStage
  | .refused age => .refused (age + 1)
  | x => x

/-- `n` is how far the timer of its try goes in a tick. -/
def Want.older (n : Nat) (w : Want) : Want := { w with age := w.age + 1, tryAge := w.tryAge + n, stage := w.stage.older }

def PEntry.older (e : PEntry) : PEntry := if e.active then { e with age := e.age + 1 } else e

def Audit.older (a : Audit) : Audit := { a with waiting := a.waiting.map fun p => (p.1, p.2 + 1) }

def State.olderCoh (s : State) : Coherence :=
  let c := s.coh
  { c with
    wants := c.wants.map fun w => w.older (s.tryStep w), table := c.table.map PEntry.older, audits := c.audits.map Audit.older
    recreated := (c.recreated.map fun p => (p.1, p.2 + 1)).filter fun p => p.2 < usTicks 2000 }

def Msg.older (m : Msg) : Msg := { m with age := m.age + 1 }

def Post.older (p : Post) : Post := { p with age := p.age + 1 }

def LineFlow.older (f : LineFlow) : LineFlow := { f with early := f.early.map fun x => (x.1, x.2.1, x.2.2 + 1) }

def Fabric.older (f : Fabric) : Fabric :=
  { f with
    slotAge := f.slotAge + 16, digests := f.digests.map fun g => (g.1, g.2.1, g.2.2 + 1), relay := f.relay.map Msg.older, posts := f.posts.map Post.older, flows := f.flows.map LineFlow.older }

/-- A concurrent grid waits at its queue's head, `n` tenths of a cycle longer (R218). -/
def Launch.older (n : Nat) (l : Launch) : Launch :=
  if l.status = .queued ∧ l.kernel.any fun k => k.progress == 0 then { l with waited := l.waited + n } else l

/-- A question to the owner of a block of host memory grows older (R295). -/
def HostSide.older (h : HostSide) : HostSide :=
  let up (x : Nat × HostWait) : Nat × HostWait := match x.2 with
    | .snoopCur id age => (x.1, .snoopCur id (age + 1))
    | _ => x
  { h with snoops := h.snoops.map up }

def NearBank.older (u : NearBank) : NearBank :=
  { u with window := u.window - 1, queue := if u.window = 1 ∨ u.cond ≠ .running then [] else u.queue }

/-- The blocks of the step that a near-bank unit makes next. -/
def State.unitBlocks (s : State) (u : NearBank) : List Nat :=
  let e := u.table.getD u.upc 0
  if 2 ≤ entOp e ∧ entOp e ≤ 4 then ((u.row (entStrm e)).map fun row => s.rowBlocks row.1).getD [] else []

/-- A row instruction or a running unit of a channel makes its next step with a block (R326, R335). -/
def State.engineUses (s : State) (e : Place) (blk : Nat) : Bool :=
  (s.rows.any fun r => s.teamRuns r.team && (r.rows.take 1).any fun x =>
      engineOf x.d == e && (s.stepSources x ++ s.rowBlocks x.d).contains blk)
    || s.nb.any fun u => u.cond == .running && s.teamRuns u.owner && e == .engine u.stack u.channel && (s.unitBlocks u).contains blk

/-- A publication under way on a core, or the windows of a saved team that are to be opened there again, may need a block (R157, R209). -/
def State.pubUses (s : State) (c blk : Nat) : Bool :=
  s.teams.any fun t => (t.core == c && t.runs && t.bundles.any (·.begun)) || (t.reopen.any fun e => (e.offsetOf blk).isSome)

/-- Something of this device still uses what a satisfied request has brought. -/
def State.wantUsed (s : State) (w : Want) : Bool :=
  match w.who with
  | .die d => s.dieUses d w.blk
  | .home =>
    (s.host.snoops.any fun x => s.hostBlk x.1 == w.blk) || (s.coh.converting.any fun c => c.1 == w.blk)
      || (s.coh.patches.any fun p => p.1 == w.blk)
      || (s.cores.any fun k => (k.reqs ++ k.storeQ).any fun r => r.page.home == s.dev && r.blocks.contains w.blk)
      || s.msgs.any fun m => m.dst == s.here .home && match m.body with
        | .atomReq pa .. => blkOf s.dev pa == w.blk
        | .flagData _ pa .. => blkOf s.dev pa == w.blk
        | .flagUpd _ pa => blkOf s.dev pa == w.blk
        | .postedRed _ pa .. => blkOf s.dev pa == w.blk
        | .posted _ pa .. => blkOf s.dev pa / 2 == w.blk / 2
        | .loadReq pa .. => blkOf s.dev pa / 2 == w.blk / 2
        | _ => false
  | .engine .. => s.engineUses w.who w.blk
  | .pubCore c => s.pubUses c w.blk
  | _ => true

/-- Requests that are satisfied and that nothing uses any more end; data that a row engine has from a window and does not need go. -/
def State.endIdle (s : State) : State :=
  let s := { s with coh := { s.coh with gathered := s.coh.gathered.filter fun g => s.engineUses g.1 g.2.1 } }
  (s.coh.wants.filter fun w => s.satisfied w && !s.wantUsed w).foldl (fun s w => s.finishWant w.who w.blk) s

/-- At the tick `now`, lt of a core exceeds the rts of a copy less the twilight band (R298). -/
def State.staleAt (s : State) (now : BitVec 24) (c : Nat) (rts : BitVec 24) : Bool := !timeLe (timeMax (s.core c).lt now) (rts - s.band)

/-- MERIDIAN_TICK: 16 ns. -/
def execMeridianTick (s : State) : Result :=
  let now := s.sys.mtime + 1
  let s := s.endIdle
  .next { s with
    sys := { s.sys with mtime := now }
    cores := tickCores s now 0 s.cores
    teams := (s.coolTeams (20 - s.slice)).map fun (t : Team) => t.older (s.tenths t.core) (s.staleAt now t.core)
    coh := s.olderCoh, msgs := s.msgs.map Msg.older, fab := s.fab.older, host := s.host.older
    launches := s.launches.map (Launch.older (Clock.perTick (s.die 0).clock)), nb := s.nb.map NearBank.older
    dies := s.dies.map (Die.later (20 - s.slice)), ticks := s.ticks + 1, stamp := s.stamp + (20 - s.slice), slice := 0, issues := []
    issuers := [] }

end Sys2Proof.Machine
end

