-- ==== Sys2Proof/Machine/Due.lean ====
section
/-! DEFINITION. Which event is due: the events that the device itself makes when their time has come, in one order (log entry 1). What comes
from outside, and what the device may do but need not, occurs only as `State.schedule` says. -/

namespace Sys2Proof.Machine

/-! ## Candidates by the state that they act on -/

/-- An event of the opcode table with its operands: it occurs now, or does nothing where it is not enabled. -/
abbrev Try := State → Result

/-- The event that deals with a message at its party (R269, R277 to R285, R306 to R316). -/
def Msg.event (m : Msg) : Try :=
  match m.body with
  | .tryTok .. => execTryArrive m.id
  | .notice .. => execTokenMessage m.id
  | .tokens .. => execTokenMessage m.id
  | .persist .. => execPersistentRequest m.id
  | .persistFull .. => execTokenMessage m.id
  | .activate .. => execActivation m.id
  | .deactivate .. => execDeactivation m.id
  | .audit .. => execAudit m.id
  | .report .. => execAuditReport m.id
  | .invalidate .. => execAudit m.id
  | .invAck .. => execRecreationAck m.id
  | .unfreeze .. => execUnfreeze m.id
  | .poleAck .. => execPoleAck m.id
  | .publishReq .. => execPublishRequest m.id
  | .publishNotice .. => execTokenMessage m.id
  | .loadReq .. => execHomeLoad m.id
  | .loadResp .. => execRemoteResponse m.id
  | .atomReq .. => execHomeAtomic m.id
  | .atomResp .. => execAtomicReply m.id
  | .posted .. => execPostedWrite m.id
  | .postedRed .. => execPostedWrite m.id
  | .postedAck .. => execPostedWriteAck m.id
  | .storeLine .. => execPostedWrite m.id
  | .flagData .. => execFlaggedData m.id
  | .flagUpd .. => execFlagUpdate m.id
  | .flagAck .. => execPostedWriteAck m.id
  | .push .. => execPushLineWrite m.id
  | .pushAck .. => execPushAck m.id
  | .contrib .. => execContributionArrival m.id
  | .wake c => execContributionRetry 0 c
  | .launchLine .. => execLaunchLine m.id
  | .partyAsk .. => execPartyQuery m.id
  | .partyAns .. => execPartyQueryAnswer m.id
  | .pubLoad .. => execPublishedAccess m.id
  | .pubStore .. => execPublishedAccess m.id
  | .pubAtom .. => execPublishedAccess m.id

/-- Lines of pushes that moving windows have sent back to a die, whichever of its cores sent them (R157). -/
def State.returnEvents (s : State) : List Try :=
  s.msgs.filterMap fun m =>
    match m.body, m.dst.place with
    | .push pid .., .die d =>
      if m.dst.dev == s.dev then ((List.range s.cores.length).find? fun c => (s.core c).die == d).map fun c => execPushRetry c pid else none
    | _, _ => none

/-- Messages that have come to this device; of the others, those too old to leave (R304). -/
def State.msgEvents (s : State) : List Try :=
  (s.msgs.filter fun m => m.dst.dev == s.dev).map Msg.event
    ++ ((s.msgs ++ s.fab.relay).filter fun m => m.dst.dev != s.dev && usTicks 1000 ≤ m.age).map fun m => execMessageAgeDrop m.id

/-- Pulls of the blocks that a request touches and that have not come to their frame (R204). -/
def State.pullsOf (s : State) (r : Req) : List Try :=
  if !r.page.migrating then []
  else
    (distinct ((r.lanes.map fun l => r.page.pa + l.off).filter fun pa => !s.migrated r.page pa)).filterMap fun pa =>
      (s.migrationOf (pa / 8192 * 8192)).map fun e => execMigrationPull e.1 (pa / 128 % 64)

/-- Pulls under way, whoever began them. -/
def State.pullEvents (s : State) : List Try :=
  s.coh.wants.flatMap fun w =>
    match w.who with
    | .puller _ => s.sys.migration.flatMap fun e =>
        ((List.range 64).filter fun b => entryOld e.2 b == w.blk).map fun b => execMigrationPull e.1 b
    | _ => []

/-! ## Full caches (R5) -/

/-- Bytes of a core's L1 that lines take: sectors of private pages, leased copies and lent blocks. -/
def State.l1Used (s : State) (c : Nat) : Nat :=
  64 * (s.core c).view.length + 128 * (s.core c).leases.length
    + 128 * (s.coh.holds.filter fun h => h.who == .die (s.core c).die && h.lent.any fun x => x.1 == c).length

/-- Bytes of a die's L2 that lines take, and those that there are: less while fabric ports are enabled. -/
def State.l2Used (s : State) (d : Nat) : Nat :=
  64 * (s.die d).view.length + 128 * (s.die d).leases.length + 128 * (s.coh.holds.filter fun h => h.who == .die d).length

def State.l2Room (s : State) : Nat := if s.fab.portEn = 0 then Config.l2Bytes else Config.l2Bytes - Config.relayBytes

/-- An L1 gives back the tokens of a block that its slice has lent it. -/
def returnLent (c : Nat) (h : Hold) : Try := fun s => .next (s.putHold { h with lent := h.lent.filter fun x => x.1 != c })

/-- A full cache gives up a line. DESIGN CHOICE: the first that the state lists, a sector of a private page before a leased copy, and that
before a tracked block (log entry 81). -/
def sectorOut (v : View) (x : Sector) : Try := if x.dirty then execWriteBack v x.addr else execSectorDrop v x.addr

def State.l1Events (s : State) (c : Nat) : List Try :=
  if s.l1Used c ≤ Config.l1Bytes then []
  else
    (s.core c).view.map (sectorOut (.core c))
      ++ ((s.core c).leases.take 1).map (fun x => fun s => .next (s.modCore c fun k => { k with leases := k.leases.filter fun y => y.blk != x.blk }))
      ++ (s.coh.holds.filter fun h => h.who == .die (s.core c).die && h.lent.any fun x => x.1 == c).map (returnLent c)

def State.l2Events (s : State) (d : Nat) : List Try :=
  if s.l2Used d ≤ s.l2Room then []
  else
    (s.die d).view.map (sectorOut (.die d))
      ++ ((s.die d).leases.take 1).map (fun x => fun s => .next (s.modDie d fun k => { k with leases := k.leases.filter fun y => y.blk != x.blk }))
      ++ (s.coh.holds.filter fun h => h.who == .die d).map fun h => execEviction (.die d) h.blk

/-- Lines that full caches give up. -/
def State.cacheEvents (s : State) : List Try :=
  (List.range s.cores.length).flatMap s.l1Events ++ (List.range s.dies.length).flatMap s.l2Events

/-- Steps of one request of a core's queues. -/
def State.reqEvents (s : State) (c : Nat) (r : Req) : List Try :=
  let form : List Try :=
    if s.route r.page = .leased then (r.blocks.filter fun b => (s.leaseTimes b).isNone).map fun b => execFormConversion b true else []
  let fill : List Try := if s.route r.page = .token then (distinct (r.lanes.map r.laneBlk)).flatMap fun b => [execPeerProbe c b, execLineFill c b] else []
  [execOpenAccessFault c r.id, execPerformLoad c r.id] ++ form
    ++ [execLeaseRead c r.id, execLeaseWrite c r.id, execEnqueueStore c r.id, execRemoteLoadTimeout c r.id, execPostedWriteTimeout r.id] ++ fill
    ++ s.pullsOf r

def State.storeEvents (s : State) (c : Nat) (r : Req) : List Try :=
  let form : List Try :=
    if s.route r.page = .leased then (r.blocks.filter fun b => (s.leaseTimes b).isNone).map fun b => execFormConversion b true else []
  form ++ [execDrain c r.id, execLeaseWrite c r.id, execPostedWriteTimeout r.id] ++ s.pullsOf r

def cmdEvents (c : Nat) (m : Cmd) : List Try :=
  [execCopyCommandStart c m.id, execCopyLineTransfer c m.id, execContributionRetry c m.id, execCopyCommandComplete c m.id]

/-- Steps of a core's queues, engines and tables. -/
def State.coreEvents (s : State) (c : Nat) (k : Core) : List Try :=
  let grants : List Try := (k.grants.filter fun g => !g.2.isEmpty).map fun g => execGrantRequestGranted c g.1
  let starting : Bool := (k.handler.bind s.team?).any fun h => h.cond == .reserved
  let traps : List Try := if k.trapQueue.isEmpty && !starting then [] else [execTrapHandlerEntry c]
  let evict : List Try := if 10240 ≤ k.deadlock then [execRegisterDeadlockEvict c] else []
  k.reqs.flatMap (s.reqEvents c) ++ k.storeQ.flatMap (s.storeEvents c) ++ k.cmds.flatMap (cmdEvents c)
    ++ k.unpub.map (fun u => execWindowWriteback c u.blk) ++ k.arms.map (fun a => execArmedLaunchEnqueue c a.1) ++ grants ++ traps ++ evict

/-- Candidates of cores from `c` on. -/
def State.coresFrom (s : State) : Nat → List Core → List Try
  | _, [] => []
  | c, k :: ks => s.coreEvents c k ++ s.coresFrom (c + 1) ks

/-- Steps of token requests, persistent requests and audits. -/
def Coherence.events (k : Coherence) : List Try :=
  let ofWant (w : Want) : List Try :=
    match w.stage with
    | .no => [execTryTimeout w.id, execPersistentRequestIssue w.id]
    | .refused _ => [execPersistentRetry w.id]
    | _ => []
  let ofAudit (a : Audit) : List Try := execAuditHoldoffExpire a.blk :: a.waiting.map fun p => execAuditRepeat a.blk p.1
  k.wants.flatMap ofWant ++ (k.table.filter fun e => e.active).map (fun e => execAuditStart e.blk) ++ k.audits.flatMap ofAudit
    ++ k.converting.map fun c => execFormConversion c.1 c.2

/-- What a prefetch has asked for goes to the L1 of its core (R184). -/
def State.idleEvents (s : State) : List Try :=
  (s.coh.wants.filter fun w => w.kind == .read && s.satisfied w).flatMap fun w =>
    match w.who with
    | .die d => ((List.range s.cores.length).find? fun c => (s.core c).die == d && s.coreAgent c == w.agent).toList.map fun c => execLineFill c w.blk
    | _ => []

/-- Late results and waits of one fibre. -/
def Team.fibreEvents (t : Team) (i : Nat) : List Try :=
  let f := t.fibre i
  let pend : List Try := f.pend.map fun p => execPendingWriteComplete t.id i p.reg
  match f.wait with
  | none => pend
  | some w =>
    let own : List Try := match w with
      | .word _ => [execWaitReload t.id i]
      | .query .. => [execPartyQueryTimeout t.id i]
      | _ => []
    pend ++ own ++ if 2 ^ t.starve * 10 ≤ f.timer then [execStarvationTimeout t.id i] else []

/-- Fibres with a late result or a wait. -/
def Team.busyFibres (t : Team) : List Nat := t.live.filter fun i => !(t.fibre i).pend.isEmpty || (t.fibre i).wait.isSome

/-- Cores in the order in which they are offered a team; a free value says where the order starts (R216; log entry 2). -/
def State.coreOrder (s : State) : List Nat :=
  let n := s.cores.length
  (List.range n).map fun i => (Config.freeCore s.draws + i) % n

/-- Cores on which the re-admission of a saved team is tried; while its frame is read from another device, one is enough (R216, R233). -/
def State.readmitCores (s : State) (t : Team) : List Nat :=
  let collector := s.collector t
  let cs := (if t.cls = 0 then [t.core] else s.coreOrder).filter fun c => s.canReadmit t c && collector.all fun k => k == c
  if (s.gatherFrame t).isSome then cs.take 1 else cs

/-- Steps of one team. -/
def State.teamEvents (s : State) (t : Team) : List Try :=
  match t.cond with
  | .resident =>
    let trap : List Try := if t.overflow.isSome then [execErrorQueueOverflowTrap t.id] else []
    let ends : List Try := if t.live.isEmpty then [execTeamEndFree t.id] else []
    t.busyFibres.flatMap t.fibreEvents ++ trap ++ t.pools.map (fun p => execGatheringPoolClose t.id p.target) ++ ends
  | .saving .. =>
    t.busyFibres.flatMap t.fibreEvents ++ t.pools.map (fun p => execGatheringPoolClose t.id p.target) ++ [execPreemptStopTimeout t.id, execTeamSaveComplete t.id]
  | .saved .. =>
    execPagingQueueWrite t.id :: if t.waiting then (s.readmitCores t).map fun c => execTeamReadmit t.id c else []
  | .written .. => [execTeamSaveComplete t.id]
  | .trapped => []
  | .ended => [execTeamRetire t.id]
  | .reserved => []

/-- Teams that a pre-emption may take for a queue's head (R229). -/
def State.preemptEvents (s : State) (q : Nat) : List Try :=
  (s.teams.filter fun t => s.preemptible t (s.queue q).prio.toNat).map fun t => execPreempt q t.id

/-- Cores to which the next team of a launch is offered: none while another launch heads its queue, or no frame slot is free. -/
def State.places (s : State) (l : Launch) : List Nat :=
  if ((s.headOf l.q).any fun x => x.1.id == l.id) && (s.freeFrame (recAsid l.record)).isSome then s.coreOrder else []

/-- Records that wait for their classes (R215). -/
def State.offerEvents (s : State) : List Try := s.nextOffers.map fun o => fun s => .next (s.pursue o.id)

/-- Steps of one launch. -/
def State.launchEvents (s : State) (l : Launch) : List Try :=
  (if l.taken then [] else [execLaunchTake l.id]) ++ match l.status with
  | .retired _ => if l.lost then [execCompletionWriteFail l.id] else []
  | .retiring _ => [execLaunchRetire l.id]
  | .started => execLaunchRetire l.id :: (s.places l).map (fun c => execTeamAdmit l.id c) ++ s.preemptEvents l.q
  | .queued =>
    match l.kernel with
    | none => []
    | some k =>
      (if k.progress = 0 then [execGridWholeAdmit l.id, execQueueHeadStarve l.q] else (s.places l).map fun c => execTeamAdmit l.id c)
        ++ s.preemptEvents l.q

/-- Steps of posts and of the launch lines held. -/
def State.fabricEvents (s : State) : List Try :=
  let f := s.fab
  let ofPost (p : Post) : List Try :=
    match p.kind with
    | .storeLine => [execStoreLinePost p.id, execStoreLineTimeout p.id, execStoreAckTimeout p.id]
    | .launchLine => [execLaunchLineResend p.id, execPostedWriteTimeout p.id]
    | _ => [execPostedWriteTimeout p.id]
  let late := f.flows.filter fun x => !x.early.isEmpty
  f.posts.flatMap ofPost ++ late.filterMap (fun x => (s.windowOf (x.frame * 8192)).map fun q => execLaunchLinePassOver x.src q)
    ++ (if 32 ≤ f.slot ∧ 150 ≤ f.slotAge then [execOrbitStart] else [])
    ++ (f.digests.filter fun g => digestTicks ≤ g.2.2).map fun g => execDigestDiscard g.1

/-- A port of this device expects a peer in the current slot; what it then receives comes from outside (R302). -/
def State.expectsPeer (s : State) : Bool :=
  (List.range 32).any fun p => s.fab.portEn.getLsbD p && ((assoc s.fab.sched (32 * s.fab.slot + p)).getD 0).getLsbD 31

/-- A slot in which no port expects a peer starts by itself. -/
def State.slotEvents (s : State) : List Try := if s.fab.slotAge < 150 || s.expectsPeer then [] else [execRotorSlotStart []]

/-! ## What waits at the channels of near-bank units (R338) -/

/-- What waits for the channel of a unit. -/
def State.channelWaits (s : State) (u : NearBank) : List ChannelWait :=
  let here (pa : Nat) : Bool := isDram pa && stackOf pa == u.stack && channelOf pa == u.channel
  let block (b : Nat) : Bool := s.isLocal b && here (blkPa b)
  let reqs (c : Nat) : List ChannelWait :=
    (((s.core c).reqs ++ (s.core c).storeQ).filter fun r => !r.sent && r.page.home == s.dev && s.route r.page != .token && r.blocks.any block).map
      fun r => .req c r.id
  let sectors (d : Nat) : List ChannelWait :=
    if s.l2Used d ≤ s.l2Room then [] else ((s.die d).view.filter fun x => x.dirty && here (x.addr * 64)).map fun x => .sector d x.addr
  let pulls (e : Nat × BitVec 192) : List ChannelWait :=
    if !here (entryFrame e.2) then []
    else ((List.range 64).filter fun b => s.coh.wants.any fun w => w.who == entryPuller e.2 && w.blk == entryOld e.2 b).map fun b => .pull e.1 b
  ((s.msgs.filter fun m => m.dst == s.here .home && (m.body.block? s.dev).any block).map fun m => .msg m.id)
    ++ (List.range s.cores.length).flatMap reqs ++ (List.range s.dies.length).flatMap sectors
    ++ ((s.rows.filter fun r => r.slot.isSome && r.rows.head?.any s.stepShut).map fun r => .row r.id) ++ s.sys.migration.flatMap pulls

/-- The steps of something that waits at a channel. -/
def State.waitEvents (s : State) (x : ChannelWait) : List Try :=
  match x with
  | .msg id => (s.msg? id).toList.map Msg.event
  | .req c id =>
    (((s.core c).reqs.filter fun r => r.id == id).flatMap (s.reqEvents c)) ++ ((s.core c).storeQ.filter fun r => r.id == id).flatMap (s.storeEvents c)
  | .sector d a => [execWriteBack (.die d) a]
  | .row id => (s.rows.filter fun r => r.id == id).flatMap fun r => (r.slot.map fun c => execRowOperation c r.id).toList
  | .pull e b => [execMigrationPull e b]

/-- While the channel of a running unit is shut, what comes to it takes its place in arrival order; in a window, that order comes first. -/
def State.unitEvents (s : State) (u : NearBank) : List Try :=
  if u.cond ≠ .running then []
  else if u.window = 0 then
    let more := (s.channelWaits u).filter fun x => !u.queue.contains x
    if more.isEmpty then [] else [fun s => .next (s.putUnit { u with queue := u.queue ++ more })]
  else u.queue.flatMap s.waitEvents

/-- Steps of row instructions. -/
def State.rowEvents (s : State) : List Try :=
  s.rows.flatMap fun r =>
    match r.slot with
    | some c => [execRowOperation c r.id]
    | none => ((s.team? r.team).map fun t => execRowSlotAcquire t.core).toList

/-- Tokens at the bridge for which an activation stands go on once the host has answered for its lines (R280, R296). -/
def State.bridgeEvents (s : State) : List Try :=
  (s.coh.acts.filter fun a => a.who == .bridge && !s.isFrozen .bridge a.blk && (s.hold? .bridge a.blk).isSome).map fun a => fun s =>
    match s.giveActive .bridge a.blk a.req a.tag with
    | .done s => .next s
    | .wait s => .next s

/-- What this device has written of blocks that are away is asked back to, and is then no longer kept (log entry 9). -/
def State.patchEvents (s : State) : List Try :=
  (distinct (s.coh.patches.map (·.1))).map fun b => fun s => .next ((s.gatherBlock b true).getD ((s.dropPatches b).homeDone [b]))

/-- Snoops of the host that the bridge still owes an answer. -/
def HostSide.events (h : HostSide) : List Try :=
  h.snoops.map fun x =>
    match x.2 with
    | .snoopInv => execHostSnpInv x.1
    | .snoopCur .. => execHostSnpCur x.1
    | _ => execHostSnpData x.1

/-- All candidates, in the order in which they are tried. -/
def State.candidates (s : State) : List Try :=
  s.nb.flatMap s.unitEvents ++ s.msgEvents ++ s.returnEvents ++ s.coresFrom 0 s.cores ++ s.pullEvents ++ s.idleEvents ++ s.cacheEvents ++ s.coh.events ++ s.fabricEvents ++ s.slotEvents ++ s.host.events ++ s.bridgeEvents ++ s.patchEvents ++ s.rowEvents
    ++ s.teams.flatMap s.teamEvents ++ s.offerEvents ++ s.launches.flatMap s.launchEvents

/-! ## The event that is due -/

/-- What the first of some attempts that does something does. -/
def State.firstOf (s : State) : List Try → Option State
  | [] => none
  | e :: es =>
    match e s with
    | .next s' => if s' = s then s.firstOf es else some s'
    | _ => s.firstOf es

/-- The state after the event that is due. -/
def State.due (s : State) : Option State := s.firstOf s.candidates

/-! ## What each meridian tick brings (R204, R206, R292, R335, R338) -/

/-- Copies of a view that lie too far behind meridian time. -/
def staleCopies (now : BitVec 24) (l : List LeaseCopy) : Bool := l.any fun x => farBehind now x.rts

def staleCores (now : BitVec 24) : Nat → List Core → List Try
  | _, [] => []
  | c, k :: ks => (if staleCopies now k.leases then [execCacheLeaseSweep (.core c)] else []) ++ staleCores now (c + 1) ks

/-- The events that a tick brings with it: one step of each running unit, arbitration windows, and sweeps. -/
def State.tickEvents (s : State) : List Try :=
  let now := s.sys.mtime
  let units := s.nb.filter fun u => u.cond == .running
  let windows : List Try := if now.toNat % 32 = 0 then units.map fun u => execArbitrationWindow u.stack u.channel else []
  let old := s.coh.metas.filter fun m => match m.2 with
    | .lease _ _ _ r => farBehind now r
    | .token .. => false
  windows ++ units.map (fun u => execNearBankStep u.stack u.channel)
    ++ (if s.sys.retiredGens.isEmpty then [] else [execGenerationSweep])
    ++ old.map (fun m => execHomeLeaseSweep m.1) ++ staleCores now 0 s.cores
    ++ (List.range s.dies.length).flatMap fun d => if staleCopies now (s.die d).leases then [execCacheLeaseSweep (.die d)] else []

/-- One of a tick's events occurs. -/
def State.attempt (s : State) (e : Try) : State :=
  match e s with
  | .next s' => s'
  | _ => s

/-- Cores with bundles to merge on dies that satisfy `p`. -/
def State.groupCores (s : State) (p : Die → Bool) : List Nat :=
  distinct ((s.teams.filter fun t => 2 ≤ t.bundles.length && p (s.die (s.core t.core).die)).map (·.core))

/-- The passes of the grouping stage on the dies that satisfy `p` (R52). -/
def State.groupPass (s : State) (p : Die → Bool) : State :=
  (s.groupCores p).foldl (fun s c => s.attempt (execGroupingStagePass c)) s

/-- A pass of the grouping stage is due within the next `n` cycles of 0.8 ns. -/
def Die.passes (n : Nat) (d : Die) : Bool := 400 ≤ d.phase + n * Clock.rate d.clock

/-- The next cycle of 0.8 ns: every port is free again (R54), and the grouping stage passes where it is due (R52). -/
def State.nextCycle (s : State) : State :=
  let s := s.groupPass (Die.passes 1)
  { s with
    teams := s.coolTeams 1, cores := s.cores.map (s.coolCore 1), dies := s.dies.map (Die.later 1), slice := s.slice + 1, stamp := s.stamp + 1
    issues := [], issuers := distinct (s.issues ++ s.issuers) }

/-- A meridian tick, with what it brings: the cycles up to it have passed. -/
def execTick (s : State) : Result :=
  match execMeridianTick (s.groupPass (Die.passes (20 - s.slice))) with
  | .next s' => .next (s'.tickEvents.foldl State.attempt s')
  | r => r

end Sys2Proof.Machine
end

