-- ==== Sys2Proof/Machine/Collective.lean ====
section
/-! DEFINITION. The collective instructions: votes, shuffles, group reductions and `match` (R69 to R75). -/

namespace Sys2Proof.Machine

/-- A collective: it needs a whole bundle, else cause 0x10 with the present-lane mask (R69). The guard-true fibres are the active
ones; `f` gives each its change from all of them, by home lane. -/
def collective (g : Guard) (uses : List Nat) (f : Team → List Nat → Nat → Fibre → Fibre) (s : State) : Result :=
  issue { guard := g, uses := fun _ => uses }
    (fun s t _ => [checkAll (if t.whole s.cur.fibs then none else some { code := 0x10, present := true })])
    (fun s t act => s.writeFibres act 4 (f t act)) s

/-! ## Votes (R72) -/

def execVoteAll (g : Guard) (a d : Pred) (s : State) : Result :=
  collective g [] (fun t act _ x => x.setPred d (act.all fun i => (t.fibre i).pred a)) s

def execVoteAny (g : Guard) (a d : Pred) (s : State) : Result :=
  collective g [] (fun t act _ x => x.setPred d (act.any fun i => (t.fibre i).pred a)) s

def execVoteBallot (g : Guard) (a : Pred) (d : Reg) (s : State) : Result :=
  collective g [d.toNat]
    (fun t act _ x => x.setReg d.toNat (laneMask (act.filter fun i => (t.fibre i).pred a))) s

/-! ## Shuffles (R73) -/

/-- vD := vA of the source lane, when one exists and is active, else the fibre's own vA. -/
def shuffle (g : Guard) (b a d : Reg) (src : Nat → Nat → Option Nat) (s : State) : Result :=
  collective g [a.toNat, b.toNat, d.toNat]
    (fun t act i x =>
      let from? := (src (laneOf i) (x.reg b.toNat).toNat).bind fun l => act.find? fun j => laneOf j == l
      x.setReg d.toNat (match from? with
        | some j => (t.fibre j).reg a.toNat
        | none => x.reg a.toNat)) s

def execShflIdx (g : Guard) (b a d : Reg) (s : State) : Result := shuffle g b a d (fun _ n => some (n % 32)) s

def execShflUp (g : Guard) (b a d : Reg) (s : State) : Result :=
  shuffle g b a d (fun l n => if n > l then none else some (l - n)) s

def execShflDown (g : Guard) (b a d : Reg) (s : State) : Result :=
  shuffle g b a d (fun l n => if l + n > 31 then none else some (l + n)) s

def execShflXor (g : Guard) (b a d : Reg) (s : State) : Result :=
  shuffle g b a d (fun l n => some (l ^^^ (n % 32))) s

/-! ## Group reductions (R74) -/

/-- Combine two entries of a level; an absent entry gives the other. -/
def combine (f : Word → Word → Word) : Option Word → Option Word → Option Word
  | some x, some y => some (f x y)
  | some x, none => some x
  | none, y => y

/-- The next level of the tree: entries 2i and 2i + 1. -/
def nextLevel (f : Word → Word → Word) : List (Option Word) → List (Option Word)
  | x :: y :: xs => combine f x y :: nextLevel f xs
  | xs => xs

/-- `n` levels. -/
def levels (f : Word → Word → Word) : Nat → List (Option Word) → List (Option Word)
  | 0, xs => xs
  | n + 1, xs => levels f n (nextLevel f xs)

/-- The single entry after five levels from lanes 0 to 31. -/
def groupReduce (f : Word → Word → Word) (t : Team) (act : List Nat) (a : Nat) : Word :=
  let level0 := (List.range 32).map fun l => (act.find? fun j => laneOf j == l).map fun j => (t.fibre j).reg a
  ((levels f 5 level0).headD none).getD 0

def gred (g : Guard) (a d : Reg) (f : Word → Word → Word) (s : State) : Result :=
  collective g [a.toNat, d.toNat] (fun t act _ x => x.setReg d.toNat (groupReduce f t act a.toNat)) s

def execGredAddS32 (g : Guard) (a d : Reg) (s : State) : Result := gred g a d (fun x y => x + y) s
def execGredAddF32 (g : Guard) (a d : Reg) (s : State) : Result := gred g a d fadd s
def execGredMinS32 (g : Guard) (a d : Reg) (s : State) : Result := gred g a d minS32 s
def execGredMaxS32 (g : Guard) (a d : Reg) (s : State) : Result := gred g a d maxS32 s
def execGredMinF32 (g : Guard) (a d : Reg) (s : State) : Result := gred g a d fmin s
def execGredMaxF32 (g : Guard) (a d : Reg) (s : State) : Result := gred g a d fmax s
def execGredAnd (g : Guard) (a d : Reg) (s : State) : Result := gred g a d (fun x y => x &&& y) s
def execGredOr (g : Guard) (a d : Reg) (s : State) : Result := gred g a d (fun x y => x ||| y) s

/-! ## match (R75) -/

def execMatchLanes (g : Guard) (a d : Reg) (s : State) : Result :=
  collective g [a.toNat, d.toNat]
    (fun t act _ x =>
      x.setReg d.toNat (laneMask (act.filter fun j => (t.fibre j).reg a.toNat == x.reg a.toNat))) s

end Sys2Proof.Machine
end

