-- ==== Sys2Proof/Machine/Matrix.lean ====
section
/-! DEFINITION. The matrix quarters: `qmma`, promotion, clearing, online softmax and the side registers (R68, R69, R159 to R176). -/

namespace Sys2Proof.Machine

/-! ## Quarters (R68, R69) -/

/-- The quarter of a lane. -/
def quarterOf (i : Nat) : Nat := laneOf i / 8

/-- The fibres of a bundle in a quarter. -/
def inQuarter (is : List Nat) (q : Nat) : List Nat := is.filter fun i => quarterOf i == q

/-- Eight lanes of one home group with a guard alike; a quarter whose guards are all false takes no part. -/
def quarterWhole (is act : List Nat) (q : Nat) : Bool :=
  let fs := inQuarter is q
  (inQuarter act q).isEmpty
    || (fs.length == 8 && fs.all (fun i => groupOf i == groupOf (fs.headD 0)) && (inQuarter act q).length == 8)

/-- Check 1 of R163: a guard-true fibre of a quarter that is not whole. -/
def checkQuarter (is act : List Nat) : Check := fun i _ =>
  if quarterWhole is act (quarterOf i) then none else some { code := 0x10, present := true }

/-! ## Exact sums (R159, R164) -/

/-- The special mark of a value. -/
def FVal.mark : FVal → Mark
  | .nan => .nan
  | .inf s => if s then .ninf else .pinf
  | .fin .. => .none

/-- How marks combine: as the addends of a sum. -/
def Mark.add : Mark → Mark → Mark
  | .none, m => m
  | m, .none => m
  | .pinf, .pinf => .pinf
  | .ninf, .ninf => .ninf
  | _, _ => .nan

/-- A finite value in units of 2^−32; the values of products of 8-bit formats are whole numbers of them. -/
def FVal.units : FVal → Int
  | .fin s m e =>
    let n : Int := m * 2 ^ (e + 32).toNat
    if s then -n else n
  | _ => 0

/-- The partial with an exact sum added. DESIGN CHOICE: a sum that is a NaN or an infinity sets the mark and leaves the 80 bits as they are (R164;
log entry 105). -/
def Partial.add (p : Partial) (t : FVal) : Partial := ⟨p.sum + BitVec.ofInt 80 t.units, p.mark.add t.mark⟩

/-- Rounding 1 of R169. -/
def Partial.round (p : Partial) : Word :=
  match p.mark with
  | .nan => rne32 .nan
  | .pinf => rne32 (.inf false)
  | .ninf => rne32 (.inf true)
  | .none => if p.sum = 0 then 0 else rne32 (.fin (p.sum.toInt < 0) p.sum.toInt.natAbs (-32))

/-- The value of an element, read under flush_in. -/
def Elem.val (el : Elem) (flush : Bool) (x : Nat) : FVal :=
  match el with
  | .float f => f.element flush x
  | .int8 => let i := (BitVec.ofNat 8 x).toInt; .fin (i < 0) i.natAbs 0
  | .nat8 => .fin false (x % 256) 0
  | .int32 => let i := (BitVec.ofNat 32 x).toInt; .fin (i < 0) i.natAbs 0

/-- t of R164: the exact sum of the products; an exact zero counts as +0. -/
def dot : List FVal → List FVal → FVal
  | a :: as, b :: bs => (a.mul b).add (dot as bs)
  | _, _ => .fin false 0 0

/-- t with the sign of its zero dropped. -/
def plusZero : FVal → FVal
  | .fin s m e => if m = 0 then .fin false 0 0 else .fin s m e
  | v => v

/-! ## Operands (R160) -/

/-- The slot's format takes part in `qmma` under its scale mode (R162). -/
def matrixSlot (sl : SlotVal) : Bool :=
  match sl.elem with
  | .float f => f.width == 8 || (f.width == 16 && sl.scaleMode == 0)
  | .int8 => sl.scaleMode == 0
  | .nat8 => sl.scaleMode == 0
  | .int32 => false

/-- A scaled accumulation. -/
def scaled (sl : SlotVal) : Bool := sl.scaleMode != 0

/-- K of a format. -/
def depthK (el : Elem) : Nat := if el.width = 16 then 32 else 64

/-- Element `k` of row A in the 64 bytes of the A registers. -/
def rowElem (el : Elem) (bytes : Nat) (k : Nat) : Nat := bytes / 2 ^ (el.width * k) % 2 ^ el.width

/-- The bytes of consecutive registers as one number. -/
def wordsNat (ws : List Word) : Nat := ws.foldr (fun w acc => w.toNat + 2 ^ 32 * acc) 0

def regBytes (f : Fibre) (n k : Nat) : Nat := wordsNat (f.regsFrom n k)

/-- B[k][j] of an image. -/
def imageElem (el : Elem) (image : Nat) (k j : Nat) : Nat := image / 2 ^ (el.width * (16 * k + j)) % 2 ^ el.width

/-- Column j of the image as values. -/
def column (sl : SlotVal) (image : Nat) (j : Nat) : List FVal :=
  (List.range (depthK sl.elem)).map fun k => sl.elem.val sl.flushIn (imageElem sl.elem image k j)

/-- Row A of sixteen words as values. -/
def rowValues (sl : SlotVal) (ws : List Word) : List FVal :=
  let bytes := wordsNat ws
  (List.range (depthK sl.elem)).map fun k => sl.elem.val sl.flushIn (rowElem sl.elem bytes k)

/-- The image that eight fibres hold in registers: lane i has bytes 128i to 128i + 127. -/
def regImage (t : Team) (fs : List Nat) (b : Nat) : Nat :=
  fs.foldr (fun i acc => regBytes (t.fibre i) b 32 + 2 ^ 1024 * acc) 0

/-- D of one fibre for a direct or integer accumulation. -/
def directD (sl : SlotVal) (d : Word) (t : FVal) : Word :=
  match sl.elem with
  | .float _ => rne32 ((val32 d).add (plusZero t))
  | _ => match t with
    | .fin s m e => d + BitVec.ofInt 32 (let n : Int := m * 2 ^ e.toNat; if s then -n else n)
    | _ => d

/-- What a `qmma` does to one fibre, from its A operand and the image its quarter reads (R164). -/
def accumulateRow (sl : SlotVal) (half : Bool) (image : Nat) (ws : List Word) (db : Nat) (f : Fibre) : Fibre :=
  let row := rowValues sl ws
  let ts := (List.range 16).map fun j => dot row (column sl image j)
  if scaled sl then
    let part := (f.mat.part.zip ts).map fun p => p.1.add p.2
    { f with mat := { f.mat with part := part, isOpen := true, tag := BitVec.ofNat 4 (db / 4)
                                 lo := f.mat.lo || !half, hi := f.mat.hi || half } }
  else f.setRegs db (((f.regsFrom db 16).zip ts).map fun p => directD sl p.1 p.2)

/-- The same, with A in the sixteen registers from `a` on. -/
def accumulate (sl : SlotVal) (half : Bool) (image : Nat) (a db : Nat) (f : Fibre) : Fibre :=
  accumulateRow sl half image (f.regsFrom a 16) db f

/-! ## qmma (R161 to R168) -/

/-- Check 4: the tag and the half. -/
def outOfSequence (half : Bool) (db : BitVec 4) (m : MatrixState) : Bool :=
  m.isOpen && (m.tag != db || (if half then m.hi else m.lo))

/-- Checks 2 and 4, with the checks of a handle between. -/
def matrixChecks (s : State) (t : Team) (act : List Nat) (sl : Slot) (half : Bool) (db : BitVec 4)
    (handle : List Check) : List Check :=
  let seq : Bool := match s.slot t sl with
    | some v => scaled v && act.any fun i => outOfSequence half db (t.fibre i).mat
    | none => false
  [checkQuarter s.cur.fibs act, checkSlot s t sl matrixSlot] ++ handle ++ [checkAll (if seq then some { code := 0x68 } else none)]

/-- The registers of a base field. -/
def group (b : BitVec 4) (n : Nat) : List Nat := (List.range n).map fun k => 4 * b.toNat + k

/-- The latch of a quarter with what its registers hold (R167). -/
def latchOf (t : Team) (act : List Nat) (ab : BitVec 4) (q : Nat) : Latch :=
  let is := inQuarter act q
  { quarter := q, team := t.id, fibs := is, abase := ab
    counts := is.map fun i => (group ab 16).map fun r => (assoc (t.fibre i).counts r).getD 0
    kept := is.map fun i => (t.fibre i).regsFrom (4 * ab.toNat) 16 }

/-- A latch whose tag is the same: it keeps A of these fibres (R167). -/
def Latch.matches (x y : Latch) : Bool := { x with kept := [] } == { y with kept := [] }

/-- The A operand that a quarter's latch keeps for a fibre, where its tag matches (R167). -/
def State.latched (s : State) (t : Team) (act : List Nat) (ab : BitVec 4) (i : Nat) : Option (List Word) :=
  let x := latchOf t act ab (quarterOf i)
  ((s.core t.core).latches.find? (Latch.matches x)).bind fun l => (l.fibs.zip l.kept).lookup i

/-- The A operand of a fibre: the latch's, or the registers'. A latch that kept another value than the registers hold, which no run reaches, is
not taken: every `qmma` computes with the values of its registers (R167). -/
def operandA (kept : Option (List Word)) (a : Nat) (f : Fibre) : List Word :=
  match kept with
  | some ws => if ws = f.regsFrom a 16 then ws else f.regsFrom a 16
  | none => f.regsFrom a 16

/-- The operand latches after a `qmma` of some quarters: it leaves its A in them, or empties them (R167). -/
def State.latch (s : State) (t : Team) (act : List Nat) (ab : BitVec 4) (reuse : Bool) : State :=
  let qs := distinct (act.map quarterOf)
  s.modCore t.core fun k =>
    let rest := k.latches.filter fun l => !qs.contains l.quarter
    { k with latches := if reuse then rest ++ qs.map (latchOf t act ab) else rest }

/-- The effect of a `qmma` whose quarters read the images `img`. -/
def State.multiply (s : State) (t : Team) (act : List Nat) (sl : Slot) (reuse half : Bool) (ab db : BitVec 4)
    (img : Nat → Nat) : State :=
  match s.slot t sl with
  | none => s.advance 4
  | some v =>
    (s.latch t act ab reuse).writeFibres act 4 fun i f =>
      accumulateRow v half (img (quarterOf i)) (operandA (s.latched t act ab i) (4 * ab.toNat) f) (4 * db.toNat) f

/-- The 1,024 bytes of the image in a handle's region. -/
def State.handleImage (s : State) (t : Team) (h : Nat) (half : Bool) : Nat :=
  bytesNat ((s.core t.core).lmem.read (t.lbase.getD 0 + (t.handle h).base + (if half then 1024 else 0)) 1024)

/-- The handle free and bound: the implicit fetch is due (R149). -/
def HandleState.fetchDue (x : HandleState) : Bool := x.allotted && x.st == .free && x.bound.isSome

/-- Check 3 and, where the fetch is due, check 5 after check 4 (R163). -/
def imageChecks (t : Team) (h : Nat) (half : Bool) : List Check :=
  handleChecks t h ++ [checkState t h fun x => x.allotted && (x.st != .free || x.bound.isSome),
    checkAll (if (t.handle h).size < (if half then 2048 else 1024) then some { code := 0x67 } else none)]

def fetchChecks (t : Team) (h : Nat) : List Check :=
  match (t.handle h).bound with
  | some (n, elem) =>
    if (t.handle h).fetchDue then
      [checkAll (if malformed (t.record n) then some { code := 0x36 } else none), checkAll (rangeError t n h elem)]
    else []
  | none => []

def execQmmaHandle (g : Guard) (reuse half : Bool) (sl : Slot) (h : Handle) (ab db : BitVec 4) (s : State) : Result :=
  issue { guard := g, uses := fun _ => group ab 16 ++ group db 16 }
    (fun s t act => matrixChecks s t act sl half db (imageChecks t h.toNat half) ++ fetchChecks t h.toNat)
    (fun s t act =>
      let x := t.handle h.toNat
      if act.isEmpty then s.advance 4
      else if x.st = .filling then s.stall
      else if x.fetchDue then
        if s.scoreboardFull t.core then s.stall
        else (s.addCmd t act h.toNat (.cpin (x.bound.getD (0, 0)).1 (x.bound.getD (0, 0)).2) (s.curPc t) true).stall
      -- Each quarter's read takes a scoreboard entry (R152, R165, R168).
      else if s.scoreboardLacks t.core (distinct (act.map quarterOf)).length then s.stall
      else s.multiply t act sl reuse half ab db fun _ => s.handleImage t h.toNat half) s

def execQmmaReg (g : Guard) (reuse half : Bool) (sl : Slot) (bb ab db : BitVec 4) (s : State) : Result :=
  issue { guard := g, uses := fun _ => group ab 16 ++ group db 16 ++ group bb 32 }
    (fun s t act => matrixChecks s t act sl half db [])
    (fun s t act =>
      s.multiply t act sl reuse half ab db fun q => regImage t (sortLanes (inQuarter act q)) (4 * bb.toNat)) s

/-! ## Promotion and clearing (R169, R170) -/

/-- The three roundings of R169. -/
def promote (a b db : Nat) (f : Fibre) : Fibre :=
  let sc := fmul (f.reg a) (f.reg b)
  let d := ((f.regsFrom db 16).zip f.mat.part).map fun p => ffma p.2.round sc p.1
  { f.setRegs db d with mat := { f.mat with part := List.replicate 16 ⟨0, .none⟩, isOpen := false, lo := false, hi := false } }

def execQpro (g : Guard) (b a : Reg) (db : BitVec 4) (s : State) : Result :=
  issue { guard := g, uses := fun _ => a.toNat :: b.toNat :: group db 16 }
    (fun _ _ _ => [fun _ f => if f.mat.isOpen && f.mat.tag != db then some { code := 0x68 } else none])
    (fun s _ act => s.writeFibres act 4 fun _ f => promote a.toNat b.toNat (4 * db.toNat) f) s

def execQzero (g : Guard) (db : BitVec 4) (s : State) : Result :=
  laneOp g 4 (fun _ => group db 16)
    (fun _ f => { f.setRegs (4 * db.toNat) (List.replicate 16 0) with mat := .reset }) s

/-! ## Online softmax (R171) -/

def minusInf : Word := 0xFF800000

/-- m1, f and P of one step. -/
def softStep (m : Word) (scores : List Word) : Word × Word × List Word :=
  let m1 := scores.foldl fmax m
  if m1 = minusInf then (m1, 0x3F800000, List.replicate 16 0)
  else (m1, fexp2 (fsub m m1), scores.map fun x => fexp2 (fsub x m1))

/-- One step in one fibre: D, m and l, and S by `put`. -/
def softmax (sb db : Nat) (put : List Word → Fibre → Fibre) (f : Fibre) : Fibre :=
  let r := softStep f.mat.m (f.regsFrom sb 16)
  let l := r.2.2.foldl fadd (fmul f.mat.l r.2.1)
  let f' := f.setRegs db ((f.regsFrom db 16).map fun d => fmul d r.2.1)
  put r.2.2 { f' with mat := { f'.mat with m := r.1, l := l } }

def execSmx (g : Guard) (sb db : BitVec 4) (s : State) : Result :=
  laneOp g 4 (fun _ => group sb 16 ++ group db 16)
    (fun _ f => softmax (4 * sb.toNat) (4 * db.toNat) (fun p f => f.setRegs (4 * sb.toNat) p) f) s

/-- Elements packed `n` to a register (R171). -/
def packed (w : Nat) : List Nat → Nat
  | [] => 0
  | c :: cs => c % 2 ^ w + 2 ^ w * packed w cs

def packRegs (w : Nat) (codes : List Nat) : List Word :=
  let all := packed w codes
  (List.range (16 * w / 32)).map fun r => BitVec.ofNat 32 (all / 2 ^ (32 * r))

/-- The formats of `smx.cvt`. -/
def softSlot (sl : SlotVal) : Bool :=
  match sl.elem with
  | .float f => f.width != 32
  | _ => false

def execSmxCvt (g : Guard) (sl : Slot) (sb db : BitVec 4) (s : State) : Result :=
  slotOp g sl (fun _ => group sb 16 ++ group db 16) softSlot (fun _ => 4)
    (fun v gen i f =>
      softmax (4 * sb.toNat) (4 * db.toNat)
        (fun p f => f.setRegs (4 * sb.toNat)
          (packRegs v.elem.width ((List.range 16).map fun j => (narrow v (drawValue gen (laneOf i) j) (p.getD j 0)).toNat))) f) s

/-! ## Side registers (R173) -/

def execQsr (g : Guard) (l : Bool) (d : Reg) (s : State) : Result :=
  laneOp g 4 (fun _ => [d.toNat]) (fun _ f => f.setReg d.toNat (if l then f.mat.l else f.mat.m)) s

def execQsw (g : Guard) (l : Bool) (a : Reg) (s : State) : Result :=
  laneOp g 4 (fun _ => [a.toNat])
    (fun _ f => { f with mat := if l then { f.mat with l := f.reg a.toNat } else { f.mat with m := f.reg a.toNat } }) s

end Sys2Proof.Machine
end

