-- ==== Sys2Proof/Machine/Dispatch.lean ====
section
/-! DEFINITION. The dispatch: one arm per instruction and event, each a direct call of its meaning. -/

namespace Sys2Proof.Machine

/-- The meaning of an instruction for the bundle that issues, or of an event. -/
def exec (i : Instr) (s : State) : Host.Outcome State Fault Refusal :=
  match i with
  | .movC16 b d => Sys2Proof.Machine.execMovC16 b d s
  | .moviC16 imm d => Sys2Proof.Machine.execMoviC16 imm d s
  | .addC16 b d => Sys2Proof.Machine.execAddC16 b d s
  | .addiC16 imm d => Sys2Proof.Machine.execAddiC16 imm d s
  | .subC16 b d => Sys2Proof.Machine.execSubC16 b d s
  | .mulLoC16 b d => Sys2Proof.Machine.execMulLoC16 b d s
  | .andC16 b d => Sys2Proof.Machine.execAndC16 b d s
  | .orC16 b d => Sys2Proof.Machine.execOrC16 b d s
  | .xorC16 b d => Sys2Proof.Machine.execXorC16 b d s
  | .shlC16 b d => Sys2Proof.Machine.execShlC16 b d s
  | .shrC16 b d => Sys2Proof.Machine.execShrC16 b d s
  | .minS32C16 b d => Sys2Proof.Machine.execMinS32C16 b d s
  | .maxS32C16 b d => Sys2Proof.Machine.execMaxS32C16 b d s
  | .faddC16 b d => Sys2Proof.Machine.execFaddC16 b d s
  | .fmulC16 b d => Sys2Proof.Machine.execFmulC16 b d s
  | .fmaxC16 b d => Sys2Proof.Machine.execFmaxC16 b d s
  | .add g b a d => Sys2Proof.Machine.execAdd g b a d s
  | .addc g b a d => Sys2Proof.Machine.execAddc g b a d s
  | .sub g b a d => Sys2Proof.Machine.execSub g b a d s
  | .subb g b a d => Sys2Proof.Machine.execSubb g b a d s
  | .mulLo g b a d => Sys2Proof.Machine.execMulLo g b a d s
  | .mulHiS32 g b a d => Sys2Proof.Machine.execMulHiS32 g b a d s
  | .mulHiN32 g b a d => Sys2Proof.Machine.execMulHiN32 g b a d s
  | .mad g b a d => Sys2Proof.Machine.execMad g b a d s
  | .and g b a d => Sys2Proof.Machine.execAnd g b a d s
  | .or g b a d => Sys2Proof.Machine.execOr g b a d s
  | .xor g b a d => Sys2Proof.Machine.execXor g b a d s
  | .andn g b a d => Sys2Proof.Machine.execAndn g b a d s
  | .minS32 g b a d => Sys2Proof.Machine.execMinS32 g b a d s
  | .maxS32 g b a d => Sys2Proof.Machine.execMaxS32 g b a d s
  | .minN32 g b a d => Sys2Proof.Machine.execMinN32 g b a d s
  | .maxN32 g b a d => Sys2Proof.Machine.execMaxN32 g b a d s
  | .shl g b a d => Sys2Proof.Machine.execShl g b a d s
  | .shr g b a d => Sys2Proof.Machine.execShr g b a d s
  | .sar g b a d => Sys2Proof.Machine.execSar g b a d s
  | .rot g b a d => Sys2Proof.Machine.execRot g b a d s
  | .popc g a d => Sys2Proof.Machine.execPopc g a d s
  | .clz g a d => Sys2Proof.Machine.execClz g a d s
  | .brev g a d => Sys2Proof.Machine.execBrev g a d s
  | .abs g a d => Sys2Proof.Machine.execAbs g a d s
  | .bfxS32 g b a d => Sys2Proof.Machine.execBfxS32 g b a d s
  | .bfxN32 g b a d => Sys2Proof.Machine.execBfxN32 g b a d s
  | .bfi g b a d => Sys2Proof.Machine.execBfi g b a d s
  | .mov g a d => Sys2Proof.Machine.execMov g a d s
  | .movKconst g k d => Sys2Proof.Machine.execMovKconst g k d s
  | .movIndirectSrc g imm a d => Sys2Proof.Machine.execMovIndirectSrc g imm a d s
  | .movIndirectDst g imm a d => Sys2Proof.Machine.execMovIndirectDst g imm a d s
  | .sel g n b a d => Sys2Proof.Machine.execSel g n b a d s
  | .cmpS32 g c b a p => Sys2Proof.Machine.execCmpS32 g c b a p s
  | .cmpN32 g c b a p => Sys2Proof.Machine.execCmpN32 g c b a p s
  | .movi g imm d => Sys2Proof.Machine.execMovi g imm d s
  | .imhi g imm d => Sys2Proof.Machine.execImhi g imm d s
  | .addi g imm a d => Sys2Proof.Machine.execAddi g imm a d s
  | .andi g imm a d => Sys2Proof.Machine.execAndi g imm a d s
  | .ori g imm a d => Sys2Proof.Machine.execOri g imm a d s
  | .xori g imm a d => Sys2Proof.Machine.execXori g imm a d s
  | .shli g cnt a d => Sys2Proof.Machine.execShli g cnt a d s
  | .shri g cnt a d => Sys2Proof.Machine.execShri g cnt a d s
  | .sari g cnt a d => Sys2Proof.Machine.execSari g cnt a d s
  | .cmpiS32 g imm a c p => Sys2Proof.Machine.execCmpiS32 g imm a c p s
  | .cmpiN32 g imm a c p => Sys2Proof.Machine.execCmpiN32 g imm a c p s
  | .fadd g b a d => Sys2Proof.Machine.execFadd g b a d s
  | .fsub g b a d => Sys2Proof.Machine.execFsub g b a d s
  | .fmul g b a d => Sys2Proof.Machine.execFmul g b a d s
  | .ffma g b a d => Sys2Proof.Machine.execFfma g b a d s
  | .fmin g b a d => Sys2Proof.Machine.execFmin g b a d s
  | .fmax g b a d => Sys2Proof.Machine.execFmax g b a d s
  | .fdiv g b a d => Sys2Proof.Machine.execFdiv g b a d s
  | .frcp g a d => Sys2Proof.Machine.execFrcp g a d s
  | .frsq g a d => Sys2Proof.Machine.execFrsq g a d s
  | .fsqrt g a d => Sys2Proof.Machine.execFsqrt g a d s
  | .fexp2 g a d => Sys2Proof.Machine.execFexp2 g a d s
  | .flog2 g a d => Sys2Proof.Machine.execFlog2 g a d s
  | .fclass g a d => Sys2Proof.Machine.execFclass g a d s
  | .fcmpF32 g c b a p => Sys2Proof.Machine.execFcmpF32 g c b a p s
  | .hadd2F16 g b a d => Sys2Proof.Machine.execHadd2F16 g b a d s
  | .hmul2F16 g b a d => Sys2Proof.Machine.execHmul2F16 g b a d s
  | .hfma2F16 g b a d => Sys2Proof.Machine.execHfma2F16 g b a d s
  | .hmax2F16 g b a d => Sys2Proof.Machine.execHmax2F16 g b a d s
  | .hadd2Bf16 g b a d => Sys2Proof.Machine.execHadd2Bf16 g b a d s
  | .hmul2Bf16 g b a d => Sys2Proof.Machine.execHmul2Bf16 g b a d s
  | .hfma2Bf16 g b a d => Sys2Proof.Machine.execHfma2Bf16 g b a d s
  | .hmax2Bf16 g b a d => Sys2Proof.Machine.execHmax2Bf16 g b a d s
  | .cvtI2fS32 g a d => Sys2Proof.Machine.execCvtI2fS32 g a d s
  | .cvtI2fN32 g a d => Sys2Proof.Machine.execCvtI2fN32 g a d s
  | .cvtF2iS32 g a d => Sys2Proof.Machine.execCvtF2iS32 g a d s
  | .cvtF2iN32 g a d => Sys2Proof.Machine.execCvtF2iN32 g a d s
  | .cvtF2hF16 g a d => Sys2Proof.Machine.execCvtF2hF16 g a d s
  | .cvtF2hBf16 g a d => Sys2Proof.Machine.execCvtF2hBf16 g a d s
  | .cvtH2fF16 g a d => Sys2Proof.Machine.execCvtH2fF16 g a d s
  | .cvtH2fBf16 g a d => Sys2Proof.Machine.execCvtH2fBf16 g a d s
  | .cvtfNar g n a d => Sys2Proof.Machine.execCvtfNar g n a d s
  | .cvtfWid g n a d => Sys2Proof.Machine.execCvtfWid g n a d s
  | .pk4 g n a d => Sys2Proof.Machine.execPk4 g n a d s
  | .upk4 g n a d => Sys2Proof.Machine.execUpk4 g n a d s
  | .fscale g b a d => Sys2Proof.Machine.execFscale g b a d s
  | .rgen g d => Sys2Proof.Machine.execRgen g d s
  | .pand g b a d => Sys2Proof.Machine.execPand g b a d s
  | .por g b a d => Sys2Proof.Machine.execPor g b a d s
  | .pxor g b a d => Sys2Proof.Machine.execPxor g b a d s
  | .pnot g a d => Sys2Proof.Machine.execPnot g a d s
  | .pmov g a d => Sys2Proof.Machine.execPmov g a d s
  | .br g off uni => Sys2Proof.Machine.execBr g off uni s
  | .brRgp g off uni => Sys2Proof.Machine.execBrRgp g off uni s
  | .call g off uni => Sys2Proof.Machine.execCall g off uni s
  | .fork g off => Sys2Proof.Machine.execFork g off s
  | .brx g uni a => Sys2Proof.Machine.execBrx g uni a s
  | .brxRgp g uni a => Sys2Proof.Machine.execBrxRgp g uni a s
  | .callx g uni a => Sys2Proof.Machine.execCallx g uni a s
  | .ret g uni => Sys2Proof.Machine.execRet g uni s
  | .exit g => Sys2Proof.Machine.execExit g s
  | .fend g => Sys2Proof.Machine.execFend g s
  | .home g => Sys2Proof.Machine.execHome g s
  | .nop g => Sys2Proof.Machine.execNop g s
  | .trap g code => Sys2Proof.Machine.execTrap g code s
  | .brk g => Sys2Proof.Machine.execBrk g s
  | .voteAll g a d => Sys2Proof.Machine.execVoteAll g a d s
  | .voteAny g a d => Sys2Proof.Machine.execVoteAny g a d s
  | .voteBallot g a d => Sys2Proof.Machine.execVoteBallot g a d s
  | .shflIdx g b a d => Sys2Proof.Machine.execShflIdx g b a d s
  | .shflUp g b a d => Sys2Proof.Machine.execShflUp g b a d s
  | .shflDown g b a d => Sys2Proof.Machine.execShflDown g b a d s
  | .shflXor g b a d => Sys2Proof.Machine.execShflXor g b a d s
  | .gredAddS32 g a d => Sys2Proof.Machine.execGredAddS32 g a d s
  | .gredAddF32 g a d => Sys2Proof.Machine.execGredAddF32 g a d s
  | .gredMinS32 g a d => Sys2Proof.Machine.execGredMinS32 g a d s
  | .gredMaxS32 g a d => Sys2Proof.Machine.execGredMaxS32 g a d s
  | .gredMinF32 g a d => Sys2Proof.Machine.execGredMinF32 g a d s
  | .gredMaxF32 g a d => Sys2Proof.Machine.execGredMaxF32 g a d s
  | .gredAnd g a d => Sys2Proof.Machine.execGredAnd g a d s
  | .gredOr g a d => Sys2Proof.Machine.execGredOr g a d s
  | .matchLanes g a d => Sys2Proof.Machine.execMatchLanes g a d s
  | .rgrow g n => Sys2Proof.Machine.execRgrow g n s
  | .rshrink g n => Sys2Proof.Machine.execRshrink g n s
  | .rwin g d => Sys2Proof.Machine.execRwin g d s
  | .movx g a d => Sys2Proof.Machine.execMovx g a d s
  | .ld g m r idx d => Sys2Proof.Machine.execLd g m r idx d s
  | .st g m r idx d => Sys2Proof.Machine.execSt g m r idx d s
  | .ldNarrowWide g w r idx d => Sys2Proof.Machine.execLdNarrowWide g w r idx d s
  | .stNarrowWide g w r idx d => Sys2Proof.Machine.execStNarrowWide g w r idx d s
  | .ldAcq g sc r idx d => Sys2Proof.Machine.execLdAcq g sc r idx d s
  | .stRel g sc r idx d => Sys2Proof.Machine.execStRel g sc r idx d s
  | .atomAddS32 g r idx d => Sys2Proof.Machine.execAtomAddS32 g r idx d s
  | .atomAddF32 g r idx d => Sys2Proof.Machine.execAtomAddF32 g r idx d s
  | .atomMinS32 g r idx d => Sys2Proof.Machine.execAtomMinS32 g r idx d s
  | .atomMaxS32 g r idx d => Sys2Proof.Machine.execAtomMaxS32 g r idx d s
  | .atomMinN32 g r idx d => Sys2Proof.Machine.execAtomMinN32 g r idx d s
  | .atomMaxN32 g r idx d => Sys2Proof.Machine.execAtomMaxN32 g r idx d s
  | .atomAnd g r idx d => Sys2Proof.Machine.execAtomAnd g r idx d s
  | .atomOr g r idx d => Sys2Proof.Machine.execAtomOr g r idx d s
  | .atomXor g r idx d => Sys2Proof.Machine.execAtomXor g r idx d s
  | .atomExch g r idx d => Sys2Proof.Machine.execAtomExch g r idx d s
  | .atomCas g r idx d => Sys2Proof.Machine.execAtomCas g r idx d s
  | .atomOrdAddS32 g os a d => Sys2Proof.Machine.execAtomOrdAddS32 g os a d s
  | .atomOrdAddF32 g os a d => Sys2Proof.Machine.execAtomOrdAddF32 g os a d s
  | .atomOrdMinS32 g os a d => Sys2Proof.Machine.execAtomOrdMinS32 g os a d s
  | .atomOrdMaxS32 g os a d => Sys2Proof.Machine.execAtomOrdMaxS32 g os a d s
  | .atomOrdAnd g os a d => Sys2Proof.Machine.execAtomOrdAnd g os a d s
  | .atomOrdOr g os a d => Sys2Proof.Machine.execAtomOrdOr g os a d s
  | .atomOrdExch g os a d => Sys2Proof.Machine.execAtomOrdExch g os a d s
  | .atomOrdCas g os a d => Sys2Proof.Machine.execAtomOrdCas g os a d s
  | .redAddS32 g r idx d => Sys2Proof.Machine.execRedAddS32 g r idx d s
  | .redAddF32 g r idx d => Sys2Proof.Machine.execRedAddF32 g r idx d s
  | .redMinS32 g r idx d => Sys2Proof.Machine.execRedMinS32 g r idx d s
  | .redMaxS32 g r idx d => Sys2Proof.Machine.execRedMaxS32 g r idx d s
  | .redMinN32 g r idx d => Sys2Proof.Machine.execRedMinN32 g r idx d s
  | .redMaxN32 g r idx d => Sys2Proof.Machine.execRedMaxN32 g r idx d s
  | .redAnd g r idx d => Sys2Proof.Machine.execRedAnd g r idx d s
  | .redOr g r idx d => Sys2Proof.Machine.execRedOr g r idx d s
  | .redXor g r idx d => Sys2Proof.Machine.execRedXor g r idx d s
  | .pf g r idx => Sys2Proof.Machine.execPf g r idx s
  | .fence g os => Sys2Proof.Machine.execFence g os s
  | .wait g c k a d => Sys2Proof.Machine.execWait g c k a d s
  | .ltime g d => Sys2Proof.Machine.execLtime g d s
  | .lpub g a d => Sys2Proof.Machine.execLpub g a d s
  | .stf g b a d => Sys2Proof.Machine.execStf g b a d s
  | .lld g imm a d => Sys2Proof.Machine.execLld g imm a d s
  | .lst g imm a d => Sys2Proof.Machine.execLst g imm a d s
  | .latomAddS32 g a d => Sys2Proof.Machine.execLatomAddS32 g a d s
  | .latomAddF32 g a d => Sys2Proof.Machine.execLatomAddF32 g a d s
  | .latomMinS32 g a d => Sys2Proof.Machine.execLatomMinS32 g a d s
  | .latomMaxS32 g a d => Sys2Proof.Machine.execLatomMaxS32 g a d s
  | .latomAnd g a d => Sys2Proof.Machine.execLatomAnd g a d s
  | .latomOr g a d => Sys2Proof.Machine.execLatomOr g a d s
  | .latomExch g a d => Sys2Proof.Machine.execLatomExch g a d s
  | .latomCas g a d => Sys2Proof.Machine.execLatomCas g a d s
  | .bar g k => Sys2Proof.Machine.execBar g k s
  | .boinit g b a => Sys2Proof.Machine.execBoinit g b a s
  | .boarr g b a => Sys2Proof.Machine.execBoarr g b a s
  | .bowait g k a d => Sys2Proof.Machine.execBowait g k a d s
  | .botest g a p => Sys2Proof.Machine.execBotest g a p s
  | .halloc g a h => Sys2Proof.Machine.execHalloc g a h s
  | .hfree g h => Sys2Proof.Machine.execHfree g h s
  | .hbind g n a h => Sys2Proof.Machine.execHbind g n a h s
  | .hstate g a h => Sys2Proof.Machine.execHstate g a h s
  | .hwptr g a h => Sys2Proof.Machine.execHwptr g a h s
  | .hwait g st k h => Sys2Proof.Machine.execHwait g st k h s
  | .cpcancel g h => Sys2Proof.Machine.execCpcancel g h s
  | .cpin g n a h => Sys2Proof.Machine.execCpin g n a h s
  | .cpout g n a h => Sys2Proof.Machine.execCpout g n a h s
  | .cppush g a h => Sys2Proof.Machine.execCppush g a h s
  | .cpred g a h => Sys2Proof.Machine.execCpred g a h s
  | .cpfill g a h => Sys2Proof.Machine.execCpfill g a h s
  | .qmmaHandle g reuse half f h ab db => Sys2Proof.Machine.execQmmaHandle g reuse half f h ab db s
  | .qmmaReg g reuse half f bb ab db => Sys2Proof.Machine.execQmmaReg g reuse half f bb ab db s
  | .qpro g b a db => Sys2Proof.Machine.execQpro g b a db s
  | .qzero g db => Sys2Proof.Machine.execQzero g db s
  | .smx g sb db => Sys2Proof.Machine.execSmx g sb db s
  | .smxCvt g f sb db => Sys2Proof.Machine.execSmxCvt g f sb db s
  | .qsr g l d => Sys2Proof.Machine.execQsr g l d s
  | .qsw g l a => Sys2Proof.Machine.execQsw g l a s
  | .rcopy g d => Sys2Proof.Machine.execRcopy g d s
  | .rfill g d => Sys2Proof.Machine.execRfill g d s
  | .rand g d => Sys2Proof.Machine.execRand g d s
  | .ror g d => Sys2Proof.Machine.execRor g d s
  | .rxor g d => Sys2Proof.Machine.execRxor g d s
  | .rnot g d => Sys2Proof.Machine.execRnot g d s
  | .nbload g d => Sys2Proof.Machine.execNbload g d s
  | .nbrun g d => Sys2Proof.Machine.execNbrun g d s
  | .nbstat g d => Sys2Proof.Machine.execNbstat g d s
  | .nbcancel g d => Sys2Proof.Machine.execNbcancel g d s
  | .launch g d => Sys2Proof.Machine.execLaunch g d s
  | .wchild g k => Sys2Proof.Machine.execWchild g k s
  | .srd g sr d => Sys2Proof.Machine.execSrd g sr d s
  | .swr g sr d => Sys2Proof.Machine.execSwr g sr d s
  | .tret g => Sys2Proof.Machine.execTret g s
  | .errq g d => Sys2Proof.Machine.execErrq g d s
  | .asgen g d => Sys2Proof.Machine.execAsgen g d s
  | .sflush g d => Sys2Proof.Machine.execSflush g d s
  | .halt g => Sys2Proof.Machine.execHalt g s
  | .groupingStagePass core => Sys2Proof.Machine.execGroupingStagePass core s
  | .gatheringPoolClose team target => Sys2Proof.Machine.execGatheringPoolClose team target s
  | .pendingWriteComplete team fib reg => Sys2Proof.Machine.execPendingWriteComplete team fib reg s
  | .grantRequestGranted core lane => Sys2Proof.Machine.execGrantRequestGranted core lane s
  | .registerDeadlockEvict core => Sys2Proof.Machine.execRegisterDeadlockEvict core s
  | .starvationTimeout team fib => Sys2Proof.Machine.execStarvationTimeout team fib s
  | .armedLaunchEnqueue core slot => Sys2Proof.Machine.execArmedLaunchEnqueue core slot s
  | .copyCommandStart core id => Sys2Proof.Machine.execCopyCommandStart core id s
  | .copyLineTransfer core id => Sys2Proof.Machine.execCopyLineTransfer core id s
  | .copyCommandComplete core id => Sys2Proof.Machine.execCopyCommandComplete core id s
  | .pushLineWrite id => Sys2Proof.Machine.execPushLineWrite id s
  | .pushAck id => Sys2Proof.Machine.execPushAck id s
  | .pushRetry core id => Sys2Proof.Machine.execPushRetry core id s
  | .contributionArrival id => Sys2Proof.Machine.execContributionArrival id s
  | .contributionRetry core id => Sys2Proof.Machine.execContributionRetry core id s
  | .publishedAccess id => Sys2Proof.Machine.execPublishedAccess id s
  | .publishRequest id => Sys2Proof.Machine.execPublishRequest id s
  | .windowWriteback core blk => Sys2Proof.Machine.execWindowWriteback core blk s
  | .pageWalk core asid va => Sys2Proof.Machine.execPageWalk core asid va s
  | .lineFill core blk => Sys2Proof.Machine.execLineFill core blk s
  | .openAccessFault core id => Sys2Proof.Machine.execOpenAccessFault core id s
  | .performLoad core id => Sys2Proof.Machine.execPerformLoad core id s
  | .enqueueStore core id => Sys2Proof.Machine.execEnqueueStore core id s
  | .drain core id => Sys2Proof.Machine.execDrain core id s
  | .writeBack view sector => Sys2Proof.Machine.execWriteBack view sector s
  | .sectorDrop view sector => Sys2Proof.Machine.execSectorDrop view sector s
  | .deliver m => Sys2Proof.Machine.execDeliver m s
  | .generationSweep => Sys2Proof.Machine.execGenerationSweep s
  | .migrationPull entry block => Sys2Proof.Machine.execMigrationPull entry block s
  | .errorQueueOverflowTrap team => Sys2Proof.Machine.execErrorQueueOverflowTrap team s
  | .pagingQueueWrite team => Sys2Proof.Machine.execPagingQueueWrite team s
  | .pagingReadIndexWrite rd => Sys2Proof.Machine.execPagingReadIndexWrite rd s
  | .resumeTicketWrite ticket => Sys2Proof.Machine.execResumeTicketWrite ticket s
  | .hostLaunchWrite q rec => Sys2Proof.Machine.execHostLaunchWrite q rec s
  | .launchLine id => Sys2Proof.Machine.execLaunchLine id s
  | .launchLinePassOver src q => Sys2Proof.Machine.execLaunchLinePassOver src q s
  | .launchTake launch => Sys2Proof.Machine.execLaunchTake launch s
  | .teamAdmit launch core => Sys2Proof.Machine.execTeamAdmit launch core s
  | .gridWholeAdmit launch => Sys2Proof.Machine.execGridWholeAdmit launch s
  | .queueHeadStarve q => Sys2Proof.Machine.execQueueHeadStarve q s
  | .teamReadmit team core => Sys2Proof.Machine.execTeamReadmit team core s
  | .teamEndFree team => Sys2Proof.Machine.execTeamEndFree team s
  | .teamRetire team => Sys2Proof.Machine.execTeamRetire team s
  | .launchRetire launch => Sys2Proof.Machine.execLaunchRetire launch s
  | .completionWriteFail launch => Sys2Proof.Machine.execCompletionWriteFail launch s
  | .preempt q team => Sys2Proof.Machine.execPreempt q team s
  | .preemptStopTimeout team => Sys2Proof.Machine.execPreemptStopTimeout team s
  | .saveRequestWrite core v => Sys2Proof.Machine.execSaveRequestWrite core v s
  | .teamSaveComplete team => Sys2Proof.Machine.execTeamSaveComplete team s
  | .trapHandlerEntry core => Sys2Proof.Machine.execTrapHandlerEntry core s
  | .tryArrive id => Sys2Proof.Machine.execTryArrive id s
  | .tryTimeout want => Sys2Proof.Machine.execTryTimeout want s
  | .persistentRequestIssue want => Sys2Proof.Machine.execPersistentRequestIssue want s
  | .persistentRequest id => Sys2Proof.Machine.execPersistentRequest id s
  | .persistentRetry want => Sys2Proof.Machine.execPersistentRetry want s
  | .activation id => Sys2Proof.Machine.execActivation id s
  | .deactivation id => Sys2Proof.Machine.execDeactivation id s
  | .tokenMessage id => Sys2Proof.Machine.execTokenMessage id s
  | .eviction place blk => Sys2Proof.Machine.execEviction place blk s
  | .poleAck id => Sys2Proof.Machine.execPoleAck id s
  | .peerProbe core blk => Sys2Proof.Machine.execPeerProbe core blk s
  | .tokenRecall die blk => Sys2Proof.Machine.execTokenRecall die blk s
  | .auditStart blk => Sys2Proof.Machine.execAuditStart blk s
  | .audit id => Sys2Proof.Machine.execAudit id s
  | .auditRepeat blk party => Sys2Proof.Machine.execAuditRepeat blk party s
  | .auditReport id => Sys2Proof.Machine.execAuditReport id s
  | .recreationAck id => Sys2Proof.Machine.execRecreationAck id s
  | .auditHoldoffExpire blk => Sys2Proof.Machine.execAuditHoldoffExpire blk s
  | .unfreeze id => Sys2Proof.Machine.execUnfreeze id s
  | .formConversion blk toLease => Sys2Proof.Machine.execFormConversion blk toLease s
  | .homeAtomic id => Sys2Proof.Machine.execHomeAtomic id s
  | .atomicReply id => Sys2Proof.Machine.execAtomicReply id s
  | .leaseRead core id => Sys2Proof.Machine.execLeaseRead core id s
  | .leaseWrite core id => Sys2Proof.Machine.execLeaseWrite core id s
  | .leaseWriteHeld core id => Sys2Proof.Machine.execLeaseWriteHeld core id s
  | .meridianTick => Sys2Proof.Machine.execMeridianTick s
  | .homeLeaseSweep blk => Sys2Proof.Machine.execHomeLeaseSweep blk s
  | .cacheLeaseSweep view => Sys2Proof.Machine.execCacheLeaseSweep view s
  | .waitReload team fib => Sys2Proof.Machine.execWaitReload team fib s
  | .partyQuery id => Sys2Proof.Machine.execPartyQuery id s
  | .hostSnpInv line => Sys2Proof.Machine.execHostSnpInv line s
  | .hostSnpData line => Sys2Proof.Machine.execHostSnpData line s
  | .hostSnpCur line => Sys2Proof.Machine.execHostSnpCur line s
  | .hostLineGrant line grant data => Sys2Proof.Machine.execHostLineGrant line grant data s
  | .backInvalidate line inv data => Sys2Proof.Machine.execBackInvalidate line inv data s
  | .biConflict line => Sys2Proof.Machine.execBiConflict line s
  | .hostUncachedRead pa => Sys2Proof.Machine.execHostUncachedRead pa s
  | .hostUncachedWrite pa bytes => Sys2Proof.Machine.execHostUncachedWrite pa bytes s
  | .frameReplay d e => Sys2Proof.Machine.execFrameReplay d e s
  | .linkDead d e => Sys2Proof.Machine.execLinkDead d e s
  | .rotorSlotStart xs => Sys2Proof.Machine.execRotorSlotStart xs s
  | .orbitStart => Sys2Proof.Machine.execOrbitStart s
  | .scheduleDigest peer entries => Sys2Proof.Machine.execScheduleDigest peer entries s
  | .digestDiscard peer => Sys2Proof.Machine.execDigestDiscard peer s
  | .relayForward m => Sys2Proof.Machine.execRelayForward m s
  | .messageAgeDrop id => Sys2Proof.Machine.execMessageAgeDrop id s
  | .portFailure p => Sys2Proof.Machine.execPortFailure p s
  | .remoteLoadTimeout core id => Sys2Proof.Machine.execRemoteLoadTimeout core id s
  | .remoteResponse id => Sys2Proof.Machine.execRemoteResponse id s
  | .postedWrite id => Sys2Proof.Machine.execPostedWrite id s
  | .postedWriteAck id => Sys2Proof.Machine.execPostedWriteAck id s
  | .postedWriteTimeout post => Sys2Proof.Machine.execPostedWriteTimeout post s
  | .storeLinePost post => Sys2Proof.Machine.execStoreLinePost post s
  | .storeLineTimeout post => Sys2Proof.Machine.execStoreLineTimeout post s
  | .storeAckTimeout post => Sys2Proof.Machine.execStoreAckTimeout post s
  | .flaggedData id => Sys2Proof.Machine.execFlaggedData id s
  | .flagUpdate id => Sys2Proof.Machine.execFlagUpdate id s
  | .rowOperation core id => Sys2Proof.Machine.execRowOperation core id s
  | .rowSlotAcquire core => Sys2Proof.Machine.execRowSlotAcquire core s
  | .nearBankStep stack channel => Sys2Proof.Machine.execNearBankStep stack channel s
  | .arbitrationWindow stack channel => Sys2Proof.Machine.execArbitrationWindow stack channel s
  | .reset part => Sys2Proof.Machine.execReset part s
  | .hostLinkTrain rate => Sys2Proof.Machine.execHostLinkTrain rate s
  | .goWrite v => Sys2Proof.Machine.execGoWrite v s
  | .featureAcceptWrite v => Sys2Proof.Machine.execFeatureAcceptWrite v s
  | .linkRetrainWrite die bits => Sys2Proof.Machine.execLinkRetrainWrite die bits s
  | .linkRetrainDone die e ok => Sys2Proof.Machine.execLinkRetrainDone die e ok s
  | .umissClear core v => Sys2Proof.Machine.execUmissClear core v s
  | .staleCounterClear die v => Sys2Proof.Machine.execStaleCounterClear die v s
  | .seedWrite core v => Sys2Proof.Machine.execSeedWrite core v s
  | .mismatchCounterClear port v => Sys2Proof.Machine.execMismatchCounterClear port v s
  | .queueOvfClear q v => Sys2Proof.Machine.execQueueOvfClear q v s
  | .registerWrite off bytes v => Sys2Proof.Machine.execRegisterWrite off bytes v s
  | .correctedError loc => Sys2Proof.Machine.execCorrectedError loc s
  | .wearRefresh values eols => Sys2Proof.Machine.execWearRefresh values eols s
  | .thermalStep die up => Sys2Proof.Machine.execThermalStep die up s
  | .thermalStop die => Sys2Proof.Machine.execThermalStop die s
  | .signRequest use flashOk => Sys2Proof.Machine.execSignRequest use flashOk s
  | .hostCachedMemRequest line req data => Sys2Proof.Machine.execHostCachedMemRequest line req data s
  | .partyQueryAnswer id => Sys2Proof.Machine.execPartyQueryAnswer id s
  | .partyQueryTimeout team fib => Sys2Proof.Machine.execPartyQueryTimeout team fib s
  | .launchLineResend id => Sys2Proof.Machine.execLaunchLineResend id s

end Sys2Proof.Machine
end

