-- ==== Sys2Proof/Machine/Scoreboard.lean ====
section
/-! DEFINITION. The scoreboard: what each instruction reads and writes, how late its result is, and what that holds up (R89, R94, R166). -/

namespace Sys2Proof.Machine

/-- What an instruction has to do with the scoreboard. Its register operands are given as numbers or, for an indirect operand, by the fibre.
`cycles` is 0 where the result is there at issue; a global access marks and counts its own (`own`); a quarter reads the groups `quarter` after
issue: A, and B where it is in registers; `chain` is the dbase of an operation that can chain. -/
structure Marks where
  guard : Guard
  reads : Fibre → List Name
  writes : Fibre → List Name
  cycles : Nat
  own : Bool := false
  quarter : Option (BitVec 4 × Option (BitVec 4)) := none
  chain : Option (BitVec 4) := none

/-- An instruction that reads and writes registers. -/
def result (g : Guard) (cycles : Nat) (reads writes : List Nat) : Marks :=
  { guard := g, reads := fun _ => reads.map .reg, writes := fun _ => writes.map .reg, cycles := cycles }

/-- An instruction that writes a predicate; what is written to p7 is discarded (R94). -/
def decides (g : Guard) (cycles : Nat) (reads : List Name) (p : Pred) : Marks :=
  { guard := g, reads := fun _ => reads, writes := fun _ => if p = 7 then [] else [.pred p], cycles := cycles }

/-- A global access with a result (R184). -/
def later (g : Guard) (reads writes : List Nat) : Marks := { result g 0 reads writes with own := true }

/-- Consecutive registers. -/
def span (r n : Nat) : List Nat := (List.range n).map fun k => r + k

def predicates : List Name := (List.range 7).map fun p => .pred (BitVec.ofNat 3 p)

/-- The cycles of a collective: at least one (R89). -/
def collects : Nat := 1 + Config.collectiveCycles

/-- What each instruction reads and writes, and the tables "Time to result" of chapters 04 to 07. An event has no operand. -/
def marksOfInstr : Instr → Marks
  | .movC16 b d => result always 2 [b.toNat] [d.toNat]
  | .moviC16 _ d => result always 2 [] [d.toNat]
  | .addC16 b d => result always 2 [b.toNat, d.toNat] [d.toNat]
  | .addiC16 _ d => result always 2 [d.toNat] [d.toNat]
  | .subC16 b d => result always 2 [b.toNat, d.toNat] [d.toNat]
  | .mulLoC16 b d => result always 4 [b.toNat, d.toNat] [d.toNat]
  | .andC16 b d => result always 2 [b.toNat, d.toNat] [d.toNat]
  | .orC16 b d => result always 2 [b.toNat, d.toNat] [d.toNat]
  | .xorC16 b d => result always 2 [b.toNat, d.toNat] [d.toNat]
  | .shlC16 b d => result always 2 [b.toNat, d.toNat] [d.toNat]
  | .shrC16 b d => result always 2 [b.toNat, d.toNat] [d.toNat]
  | .minS32C16 b d => result always 2 [b.toNat, d.toNat] [d.toNat]
  | .maxS32C16 b d => result always 2 [b.toNat, d.toNat] [d.toNat]
  | .faddC16 b d => result always 4 [b.toNat, d.toNat] [d.toNat]
  | .fmulC16 b d => result always 4 [b.toNat, d.toNat] [d.toNat]
  | .fmaxC16 b d => result always 4 [b.toNat, d.toNat] [d.toNat]
  | .add g b a d => result g 2 [a.toNat, b.toNat] [d.toNat]
  | .addc g b a d => result g 2 [a.toNat, b.toNat] [d.toNat]
  | .sub g b a d => result g 2 [a.toNat, b.toNat] [d.toNat]
  | .subb g b a d => result g 2 [a.toNat, b.toNat] [d.toNat]
  | .mulLo g b a d => result g 4 [a.toNat, b.toNat] [d.toNat]
  | .mulHiS32 g b a d => result g 4 [a.toNat, b.toNat] [d.toNat]
  | .mulHiN32 g b a d => result g 4 [a.toNat, b.toNat] [d.toNat]
  | .mad g b a d => result g 4 [a.toNat, b.toNat, d.toNat] [d.toNat]
  | .and g b a d => result g 2 [a.toNat, b.toNat] [d.toNat]
  | .or g b a d => result g 2 [a.toNat, b.toNat] [d.toNat]
  | .xor g b a d => result g 2 [a.toNat, b.toNat] [d.toNat]
  | .andn g b a d => result g 2 [a.toNat, b.toNat] [d.toNat]
  | .minS32 g b a d => result g 2 [a.toNat, b.toNat] [d.toNat]
  | .maxS32 g b a d => result g 2 [a.toNat, b.toNat] [d.toNat]
  | .minN32 g b a d => result g 2 [a.toNat, b.toNat] [d.toNat]
  | .maxN32 g b a d => result g 2 [a.toNat, b.toNat] [d.toNat]
  | .shl g b a d => result g 2 [a.toNat, b.toNat] [d.toNat]
  | .shr g b a d => result g 2 [a.toNat, b.toNat] [d.toNat]
  | .sar g b a d => result g 2 [a.toNat, b.toNat] [d.toNat]
  | .rot g b a d => result g 2 [a.toNat, b.toNat] [d.toNat]
  | .popc g a d => result g 4 [a.toNat] [d.toNat]
  | .clz g a d => result g 4 [a.toNat] [d.toNat]
  | .brev g a d => result g 4 [a.toNat] [d.toNat]
  | .abs g a d => result g 4 [a.toNat] [d.toNat]
  | .bfxS32 g b a d => result g 4 [a.toNat, b.toNat] [d.toNat]
  | .bfxN32 g b a d => result g 4 [a.toNat, b.toNat] [d.toNat]
  | .bfi g b a d => result g 4 [a.toNat, b.toNat, d.toNat] [d.toNat]
  | .mov g a d => result g 2 [a.toNat] [d.toNat]
  | .movKconst g _ d => result g 2 [] [d.toNat]
  | .movIndirectSrc g imm a d => { result g 2 [] [d.toNat] with reads := fun f => [.reg a.toNat, .reg ((f.reg a.toNat).toNat + imm.toNat)] }
  | .movIndirectDst g imm a d => { result g 2 [a.toNat, d.toNat] [] with writes := fun f => [.reg ((f.reg d.toNat).toNat + imm.toNat)] }
  | .sel g n b a d => { result g 2 [] [d.toNat] with reads := fun _ => [.pred n, .reg a.toNat, .reg b.toNat] }
  | .cmpS32 g _ b a p => decides g 2 [.reg a.toNat, .reg b.toNat] p
  | .cmpN32 g _ b a p => decides g 2 [.reg a.toNat, .reg b.toNat] p
  | .movi g _ d => result g 2 [] [d.toNat]
  | .imhi g _ d => result g 2 [d.toNat] [d.toNat]
  | .addi g _ a d => result g 2 [a.toNat] [d.toNat]
  | .andi g _ a d => result g 2 [a.toNat] [d.toNat]
  | .ori g _ a d => result g 2 [a.toNat] [d.toNat]
  | .xori g _ a d => result g 2 [a.toNat] [d.toNat]
  | .shli g _ a d => result g 2 [a.toNat] [d.toNat]
  | .shri g _ a d => result g 2 [a.toNat] [d.toNat]
  | .sari g _ a d => result g 2 [a.toNat] [d.toNat]
  | .cmpiS32 g _ a _ p => decides g 2 [.reg a.toNat] p
  | .cmpiN32 g _ a _ p => decides g 2 [.reg a.toNat] p
  | .fadd g b a d => result g 4 [a.toNat, b.toNat] [d.toNat]
  | .fsub g b a d => result g 4 [a.toNat, b.toNat] [d.toNat]
  | .fmul g b a d => result g 4 [a.toNat, b.toNat] [d.toNat]
  | .ffma g b a d => result g 4 [a.toNat, b.toNat, d.toNat] [d.toNat]
  | .fmin g b a d => result g 4 [a.toNat, b.toNat] [d.toNat]
  | .fmax g b a d => result g 4 [a.toNat, b.toNat] [d.toNat]
  | .fdiv g b a d => result g 20 [a.toNat, b.toNat] [d.toNat]
  | .frcp g a d => result g 12 [a.toNat] [d.toNat]
  | .frsq g a d => result g 12 [a.toNat] [d.toNat]
  | .fsqrt g a d => result g 20 [a.toNat] [d.toNat]
  | .fexp2 g a d => result g 12 [a.toNat] [d.toNat]
  | .flog2 g a d => result g 12 [a.toNat] [d.toNat]
  | .fclass g a d => result g 4 [a.toNat] [d.toNat]
  | .fcmpF32 g _ b a p => decides g 4 [.reg a.toNat, .reg b.toNat] p
  | .hadd2F16 g b a d => result g 4 [a.toNat, b.toNat] [d.toNat]
  | .hmul2F16 g b a d => result g 4 [a.toNat, b.toNat] [d.toNat]
  | .hfma2F16 g b a d => result g 4 [a.toNat, b.toNat, d.toNat] [d.toNat]
  | .hmax2F16 g b a d => result g 4 [a.toNat, b.toNat] [d.toNat]
  | .hadd2Bf16 g b a d => result g 4 [a.toNat, b.toNat] [d.toNat]
  | .hmul2Bf16 g b a d => result g 4 [a.toNat, b.toNat] [d.toNat]
  | .hfma2Bf16 g b a d => result g 4 [a.toNat, b.toNat, d.toNat] [d.toNat]
  | .hmax2Bf16 g b a d => result g 4 [a.toNat, b.toNat] [d.toNat]
  | .cvtI2fS32 g a d => result g 4 [a.toNat] [d.toNat]
  | .cvtI2fN32 g a d => result g 4 [a.toNat] [d.toNat]
  | .cvtF2iS32 g a d => result g 4 [a.toNat] [d.toNat]
  | .cvtF2iN32 g a d => result g 4 [a.toNat] [d.toNat]
  | .cvtF2hF16 g a d => result g 4 [a.toNat] [d.toNat]
  | .cvtF2hBf16 g a d => result g 4 [a.toNat] [d.toNat]
  | .cvtH2fF16 g a d => result g 4 [a.toNat] [d.toNat]
  | .cvtH2fBf16 g a d => result g 4 [a.toNat] [d.toNat]
  | .cvtfNar g _ a d => result g 4 [a.toNat] [d.toNat]
  | .cvtfWid g _ a d => result g 4 [a.toNat] [d.toNat]
  | .pk4 g _ a d => result g 4 (span a.toNat 4) [d.toNat]
  | .upk4 g _ a d => result g 4 [a.toNat] (span d.toNat 4)
  | .fscale g b a d => result g 4 [a.toNat, b.toNat] [d.toNat]
  | .rgen g d => result g 4 [] [d.toNat]
  | .pand g b a d => decides g 2 [.pred a, .pred b] d
  | .por g b a d => decides g 2 [.pred a, .pred b] d
  | .pxor g b a d => decides g 2 [.pred a, .pred b] d
  | .pnot g a d => decides g 2 [.pred a] d
  | .pmov g a d => decides g 2 [.pred a] d
  | .br g _ _ => result g 0 [] []
  | .brRgp g _ _ => result g 0 [] []
  | .call g _ _ => result g 0 [] []
  | .fork g _ => { result g 0 (span 0 8) [] with reads := fun _ => (span 0 8).map .reg ++ predicates }
  | .brx g _ a => result g 0 [a.toNat] []
  | .brxRgp g _ a => result g 0 [a.toNat] []
  | .callx g _ a => result g 0 [a.toNat] []
  | .ret g _ => result g 0 [] []
  | .exit g => result g 0 [] []
  | .fend g => result g 0 [] []
  | .home g => result g 0 [] []
  | .nop g => result g 0 [] []
  | .trap g _ => result g 0 [] []
  | .brk g => result g 0 [] []
  | .voteAll g a d => decides g collects [.pred a] d
  | .voteAny g a d => decides g collects [.pred a] d
  | .voteBallot g a d => { result g collects [] [d.toNat] with reads := fun _ => [.pred a] }
  | .shflIdx g b a d => result g collects [a.toNat, b.toNat] [d.toNat]
  | .shflUp g b a d => result g collects [a.toNat, b.toNat] [d.toNat]
  | .shflDown g b a d => result g collects [a.toNat, b.toNat] [d.toNat]
  | .shflXor g b a d => result g collects [a.toNat, b.toNat] [d.toNat]
  | .gredAddS32 g a d => result g collects [a.toNat] [d.toNat]
  | .gredAddF32 g a d => result g collects [a.toNat] [d.toNat]
  | .gredMinS32 g a d => result g collects [a.toNat] [d.toNat]
  | .gredMaxS32 g a d => result g collects [a.toNat] [d.toNat]
  | .gredMinF32 g a d => result g collects [a.toNat] [d.toNat]
  | .gredMaxF32 g a d => result g collects [a.toNat] [d.toNat]
  | .gredAnd g a d => result g collects [a.toNat] [d.toNat]
  | .gredOr g a d => result g collects [a.toNat] [d.toNat]
  | .matchLanes g a d => result g collects [a.toNat] [d.toNat]
  | .rgrow g _ => result g 0 [] []
  | .rshrink g n => { result g 0 [] [] with
      writes := fun f => if guardHolds g f then (span (f.regs.length - 8 * n.toNat) (8 * n.toNat)).map .reg else [] }
  | .rwin g d => result g 4 [] [d.toNat]
  | .movx g a d => result g 4 [a.toNat] [d.toNat]
  | .ld g _ _ i d => later g [i.toNat] [d.toNat]
  | .st g _ _ i d => result g 0 [i.toNat, d.toNat] []
  | .ldNarrowWide g w _ i d => later g [i.toNat] (widthRegs w d.toNat)
  | .stNarrowWide g w _ i d => result g 0 (i.toNat :: widthRegs w d.toNat) []
  | .ldAcq g _ _ i d => later g [i.toNat] [d.toNat]
  | .stRel g _ _ i d => result g 0 [i.toNat, d.toNat] []
  | .atomAddS32 g _ i d => later g [i.toNat, d.toNat] [d.toNat]
  | .atomAddF32 g _ i d => later g [i.toNat, d.toNat] [d.toNat]
  | .atomMinS32 g _ i d => later g [i.toNat, d.toNat] [d.toNat]
  | .atomMaxS32 g _ i d => later g [i.toNat, d.toNat] [d.toNat]
  | .atomMinN32 g _ i d => later g [i.toNat, d.toNat] [d.toNat]
  | .atomMaxN32 g _ i d => later g [i.toNat, d.toNat] [d.toNat]
  | .atomAnd g _ i d => later g [i.toNat, d.toNat] [d.toNat]
  | .atomOr g _ i d => later g [i.toNat, d.toNat] [d.toNat]
  | .atomXor g _ i d => later g [i.toNat, d.toNat] [d.toNat]
  | .atomExch g _ i d => later g [i.toNat, d.toNat] [d.toNat]
  | .atomCas g _ i d => later g [i.toNat, d.toNat, d.toNat + 1] [d.toNat]
  | .atomOrdAddS32 g _ a d => later g [a.toNat, a.toNat + 1, d.toNat] [d.toNat]
  | .atomOrdAddF32 g _ a d => later g [a.toNat, a.toNat + 1, d.toNat] [d.toNat]
  | .atomOrdMinS32 g _ a d => later g [a.toNat, a.toNat + 1, d.toNat] [d.toNat]
  | .atomOrdMaxS32 g _ a d => later g [a.toNat, a.toNat + 1, d.toNat] [d.toNat]
  | .atomOrdAnd g _ a d => later g [a.toNat, a.toNat + 1, d.toNat] [d.toNat]
  | .atomOrdOr g _ a d => later g [a.toNat, a.toNat + 1, d.toNat] [d.toNat]
  | .atomOrdExch g _ a d => later g [a.toNat, a.toNat + 1, d.toNat] [d.toNat]
  | .atomOrdCas g _ a d => later g [a.toNat, a.toNat + 1, d.toNat, d.toNat + 1] [d.toNat]
  | .redAddS32 g _ i d => result g 0 [i.toNat, d.toNat] []
  | .redAddF32 g _ i d => result g 0 [i.toNat, d.toNat] []
  | .redMinS32 g _ i d => result g 0 [i.toNat, d.toNat] []
  | .redMaxS32 g _ i d => result g 0 [i.toNat, d.toNat] []
  | .redMinN32 g _ i d => result g 0 [i.toNat, d.toNat] []
  | .redMaxN32 g _ i d => result g 0 [i.toNat, d.toNat] []
  | .redAnd g _ i d => result g 0 [i.toNat, d.toNat] []
  | .redOr g _ i d => result g 0 [i.toNat, d.toNat] []
  | .redXor g _ i d => result g 0 [i.toNat, d.toNat] []
  | .pf g _ i => result g 0 [i.toNat] []
  | .fence g _ => result g 0 [] []
  | .wait g _ _ a d => result g 0 [a.toNat, a.toNat + 1, d.toNat, d.toNat + 1] []
  | .ltime g d => result g 0 [] [d.toNat]
  | .lpub g a d => result g 0 [a.toNat, a.toNat + 1, d.toNat, d.toNat + 1] []
  | .stf g b a d => result g 0 [a.toNat, a.toNat + 1, b.toNat, b.toNat + 1, d.toNat] []
  | .lld g _ a d => result g 8 [a.toNat] [d.toNat]
  | .lst g _ a d => result g 0 [a.toNat, d.toNat] []
  | .latomAddS32 g a d => result g 12 [a.toNat, d.toNat] [d.toNat]
  | .latomAddF32 g a d => result g 12 [a.toNat, d.toNat] [d.toNat]
  | .latomMinS32 g a d => result g 12 [a.toNat, d.toNat] [d.toNat]
  | .latomMaxS32 g a d => result g 12 [a.toNat, d.toNat] [d.toNat]
  | .latomAnd g a d => result g 12 [a.toNat, d.toNat] [d.toNat]
  | .latomOr g a d => result g 12 [a.toNat, d.toNat] [d.toNat]
  | .latomExch g a d => result g 12 [a.toNat, d.toNat] [d.toNat]
  | .latomCas g a d => result g 12 [a.toNat, d.toNat, d.toNat + 1] [d.toNat]
  | .bar g _ => result g 0 [] []
  | .boinit g b a => result g 0 [a.toNat, b.toNat, b.toNat + 1] []
  | .boarr g b a => result g 0 [a.toNat, b.toNat] []
  | .bowait g _ a d => result g 0 [a.toNat, d.toNat] []
  | .botest g a p => decides g 8 [.reg a.toNat] p
  | .halloc g a _ => result g 0 [a.toNat] []
  | .hfree g _ => result g 0 [] []
  | .hbind g _ a _ => result g 0 [a.toNat] []
  | .hstate g a _ => result g 4 [] [a.toNat]
  | .hwptr g a _ => result g 4 [] [a.toNat]
  | .hwait g _ _ _ => result g 0 [] []
  | .cpcancel g _ => result g 0 [] []
  | .cpin g _ a _ => result g 0 [a.toNat] []
  | .cpout g _ a _ => result g 0 [a.toNat] []
  | .cppush g a _ => result g 0 [a.toNat, a.toNat + 1] []
  | .cpred g a _ => result g 0 [a.toNat, a.toNat + 1, a.toNat + 2] []
  | .cpfill g a _ => result g 0 [a.toNat] []
  | .qmmaHandle g _ _ _ _ ab db => { result g 24 (group ab 16 ++ group db 16) (group db 16) with quarter := some (ab, none), chain := some db }
  | .qmmaReg g _ _ _ bb ab db => { result g 24 (group ab 16 ++ group db 16 ++ group bb 32) (group db 16) with
      quarter := some (ab, some bb), chain := some db }
  | .qpro g b a db => { result g 8 (a.toNat :: b.toNat :: group db 16) (group db 16) with chain := some db }
  | .qzero g db => { result g 2 [] [] with writes := fun _ => (group db 16).map .reg ++ [.side false, .side true] }
  | .smx g sb db => { result g 32 [] [] with
      reads := fun _ => (group sb 16 ++ group db 16).map .reg ++ [.side false, .side true]
      writes := fun _ => (group sb 16 ++ group db 16).map .reg ++ [.side false, .side true]
      chain := some db }
  | .smxCvt g _ sb db => { result g 32 [] [] with
      reads := fun _ => (group sb 16 ++ group db 16).map .reg ++ [.side false, .side true]
      writes := fun _ => (group sb 16 ++ group db 16).map .reg ++ [.side false, .side true]
      chain := some db }
  | .qsr g l d => { result g 2 [] [d.toNat] with reads := fun _ => [.side l] }
  | .qsw g l a => { result g 2 [a.toNat] [] with writes := fun _ => [.side l] }
  | .rcopy g d => result g 0 (span d.toNat 8) []
  | .rfill g d => result g 0 (span d.toNat 8) []
  | .rand g d => result g 0 (span d.toNat 8) []
  | .ror g d => result g 0 (span d.toNat 8) []
  | .rxor g d => result g 0 (span d.toNat 8) []
  | .rnot g d => result g 0 (span d.toNat 8) []
  | .nbload g d => result g 0 (span d.toNat 3) [d.toNat + 3]
  | .nbrun g d => result g 0 (span d.toNat 12) []
  | .nbstat g d => result g 0 (span d.toNat 2) [d.toNat + 2]
  | .nbcancel g d => result g 0 (span d.toNat 2) []
  | .launch g d => result g 0 (span d.toNat 3) [d.toNat + 3]
  | .wchild g _ => result g 0 [] []
  | .srd g _ d => result g 0 [] [d.toNat]
  | .swr g _ d => result g 0 [d.toNat] []
  | .tret g => result g 0 [] []
  | .errq g d => result g 0 [] (span d.toNat 8)
  | .asgen g d => result g 0 [d.toNat] []
  | .sflush g d => result g 0 [d.toNat] []
  | .halt g => result g 0 [] []
  | _ => result always 0 [] []

/-- The predicate of a guard; p7 is never pending. -/
def Guard.pred : Guard → Pred
  | .pos p => p
  | .neg p => p

/-- An instruction has to wait in a fibre: something that it reads or writes, its guard included, is pending, whatever the guard, or something that
it writes is read-pending (R89, R94). An operation of a quarter does not wait for the D, m and l of its own chain, and waits for the S of an `smx` as every other instruction does
(R166, R171). -/
def Marks.waits (m : Marks) (f : Fibre) : Bool :=
  let names := .pred (Guard.pred m.guard) :: m.reads f ++ m.writes f
  (f.pend.any fun p => names.contains (.reg p.reg)) || f.late.any fun x =>
    if x.held then (m.writes f).contains x.name
    else names.contains x.name && !(x.chain.isSome && x.chain == m.chain.map (·.toNat))

/-- The bundle's next instruction waits for the scoreboard. -/
def State.interlocked (s : State) (t : Team) (i : Instr) : Bool :=
  s.cur.fibs.any fun k => (marksOfInstr i).waits (t.fibre k)

/-- The cycles in which a quarter reads its operands: B in registers, by one quarter alone, or by four fused, 2; else two for each quarter that reads
the handle's image at once (R168, chapter 07). -/
def readCycles (inRegs : Bool) (quarters : Nat) : Nat := if inRegs || quarters == 4 then 2 else 2 * quarters

/-- What the operations of a chain pass on: the registers of its D group, and m and l (R166, R171). -/
def inChain (db : BitVec 4) : Name → Bool
  | .reg r => (group db 16).contains r
  | .pred _ => false
  | .side _ => true

/-- The marks that an instruction sets in fibre `k` as it issues: on its results, and on what a quarter will read; A is not read where the latch has
it (R89, R166, R167). -/
def State.marksSet (s : State) (t : Team) (m : Marks) (act : List Nat) (k : Nat) : List Late :=
  let f := t.fibre k
  let results := if m.own || m.cycles == 0 then [] else
    (m.writes f).map fun n => ({ name := n, left := 100 * m.cycles, held := false, chain := (m.chain.filter fun db => inChain db n).map (·.toNat) } : Late)
  let reads := match m.quarter with
    | none => []
    | some (ab, bb) =>
      let n := readCycles bb.isSome (distinct (act.map quarterOf)).length
      let a := if (s.latched t act ab k).isSome then [] else group ab 16
      (a ++ (bb.map fun b => group b 32).getD []).map fun r =>
        ({ name := .reg r, left := 100 * n, held := true, chain := none } : Late)
  results ++ reads

/-- One more write of each register that an instruction writes (R167). -/
def Marks.counted (m : Marks) (f : Fibre) (counts : List (Nat × Nat)) : List (Nat × Nat) :=
  if m.own then counts
  else (m.writes f).foldl (fun c n => match n with
    | .reg r => countWrite c r
    | _ => c) counts

/-- The entries of the quarters that read an image: each its own, also where four read it in one pass (R152, R165, R168). -/
def imageReads (t : Team) (act : List Nat) : Instr → List ImageRead
  | .qmmaHandle _ _ half _ h _ _ =>
    let qs := distinct (act.map quarterOf)
    qs.map fun _ => { team := t.id, base := (t.handle h.toNat).base + (if half then 1024 else 0), left := 100 * readCycles false qs.length }
  | _ => []

/-- What the scoreboard notes once an instruction has issued: `s` is the state before it and `u` the state after it. An instruction that raises a cause
or has to wait sets no mark. -/
def State.scored (s u : State) (t : Team) (i : Instr) : State :=
  let m := marksOfInstr i
  if u.issues.length = s.issues.length ∨ (u.team? t.id).map (·.cond) ≠ some t.cond then u
  else
    let act := s.active t m.guard
    (u.modCore t.core fun k => { k with reads := k.reads ++ imageReads t act i }).modTeam t.id fun x => x.modFibres act fun k f =>
      { f with late := f.late ++ s.marksSet t m act k, counts := m.counted (t.fibre k) f.counts }

/-- The bundle that is to issue executes an instruction, unless the scoreboard holds it up (R89). -/
def State.runInstr (s : State) (t : Team) (i : Instr) : Result :=
  if s.interlocked t i then .next s.stall
  else
    match exec i s with
    | .next u => .next (s.scored u t i)
    | r => r

end Sys2Proof.Machine
end

