-- ==== Sys2Proof/Machine/Setup.lean ====
section
/-! DEFINITION. A loaded program of one team: what `State.withFetchWord` places so that the next step runs one instruction (log entry
14). -/

namespace Sys2Proof.Machine

/-- Physical places: the address-space table, the root and the level-3 table, and the 2 GiB code page (R196, R197, R199). -/
def setupAst : Nat := 0x40000000
def setupRoot : Nat := 0x40010000
def setupL3 : Nat := 0x40020000
def setupCode : Nat := 0x80000000

/-- The leaf of the code page: present, r, x, u, token class, normal, 2 GiB (R199). -/
def setupLeaf (home : Nat) : Nat := 1 + 2 ^ 3 + 2 ^ 5 + 2 ^ 6 + 2 * 2 ^ 8 + 3 * 2 ^ 12 + setupCode / 8192 * 2 ^ 14 + home * 2 ^ 54

/-- A table entry that points to the next table (R197). -/
def setupNext (t : Nat) : Nat := 3 + t

/-- A kernel of 32 fibres whose code lies at virtual address 0. -/
def setupKernel : Kernel :=
  { code := 0, codeBytes := 65536, fibres := 32, team := 32, winMax := 32, winInit := 32, localBlocks := 16, handles := 16
    progress := 1, hasData := false, dataRec := 0, img := 0, targets := [], points := [] }

/-- A live fibre with 256 registers of 0. -/
def setupFibre : Fibre :=
  { cond := .live, wait := none, timer := 0, pc := 0, preds := 0, regs := List.replicate 256 0, blocks := List.range 32, cd := 0
    links := List.replicate 8 0, pend := [], late := [], counts := [], mat := .reset }

/-- The team: resident on core 0, its 32 fibres in one bundle. -/
def setupTeam (id stamp : Nat) : Team :=
  { id := id, launch := 0, num := 0, core := 0, cond := .resident, handlerFor := none, asid := 0, cls := 1, depth := 0, nteam := 1
    starve := 40, kernel := setupKernel, records := List.replicate 32 0, fmts := List.replicate 8 0, consts := List.replicate 16 0
    fibres := List.replicate 32 setupFibre, bundles := [⟨List.range 32, stamp, false, false⟩], parked := [], pools := [], lbase := some 0, lsize := 4096
    handles := List.replicate 16 .unallotted, frame := 0, frameVa := 0, faultRec := none, reserve := [], linger := []
    admitted := stamp, age := 0, objTimes := [], reopen := [], overflow := none, lost := false }

/-- The state with the code bytes loaded and one team about to run them, in a cycle in which its bundle has not issued. -/
def State.withProgram (s : State) (code : List Byte) : State :=
  let dram := dramPut s.dram setupAst (natBytes 16 (setupRoot + 1))
  let dram := dramPut dram setupRoot (natBytes 8 (setupNext setupL3))
  let dram := dramPut dram setupL3 (natBytes 8 (setupLeaf s.dev))
  { s with
    dram := dramPut dram setupCode code
    sys := { s.sys with astBase := setupAst }
    teams := [setupTeam s.nextId s.stamp], nextId := s.nextId + 1, schedule := [], issues := [], stamp := s.stamp + 1 }

end Sys2Proof.Machine
end

