-- ==== Sys2Proof/Machine/Step.lean ====
section
/-! DEFINITION. One step: an event that is scheduled or due, or one instruction of a bundle that a port may take, or the next cycle, or a
meridian tick (log entry 1). -/

namespace Sys2Proof.Machine

/-- After an event every stalled bundle may try again (R154). -/
def afterEvent (r : Host.Outcome State Fault Refusal) : Host.Outcome State Fault Refusal :=
  match r with
  | .next s => .next s.retry
  | r => r

/-- A bundle issues: fetch, decode, the scoreboard, execute (R24, R39, R54, R89). -/
def runBundle (r : Ready) (s : State) : Host.Outcome State Fault Refusal :=
  let s := { s with cur := ⟨r.team, r.bundle.fibs, r.core⟩ }
  match s.team? r.team with
  | none => .next s
  | some t =>
    match s.fetchInstr t with
    | .run i s' => s'.runInstr t i
    | .done s' => .next s'

/-- A device whose start-up has failed has stopped; another reset starts it again, and until then the host link is in CXL.io only, over which the
host reads the device registers (R342, R344). -/
def State.stopped (s : State) : Host.Outcome State Fault Refusal :=
  match s.schedule with
  | .reset p :: rest => exec (.reset p) { s with schedule := rest }
  | .hostUncachedRead pa :: rest =>
    if isRegs pa then exec (.hostUncachedRead pa) { s with schedule := rest } else .fault (.startupFailed s.sys.failing.toNat)
  | _ => .fault (.startupFailed s.sys.failing.toNat)

/-- One step of the machine. -/
def step (s : State) : Host.Outcome State Fault Refusal :=
  if s.sys.failing ≠ 0 then s.stopped
  else
    match s.schedule with
    | e :: rest => afterEvent (exec e { s with schedule := rest })
    | [] =>
      match s.due with
      | some s' => afterEvent (.next s')
      | none =>
        match s.pick with
        | some (r, s') => runBundle r s'
        | none => if s.moreToIssue && s.slice < 19 then .next s.nextCycle else afterEvent (execTick s)

/-- `s` with one instruction of an opcode-table row stored where the next step fetches: 4 bytes, those above `nbits` zero. -/
def State.withFetchWord (s : State) (nbits w : Nat) : State := s.withProgram (natBytes 4 (w % 2 ^ nbits))

end Sys2Proof.Machine
end

