-- ==== Sys2Proof/Safety.lean ====
section
/-! DEFINITION. What counts as a safe run, and the terms in which the claims are stated: when a bundle can issue an instruction, what an
instruction leaves unchanged, and the canonical form of every memory. -/

namespace Sys2Proof.Machine

/-- A step goes on: it neither stops nor is refused. -/
def goesOn (s : State) : Prop := ∃ s', step s = .next s'

/-- A state from which `n` steps go on. -/
def safeFor : Nat → State → Prop
  | 0, _ => True
  | n + 1, s => ∃ s', step s = .next s' ∧ safeFor n s'

/-! ## Issue -/

/-- Every register that an instruction names lies in the window of each fibre that executes it (check 6 of R39). -/
def InWindow (s : State) (t : Team) (g : Guard) (uses : Fibre → List Nat) : Prop :=
  ∀ i ∈ s.active t g, ∀ n ∈ uses (t.fibre i), n < (t.fibre i).regs.length

/-- The issuing bundle is one of team `t`, none of the registers that the instruction names is pending in it (R89), it has no open access
(R353), the guard is not the reserved one (R28), and the registers named lie in the window. -/
structure CanIssue (s : State) (t : Team) (g : Guard) (uses : Fibre → List Nat) : Prop where
  team : s.curTeam = some t
  ready : pendingUse t s.cur.fibs uses = false
  settled : s.hasOpen t s.cur.fibs = false
  guard : g ≠ .neg 7
  window : InWindow s t g uses

/-- The same for a load, which open accesses do not hold up: no earlier acquire is open (R247), and none of the registers `writes` is
read-pending (R353). -/
structure CanLoad (s : State) (t : Team) (g : Guard) (uses : Fibre → List Nat) (writes : List Nat) : Prop where
  team : s.curTeam = some t
  ready : pendingUse t s.cur.fibs uses = false
  settled : s.hasAcquire t s.cur.fibs = false
  readable : s.readPending t s.cur.fibs writes = false
  guard : g ≠ .neg 7
  window : InWindow s t g uses

/-- The bundle of team `t` is about to issue, and nothing holds it up: none of its registers is pending, and no access of the team is
open. -/
structure Quiet (s : State) (t : Team) : Prop where
  team : s.curTeam = some t
  ready : ∀ k ∈ s.cur.fibs, (t.fibre k).pend = []
  settled : ∀ r ∈ (s.core t.core).reqs, r.team = t.id → r.isOpen = false

/-- With nothing due, the next step of `s` issues an instruction of team `t` by the bundle `c.cur`, in the state `c`; no read of code is under way. -/
structure Issues (s c : State) (t : Team) : Prop where
  runs : s.sys.failing = 0
  unscheduled : s.schedule = []
  nothingDue : s.due = none
  picked : ∃ r b, s.pick = some (r, b) ∧ c = { b with cur := ⟨r.team, r.bundle.fibs, r.core⟩ }
  team : c.curTeam = some t
  fetched : ∀ q ∈ (c.core t.core).reqs, q.kind ≠ .fetch

/-- The two bytes at a virtual address of code are `bs`: they lie in a page of this device, neither device nor strongly ordered, whose block order can
be read here, and are not poisoned. -/
structure Fetches (c : State) (t : Team) (va : Nat) (bs : List Byte) : Prop where
  here : ∃ p, c.translate t.core t.asid va .fetch t.privileged = .ok p ∧ p.home = c.dev ∧ p.ty.isDevice = false ∧ isRegs p.pa = false ∧
    c.poisoned (blkOf p.home p.pa) = false ∧ c.migrated p p.pa = true ∧ c.gatherBlock (blkOf p.home p.pa) false = none ∧ c.readPa p.pa 2 = bs

/-- The guard of a 32-bit instruction; compact instructions and events have none (R25, R27). -/
def guardOf : Instr → Option Guard
  | .add g _ _ _ => some g
  | .addc g _ _ _ => some g
  | .sub g _ _ _ => some g
  | .subb g _ _ _ => some g
  | .mulLo g _ _ _ => some g
  | .mulHiS32 g _ _ _ => some g
  | .mulHiN32 g _ _ _ => some g
  | .mad g _ _ _ => some g
  | .and g _ _ _ => some g
  | .or g _ _ _ => some g
  | .xor g _ _ _ => some g
  | .andn g _ _ _ => some g
  | .minS32 g _ _ _ => some g
  | .maxS32 g _ _ _ => some g
  | .minN32 g _ _ _ => some g
  | .maxN32 g _ _ _ => some g
  | .shl g _ _ _ => some g
  | .shr g _ _ _ => some g
  | .sar g _ _ _ => some g
  | .rot g _ _ _ => some g
  | .popc g _ _ => some g
  | .clz g _ _ => some g
  | .brev g _ _ => some g
  | .abs g _ _ => some g
  | .bfxS32 g _ _ _ => some g
  | .bfxN32 g _ _ _ => some g
  | .bfi g _ _ _ => some g
  | .mov g _ _ => some g
  | .movKconst g _ _ => some g
  | .movIndirectSrc g _ _ _ => some g
  | .movIndirectDst g _ _ _ => some g
  | .sel g _ _ _ _ => some g
  | .cmpS32 g _ _ _ _ => some g
  | .cmpN32 g _ _ _ _ => some g
  | .movi g _ _ => some g
  | .imhi g _ _ => some g
  | .addi g _ _ _ => some g
  | .andi g _ _ _ => some g
  | .ori g _ _ _ => some g
  | .xori g _ _ _ => some g
  | .shli g _ _ _ => some g
  | .shri g _ _ _ => some g
  | .sari g _ _ _ => some g
  | .cmpiS32 g _ _ _ _ => some g
  | .cmpiN32 g _ _ _ _ => some g
  | .fadd g _ _ _ => some g
  | .fsub g _ _ _ => some g
  | .fmul g _ _ _ => some g
  | .ffma g _ _ _ => some g
  | .fmin g _ _ _ => some g
  | .fmax g _ _ _ => some g
  | .fdiv g _ _ _ => some g
  | .frcp g _ _ => some g
  | .frsq g _ _ => some g
  | .fsqrt g _ _ => some g
  | .fexp2 g _ _ => some g
  | .flog2 g _ _ => some g
  | .fclass g _ _ => some g
  | .fcmpF32 g _ _ _ _ => some g
  | .hadd2F16 g _ _ _ => some g
  | .hmul2F16 g _ _ _ => some g
  | .hfma2F16 g _ _ _ => some g
  | .hmax2F16 g _ _ _ => some g
  | .hadd2Bf16 g _ _ _ => some g
  | .hmul2Bf16 g _ _ _ => some g
  | .hfma2Bf16 g _ _ _ => some g
  | .hmax2Bf16 g _ _ _ => some g
  | .cvtI2fS32 g _ _ => some g
  | .cvtI2fN32 g _ _ => some g
  | .cvtF2iS32 g _ _ => some g
  | .cvtF2iN32 g _ _ => some g
  | .cvtF2hF16 g _ _ => some g
  | .cvtF2hBf16 g _ _ => some g
  | .cvtH2fF16 g _ _ => some g
  | .cvtH2fBf16 g _ _ => some g
  | .cvtfNar g _ _ _ => some g
  | .cvtfWid g _ _ _ => some g
  | .pk4 g _ _ _ => some g
  | .upk4 g _ _ _ => some g
  | .fscale g _ _ _ => some g
  | .rgen g _ => some g
  | .pand g _ _ _ => some g
  | .por g _ _ _ => some g
  | .pxor g _ _ _ => some g
  | .pnot g _ _ => some g
  | .pmov g _ _ => some g
  | .br g _ _ => some g
  | .brRgp g _ _ => some g
  | .call g _ _ => some g
  | .fork g _ => some g
  | .brx g _ _ => some g
  | .brxRgp g _ _ => some g
  | .callx g _ _ => some g
  | .ret g _ => some g
  | .exit g => some g
  | .fend g => some g
  | .home g => some g
  | .nop g => some g
  | .trap g _ => some g
  | .brk g => some g
  | .voteAll g _ _ => some g
  | .voteAny g _ _ => some g
  | .voteBallot g _ _ => some g
  | .shflIdx g _ _ _ => some g
  | .shflUp g _ _ _ => some g
  | .shflDown g _ _ _ => some g
  | .shflXor g _ _ _ => some g
  | .gredAddS32 g _ _ => some g
  | .gredAddF32 g _ _ => some g
  | .gredMinS32 g _ _ => some g
  | .gredMaxS32 g _ _ => some g
  | .gredMinF32 g _ _ => some g
  | .gredMaxF32 g _ _ => some g
  | .gredAnd g _ _ => some g
  | .gredOr g _ _ => some g
  | .matchLanes g _ _ => some g
  | .rgrow g _ => some g
  | .rshrink g _ => some g
  | .rwin g _ => some g
  | .movx g _ _ => some g
  | .ld g _ _ _ _ => some g
  | .st g _ _ _ _ => some g
  | .ldNarrowWide g _ _ _ _ => some g
  | .stNarrowWide g _ _ _ _ => some g
  | .ldAcq g _ _ _ _ => some g
  | .stRel g _ _ _ _ => some g
  | .atomAddS32 g _ _ _ => some g
  | .atomAddF32 g _ _ _ => some g
  | .atomMinS32 g _ _ _ => some g
  | .atomMaxS32 g _ _ _ => some g
  | .atomMinN32 g _ _ _ => some g
  | .atomMaxN32 g _ _ _ => some g
  | .atomAnd g _ _ _ => some g
  | .atomOr g _ _ _ => some g
  | .atomXor g _ _ _ => some g
  | .atomExch g _ _ _ => some g
  | .atomCas g _ _ _ => some g
  | .atomOrdAddS32 g _ _ _ => some g
  | .atomOrdAddF32 g _ _ _ => some g
  | .atomOrdMinS32 g _ _ _ => some g
  | .atomOrdMaxS32 g _ _ _ => some g
  | .atomOrdAnd g _ _ _ => some g
  | .atomOrdOr g _ _ _ => some g
  | .atomOrdExch g _ _ _ => some g
  | .atomOrdCas g _ _ _ => some g
  | .redAddS32 g _ _ _ => some g
  | .redAddF32 g _ _ _ => some g
  | .redMinS32 g _ _ _ => some g
  | .redMaxS32 g _ _ _ => some g
  | .redMinN32 g _ _ _ => some g
  | .redMaxN32 g _ _ _ => some g
  | .redAnd g _ _ _ => some g
  | .redOr g _ _ _ => some g
  | .redXor g _ _ _ => some g
  | .pf g _ _ => some g
  | .fence g _ => some g
  | .wait g _ _ _ _ => some g
  | .ltime g _ => some g
  | .lpub g _ _ => some g
  | .stf g _ _ _ => some g
  | .lld g _ _ _ => some g
  | .lst g _ _ _ => some g
  | .latomAddS32 g _ _ => some g
  | .latomAddF32 g _ _ => some g
  | .latomMinS32 g _ _ => some g
  | .latomMaxS32 g _ _ => some g
  | .latomAnd g _ _ => some g
  | .latomOr g _ _ => some g
  | .latomExch g _ _ => some g
  | .latomCas g _ _ => some g
  | .bar g _ => some g
  | .boinit g _ _ => some g
  | .boarr g _ _ => some g
  | .bowait g _ _ _ => some g
  | .botest g _ _ => some g
  | .halloc g _ _ => some g
  | .hfree g _ => some g
  | .hbind g _ _ _ => some g
  | .hstate g _ _ => some g
  | .hwptr g _ _ => some g
  | .hwait g _ _ _ => some g
  | .cpcancel g _ => some g
  | .cpin g _ _ _ => some g
  | .cpout g _ _ _ => some g
  | .cppush g _ _ => some g
  | .cpred g _ _ => some g
  | .cpfill g _ _ => some g
  | .qmmaHandle g _ _ _ _ _ _ => some g
  | .qmmaReg g _ _ _ _ _ _ => some g
  | .qpro g _ _ _ => some g
  | .qzero g _ => some g
  | .smx g _ _ => some g
  | .smxCvt g _ _ _ => some g
  | .qsr g _ _ => some g
  | .qsw g _ _ => some g
  | .rcopy g _ => some g
  | .rfill g _ => some g
  | .rand g _ => some g
  | .ror g _ => some g
  | .rxor g _ => some g
  | .rnot g _ => some g
  | .nbload g _ => some g
  | .nbrun g _ => some g
  | .nbstat g _ => some g
  | .nbcancel g _ => some g
  | .launch g _ => some g
  | .wchild g _ => some g
  | .srd g _ _ => some g
  | .swr g _ _ => some g
  | .tret g => some g
  | .errq g _ => some g
  | .asgen g _ => some g
  | .sflush g _ => some g
  | .halt g => some g
  | _ => none

/-- The checks of an instruction find no cause in any fibre that executes it (R39). -/
def NoCause (s : State) (t : Team) (g : Guard) (cs : List Check) : Prop :=
  ∀ i ∈ s.active t g, ∀ c ∈ cs, c i (t.fibre i) = none

/-! ## Frames -/

/-- What a fibre keeps while only the registers `rs` and the predicates `ps` of it may change, and its program counter. -/
def Fibre.keeps (x y : Fibre) (rs : List Nat) (ps : List Pred) : Prop :=
  y = { x with pc := y.pc, regs := y.regs, preds := y.preds } ∧ y.regs.length = x.regs.length ∧
    (∀ n, n ∉ rs → y.reg n = x.reg n) ∧ ∀ p, p ∉ ps → y.pred p = x.pred p

/-- Every byte reads as before: of device memory, of every core's local memory and of the host's memory. -/
def sameBytes (s u : State) : Prop :=
  (∀ pa, u.readPa pa 1 = s.readPa pa 1) ∧ (∀ c a, (u.core c).lmem.get a = (s.core c).lmem.get a) ∧ ∀ a, u.host.mem.get a = s.host.mem.get a

/-- Fibre `i` of team `t` as it stands in a state. -/
def State.fibreNow (s : State) (t : Team) (i : Nat) : Fibre := ((s.team? t.id).getD t).fibre i

/-- The bundle of team `t` has executed, in the fibres `act`, an instruction of `len` bytes that writes the registers and predicates that
`ws` and `ps` give, with their values, and nothing else: the bundle moves on by `len` bytes; p7 reads 1 whatever is written (R94); no other
register, predicate, fibre, team or byte, and nothing else of the device changes but the issue's own counters. -/
structure Lands (s u : State) (t : Team) (act : List Nat) (len : Nat) (ws : Nat → Fibre → List (Nat × Word))
    (ps : Nat → Fibre → List (Pred × Bool)) : Prop where
  rest : u = { s with teams := u.teams, issues := s.cur.core :: s.issues }
  bytes : sameBytes s u
  others : ∀ id, id ≠ t.id → u.team? id = s.team? id
  own : ∃ t', u.team? t.id = some t' ∧ t' = { t with fibres := t'.fibres, bundles := t'.bundles } ∧
    t'.fibres.length = t.fibres.length ∧ t'.bundles.map (fun b => b.fibs) = t.bundles.map (fun b => b.fibs)
  moved : ∀ i ∈ s.cur.fibs, i < t.fibres.length → (u.fibreNow t i).pc = (t.fibre i).pc + BitVec.ofNat 32 len
  stayed : ∀ i, i ∉ s.cur.fibs → u.fibreNow t i = t.fibre i
  kept : ∀ i, (t.fibre i).keeps (u.fibreNow t i) (if i ∈ act then (ws i (t.fibre i)).map (fun p => p.1) else [])
    (if i ∈ act then (ps i (t.fibre i)).map (fun p => p.1) else [])
  regs : ∀ i ∈ act, i < t.fibres.length → ∀ p ∈ ws i (t.fibre i), (u.fibreNow t i).reg p.1 = p.2
  preds : ∀ i ∈ act, i < t.fibres.length → ∀ p ∈ ps i (t.fibre i), (u.fibreNow t i).pred p.1 = (p.1 == 7 || p.2)

/-- The instruction completes with those registers and predicates written in the fibres whose guard holds. -/
def Runs (i : Instr) (s : State) (t : Team) (g : Guard) (len : Nat) (ws : Nat → Fibre → List (Nat × Word))
    (ps : Nat → Fibre → List (Pred × Bool)) : Prop :=
  ∃ u, exec i s = .next u ∧ Lands s u t (s.active t g) len ws ps

/-- The instruction completes with one register written. -/
def Gives (i : Instr) (s : State) (t : Team) (g : Guard) (len : Nat) (d : Nat) (v : Nat → Fibre → Word) : Prop :=
  Runs i s t g len (fun k x => [(d, v k x)]) fun _ _ => []

/-- The instruction completes with one predicate written. -/
def Decides (i : Instr) (s : State) (t : Team) (g : Guard) (p : Pred) (v : Fibre → Bool) : Prop :=
  Runs i s t g 4 (fun _ _ => []) fun _ x => [(p, v x)]

/-- The bundle has executed a control instruction: each of its fibres has become `f` of itself, with a next program counter of its own; the
bundle has split by those (R53); a hint `uni` that they belie has counted one miss (R58); the fibres `pooled` stand in the gathering pools of
their targets (R59), and the others in bundles. No byte, no other fibre or team, and nothing else changes but the issue's own counters. -/
structure Turns (s u : State) (t : Team) (uni : Bool) (f : Nat → Fibre → Fibre) (pooled : List Nat) : Prop where
  rest : u = { s with teams := u.teams, cores := u.cores, issues := s.cur.core :: s.issues }
  bytes : sameBytes s u
  alike : (uni = false ∨ ∀ i ∈ s.cur.fibs, ∀ j ∈ s.cur.fibs, (f i (t.fibre i)).pc = (f j (t.fibre j)).pc) → u.cores = s.cores
  missed : uni = true → (∃ i ∈ s.cur.fibs, ∃ j ∈ s.cur.fibs, (f i (t.fibre i)).pc ≠ (f j (t.fibre j)).pc) →
    u.cores = s.cores.modify t.core fun k => { k with umiss := BitVec.ofNat 32 (min (nat k.umiss + 1) (2 ^ 32 - 1)) }
  others : ∀ id, id ≠ t.id → u.team? id = s.team? id
  fibres : ∀ i, u.fibreNow t i = if i ∈ s.cur.fibs ∧ i < t.fibres.length then f i (t.fibre i) else t.fibre i
  own : ∃ t', u.team? t.id = some t' ∧ t' = { t with fibres := t'.fibres, bundles := t'.bundles, pools := t'.pools } ∧
    t'.fibres.length = t.fibres.length ∧
    (∀ i ∈ s.cur.fibs, i < t.fibres.length → i ∉ pooled → ∀ j ∈ s.cur.fibs, j < t.fibres.length → j ∉ pooled →
      ((∃ b ∈ t'.bundles, i ∈ b.fibs ∧ j ∈ b.fibs) ↔ (f i (t.fibre i)).pc = (f j (t.fibre j)).pc)) ∧
    ∀ i ∈ pooled, i < t.fibres.length → (∀ b ∈ t'.bundles, i ∉ b.fibs) ∧
      ∃ p ∈ t'.pools, p.target = (f i (t.fibre i)).pc ∧ i ∈ p.fibs.map fun x => x.1

/-! ## Global accesses -/

/-- A load, a store, an atomic, a reduction and the data part of a flagged store, as accesses (R183 to R187, R312). -/
def loadAccess (g : Guard) (size : Nat) (signed : Bool) (ord : OrdScope) (r : Rec) (i : Reg) (m : Nat) (dst : List Nat) : GAccess :=
  { guard := g, kind := .load signed, access := .load, size := size, ord := ord, addr := [i.toNat], data := [], dst := dst
    place := fun t => elementPlace t r.toNat i.toNat m size }

def storeAccess (g : Guard) (size : Nat) (ord : OrdScope) (r : Rec) (i : Reg) (m : Nat) (src : List Nat) : GAccess :=
  { guard := g, kind := .store, access := .store, size := size, ord := ord, addr := [i.toNat], data := src, dst := []
    place := fun t => elementPlace t r.toNat i.toNat m size, ro := fun t _ _ => t.refuses r.toNat }

def atomAccess (g : Guard) (op : AtomOp) (r : Rec) (i d : Reg) : GAccess :=
  { guard := g, kind := .atom op, access := .atom, size := 4, addr := [i.toNat], data := atomData op d.toNat
    dst := [d.toNat], dropped := atomDropped op d.toNat
    place := fun t => elementPlace t r.toNat i.toNat 0 4, ro := fun t _ _ => t.refuses r.toNat }

def atomOrdAccess (g : Guard) (op : AtomOp) (os : OrdScope) (a d : Reg) : GAccess :=
  { guard := g, kind := .atom op, access := .atom, size := 4, ord := os, addr := [a.toNat, a.toNat + 1]
    data := atomData op d.toNat, dst := [d.toNat], dropped := atomDropped op d.toNat
    place := fun t => pointerPlace t a.toNat 4, ro := fun t _ f => t.refuses (pointerRec (f.pair a.toNat)) }

def redAccess (g : Guard) (op : AtomOp) (r : Rec) (i d : Reg) : GAccess :=
  { guard := g, kind := .red op, access := .store, size := 4, addr := [i.toNat], data := [d.toNat], dst := []
    place := fun t => elementPlace t r.toNat i.toNat 0 4, ro := fun t _ _ => t.refuses r.toNat }

def flaggedAccess (g : Guard) (a d : Reg) : GAccess :=
  { guard := g, kind := .flagged, access := .store, size := 4, addr := [a.toNat, a.toNat + 1], data := [d.toNat], dst := []
    place := fun t => pointerPlace t a.toNat 4 }

/-- No lane of the access meets a cause, and nothing makes it wait at issue (R189, R202, R247, R260, R275, R307). -/
def Placed (s : State) (t : Team) (g : Guard) (x : GAccess) (err : Access → Bool → Place? → Option Cause) : Prop :=
  (∀ k ∈ s.active t g, err x.access (x.ro t k (t.fibre k)) (x.place t k (t.fibre k)) = none) ∧
    s.accessStalls t (s.active t g) (!x.dst.isEmpty) (lineGroups (s.itemsOf t (s.active t g) x)) = false

/-- The pending marks that an access sets in a fibre (R184); a dropped lane's value is known to be 0 (R181). -/
def marksOf (x : GAccess) (t : Team) (k inst : Nat) : List Pend :=
  match x.place t k (t.fibre k) with
  | .ok none => (x.dst ++ x.dropped).map fun r => ⟨r, inst, some 0⟩
  | _ => x.dst.map fun r => ⟨r, inst, none⟩

/-- The bundle has issued an access: each lane that names an address stands in the request of its 256-byte line (R188) with its
operands, its result registers are pending, and the bundle has moved on. No register or predicate, no byte, no older request, and no
other fibre, team or core has changed. -/
structure Requests (s u : State) (t : Team) (act : List Nat) (x : GAccess) : Prop where
  rest : u = { s with teams := u.teams, cores := u.cores, msgs := u.msgs, nextId := u.nextId, issues := s.cur.core :: s.issues }
  bytes : sameBytes s u
  cores : ∀ c, c ≠ t.core → u.core c = s.core c
  core : u.core t.core = { s.core t.core with reqs := (u.core t.core).reqs, tags := (u.core t.core).tags }
  others : ∀ id, id ≠ t.id → u.team? id = s.team? id
  own : ∃ t', u.team? t.id = some t' ∧ t' = { t with fibres := t'.fibres, bundles := t'.bundles } ∧
    t'.fibres.length = t.fibres.length ∧ t'.bundles.map (fun b => b.fibs) = t.bundles.map (fun b => b.fibs)
  fibres : ∀ k, u.fibreNow t k =
    if k ∈ s.cur.fibs ∧ k < t.fibres.length then
      { t.fibre k with
        pc := (t.fibre k).pc + 4
        pend := (t.fibre k).pend ++ if k ∈ act then marksOf x t k s.nextId else [] }
    else t.fibre k
  older : ∀ r ∈ (s.core t.core).reqs, r.id < s.nextId → r ∈ (u.core t.core).reqs
  asked : t.core < s.cores.length → ∀ k ∈ act, ∀ va, x.place t k (t.fibre k) = .ok (some va) →
    ∃ r ∈ (u.core t.core).reqs, r.inst = s.nextId ∧ r.team = t.id ∧ r.kind = x.kind ∧ r.va = va / 256 * 256 ∧
      ∃ l ∈ r.lanes, l.fib = k ∧ l.lane = laneOf k ∧ l.off = va % 256 ∧ l.size = x.size ∧ l.dst = x.dst ∧
        l.x = (t.fibre k).reg (x.data.getD 0 0) ∧ (1 < x.data.length → l.y = (t.fibre k).reg (x.data.getD 1 0))

/-- The lanes `is` have applied a local atomic one after the other, each to the word that the one before it left: `b` is the state after
them, and `old` gives each lane the word before it (R130). -/
def Swapped (t : Team) (op : AtomOp) (addr : Nat → Nat) (x y : Nat → Word) : List Nat → State → State → List (Nat × Word) → Prop
  | [], s, b, old => b = s ∧ old = []
  | i :: is, s, b, old =>
    ∃ rest, old = (i, s.localWord t (addr i)) :: rest ∧
      Swapped t op addr x y is (s.setLocal t (addr i) (atomNew op (s.localWord t (addr i)) (x i) (y i))) b rest

/-- The state that an event leaves which deals with a message: the message leaves when it has been dealt with, and stays taken up until then. -/
def dealt (id : Nat) : Dealt → State
  | .done s => s.dropMsg id
  | .wait s => s.takeUp id

/-- A message is dealt with: it has not come of age (R304), and no near-bank unit that runs keeps its channel to itself (R338). -/
def State.deals (s : State) (m : Msg) : Prop := Msg.tooOld m = false ∧ s.shutOut m = false

/-! ## Memory -/

/-- Every memory has its canonical form. -/
def Canonical (s : State) : Prop := s.dram.wf = true ∧ s.host.mem.wf = true ∧ ∀ k ∈ s.cores, k.lmem.wf = true

end Sys2Proof.Machine
end

