-- ==== Sys2Proof/Certificates/Slice0/Obligations.lean ====
section
/-! DEFINITION. The statements of this slice. -/

open Sys2Proof Sys2Proof.Machine

/-! ## Lane instructions

Each says that the instruction completes in every state in which its bundle can issue it, with the result of the rule in every fibre
whose guard holds, and with everything else as before (`Lands`). That results are there at once is the model's choice (log entry 18). -/

/-- R25, R26: a compact instruction is unguarded, takes vd as its first source and moves the bundle by 2 bytes; its result is that of its
32-bit form. -/
def Obligations.CompactForms : Prop :=
  ∀ (s : State) (t : Team) (b imm : BitVec 5) (d : Reg),
    (CanIssue s t (.pos 7) (fun _ => [b.toNat, d.toNat]) →
      let two (i : Instr) (f : Word → Word → Word) : Prop :=
        Gives i s t (.pos 7) 2 d.toNat fun _ x => f (x.reg d.toNat) (x.reg b.toNat)
      two (.movC16 b d) (fun _ y => y) ∧
      two (.addC16 b d) (fun x y => BitVec.ofNat 32 (nat x + nat y)) ∧
      two (.subC16 b d) (fun x y => BitVec.ofInt 32 ((nat x : Int) - nat y)) ∧
      two (.mulLoC16 b d) (fun x y => BitVec.ofNat 32 (nat x * nat y)) ∧
      two (.andC16 b d) (fun x y => x &&& y) ∧
      two (.orC16 b d) (fun x y => x ||| y) ∧
      two (.xorC16 b d) (fun x y => x ^^^ y) ∧
      two (.shlC16 b d) (fun x y => BitVec.ofNat 32 (nat x * 2 ^ nat y)) ∧
      two (.shrC16 b d) (fun x y => BitVec.ofNat 32 (nat x / 2 ^ nat y)) ∧
      two (.minS32C16 b d) (fun x y => if sgn x ≤ sgn y then x else y) ∧
      two (.maxS32C16 b d) (fun x y => if sgn x ≤ sgn y then y else x) ∧
      two (.faddC16 b d) (fun x y => rne32 ((val32 x).add (val32 y))) ∧
      two (.fmulC16 b d) (fun x y => rne32 ((val32 x).mul (val32 y))) ∧
      two (.fmaxC16 b d) (fun x y => BitVec.ofNat 32 (fp32.pick true (nat x) (nat y)))) ∧
    (CanIssue s t (.pos 7) (fun _ => [d.toNat]) →
      Gives (.moviC16 imm d) s t (.pos 7) 2 d.toNat (fun _ _ => BitVec.ofInt 32 imm.toInt) ∧
      Gives (.addiC16 imm d) s t (.pos 7) 2 d.toNat (fun _ x => BitVec.ofInt 32 (nat (x.reg d.toNat) + imm.toInt)))

/-- R99: sums, carries, differences, borrows and products; bitwise logic, the lesser and the greater operand, shifts and rotation. -/
def Obligations.IntegerOperations : Prop :=
  (∀ (s : State) (t : Team) (g : Guard) (b a d : Reg), CanIssue s t g (fun _ => [a.toNat, b.toNat, d.toNat]) →
    let three (i : Instr) (f : Word → Word → Word → Word) : Prop :=
      Gives i s t g 4 d.toNat fun _ x => f (x.reg a.toNat) (x.reg b.toNat) (x.reg d.toNat)
    three (.add g b a d) (fun x y _ => BitVec.ofNat 32 (nat x + nat y)) ∧
    three (.addc g b a d) (fun x y _ => if 2 ^ 32 ≤ nat x + nat y then 1 else 0) ∧
    three (.sub g b a d) (fun x y _ => BitVec.ofInt 32 ((nat x : Int) - nat y)) ∧
    three (.subb g b a d) (fun x y _ => if nat x < nat y then 1 else 0) ∧
    three (.mulLo g b a d) (fun x y _ => BitVec.ofNat 32 (nat x * nat y)) ∧
    three (.mulHiS32 g b a d) (fun x y _ => (BitVec.ofInt 64 (sgn x * sgn y)).extractLsb' 32 32) ∧
    three (.mulHiN32 g b a d) (fun x y _ => (BitVec.ofNat 64 (nat x * nat y)).extractLsb' 32 32) ∧
    three (.mad g b a d) (fun x y z => BitVec.ofNat 32 (nat x * nat y + nat z))) ∧
  (∀ (s : State) (t : Team) (g : Guard) (b a d : Reg), CanIssue s t g (fun _ => [a.toNat, b.toNat, d.toNat]) →
    let two (i : Instr) (f : Word → Word → Word) : Prop :=
      Gives i s t g 4 d.toNat fun _ x => f (x.reg a.toNat) (x.reg b.toNat)
    two (.and g b a d) (fun x y => x &&& y) ∧
    two (.or g b a d) (fun x y => x ||| y) ∧
    two (.xor g b a d) (fun x y => x ^^^ y) ∧
    two (.andn g b a d) (fun x y => x &&& ~~~y) ∧
    two (.minS32 g b a d) (fun x y => if sgn x ≤ sgn y then x else y) ∧
    two (.maxS32 g b a d) (fun x y => if sgn x ≤ sgn y then y else x) ∧
    two (.minN32 g b a d) (fun x y => if nat x ≤ nat y then x else y) ∧
    two (.maxN32 g b a d) (fun x y => if nat x ≤ nat y then y else x) ∧
    two (.shl g b a d) (fun x y => BitVec.ofNat 32 (nat x * 2 ^ nat y)) ∧
    two (.shr g b a d) (fun x y => BitVec.ofNat 32 (nat x / 2 ^ nat y)) ∧
    two (.sar g b a d) (fun x y => BitVec.ofInt 32 (sgn x / 2 ^ nat y)) ∧
    ∃ f : Word → Word → Word, two (.rot g b a d) f ∧
      ∀ x y i, i < 32 → (f x y).getLsbD ((i + nat y) % 32) = x.getLsbD i)

/-- R99, R100: bit counts, reversal, absolute value and bit fields. -/
def Obligations.BitFields : Prop :=
  ∀ (s : State) (t : Team) (g : Guard) (b a d : Reg),
    let pos (y : Word) : Nat := nat y % 2 ^ 5
    let width (y : Word) : Nat := min (nat y / 2 ^ 8 % 2 ^ 6) (32 - pos y)
    (CanIssue s t g (fun _ => [a.toNat, d.toNat]) →
      let one (i : Instr) (f : Word → Word) : Prop := Gives i s t g 4 d.toNat fun _ x => f (x.reg a.toNat)
      one (.popc g a d) (fun x => BitVec.ofNat 32 ((List.range 32).countP fun i => x.getLsbD i)) ∧
      one (.clz g a d) (fun x => BitVec.ofNat 32 ((List.range 32).countP fun i => nat x < 2 ^ i)) ∧
      one (.abs g a d) (fun x => BitVec.ofNat 32 (sgn x).natAbs) ∧
      ∃ f : Word → Word, one (.brev g a d) f ∧ ∀ x i, i < 32 → (f x).getLsbD i = x.getLsbD (31 - i)) ∧
    (CanIssue s t g (fun _ => [a.toNat, b.toNat, d.toNat]) →
      let three (i : Instr) (f : Word → Word → Word → Word) : Prop :=
        Gives i s t g 4 d.toNat fun _ x => f (x.reg a.toNat) (x.reg b.toNat) (x.reg d.toNat)
      three (.bfxN32 g b a d) (fun x y _ => BitVec.ofNat 32 (nat x / 2 ^ pos y % 2 ^ width y)) ∧
      three (.bfxS32 g b a d) (fun x y _ => (BitVec.ofNat (width y) (nat x / 2 ^ pos y)).signExtend 32) ∧
      ∃ f : Word → Word → Word → Word, three (.bfi g b a d) f ∧
        ∀ x y z i, i < 32 → (f x y z).getLsbD i =
          if pos y ≤ i ∧ i < pos y + width y then x.getLsbD (i - pos y) else z.getLsbD i)

/-- R82, R83, R88: moves of registers, of kernel constants and through an index; the register window's sizes. -/
def Obligations.Moves : Prop :=
  ∀ (s : State) (t : Team) (g : Guard) (k : BitVec 4) (imm : BitVec 6) (a d : Reg) (la ld : Reg8),
    (CanIssue s t g (fun _ => [a.toNat, d.toNat]) → Gives (.mov g a d) s t g 4 d.toNat fun _ x => x.reg a.toNat) ∧
    (CanIssue s t g (fun _ => [la.toNat, ld.toNat]) → Gives (.movx g la ld) s t g 4 ld.toNat fun _ x => x.reg la.toNat) ∧
    (CanIssue s t g (fun _ => [d.toNat]) →
      Gives (.movKconst g k d) s t g 4 d.toNat (fun _ _ => t.consts.getD k.toNat 0) ∧
      Gives (.rwin g d) s t g 4 d.toNat fun _ x => BitVec.ofNat 32 (8 * t.kernel.winMax * 2 ^ 16 + x.regs.length)) ∧
    (CanIssue s t g (fun x => [a.toNat, d.toNat, nat (x.reg a.toNat) + imm.toNat]) →
      Gives (.movIndirectSrc g imm a d) s t g 4 d.toNat fun _ x => x.reg (nat (x.reg a.toNat) + imm.toNat)) ∧
    (CanIssue s t g (fun x => [a.toNat, d.toNat, nat (x.reg d.toNat) + imm.toNat]) →
      Runs (.movIndirectDst g imm a d) s t g 4
        (fun _ x => [(nat (x.reg d.toNat) + imm.toNat, x.reg a.toNat)]) fun _ _ => [])

/-- R96 to R98: select, and the compares of words and of FP32 numbers. A NaN makes only `.ne` hold. -/
def Obligations.SelectAndCompares : Prop :=
  ∀ (s : State) (t : Team) (g : Guard) (c : Cond) (n p : Pred) (imm : BitVec 9) (b a d : Reg),
    let holds (lt eq : Prop) : Prop := match c with
      | .eq => eq
      | .ne => ¬ eq
      | .lt => lt
      | .le => lt ∨ eq
      | .gt => ¬ (lt ∨ eq)
      | .ge => ¬ lt
    (CanIssue s t g (fun _ => [a.toNat, b.toNat, d.toNat]) →
      Gives (.sel g n b a d) s t g 4 d.toNat fun _ x => if x.pred n then x.reg a.toNat else x.reg b.toNat) ∧
    (CanIssue s t g (fun _ => [a.toNat, b.toNat]) →
      let two (i : Instr) (r : Word → Word → Prop) : Prop :=
        ∃ f : Word → Word → Bool, Decides i s t g p (fun x => f (x.reg a.toNat) (x.reg b.toNat)) ∧ ∀ x y, f x y = true ↔ r x y
      two (.cmpS32 g c b a p) (fun x y => holds (sgn x < sgn y) (x = y)) ∧
      two (.cmpN32 g c b a p) (fun x y => holds (nat x < nat y) (x = y)) ∧
      two (.fcmpF32 g c b a p) (fun x y =>
        if isNan fp32 (nat x) ∨ isNan fp32 (nat y) then c = .ne else holds (fOrd x < fOrd y) (fOrd x = fOrd y))) ∧
    (CanIssue s t g (fun _ => [a.toNat]) →
      let one (i : Instr) (r : Word → Prop) : Prop :=
        ∃ f : Word → Bool, Decides i s t g p (fun x => f (x.reg a.toNat)) ∧ ∀ x, f x = true ↔ r x
      one (.cmpiS32 g imm a c p) (fun x => holds (sgn x < imm.toInt) (sgn x = imm.toInt)) ∧
      one (.cmpiN32 g imm a c p) (fun x => holds (nat x < imm.toNat) (nat x = imm.toNat)))

/-- R101, R102: immediates. -/
def Obligations.Immediates : Prop :=
  ∀ (s : State) (t : Team) (g : Guard) (long : BitVec 15) (imm : BitVec 9) (cnt : BitVec 5) (a d : Reg),
    (CanIssue s t g (fun _ => [d.toNat]) →
      Gives (.movi g long d) s t g 4 d.toNat (fun _ _ => BitVec.ofInt 32 long.toInt) ∧
      Gives (.imhi g long d) s t g 4 d.toNat fun _ x => BitVec.ofNat 32 (long.toNat * 2 ^ 17 + nat (x.reg d.toNat) % 2 ^ 17)) ∧
    (CanIssue s t g (fun _ => [a.toNat, d.toNat]) →
      let one (i : Instr) (f : Word → Word) : Prop := Gives i s t g 4 d.toNat fun _ x => f (x.reg a.toNat)
      one (.addi g imm a d) (fun x => BitVec.ofInt 32 (nat x + imm.toInt)) ∧
      one (.andi g imm a d) (fun x => x &&& BitVec.ofInt 32 imm.toInt) ∧
      one (.ori g imm a d) (fun x => x ||| BitVec.ofInt 32 imm.toInt) ∧
      one (.xori g imm a d) (fun x => x ^^^ BitVec.ofInt 32 imm.toInt) ∧
      one (.shli g cnt a d) (fun x => BitVec.ofNat 32 (nat x * 2 ^ cnt.toNat)) ∧
      one (.shri g cnt a d) (fun x => BitVec.ofNat 32 (nat x / 2 ^ cnt.toNat)) ∧
      one (.sari g cnt a d) (fun x => BitVec.ofInt 32 (sgn x / 2 ^ cnt.toNat)))

/-- R103 to R107, R121: the FP32 instructions: the exact value, rounded once to nearest even. The model's choices in it: log entry 7. -/
def Obligations.Fp32 : Prop :=
  ∀ (s : State) (t : Team) (g : Guard) (b a d : Reg),
    (CanIssue s t g (fun _ => [a.toNat, b.toNat, d.toNat]) →
      let three (i : Instr) (f : Word → Word → Word → Word) : Prop :=
        Gives i s t g 4 d.toNat fun _ x => f (x.reg a.toNat) (x.reg b.toNat) (x.reg d.toNat)
      three (.fadd g b a d) (fun x y _ => rne32 ((val32 x).add (val32 y))) ∧
      three (.fsub g b a d) (fun x y _ => rne32 ((val32 x).add (val32 y).neg)) ∧
      three (.fmul g b a d) (fun x y _ => rne32 ((val32 x).mul (val32 y))) ∧
      three (.ffma g b a d) (fun x y z => rne32 (((val32 x).mul (val32 y)).add (val32 z))) ∧
      three (.fmin g b a d) (fun x y _ => BitVec.ofNat 32 (fp32.pick false (nat x) (nat y))) ∧
      three (.fmax g b a d) (fun x y _ => BitVec.ofNat 32 (fp32.pick true (nat x) (nat y))) ∧
      three (.fdiv g b a d) (fun x y _ => rne32 ((val32 x).div (val32 y))) ∧
      three (.fscale g b a d) (fun x y _ => fscale x y)) ∧
    (CanIssue s t g (fun _ => [a.toNat, d.toNat]) →
      let one (i : Instr) (f : Word → Word) : Prop := Gives i s t g 4 d.toNat fun _ x => f (x.reg a.toNat)
      one (.frcp g a d) (fun x => rne32 ((val32 0x3F800000).div (val32 x))) ∧
      one (.frsq g a d) (fun x => rne32 (val32 x).rsqrt) ∧
      one (.fsqrt g a d) (fun x => rne32 (val32 x).sqrt) ∧
      one (.fexp2 g a d) (fun x => rne32 (val32 x).exp2) ∧
      one (.flog2 g a d) (fun x => rne32 (val32 x).log2) ∧
      one (.fclass g a d) (fun x => fclass x))

/-- R108: each half of a packed instruction on its own, rounded once in the half's format. -/
def Obligations.Packed16 : Prop :=
  ∀ (s : State) (t : Team) (g : Guard) (b a d : Reg), CanIssue s t g (fun _ => [a.toNat, b.toNat, d.toNat]) →
    let each (i : Instr) (f : Nat → Nat → Nat → Nat) : Prop :=
      ∃ v : Word → Word → Word → Word, Gives i s t g 4 d.toNat (fun _ x => v (x.reg a.toNat) (x.reg b.toNat) (x.reg d.toNat)) ∧
        ∀ x y z, nat (v x y z) % 2 ^ 16 = f (nat x % 2 ^ 16) (nat y % 2 ^ 16) (nat z % 2 ^ 16) % 2 ^ 16 ∧
          nat (v x y z) / 2 ^ 16 = f (nat x / 2 ^ 16) (nat y / 2 ^ 16) (nat z / 2 ^ 16) % 2 ^ 16
    let ops (f : FFmt) (add mul fma max : Instr) : Prop :=
      each add (fun x y _ => f.rne ((f.value x).add (f.value y))) ∧
      each mul (fun x y _ => f.rne ((f.value x).mul (f.value y))) ∧
      each fma (fun x y z => f.rne (((f.value x).mul (f.value y)).add (f.value z))) ∧
      each max (fun x y _ => f.pick true x y)
    ops fp16 (.hadd2F16 g b a d) (.hmul2F16 g b a d) (.hfma2F16 g b a d) (.hmax2F16 g b a d) ∧
    ops bf16 (.hadd2Bf16 g b a d) (.hmul2Bf16 g b a d) (.hfma2Bf16 g b a d) (.hmax2Bf16 g b a d)

/-- R118: the conversions that use no slot. -/
def Obligations.PlainConversions : Prop :=
  ∀ (s : State) (t : Team) (g : Guard) (a d : Reg), CanIssue s t g (fun _ => [a.toNat, d.toNat]) →
    let one (i : Instr) (f : Word → Word) : Prop := Gives i s t g 4 d.toNat fun _ x => f (x.reg a.toNat)
    one (.cvtI2fS32 g a d) (fun x => rne32 (.fin (sgn x < 0) (sgn x).natAbs 0)) ∧
    one (.cvtI2fN32 g a d) (fun x => rne32 (.fin false (nat x) 0)) ∧
    one (.cvtF2iS32 g a d) (fun x => BitVec.ofInt 32 (toIntClamped .nearest 0 (-(2 ^ 31)) (2 ^ 31 - 1) (val32 x))) ∧
    one (.cvtF2iN32 g a d) (fun x => BitVec.ofInt 32 (toIntClamped .nearest 0 0 (2 ^ 32 - 1) (val32 x))) ∧
    one (.cvtF2hF16 g a d) (fun x => BitVec.ofNat 32 (fp16.rne (val32 x))) ∧
    one (.cvtF2hBf16 g a d) (fun x => BitVec.ofNat 32 (bf16.rne (val32 x))) ∧
    one (.cvtH2fF16 g a d) (fun x => rne32 (fp16.value (nat x % 2 ^ 16))) ∧
    one (.cvtH2fBf16 g a d) (fun x => rne32 (bf16.value (nat x % 2 ^ 16)))

/-- R95, R94: the predicate instructions; p7 reads 1, and a write to it is discarded. -/
def Obligations.PredicateInstructions : Prop :=
  ∀ (s : State) (t : Team) (g : Guard) (b a d : Pred), CanIssue s t g (fun _ => []) →
    Decides (.pand g b a d) s t g d (fun x => x.pred a && x.pred b) ∧
    Decides (.por g b a d) s t g d (fun x => x.pred a || x.pred b) ∧
    Decides (.pxor g b a d) s t g d (fun x => x.pred a != x.pred b) ∧
    Decides (.pnot g a d) s t g d (fun x => !x.pred a) ∧
    Decides (.pmov g a d) s t g d (fun x => x.pred a) ∧
    ∀ x : Fibre, x.pred 7 = true

/-- R69, R72 to R75: votes, shuffles, group reductions and `match` of a whole bundle, over its guard-true fibres. -/
def Obligations.Collectives : Prop :=
  ∀ (s : State) (t : Team) (g : Guard) (p q : Pred) (b a d : Reg), t.whole s.cur.fibs = true →
    let act := s.active t g
    let src (l : Nat) : Option Nat := act.find? fun j => laneOf j == l
    let reg (i : Nat) : Word := (t.fibre i).reg a.toNat
    let tree (f : Word → Word → Word) : Word :=
      ((levels f 5 ((List.range 32).map fun l => (src l).map reg)).headD none).getD 0
    (CanIssue s t g (fun _ => []) →
      Decides (.voteAll g p q) s t g q (fun _ => act.all fun i => (t.fibre i).pred p) ∧
      Decides (.voteAny g p q) s t g q (fun _ => act.any fun i => (t.fibre i).pred p)) ∧
    (CanIssue s t g (fun _ => [d.toNat]) →
      ∃ v : Word, Gives (.voteBallot g p d) s t g 4 d.toNat (fun _ _ => v) ∧
        ∀ l, l < 32 → v.getLsbD l = act.any fun i => laneOf i == l && (t.fibre i).pred p) ∧
    (CanIssue s t g (fun _ => [a.toNat, b.toNat, d.toNat]) →
      let from? (i : Instr) (f : Nat → Nat → Option Nat) : Prop :=
        Gives i s t g 4 d.toNat fun k x => (((f (laneOf k) (nat (x.reg b.toNat))).bind src).map reg).getD (x.reg a.toNat)
      from? (.shflIdx g b a d) (fun _ n => some (n % 32)) ∧
      from? (.shflUp g b a d) (fun l n => if n ≤ l then some (l - n) else none) ∧
      from? (.shflDown g b a d) (fun l n => if l + n ≤ 31 then some (l + n) else none) ∧
      from? (.shflXor g b a d) (fun l n => some (l ^^^ (n % 32)))) ∧
    (CanIssue s t g (fun _ => [a.toNat, d.toNat]) →
      let all (i : Instr) (f : Word → Word → Word) : Prop := Gives i s t g 4 d.toNat fun _ _ => tree f
      all (.gredAddS32 g a d) (fun x y => BitVec.ofNat 32 (nat x + nat y)) ∧
      all (.gredAddF32 g a d) fadd ∧
      all (.gredMinS32 g a d) (fun x y => if sgn x ≤ sgn y then x else y) ∧
      all (.gredMaxS32 g a d) (fun x y => if sgn x ≤ sgn y then y else x) ∧
      all (.gredMinF32 g a d) fmin ∧
      all (.gredMaxF32 g a d) fmax ∧
      all (.gredAnd g a d) (fun x y => x &&& y) ∧
      all (.gredOr g a d) (fun x y => x ||| y) ∧
      ∃ v : Fibre → Word, Gives (.matchLanes g a d) s t g 4 d.toNat (fun _ x => v x) ∧
        ∀ x l, l < 32 → (v x).getLsbD l = act.any fun j => laneOf j == l && reg j == x.reg a.toNat)

/-- R112, R115 to R120, R122: the conversions through a format slot, with the draws of a stochastic slot, and `rgen`. -/
def Obligations.SlotConversions : Prop :=
  ∀ (s : State) (t : Team) (g : Guard) (n : Slot) (sl : SlotVal) (a d : Reg), s.slot t n = some sl →
    let gen := (s.core t.core).gen
    let draws (i : Instr) (k : Nat) (ws : Nat → Fibre → List (Nat × Word)) : Prop :=
      ∃ u, Lands s u t (s.active t g) 4 ws (fun _ _ => []) ∧
        ((sl.rnd = .stochastic ∧ s.active t g ≠ []) → exec i s = .next (u.modCore t.core fun c => { c with gen := lfsrSteps k gen })) ∧
        (¬ (sl.rnd = .stochastic ∧ s.active t g ≠ []) → exec i s = .next u)
    (CanIssue s t g (fun _ => [a.toNat, d.toNat]) →
      draws (.cvtfNar g n a d) 1 (fun k x => [(d.toNat, narrow sl (drawValue gen (laneOf k) 0) (x.reg a.toNat))]) ∧
      draws (.cvtfWid g n a d) (if sl.elem = .int32 then 1 else 0)
        (fun k x => [(d.toNat, widen sl (drawValue gen (laneOf k) 0) (x.reg a.toNat))])) ∧
    (sl.elem.width = 8 → CanIssue s t g (fun _ => [a.toNat, a.toNat + 1, a.toNat + 2, a.toNat + 3, d.toNat]) →
      ∃ v : Nat → Fibre → Word, draws (.pk4 g n a d) 1 (fun k x => [(d.toNat, v k x)]) ∧
        ∀ k x e, e < 4 → nat (v k x) / 2 ^ (8 * e) % 2 ^ 8 =
          nat (narrow sl (drawValue gen (laneOf k) e) (x.reg (a.toNat + e))) % 2 ^ 8) ∧
    (sl.elem.width = 8 → CanIssue s t g (fun _ => [a.toNat, d.toNat, d.toNat + 1, d.toNat + 2, d.toNat + 3]) →
      draws (.upk4 g n a d) 0 (fun k x => (List.range 4).map fun e =>
        (d.toNat + e, widen sl (drawValue gen (laneOf k) e) (BitVec.ofNat 32 (nat (x.reg a.toNat) / 2 ^ (8 * e) % 2 ^ 8))))) ∧
    (CanIssue s t g (fun _ => [d.toNat]) →
      Gives (.rgen g d) s t g 4 d.toNat fun k _ => gen.rotateRight (3 * laneOf k % 32))

/-! ## Control -/

/-- R57 to R59, R63: branches. The fibres whose guard holds go to the target; a false hint counts a miss; a regroup mark sends the fibres
that take the branch to the pool of their target. An indirect target must be listed for its site (R43). -/
def Obligations.Branches : Prop :=
  ∀ (s : State) (t : Team) (g : Guard) (off : BitVec 20) (uni : Bool) (a : Reg),
    let pcTo (p : Fibre → Word) : Nat → Fibre → Fibre := fun _ x => { x with pc := if guardHolds g x then p x else x.pc + 4 }
    let direct : Fibre → Word := fun x => x.pc + BitVec.ofInt 32 (2 * off.toInt)
    let listed : Prop := ∀ i ∈ s.active t g, ∃ l, assoc t.kernel.targets (nat (t.fibre i).pc) = some l ∧ nat ((t.fibre i).reg a.toNat) ∈ l
    (CanIssue s t g (fun _ => []) →
      (∃ u, exec (.br g off uni) s = .next u ∧ Turns s u t uni (pcTo direct) []) ∧
      ∃ u, exec (.brRgp g off uni) s = .next u ∧ Turns s u t uni (pcTo direct) (s.active t g)) ∧
    (CanIssue s t g (fun _ => [a.toNat]) → listed →
      (∃ u, exec (.brx g uni a) s = .next u ∧ Turns s u t uni (pcTo fun x => x.reg a.toNat) []) ∧
      ∃ u, exec (.brxRgp g uni a) s = .next u ∧ Turns s u t uni (pcTo fun x => x.reg a.toNat) (s.active t g))

/-- R60 to R62: calls and returns. A call writes pc + 4 to link entry cd, in the core below 8 and else as a store to the fibre's slice of
spill memory, and counts cd up; a return takes the entry below, once it is known, and counts cd down. The model's choices in it: log entry
61. -/
def Obligations.CallsAndReturns : Prop :=
  ∀ (s : State) (t : Team) (g : Guard) (off : BitVec 20) (uni : Bool) (a : Reg),
    let act := s.active t g
    let spill : List Item := act.filterMap fun i =>
      if (t.fibre i).cd < 8 then none else s.item t .store i (linkPlace t i (t.fibre i).cd) 4 [] [] ((t.fibre i).pc + 4) 0
    let stored : State := s.fresh.addReqs t s.cur.fibs (s.curPc t) s.nextId .store .rlx (lineGroups spill)
    let called (p : Fibre → Word) : Nat → Fibre → Fibre := fun i x =>
      if i ∈ act then
        { x with pc := p x, links := if x.cd < 8 then x.links.set x.cd (x.pc + 4) else x.links, cd := x.cd + 1 }
      else { x with pc := x.pc + 4 }
    let returned (w : Nat → Word) : Nat → Fibre → Fibre := fun i x =>
      if i ∈ act then { x with pc := w i, cd := x.cd - 1 } else { x with pc := x.pc + 4 }
    let linked : Prop := NoCause s t g (s.linkChecks t .store fun x => x.cd) ∧ (∀ i ∈ act, (t.fibre i).cd ≠ 255) ∧
      s.accessStalls t act false (lineGroups spill) = false
    let listed : Prop := ∀ i ∈ act, ∃ l, assoc t.kernel.targets (nat (t.fibre i).pc) = some l ∧ nat ((t.fibre i).reg a.toNat) ∈ l
    (CanIssue s t g (fun _ => []) → linked →
      ∃ u, exec (.call g off uni) s = .next u ∧ Turns stored u t uni (called fun x => x.pc + BitVec.ofInt 32 (2 * off.toInt)) []) ∧
    (CanIssue s t g (fun _ => [a.toNat]) → listed → linked →
      ∃ u, exec (.callx g uni a) s = .next u ∧ Turns stored u t uni (called fun x => x.reg a.toNat) []) ∧
    ∀ w : Nat → Word, CanIssue s t g (fun _ => []) → NoCause s t g (s.linkChecks t .load fun x => x.cd - 1) →
      (∀ i ∈ act, (t.fibre i).cd ≠ 0 ∧ s.linkWord t i = some (w i) ∧ nat (w i) % 2 = 0 ∧ nat (w i) < t.kernel.codeBytes) →
      ∃ u, exec (.ret g uni) s = .next u ∧ Turns (s.endLinks t act) u t uni (returned w) []

/-- R64 to R66, R70, R76, R84 to R87: creating and ending fibres, `home`, `nop`, and growing and shrinking windows. The model's choices in
it: log entries 11, 57. R64: a child begins at the target with copies of v0 to v7 and of the predicates, every other register 0, and cd 0.
-/
def Obligations.FibresAndWindows : Prop :=
  (∀ (s : State) (t : Team) (g : Guard) (off : BitVec 20) (n : BitVec 6), CanIssue s t g (fun _ => []) →
    let act := s.active t g
    (act.length ≤ t.dormant.length → s.performedAt t act .team = true →
      let r := s.forkAll t off (sortNats act) t.dormant false
      exec (.fork g off) s = .next (r.1.blockSome
        (fun i x => if i ∈ act ∧ i ∉ r.2 then some (.fork (x.pc + BitVec.ofInt 32 (2 * off.toInt))) else none) fun _ x => x)) ∧
    exec (.exit g) s = .next (s.endFibres t act .ended) ∧
    exec (.fend g) s = .next (s.endFibres t act .dormant) ∧
    exec (.home g) s = .next
      ((s.blockSome (fun _ x => if guardHolds g x then some .home else none) fun _ x => x).settle t.id) ∧
    Runs (.nop g) s t g 4 (fun _ _ => []) (fun _ _ => []) ∧
    (1 ≤ n.toNat → n.toNat ≤ 32 → (∀ i ∈ act, (t.fibre i).regs.length + 8 * n.toNat ≤ 8 * t.kernel.winMax) →
      let r := s.growAll t n.toNat (sortNats act)
      exec (.rgrow g n) s = .next (r.1.blockSome
        (fun i _ => if i ∈ act ∧ i ∉ r.2 then some (.grow n.toNat) else none) fun _ x => x)) ∧
    (1 ≤ n.toNat → n.toNat ≤ 32 → (∀ i ∈ act, 8 * n.toNat + 8 ≤ (t.fibre i).regs.length) →
      (∀ i ∈ act, ∀ p ∈ (t.fibre i).pend, p.reg < (t.fibre i).regs.length - 8 * n.toNat) →
      exec (.rshrink g n) s = .next
        ((act.foldl (fun s i => s.giveBack t (laneOf i) ((t.fibre i).blocks.drop ((t.fibre i).blocks.length - n.toNat))) s).writeFibres
          act 4 fun _ x => { x with
            blocks := x.blocks.take (x.blocks.length - n.toNat), regs := x.regs.take (x.regs.length - 8 * n.toNat) }))) ∧
  (∀ (s : State) (t : Team) (g : Guard) (off : BitVec 20) (p : Nat) (bs : List Nat) (s' : State),
    CanIssue s t g (fun _ => []) → s.active t g = [p] → s.performedAt t [p] .team = true →
    p < t.fibres.length → t.dormant ≠ [] → t.dormant.headD 0 ∉ s.cur.fibs →
    s.grantNow t p (laneOf (t.dormant.headD 0)) t.kernel.winInit = some (bs, s') →
    (∃ t', s'.team? t.id = some t' ∧ t'.fibres = t.fibres) →
    ∃ u, exec (.fork g off) s = .next u ∧
      let c := u.fibreNow t (t.dormant.headD 0)
      c.cond = .live ∧ c.wait = none ∧ c.pc = (t.fibre p).pc + BitVec.ofInt 32 (2 * off.toInt) ∧ c.cd = 0 ∧
      c.preds = (t.fibre p).preds ∧ (∀ n, n < 8 → c.reg n = (t.fibre p).reg n) ∧ (∀ n, 8 ≤ n → c.reg n = 0) ∧
      c.blocks = bs ∧ (u.fibreNow t p).pc = (t.fibre p).pc + 4)

/-- R76, R236: `trap` and `brk` raise causes 0x1F and 0x7F in every fibre whose guard holds, before any effect. -/
def Obligations.Traps : Prop :=
  ∀ (s : State) (t : Team) (g : Guard) (code : BitVec 10), CanIssue s t g (fun _ => []) →
    let act := s.active t g
    (act ≠ [] →
      exec (.trap g code) s = .next (s.raise t { code := 0x1F, trap := code.toNat } act s.cur.fibs (s.curPc t)) ∧
      exec (.brk g) s = .next (s.raise t { code := 0x7F } act s.cur.fibs (s.curPc t))) ∧
    (act = [] →
      Runs (.trap g code) s t g 4 (fun _ _ => []) (fun _ _ => []) ∧ Runs (.brk g) s t g 4 (fun _ _ => []) (fun _ _ => []))

/-! ## Global memory -/

/-- R183 to R185, R188, R181: loads that pass their checks. Each lane's access stands in the request of its 256-byte line, its registers
are pending, and a dropped lane's are known to be 0. R183, R30: an odd vd of a 64-bit load is illegal. -/
def Obligations.Loads : Prop :=
  ∀ (s : State) (t : Team) (g : Guard) (m : BitVec 4) (w : Width) (sc : Scope) (r : Rec) (i d : Reg),
    let one (e : Instr) (x : GAccess) : Prop :=
      CanLoad s t g (fun _ => x.addr ++ x.data ++ x.dst) x.dst → Placed s t g x (s.placedError t) →
        ∃ u, exec e s = .next u ∧ Requests s u t (s.active t g) x
    one (.ld g m r i d) (loadAccess g 4 false .rlx r i m.toNat [d.toNat]) ∧
    ((w = .w64 → d.toNat % 2 = 0) →
      one (.ldNarrowWide g w r i d) (loadAccess g (Width.bytes w) (widthSigned w) .rlx r i 0 (widthRegs w d.toNat))) ∧
    (d.toNat % 2 = 1 → Quiet s t → g ≠ .neg 7 → s.active t g ≠ [] →
      exec (.ldNarrowWide g .w64 r i d) s = .next (s.raise t { code := 0x01 } (s.active t g) s.cur.fibs (s.curPc t))) ∧
    one (.ldAcq g sc r i d) (loadAccess g 4 false (.acq sc) r i 0 [d.toNat])

/-- R183 to R185, R188: stores that pass their checks, a release after what precedes it at its scope (R248, R249). R183, R30: an odd vd of a
64-bit store is illegal. -/
def Obligations.Stores : Prop :=
  ∀ (s : State) (t : Team) (g : Guard) (m : BitVec 4) (w : Width) (sc : Scope) (r : Rec) (i d : Reg),
    let one (e : Instr) (x : GAccess) : Prop :=
      CanIssue s t g (fun _ => x.addr ++ x.data ++ x.dst) → Placed s t g x (s.placedError t) →
        ∃ u, exec e s = .next u ∧ Requests s u t (s.active t g) x
    one (.st g m r i d) (storeAccess g 4 .rlx r i m.toNat [d.toNat]) ∧
    ((w = .w64 → d.toNat % 2 = 0) →
      one (.stNarrowWide g w r i d) (storeAccess g (Width.bytes w) .rlx r i 0 (widthRegs w d.toNat))) ∧
    (d.toNat % 2 = 1 → Quiet s t → g ≠ .neg 7 → s.active t g ≠ [] →
      exec (.stNarrowWide g .w64 r i d) s = .next (s.raise t { code := 0x01 } (s.active t g) s.cur.fibs (s.curPc t))) ∧
    (s.performedAt t (s.active t g) sc = true → one (.stRel g sc r i d) (storeAccess g 4 (.rel sc) r i 0 [d.toNat]))

/-- R186 to R188: atomics that pass their checks; their result register is pending. R130, R186: the new word of each atomic operation,
from the old word and the operands. -/
def Obligations.Atomics : Prop :=
  (∀ (s : State) (t : Team) (g : Guard) (r : Rec) (i a d : Reg) (os : OrdScope),
    let one (e : Instr) (op : AtomOp) : Prop :=
      let x := atomAccess g op r i d
      CanIssue s t g (fun _ => x.addr ++ x.data ++ x.dst) → Placed s t g x (s.placedError t) →
        ∃ u, exec e s = .next u ∧ Requests s u t (s.active t g) x
    let ord (e : Instr) (op : AtomOp) : Prop :=
      let x := atomOrdAccess g op os a d
      CanIssue s t g (fun _ => x.addr ++ x.data ++ x.dst) → Placed s t g x (s.placedError t) →
        (∀ sc, relScope os = some sc → s.performedAt t (s.active t g) sc = true) →
        ∃ u, exec e s = .next u ∧ Requests s u t (s.active t g) x
    one (.atomAddS32 g r i d) .addS32 ∧ one (.atomAddF32 g r i d) .addF32 ∧ one (.atomMinS32 g r i d) .minS32 ∧
    one (.atomMaxS32 g r i d) .maxS32 ∧ one (.atomMinN32 g r i d) .minN32 ∧ one (.atomMaxN32 g r i d) .maxN32 ∧
    one (.atomAnd g r i d) .and ∧ one (.atomOr g r i d) .or ∧ one (.atomXor g r i d) .xor ∧ one (.atomExch g r i d) .exch ∧
    one (.atomCas g r i d) .cas ∧
    ord (.atomOrdAddS32 g os a d) .addS32 ∧ ord (.atomOrdAddF32 g os a d) .addF32 ∧ ord (.atomOrdMinS32 g os a d) .minS32 ∧
    ord (.atomOrdMaxS32 g os a d) .maxS32 ∧ ord (.atomOrdAnd g os a d) .and ∧ ord (.atomOrdOr g os a d) .or ∧
    ord (.atomOrdExch g os a d) .exch ∧ ord (.atomOrdCas g os a d) .cas) ∧
  (∀ old x y : Word,
    atomNew .addS32 old x y = BitVec.ofNat 32 (nat old + nat x) ∧
    atomNew .addF32 old x y = rne32 ((val32 old).add (val32 x)) ∧
    atomNew .minS32 old x y = (if sgn old ≤ sgn x then old else x) ∧
    atomNew .maxS32 old x y = (if sgn old ≤ sgn x then x else old) ∧
    atomNew .minN32 old x y = (if nat old ≤ nat x then old else x) ∧
    atomNew .maxN32 old x y = (if nat old ≤ nat x then x else old) ∧
    atomNew .and old x y = old &&& x ∧ atomNew .or old x y = old ||| x ∧ atomNew .xor old x y = old ^^^ x ∧
    atomNew .exch old x y = x ∧ atomNew .cas old x y = (if old = x then y else old))

/-- R186 to R188, R184, R312: reductions and flagged stores that pass their checks; a prefetch, which raises nothing and writes no
register. -/
def Obligations.ReductionsAndPrefetch : Prop :=
  ∀ (s : State) (t : Team) (g : Guard) (r : Rec) (i a b d : Reg),
    let one (e : Instr) (op : AtomOp) : Prop :=
      let x := redAccess g op r i d
      CanIssue s t g (fun _ => x.addr ++ x.data ++ x.dst) → Placed s t g x (fun _ => s.redError t) →
        ∃ u, exec e s = .next u ∧ Requests s u t (s.active t g) x
    one (.redAddS32 g r i d) .addS32 ∧ one (.redAddF32 g r i d) .addF32 ∧ one (.redMinS32 g r i d) .minS32 ∧
    one (.redMaxS32 g r i d) .maxS32 ∧ one (.redMinN32 g r i d) .minN32 ∧ one (.redMaxN32 g r i d) .maxN32 ∧
    one (.redAnd g r i d) .and ∧ one (.redOr g r i d) .or ∧ one (.redXor g r i d) .xor ∧
    (CanIssue s t g (fun _ => [i.toNat]) →
      s.accessStalls t (s.active t g) true (lineGroups (s.pfItems t (s.active t g) r.toNat i.toNat)) = false →
      ∃ u, exec (.pf g r i) s = .next u ∧ ∀ k, u.fibreNow t k =
        if k ∈ s.cur.fibs ∧ k < t.fibres.length then { t.fibre k with pc := (t.fibre k).pc + 4 } else t.fibre k) ∧
    (CanIssue s t g (fun _ => [a.toNat, a.toNat + 1, b.toNat, b.toNat + 1, d.toNat]) →
      let item (k : Nat) : Option Item :=
        s.item t .store k (pointerAddr t ((t.fibre k).pair a.toNat) 4) 4 [] [] ((t.fibre k).reg d.toNat) 0
      let kept := (s.active t g).filter fun k => (item k).isSome
      let items : List Item := kept.filterMap fun k => (item k).map fun x =>
        { x with lane := { x.lane with flag := s.flagRef t kept b.toNat (t.fibre k) } }
      (∀ k ∈ s.active t g, ∀ code, s.stfError t a.toNat b.toNat code (t.fibre k) = none) →
      s.accessStalls t (s.active t g) false (lineGroups items) = false →
      ∃ u, exec (.stf g b a d) s = .next u ∧ Requests s u t (s.active t g) (flaggedAccess g a d))

/-! ## Ordering and special registers -/

/-- R252, R248 to R250, R208: a fence that need not wait writes back what its release asks for and drops what its acquire asks for; `ltime`
reads the logical time once no earlier access to a leased page is outstanding. The model's choices in it: log entries 20, 61, 80. R226,
R227: a `wait` on the waiter's own team, or on a launch of this device that its class may wait on, blocks each fibre at its own pc, with the
word's address, the value compared and the condition; its load has started. -/
def Obligations.FenceTimeAndWait : Prop :=
  (∀ (s : State) (t : Team) (g : Guard) (sc : Scope) (d : Reg),
    (CanIssue s t g (fun _ => []) → s.active t g ≠ [] →
      let passes (os : OrdScope) (b : State) : Prop := s.fenceWaits t (s.active t g) os = false →
        exec (.fence g os) s = .next (b.advance 4)
      let dropped (b : State) : State := (b.spreadSeen t (s.active t g) sc).acquireViews t.core sc
      (s.seenWaits t (s.active t g) sc = false → passes (.acq sc) (dropped s)) ∧
      passes (.rel sc) (s.releaseViews t.core sc) ∧
      (s.seenWaits t (s.active t g) sc = false → passes (.ar sc) (dropped (s.releaseViews t.core sc)))) ∧
    (CanIssue s t g (fun _ => [d.toNat]) →
      (∀ r ∈ s.pendingReqs t (s.active t g), ¬ (r.page.ty = .normal ∧ r.page.cls = .leased)) →
      (∀ p ∈ s.pendingPosts t (s.active t g), ¬ (p.ty = .normal ∧ p.cls = .leased)) →
      Gives (.ltime g d) s t g 4 d.toNat fun _ _ => BitVec.ofNat 32 (s.core t.core).lt.toNat)) ∧
  (∀ (s : State) (t : Team) (g : Guard) (c : WaitCond) (k : Sys2Proof.Class) (a d : Reg),
    CanIssue s t g (fun _ => [a.toNat, a.toNat + 1, d.toNat, d.toNat + 1]) →
    (∀ i ∈ s.active t g, partyLegal ((t.fibre i).reg (d.toNat + 1)) = true ∧ s.asksOther ((t.fibre i).reg (d.toNat + 1)) = false ∧
      s.partyError t k ((t.fibre i).reg (d.toNat + 1)) = none ∧
      s.placedError t .load false (pointerAddr t ((t.fibre i).pair a.toNat) 4) = none ∧
      pointerAddr t ((t.fibre i).pair a.toNat) 4 ≠ .ok none) →
    s.accessStalls t (s.active t g) true (lineGroups (s.waitItems t (s.active t g) a.toNat d.toNat)) = false →
    ∃ u, exec (.wait g c k a d) s = .next u ∧ ∀ i ∈ s.active t g, i < t.fibres.length →
      (u.fibreNow t i).pc = (t.fibre i).pc ∧ (u.fibreNow t i).regs = (t.fibre i).regs ∧
      ∃ w, (u.fibreNow t i).wait = some (.word w) ∧ w.cc = c ∧ w.value = (t.fibre i).reg d.toNat ∧ w.asid = t.asid ∧
        pointerAddr t ((t.fibre i).pair a.toNat) 4 = .ok (some w.va))

/-- R209, R131 to R133: `lpub` unpublishes the team's window at the named local address, or, once its core holds every block of the window
with all tokens, fills the window and writes the entry. The model's choices in it: log entries 12, 52. -/
def Obligations.Publication : Prop :=
  ∀ (s : State) (t : Team) (g : Guard) (a d : Reg), CanIssue s t g (fun _ => [a.toNat, a.toNat + 1, d.toNat, d.toNat + 1]) →
    let act := s.active t g
    let x := t.fibre (actingLane act)
    let w := x.reg d.toNat
    act ≠ [] → NoCause s t g (s.lpubChecks t act d.toNat a.toNat) →
      (∀ k, pubSize w = 0 → s.windowAt t (pubLbase w) = some k →
        exec (.lpub g a d) s = .next ((s.unpublish t.core k).advance 4)) ∧
      (∀ va, pubSize w ≠ 0 → pubPlace t (x.pair a.toNat) (pubSize w * 8192) = .ok (some va) →
        let pages := s.pubBlocks t va (pubSize w)
        (∀ b ∈ blocksOfPages pages, (∃ h, s.hold? (.pubCore t.core) b = some h ∧ h.writable = true) ∧
          (∀ q, s.want? (.pubCore t.core) b = some q → q.denied = false) ∧
          s.windowHere t.core b = false ∧ ∀ u ∈ (s.core t.core).unpub, u.blk ≠ b) →
        s.pubAbsent t va (pubSize w) = [] →
        (∀ u ∈ (s.core t.core).unpub, let la := t.lbase.getD 0 + pubLbase w; u.la + 128 ≤ la ∨ la + pubSize w * 8192 ≤ u.la) →
        exec (.lpub g a d) s = .next ((s.openWindow t w (x.reg (d.toNat + 1)) va pages).advance 4))

/-- R237, R347: what `srd` reads from each special register. -/
def Obligations.SpecialRegisterReads : Prop :=
  ∀ (s : State) (t : Team) (g : Guard) (d : Reg), CanIssue s t g (fun _ => [d.toNat]) →
    let reads (r : SpecialReg) (v : Nat → Nat) : Prop :=
      Gives (.srd g r d) s t g 4 d.toNat fun i _ => BitVec.ofNat 32 (v i)
    let core := s.core t.core
    let fault (f : FaultRec → Nat) : Nat := match (t.handlerFor.bind s.team?).bind fun x => x.faultRec with
      | some q => f q
      | none => 0
    reads .fid (fun i => i) ∧ reads .lane (fun i => i % 32) ∧ reads .hgrp (fun i => i / 32) ∧
    reads .team (fun _ => t.num) ∧ reads .nteam (fun _ => t.nteam.toNat) ∧ reads .core (fun _ => t.core) ∧
    reads .die (fun _ => core.die) ∧ reads .dev (fun _ => s.fab.dev.toNat) ∧ reads .depth (fun _ => t.depth) ∧
    reads .cls (fun _ => t.cls) ∧ reads .ltime (fun _ => core.lt.toNat) ∧ reads .mtime (fun _ => s.sys.mtime.toNat) ∧
    Gives (.srd g .orient d) s t g 4 d.toNat (fun _ _ => orient core.die) ∧
    reads .cause (fun _ => fault fun q => q.cause.toNat) ∧ reads .faddr (fun _ => fault fun q => q.addr.toNat % 2 ^ 32) ∧
    reads .fmask (fun _ => fault fun q => q.fmask.toNat) ∧ reads .epc (fun _ => fault fun q => q.epc.toNat) ∧
    reads .rpath (fun _ => core.rpath.toNat)

/-- R237, R39, R325: writes of special registers: a register marked Read raises cause 0x01, a fault-record register outside the handler
cause 0x03, and `sr.rpath` takes the word of a fibre that writes it. That the fibres of one instruction write in ascending lane order, so that
the word of the last stays in a register that they share, is the model's choice (log entry 92). -/
def Obligations.SpecialRegisterWrites : Prop :=
  ∀ (s : State) (t : Team) (g : Guard) (r : SpecialReg) (d : Reg), CanIssue s t g (fun _ => [d.toNat]) →
    let act := s.active t g
    let fault : Bool := r == .cause || r == .faddr || r == .fmask || r == .epc
    (fault = false → r ≠ .rpath → act ≠ [] →
      exec (.swr g r d) s = .next (s.raise t { code := 0x01 } act s.cur.fibs (s.curPc t))) ∧
    (fault = true → t.handlerFor = none → act ≠ [] →
      exec (.swr g r d) s = .next (s.raise t { code := 0x03 } act s.cur.fibs (s.curPc t))) ∧
    (fault = true → t.handlerFor ≠ none →
      exec (.swr g r d) s = .next ((act.foldl (fun s i => s.setSpecial t r ((t.fibre i).reg d.toNat)) s).advance 4)) ∧
    (r = .rpath → ∃ u, exec (.swr g r d) s = .next u ∧ ∃ b : State, u = b.advance 4 ∧
      b = { s with cores := b.cores } ∧ (∀ c, c ≠ t.core → b.core c = s.core c) ∧
      (t.core < s.cores.length → b.core t.core = { s.core t.core with
        rpath := match act.getLast? with
          | some i => (t.fibre i).reg d.toNat
          | none => (s.core t.core).rpath }))

/-! ## Local memory -/

/-- R129, R126, R6: an aligned local load inside the allotment gives the four bytes at its address, the first lowest, once no engine
command is still to write them (R153). The model's choices in it: log entry 18. -/
def Obligations.LocalLoad : Prop :=
  ∀ (s : State) (t : Team) (g : Guard) (imm : BitVec 9) (a d : Reg) (base : Nat),
    CanIssue s t g (fun _ => [a.toNat, d.toNat]) → (s.core t.core).lmem.wf = true → t.lbase = some base →
    let addr (x : Fibre) : Nat := (((nat (x.reg a.toNat) : Int) + imm.toInt) % 2 ^ 19).toNat
    (∀ i ∈ s.active t g, addr (t.fibre i) % 4 = 0 ∧ addr (t.fibre i) + 4 ≤ t.lsize ∧ s.readBlocked t (addr (t.fibre i)) 4 = false) →
    Gives (.lld g imm a d) s t g 4 d.toNat fun _ x =>
      let byte (k : Nat) : Byte := (s.core t.core).lmem.get (base + addr x + k)
      byte 3 ++ byte 2 ++ byte 1 ++ byte 0

/-- R129, R127: a local store writes each lane's word at its address, the highest lane last; no register, no other byte, and nothing else
changes. -/
def Obligations.LocalStore : Prop :=
  ∀ (s : State) (t : Team) (g : Guard) (imm : BitVec 9) (a d : Reg) (base : Nat),
    CanIssue s t g (fun _ => [a.toNat, d.toNat]) → (s.core t.core).lmem.wf = true → t.lbase = some base → t.core < s.cores.length →
    let act := s.active t g
    let addr (i : Nat) : Nat := (((nat ((t.fibre i).reg a.toNat) : Int) + imm.toInt) % 2 ^ 19).toNat
    (∀ i ∈ act, addr i % 4 = 0 ∧ addr i + 4 ≤ t.lsize ∧ s.writeBlocked t (addr i) 4 = false) →
    ∃ m : Mem, exec (.lst g imm a d) s = .next ((s.modCore t.core fun c => { c with lmem := m }).advance 4) ∧ m.wf = true ∧
      (∀ b, (∀ i ∈ act, b < base + addr i ∨ base + addr i + 4 ≤ b) → m.get b = (s.core t.core).lmem.get b) ∧
      ∀ before i after, act = before ++ i :: after → (∀ j ∈ after, addr j ≠ addr i) →
        ∀ k, k < 4 → m.get (base + addr i + k) = ((t.fibre i).reg d.toNat).extractLsb' (8 * k) 8

/-- R130: local atomics: the lanes are applied in ascending order, and each receives the word before it. The model's choices in it: log
entry 18. -/
def Obligations.LocalAtomics : Prop :=
  ∀ (s : State) (t : Team) (g : Guard) (a d : Reg),
    let act := s.active t g
    let addr (i : Nat) : Nat := nat ((t.fibre i).reg a.toNat) % 2 ^ 19
    let one (e : Instr) (op : AtomOp) : Prop :=
      CanIssue s t g (fun _ => a.toNat :: atomData op d.toNat) → t.lbase ≠ none →
      (∀ i ∈ act, addr i % 4 = 0 ∧ addr i + 4 ≤ t.lsize ∧ s.writeBlocked t (addr i) 4 = false) →
      ∃ b old, Swapped t op addr (fun i => (t.fibre i).reg d.toNat) (fun i => (t.fibre i).reg (d.toNat + 1)) act s b old ∧
        exec e s = .next (b.writeFibres act 4 fun i x => x.setReg d.toNat ((assoc old i).getD 0))
    one (.latomAddS32 g a d) .addS32 ∧ one (.latomAddF32 g a d) .addF32 ∧ one (.latomMinS32 g a d) .minS32 ∧
    one (.latomMaxS32 g a d) .maxS32 ∧ one (.latomAnd g a d) .and ∧ one (.latomOr g a d) .or ∧
    one (.latomExch g a d) .exch ∧ one (.latomCas g a d) .cas

/-! ## Barriers -/

/-- R135, R136, R139: `bar` blocks the fibres whose guard holds; `boinit` writes each object anew and drops a record armed on it; `boarr`
makes one arrival of its bytes for each lane, in ascending order. The model's choices in it: log entry 61. R136: an arrival of n bytes:
below what the object expects it only counts; from there on it flips the phase, clears the count and the contribution index, and notes an
excess. The widest scope of an arrival stays noted. -/
def Obligations.BarriersAndArrivals : Prop :=
  (∀ (s : State) (t : Team) (g : Guard) (k : Sys2Proof.Class) (b a : Reg),
    let act := s.active t g
    let obj (i : Nat) : Nat := nat ((t.fibre i).reg a.toNat) % 2 ^ 19
    let inside : Prop := ∀ i ∈ act, obj i % 16 = 0 ∧ obj i + 16 ≤ t.lsize ∧ s.writeBlocked t (obj i) 16 = false
    (CanIssue s t g (fun _ => []) → State.legalOwn t k = true → s.performedAt t act .team = true →
      exec (.bar g k) s = .next ((s.blockSome (fun _ x => if guardHolds g x then some .bar else none) fun _ x => x).settle t.id)) ∧
    (CanIssue s t g (fun _ => [a.toNat, b.toNat, b.toNat + 1]) → t.lbase ≠ none → inside →
      (∀ i ∈ act, nat ((t.fibre i).reg b.toNat) ≠ 0 ∧ nat ((t.fibre i).reg (b.toNat + 1)) / 2 ^ 24 % 2 ^ 6 = 0 ∧
        nat ((t.fibre i).reg (b.toNat + 1)) / 2 ^ 30 ≤ 1) →
      exec (.boinit g b a) s = .next ((act.foldl (fun s i =>
        s.boinitLane t (obj i) (initObject ((t.fibre i).reg b.toNat) ((t.fibre i).reg (b.toNat + 1)))) s).advance 4)) ∧
    (CanIssue s t g (fun _ => [a.toNat, b.toNat]) → t.lbase ≠ none → inside → s.performedAt t act .team = true →
      exec (.boarr g b a) s = .next
        ((act.foldl (fun s i => s.arrive t.id (obj i) (nat ((t.fibre i).reg b.toNat)) 2) s).advance 4))) ∧
  (∀ (s : State) (t : Team) (obj n scope : Nat), s.team? t.id = some t → t.core < s.cores.length → t.lbase ≠ none →
    (s.core t.core).lmem.wf = true → n ≠ 0 → scope < 8 → n < 2 ^ 32 →
    let o := s.object t obj
    let u := s.arrive t.id obj n scope
    (objArrived o + n < objExpected o →
      let o' := u.object t obj
      objArrived o' = objArrived o + n ∧ objPhase o' = objPhase o ∧ objExpected o' = objExpected o ∧ objRnext o' = objRnext o ∧
        objScope o' = max (objScope o) scope ∧ ∀ t', u.team? t.id = some t' → t'.fibres = t.fibres) ∧
    (objExpected o ≤ objArrived o + n → o.getLsbD armedBit = false →
      (∀ i ∈ t.live, ∀ a p, (t.fibre i).wait ≠ some (.bowait a p)) →
      let o' := u.object t obj
      objArrived o' = 0 ∧ objRnext o' = 0 ∧ objPhase o' = !objPhase o ∧ objExpected o' = objExpected o ∧
        objScope o' = max (objScope o) scope ∧ (objExpected o < objArrived o + n → o'.getLsbD 71 = true)))

/-- R137, R138: `botest` gives the phase and acquires; `bowait` lets the fibres go on that see another phase than they give, with an
acquire, and blocks the others at their own pc. -/
def Obligations.BarrierWaits : Prop :=
  ∀ (s : State) (t : Team) (g : Guard) (k : Sys2Proof.Class) (a d : Reg) (p : Pred),
    let act := s.active t g
    let obj (i : Nat) : Nat := nat ((t.fibre i).reg a.toNat) % 2 ^ 19
    let inside : Prop := ∀ i ∈ act, obj i % 16 = 0 ∧ obj i + 16 ≤ t.lsize ∧ s.writeBlocked t (obj i) 16 = false
    let phase (i : Nat) : Bool := (s.object t (obj i)).getLsbD 64
    (CanIssue s t g (fun _ => [a.toNat]) → t.lbase ≠ none → inside →
      exec (.botest g a p) s = .next
        ((act.foldl (fun x i => x.acquireObject t (obj i)) s).writeFibres act 4 fun i x => x.setPred p (phase i))) ∧
    (CanIssue s t g (fun _ => [a.toNat, d.toNat]) → t.lbase ≠ none → inside →
      (∀ i ∈ act, s.bowaitError k (s.object t (obj i)) = none) →
      let seen (i : Nat) : Bool := phase i != ((t.fibre i).reg d.toNat).getLsbD 0
      exec (.bowait g k a d) s = .next
        (((act.filter seen).foldl (fun x i => x.acquireObject t (obj i)) s).blockSome
          (fun i x => if i ∈ act ∧ seen i = false then
            some (.bowait (nat (x.reg a.toNat) % 2 ^ 19) ((x.reg d.toNat).getLsbD 0)) else none) fun _ x => x))

/-! ## Tile handles and engine commands -/

/-- R140, R141, R143 to R145, R148: the handle instructions, from the acting lane. -/
def Obligations.TileHandles : Prop :=
  ∀ (s : State) (t : Team) (g : Guard) (n : Rec) (st : HState) (k : Sys2Proof.Class) (a : Reg) (h : Handle),
    let act := s.active t g
    let x := t.handle h.toNat
    let v := nat ((t.fibre (actingLane act)).reg a.toNat)
    let idle : Prop := x.allotted = true ∧ (x.st = .free ∨ x.st = .full) ∧ s.regionBusy t h.toNat = false
    h.toNat < t.handles.length → act ≠ [] →
    (CanIssue s t g (fun _ => [a.toNat]) → x.fault = false →
      (x.allotted = false → v % 256 = 0 → 256 ≤ v → v ≤ 524288 → v ≤ t.regionTop →
        exec (.halloc g a h) s = .next ((s.moveHandle t h.toNat fun _ =>
          { HandleState.unallotted with allotted := true, base := t.regionTop - v, size := v }).advance 4)) ∧
      (idle → exec (.hbind g n a h) s = .next ((s.moveHandle t h.toNat fun y =>
        { y with st := .free, hwptr := 0, bound := some (n.toNat, v) }).advance 4)) ∧
      Gives (.hwptr g a h) s t g 4 a.toNat fun _ _ => BitVec.ofNat 32 (if x.allotted then x.hwptr else 0)) ∧
    (CanIssue s t g (fun _ => [a.toNat]) → Gives (.hstate g a h) s t g 4 a.toNat fun _ _ => x.word) ∧
    (CanIssue s t g (fun _ => []) → x.fault = false →
      (idle → exec (.hfree g h) s = .next ((s.setHandle t h.toNat .unallotted).advance 4)) ∧
      (x.allotted = true → exec (.cpcancel g h) s = .next ((s.cancelCmd t h.toNat).advance 4)) ∧
      (x.allotted = true → State.legalOwn t k = true →
        (x.st = st → exec (.hwait g st k h) s = .next (s.advance 4)) ∧
        (x.st ≠ st → exec (.hwait g st k h) s = .next
          (s.blockSome (fun i _ => if i ∈ act then some (.hwait h.toNat st) else none) fun _ y => y))))

/-- R140, R146, R147, R155: the copy instructions, from the acting lane: each puts a command for the handle's region in flight, and the
handle begins to fill or to drain. The model's choices in it: log entries 16, 26. R140, R146: what a command in flight is, and what its
start does to its handle: a fill makes the state filling and the write pointer 0, another command makes the state draining. -/
def Obligations.CopyCommands : Prop :=
  (∀ (s : State) (t : Team) (g : Guard) (n : Rec) (a : Reg) (h : Handle),
    let act := s.active t g
    let x := t.handle h.toNat
    let f := t.fibre (actingLane act)
    let starts (i : Instr) (kind : CmdKind) : Prop :=
      exec i s = .next ((s.addCmd t act h.toNat kind (s.curPc t) false).advance 4)
    let elem := nat (f.reg a.toNat)
    let fits : Prop := malformed (t.record n.toNat) = false ∧ rangeError t n.toNat h.toNat elem = none
    h.toNat < t.handles.length → act ≠ [] → x.fault = false → x.allotted = true → (x.st = .free ∨ x.st = .full) →
    (s.core t.core).cmds.length + (s.core t.core).reads.length < 256 →
    (CanIssue s t g (fun _ => [a.toNat]) →
      (fits → starts (.cpin g n a h) (.cpin n.toNat elem)) ∧
      (fits → t.refuses n.toNat = false → starts (.cpout g n a h) (.cpout n.toNat elem)) ∧
      starts (.cpfill g a h) (.fill (f.reg a.toNat))) ∧
    (∀ va, CanIssue s t g (fun _ => [a.toNat, a.toNat + 1]) → pointerAligned t (f.pair a.toNat) x.size 1 = .ok (some va) →
      starts (.cppush g a h) (.push va)) ∧
    (∀ va, CanIssue s t g (fun _ => [a.toNat, a.toNat + 1, a.toNat + 2]) →
      pointerAligned t (f.pair a.toNat) x.size 4 = .ok (some va) →
      starts (.cpred g a h) (.red va (nat (f.reg (a.toNat + 2)))))) ∧
  (∀ (s : State) (t : Team) (act : List Nat) (h : Nat) (kind : CmdKind) (epc : Word), s.team? t.id = some t → h < t.handles.length →
    t.core < s.cores.length →
    let u := s.addCmd t act h kind epc false
    (∃ m ∈ (u.core t.core).cmds, m.team = t.id ∧ m.h = h ∧ m.kind = kind ∧ m.base = (t.handle h).base ∧ m.size = (t.handle h).size ∧
      m.done = 0 ∧ m.started = false) ∧
    ∃ t', u.team? t.id = some t' ∧ (t'.handle h).size = (t.handle h).size ∧ (t'.handle h).base = (t.handle h).base ∧
      match kind with
      | .cpin .. => (t'.handle h).st = .filling ∧ (t'.handle h).hwptr = 0
      | .fill _ => (t'.handle h).st = .filling ∧ (t'.handle h).hwptr = 0
      | _ => (t'.handle h).st = .draining ∧ (t'.handle h).hwptr = (t.handle h).hwptr)

/-! ## Matrix quarters -/

/-- R160 to R165: a `qmma` whose checks find no cause multiplies row A by the image, the handle's bytes of the half or the registers of
the quarter's eight lanes, in every guard-true fibre. The model's choices in it: log entries 18, 31. R164: an INT8 accumulation adds the
exact sum of the products of two's complement elements, modulo 2^32. -/
def Obligations.MatrixMultiply : Prop :=
  (∀ (s : State) (t : Team) (g : Guard) (reuse half : Bool) (sl : Slot) (h : Handle) (ab bb db : BitVec 4) (v : SlotVal),
    let act := s.active t g
    let x := t.handle h.toNat
    let does (i : Instr) (img : Nat → Nat) : Prop := exec i s = .next
      ((s.latch t act ab reuse).writeFibres act 4 fun k f => accumulate v half (img (k % 32 / 8)) (4 * ab.toNat) (4 * db.toNat) f)
    s.slot t sl = some v →
    (CanIssue s t g (fun _ => group ab 16 ++ group db 16) →
      NoCause s t g (matrixChecks s t act sl half db (imageChecks t h.toNat half)) → act ≠ [] →
      (x.st = .full ∨ x.st = .draining) → (s.core t.core).cmds.length + (s.core t.core).reads.length + (distinct (act.map quarterOf)).length ≤ 256 →
      does (.qmmaHandle g reuse half sl h ab db) fun _ => s.handleImage t h.toNat half) ∧
    (CanIssue s t g (fun _ => group ab 16 ++ group db 16 ++ group bb 32) → NoCause s t g (matrixChecks s t act sl half db []) →
      does (.qmmaReg g reuse half sl bb ab db) fun q => regImage t (sortLanes (act.filter fun k => k % 32 / 8 == q)) (4 * bb.toNat))) ∧
  (∀ (sl : SlotVal) (half : Bool) (image a db : Nat) (f : Fibre) (j : Nat),
    sl.elem = .int8 → sl.scaleMode = 0 → j < 16 → db + 16 ≤ f.regs.length →
    let elem (bytes k : Nat) : Int := (BitVec.ofNat 8 (bytes / 2 ^ (8 * k))).toInt
    (accumulate sl half image a db f).reg (db + j) =
      f.reg (db + j) + BitVec.ofInt 32 (((List.range 64).map fun k =>
        elem (nat (f.reg (a + k / 4))) (k % 4) * elem image (16 * k + j)).sum))

/-- R169 to R173: promotion, clearing, the online softmax and the side registers. The model's choices in it: log entries 7, 18. -/
def Obligations.MatrixSideInstructions : Prop :=
  ∀ (s : State) (t : Team) (g : Guard) (l : Bool) (n : Slot) (v : SlotVal) (b a d : Reg) (sb db : BitVec 4),
    let act := s.active t g
    let gen := (s.core t.core).gen
    (CanIssue s t g (fun _ => a.toNat :: b.toNat :: group db 16) →
      (∀ i ∈ act, (t.fibre i).mat.isOpen = true → (t.fibre i).mat.tag = db) →
      exec (.qpro g b a db) s = .next (s.writeFibres act 4 fun _ x =>
        let sc := fmul (x.reg a.toNat) (x.reg b.toNat)
        let y := x.setRegs (4 * db.toNat)
          (((x.regsFrom (4 * db.toNat) 16).zip x.mat.part).map fun p => ffma p.2.round sc p.1)
        { y with mat := { x.mat with
          part := List.replicate 16 ⟨0, .none⟩, isOpen := false, lo := false, hi := false } })) ∧
    (CanIssue s t g (fun _ => group db 16) →
      exec (.qzero g db) s = .next (s.writeFibres act 4 fun _ x =>
        { x.setRegs (4 * db.toNat) (List.replicate 16 0) with mat := .reset })) ∧
    (CanIssue s t g (fun _ => group sb 16 ++ group db 16) →
      exec (.smx g sb db) s = .next (s.writeFibres act 4 fun _ x =>
        softmax (4 * sb.toNat) (4 * db.toNat) (fun p y => y.setRegs (4 * sb.toNat) p) x) ∧
      (s.slot t n = some v → softSlot v = true →
        let u := s.writeFibres act 4 fun i x =>
          softmax (4 * sb.toNat) (4 * db.toNat) (fun p y => y.setRegs (4 * sb.toNat) (packRegs v.elem.width
            ((List.range 16).map fun j => nat (narrow v (drawValue gen (laneOf i) j) (p.getD j 0))))) x
        ((v.rnd = .stochastic ∧ act ≠ []) →
          exec (.smxCvt g n sb db) s = .next (u.modCore t.core fun c => { c with gen := lfsrSteps 4 gen })) ∧
        (¬ (v.rnd = .stochastic ∧ act ≠ []) → exec (.smxCvt g n sb db) s = .next u))) ∧
    (CanIssue s t g (fun _ => [d.toNat]) →
      Gives (.qsr g l d) s t g 4 d.toNat fun _ x => if l then x.mat.l else x.mat.m) ∧
    (CanIssue s t g (fun _ => [a.toNat]) →
      exec (.qsw g l a) s = .next (s.writeFibres act 4 fun _ x =>
        { x with mat := if l then { x.mat with l := x.reg a.toNat } else { x.mat with m := x.reg a.toNat } }))

/-! ## Rows and near-bank units -/

/-- R321 to R323: a row instruction that passes its checks stands behind the earlier ones, in a row slot of its core, with one row
operation for each row and its function. The model's choices in it: log entries 21, 62. R323: what each row function makes of the bytes of
its source rows. -/
def Obligations.RowInstructions : Prop :=
  (∀ (s : State) (t : Team) (g : Guard) (d : Reg), CanIssue s t g (fun _ => (List.range 8).map fun k => d.toNat + k) →
    let act := s.active t g
    let f := t.fibre (actingLane act)
    let n := nat (f.reg (d.toNat + 6)) % 2 ^ 8 + 1
    let does (i : Instr) (fn : Word → RowFn) : Prop :=
      NoCause s t g (checkActing t act (fun x => t.objectError (rowObj (x.reg (d.toNat + 7)))) :: s.rowChecks t act (rowOperands fn d.toNat)) →
        ∃ cmd : RowCmd, exec i s = .next ({ s with rows := s.rows ++ [cmd], nextId := s.nextId + 1 }.advance 4) ∧
          cmd.team = t.id ∧ cmd.slot = some t.core ∧ cmd.fn = fn (f.reg (d.toNat + 6)) ∧ cmd.rows.length = n ∧
          cmd.obj = nat (f.reg (d.toNat + 7)) % 2 ^ 15 * 16 ∧ cmd.fib = actingLane act
    act ≠ [] → s.featureOn 4 = true → s.slotsHeld t.core < 64 →
    does (.rcopy g d) (fun _ => .copy) ∧
    does (.rand g d) (fun _ => .and) ∧ does (.ror g d) (fun _ => .or) ∧ does (.rxor g d) (fun _ => .xor) ∧
    does (.rnot g d) (fun _ => .not) ∧
    does (.rfill g d) (fun w => if w.getLsbD 8 then .pattern else if w.getLsbD 9 then .ones else .zeros)) ∧
  (∀ (a b : BlockData) (k : Nat), k < 1024 →
    (rowBlock .copy a b).getLsbD k = a.getLsbD k ∧ (rowBlock .pattern a b).getLsbD k = a.getLsbD k ∧
    (rowBlock .zeros a b).getLsbD k = false ∧ (rowBlock .ones a b).getLsbD k = true ∧
    (rowBlock .and a b).getLsbD k = (a.getLsbD k && b.getLsbD k) ∧ (rowBlock .or a b).getLsbD k = (a.getLsbD k || b.getLsbD k) ∧
    (rowBlock .xor a b).getLsbD k = (a.getLsbD k != b.getLsbD k) ∧ (rowBlock .not a b).getLsbD k = !a.getLsbD k)

/-- R333, R336, R337: the near-bank instructions on a unit whose row the pointer names. The model's choices in it: log entries 13, 30. -/
def Obligations.NearBankInstructions : Prop :=
  ∀ (s : State) (t : Team) (g : Guard) (d : Reg),
    let r := d.toNat
    let act := s.active t g
    let i := actingLane act
    let f := t.fibre i
    let at_ := s.unitNamed t r f
    let unit? := s.unit? at_.1 at_.2
    let named : Prop := NoCause s t g (s.rowChecks t act fun x => [unitOperand r x])
    act ≠ [] → s.featureOn 5 = true → named →
    (CanIssue s t g (fun _ => [r, r + 1, r + 2, r + 3]) → NoCause s t g ((s.nbloadChecks t r).map fun c => checkActing t act c) →
      let a := imageAddr f r
      let k := imageCount f r
      s.readBlocked t a (8 * k + 32) = false →
      let put (b : State) (w : Word) : Prop :=
        exec (.nbload g d) s = .next (b.writeFibres [i] 4 fun _ x => x.setReg (r + 3) w)
      (∀ u, unit? = some u → u.owner ≠ t.id → put s 0x80000001) ∧
      (∀ u, unit? = some u → u.owner = t.id → u.cond ≠ .held → put s 0x80000002) ∧
      ((∀ u, unit? = some u → u.owner = t.id ∧ u.cond = .held) →
        (k = 0 → put (s.freeUnit at_.1 at_.2) 0) ∧
        (k ≠ 0 → put (s.putUnit { unit?.getD (newUnit at_.1 at_.2 t.id) with
          scales := (List.range 8).map fun j => (s.core t.core).lmem.word (t.lbase.getD 0 + a + 8 * k + 4 * j)
          table := s.imageTable t a k
          upc := 0 }) 0))) ∧
    (CanIssue s t g (fun _ => (List.range 12).map fun k => r + k) → NoCause s t g (s.nbrunChecks t act r) →
      ∃ u v, unit? = some u ∧ exec (.nbrun g d) s = .next (({ s.putUnit v with nextId := s.nextId + 1 }).advance 4) ∧
        v.cond = .running ∧ v.upc = 0 ∧ v.steps = 0 ∧ v.acc = u.acc ∧ v.table = u.table ∧ v.obj = rowObj (f.reg (r + 11)) ∧
        v.ctr = [(f.reg (r + 9)).extractLsb' 0 16, (f.reg (r + 9)).extractLsb' 16 16, (f.reg (r + 10)).extractLsb' 0 16,
          (f.reg (r + 10)).extractLsb' 16 16]) ∧
    (CanIssue s t g (fun _ => [r, r + 1, r + 2]) →
      exec (.nbstat g d) s = .next (s.writeFibres [i] 4 fun _ x => x.setReg (r + 2) (nbWord t unit?))) ∧
    (CanIssue s t g (fun _ => [r, r + 1]) →
      (unit? = none → exec (.nbcancel g d) s = .next (s.advance 4)) ∧
      ∀ u, unit? = some u →
        (u.owner ≠ t.id → exec (.nbcancel g d) s = .next (s.advance 4)) ∧
        (u.owner = t.id → u.cond = .held → exec (.nbcancel g d) s = .next ((s.freeUnit at_.1 at_.2).idleEngines.advance 4)) ∧
        (u.owner = t.id → u.cond ≠ .held →
          exec (.nbcancel g d) s = .next (((s.endRun u 2).freeUnit at_.1 at_.2).idleEngines.advance 4)))

/-! ## System instructions -/

/-- R219, R215, R224, R311: `launch` by the leader, `wchild` and `errq`. The model's choices in it: log entry 61. R219: the outcome of a
`launch` that arms nothing: the launch number, or the word that names why nothing was enqueued. -/
def Obligations.SystemInstructions : Prop :=
  (∀ (s : State) (t : Team) (g : Guard) (k : Sys2Proof.Class) (d : Reg),
    let r := d.toNat
    let act := s.active t g
    (∀ va q, CanIssue s t g (fun _ => [r, r + 1, r + 2, r + 3]) → NoCause s t g (s.launchChecks t r) → act ≠ [] →
      launchPlace t ((t.fibre 0).pair r) = .ok (some va) → s.fetched t 0 va = some q → q.lanes = [] →
      s.performedAt t [0] .pkg = true → (ctlArm ((t.fibre 0).reg (r + 2)) = false → s.gatherClass t.id (q.data.getD 0) = none) →
      let o := ((s.useFetch t.core q).releaseOf t .pkg).launchOutcome t ((t.fibre 0).reg (r + 2)) (q.data.getD 0)
      exec (.launch g d) s = .next (o.s.writeFibres act 4 fun _ x => x.setReg (r + 3) o.value)) ∧
    (CanIssue s t g (fun _ => []) → act = [0] →
      (s.outstanding t.id = [] → exec (.wchild g k) s = .next ((s.acquireViews t.core .sys).advance 4)) ∧
      (s.outstanding t.id ≠ [] → (∀ l ∈ s.outstanding t.id, legalWait k (some l) = true) →
        exec (.wchild g k) s = .next (s.blockSome (fun _ x => if guardHolds g x then some .wchild else none) fun _ x => x))) ∧
    (CanIssue s t g (fun _ => (List.range 8).map fun n => r + n) → act ≠ [] →
      let p := s.popError t.asid.toNat
      exec (.errq g d) s = .next ((p.2.acquireViews t.core .sys).writeFibres act 4 fun _ x =>
        x.setRegs r ((List.range 8).map fun w => p.1.extractLsb' (32 * w) 32)))) ∧
  (∀ (s : State) (t : Team) (c : Word) (r : LineData), c.getLsbD 5 = false →
    let q := nat c % 2 ^ 4
    let o := s.launchOutcome t c r
    (s.queueOn q = false → o.value = 0x80000002 ∧ o.s = s) ∧
    (s.queueOn q = true → s.queueFull q = true → o.value = 0x80000001 ∧ o.s = s) ∧
    (s.queueOn q = true → s.queueFull q = false → o.value = BitVec.ofNat 32 (q * 65536 + (s.queue q).widx) ∧
      ∃ l ∈ o.s.launches, l.q = q ∧ l.slot = (s.queue q).widx ∧ l.status = .queued ∧ l.record = r ∧
        l.parent = (if c.getLsbD 4 then some t.id else none) ∧ l.depth = if c.getLsbD 4 then t.depth + 1 else 0))

/-- R206, R207, R234, R235: the privileged instructions, in the trap handler. The model's choices in it: log entries 10, 29, 72. -/
def Obligations.PrivilegedInstructions : Prop :=
  ∀ (s : State) (t : Team) (g : Guard) (d : Reg) (n : Nat), t.handlerFor = some n → s.active t g ≠ [] →
    let act := s.active t g
    let a : BitVec 10 := BitVec.ofNat 10 (nat ((t.fibre (actingLane act)).reg d.toNat))
    (CanIssue s t g (fun _ => [d.toNat]) →
      (s.viewsShut = false → exec (.sflush g d) s = .next ((s.flushSpace a).advance 4)) ∧
      (s.sys.bumps = [] → (a.toNat, s.genOf a + 1) ∉ s.sys.retiredGens → s.oldAccesses a s.nextId = false →
        ∃ b : State, exec (.asgen g d) s = .next ((b.writeBackAll).advance 4) ∧
          b = { s with sys := b.sys, nextId := s.nextId + 1 } ∧ b.genOf a = s.genOf a + 1)) ∧
    (CanIssue s t g (fun _ => []) →
      (s.performedAt t act .sys = true →
        (∀ x, s.team? n = some x → s.gatherFrame x = none) →
        let b := s.releaseViews t.core .pkg
        let e : State := { b with
          issues := b.cur.core :: b.issues
          teams := b.teams.filter fun x => x.id != t.id }.modCore t.core fun c => { c with handler := none }
        (e.team? n = none → exec (.tret g) s = .next e) ∧ ∀ x, e.team? n = some x → exec (.tret g) s = .next (e.resumeTrapped x)) ∧
      exec (.halt g) s = .next ((State.fail { s with issues := s.cur.core :: s.issues } t.launch 3).reseed s t.core))

/-! ## Guards and causes -/

/-- R28, R39 (checks 2 to 4): with nothing due, a step whose bundle fetches a 32-bit word with guard 1111 raises cause 0x02 in every fibre of
the bundle; with another guard and a major or minor that R32 leaves unassigned, it raises cause 0x01 in the fibres whose guard holds, and where
none holds, the bundle moves on by 4 bytes. That events come first is the model's choice (log entry 1). -/
def Obligations.ReservedGuardAndIllegalWords : Prop :=
  ∀ (s c : State) (t : Team) (v : BitVec 32), Issues s c t → v.getLsbD 0 = true →
    let va := t.kernel.code + (c.curPc t).toNat
    Fetches c t va [v.extractLsb' 0 8, v.extractLsb' 8 8] → Fetches c t (va + 2) [v.extractLsb' 16 8, v.extractLsb' 24 8] →
    let guard := (v.extractLsb' 7 4).toNat
    let major := (v.extractLsb' 1 6).toNat
    let minor := (v.extractLsb' 29 3).toNat
    let act := c.cur.fibs.filter fun k =>
      if guard < 8 then (t.fibre k).pred (BitVec.ofNat 3 guard) else !(t.fibre k).pred (BitVec.ofNat 3 (guard - 8))
    (guard = 15 → step s = .next (c.raise t { code := 0x02 } c.cur.fibs c.cur.fibs (c.curPc t))) ∧
    (guard ≠ 15 →
      major ∈ [0x14, 0x15, 0x16, 0x17, 0x1B, 0x1D, 0x1E, 0x1F, 0x26, 0x27] ∨
        (major, minor) ∈ [(0x03, 7), (0x05, 6), (0x05, 7), (0x06, 6), (0x06, 7), (0x10, 7), (0x11, 6), (0x11, 7), (0x12, 6), (0x12, 7),
          (0x1A, 4), (0x1A, 5), (0x1A, 6), (0x1A, 7), (0x1C, 5), (0x1C, 6), (0x1C, 7), (0x28, 3), (0x28, 4), (0x28, 5), (0x28, 6), (0x28, 7),
          (0x29, 4), (0x29, 5), (0x29, 6), (0x29, 7), (0x2B, 5), (0x2B, 6), (0x2B, 7), (0x33, 5), (0x33, 6), (0x33, 7), (0x37, 5), (0x37, 6),
          (0x37, 7), (0x3D, 6), (0x3D, 7)] →
      (act ≠ [] → step s = .next (c.raise t { code := 0x01 } act c.cur.fibs (c.curPc t))) ∧
      (act = [] → step s = .next (c.advance 4)))

/-- R16, R28: where no guard of the bundle holds, an instruction does nothing but move the bundle on: no byte changes, and each fibre is
at pc + 4 with everything else as before. -/
def Obligations.FalseGuard : Prop :=
  ∀ (i : Instr) (g : Guard) (s : State) (t : Team), guardOf i = some g → g ≠ .neg 7 → Quiet s t → s.active t g = [] →
    (∀ k ∈ s.cur.fibs, (t.fibre k).running = true) →
    ∃ u, exec i s = .next u ∧ sameBytes s u ∧ ∀ k ∈ s.cur.fibs, k < t.fibres.length →
      u.fibreNow t k = { t.fibre k with pc := (t.fibre k).pc + 4 }

/-- R39, check 5: a privileged instruction outside the trap handler raises cause 0x03 in every fibre whose guard holds. R39, check 6, R81:
where a register named by an `add`, a `mov`, an indirect move or a compact `add` lies beyond the window of a fibre whose guard holds,
cause 0x12 is raised in exactly those fibres, and the instruction has no effect. -/
def Obligations.PrivilegeAndWindowCauses : Prop :=
  (∀ (s : State) (t : Team) (g : Guard) (d : Reg), Quiet s t → g ≠ .neg 7 → t.handlerFor = none → s.active t g ≠ [] →
    ∀ i ∈ [Instr.tret g, Instr.halt g, Instr.asgen g d, Instr.sflush g d],
      exec i s = .next (s.raise t { code := 0x03 } (s.active t g) s.cur.fibs (s.curPc t))) ∧
  (∀ (s : State) (t : Team) (g : Guard) (imm : BitVec 6) (c : BitVec 5) (b a d : Reg), Quiet s t → g ≠ .neg 7 →
    let beyond (i : Instr) (g : Guard) (uses : Fibre → List Nat) : Prop :=
      let bad := (s.active t g).filter fun k => (uses (t.fibre k)).any fun n => (t.fibre k).regs.length ≤ n
      bad ≠ [] → exec i s = .next (s.raise t { code := 0x12 } bad s.cur.fibs (s.curPc t))
    beyond (.add g b a d) g (fun _ => [a.toNat, b.toNat, d.toNat]) ∧
    beyond (.mov g a d) g (fun _ => [a.toNat, d.toNat]) ∧
    beyond (.movIndirectSrc g imm a d) g (fun x => [a.toNat, d.toNat, nat (x.reg a.toNat) + imm.toNat]) ∧
    beyond (.movIndirectDst g imm a d) g (fun x => [a.toNat, d.toNat, nat (x.reg d.toNat) + imm.toNat]) ∧
    beyond (.addC16 c d) (.pos 7) (fun _ => [d.toNat, c.toNat]))

/-- R232, R233, R69: taking an exception: the team begins its save with a fault record that holds the cause, the mask of the lanes that
raised it (of the lanes present for cause 0x10), the address and the code offset; every fibre stands where it stood. R229, R234: with any cause
but 0x30 the team waits for its core's handler, behind those that trapped before it, and where it was to be pre-empted, its core is promised to no
launch any more. Nothing else of the device changes. -/
def Obligations.TakingAnException : Prop :=
  ∀ (s : State) (t : Team) (c : Cause) (fibs bundle : List Nat) (epc : Word), s.team? t.id = some t → c.code < 0x80 →
    c.inner < 256 → c.trap < 1024 →
    let u := s.raise t c fibs bundle epc
    u = { s with teams := u.teams, cores := u.cores } ∧ (∀ id, id ≠ t.id → u.team? id = s.team? id) ∧
    (∀ n, n ≠ t.core → u.core n = s.core n) ∧
    (t.core < s.cores.length → let k := s.core t.core
      u.core t.core = if c.code = 0x30 ∨ t.handlerFor ≠ none then k else { k with
        trapQueue := if t.id ∈ k.trapQueue then k.trapQueue else k.trapQueue ++ [t.id]
        promised := match t.cond with
          | .saving .preempt _ _ => none
          | _ => k.promised }) ∧
    ∃ t' q, u.team? t.id = some t' ∧ t'.faultRec = some q ∧
      t' = { t with cond := t'.cond, handles := t'.handles, faultRec := some q } ∧
      t'.cond = .saving (if c.code = 0x30 then .page c.page else .trap) false 0 ∧
      nat q.cause % 2 ^ 7 = c.code ∧ nat q.cause / 2 ^ 8 % 2 ^ 8 = c.inner ∧ nat q.cause / 2 ^ 16 = c.trap ∧ q.epc = epc ∧
      q.addr.toNat = c.addr % 2 ^ 64 ∧
      ∀ l, l < 32 → q.fmask.getLsbD l = (if c.present then bundle else fibs).any fun i => i % 32 == l

/-! ## Events

Each says what an event does in a state in which it is enabled. That it leaves the state as it is where it is not enabled, and the order in
which events occur, is the model's choice (log entry 1). -/

/-- R52, R59, R89, R226, R227, R93, R228: the grouping stage, a gathering pool that closes, a late result, and the ends of waits. The
model's choices in it: log entries 1, 20, 69. -/
def Obligations.FibreEvents : Prop :=
  ∀ (s : State) (t : Team), s.team? t.id = some t →
    (∀ core, ∃ u, exec (.groupingStagePass core) s = .next u ∧ u = { s with teams := u.teams } ∧
      ∀ id x, s.team? id = some x → ∃ y, u.team? id = some y ∧ y = { x with bundles := y.bundles } ∧
        (x.core ≠ core ∨ x.runs = false → y = x) ∧ ∀ i, (∃ b ∈ y.bundles, i ∈ b.fibs) ↔ ∃ b ∈ x.bundles, i ∈ b.fibs) ∧
    (∀ p, t.runs = true → (t.pools.find? fun q => q.target == p.target) = some p →
      let all : Prop := ∀ i ∈ t.live, (t.fibre i).wait ≠ none ∨ ∃ q ∈ t.pools, ∃ x ∈ q.fibs, x.1 = i
      let closes (shut : List Pool) : Prop := (∀ q ∈ shut, q.fibs.length ≤ 1024) →
        ∃ u y, exec (.gatheringPoolClose t.id p.target) s = .next u ∧ u = { s with teams := u.teams } ∧ u.team? t.id = some y ∧
          y = { t with bundles := y.bundles, pools := t.pools.filter fun q => !shut.contains q } ∧
          ∀ q ∈ shut, ∀ x ∈ q.fibs, ∃ b ∈ y.bundles, x.1 ∈ b.fibs
      (¬ all → 640 ≤ p.age ∨ (∀ l < 32, ∃ x ∈ p.fibs, laneOf x.1 = l) → closes [p]) ∧ (all → closes t.pools)) ∧
    (∀ i reg p w, ((t.fibre i).pend.find? fun q => q.reg == reg) = some p → p.value = some w →
      (∀ r ∈ (s.core t.core).reqs ++ (s.core t.core).storeQ, r.inst = p.req → r.team ≠ t.id) →
      ∃ u, exec (.pendingWriteComplete t.id i reg) s = .next u ∧ u = { s with teams := u.teams } ∧
        u.fibreNow t i = { t.fibre i with
          regs := (t.fibre i).regs.set reg w
          pend := (t.fibre i).pend.filter fun q => q.reg != reg
          counts := countWrite (t.fibre i).counts reg }) ∧
    (∀ core lane r bs s', s.grantHead core lane = some (r, bs, s') → s'.team? r.team ≠ none →
      let b := s'.modCore core fun k => { k with grants := assocSet k.grants lane (((assoc k.grants lane).getD []).drop 1) }
      (r.child = none → exec (.grantRequestGranted core lane) s = .next
        ((b.modTeam r.team fun x => x.modFibre r.fib fun f => { f with
          blocks := f.blocks ++ bs
          regs := f.regs ++ List.replicate (8 * bs.length) 0 }).release r.team [r.fib])) ∧
      ∀ c x pc, r.child = some c → b.team? r.team = some x → (x.fibre c).cond = .dormant → (x.fibre r.fib).wait = some (.fork pc) →
        exec (.grantRequestGranted core lane) s = .next ((b.makeChild r.team r.fib c pc bs).release r.team [r.fib])) ∧
    (∀ i, t.cond = .resident → (t.fibre i).cond = .live → (t.fibre i).wait ≠ none → 2 ^ t.starve * 10 ≤ (t.fibre i).timer →
      ∃ u x q, exec (.starvationTimeout t.id i) s = .next u ∧ u.team? t.id = some x ∧ x.cond = .saving .trap false 0 ∧
        x.faultRec = some q ∧ nat q.cause = 0x21 ∧ q.epc = (t.fibre i).pc ∧ q.fmask = 1#32 <<< laneOf i ∧ (x.fibre i).wait = none) ∧
    (∀ i w r, t.cond = .resident → (t.fibre i).wait = some (.word w) → s.fetched t i w.va = some r → r.lanes = [] → r.bad = [] →
      let x := BitVec.ofNat 32 (bytesNat (r.bytesAt w.va 4))
      let holds : Prop := match w.cc with
        | .eq => x = w.value
        | .ne => x ≠ w.value
      let b := s.useFetch t.core r
      let blk := blkOf r.page.home (r.page.pa + w.va % 256)
      let stale : Bool := r.rts.any fun x => x.2 && !timeLe (b.core t.core).lt x.1
      (holds → exec (.waitReload t.id i) s = .next ((b.acquireViews t.core .sys).release t.id [i])) ∧
      (¬ holds → exec (.waitReload t.id i) s = .next (b.modTeam t.id fun y => y.modFibre i fun f =>
        { f with wait := some (.word { w with blk := blk, rts := r.rts.map fun x => x.1, again := w.again || stale }) }))) ∧
    (∀ i w, t.cond = .resident → (t.fibre i).wait = some (.word w) → s.fetched t i w.va = none → s.reloadDue t w = true →
      exec (.waitReload t.id i) s = .next (s.startWait t.id i)) ∧
    (∀ id m n k team fib, s.msg? id = some m → s.deals m → m.body = .partyAsk n k team fib →
      exec (.partyQuery id) s = .next ((s.dropMsg id).send (s.here .home) m.src (.partyAns team fib (legalWait k (s.numbered n))))) ∧
    (∀ id m i w p d n k age, s.msg? id = some m → s.deals m → t.cond = .resident → (t.fibre i).wait = some (.query w p d n k age) →
      let b := s.dropMsg id
      let put (x : Option Wait) : State := b.modTeam t.id fun y => y.modFibre i fun f => { f with wait := x }
      let place := pointerAddr t p 4
      let error := b.placedError t .load false place
      (m.body = .partyAns t.id i true →
        (∀ va, error = none → place = .ok (some va) → exec (.partyQueryAnswer id) s = .next
          ((put (some (.word { w with va := va }))).startWait t.id i)) ∧
        (error = none → place = .ok none → waitHolds w.cc 0 w.value = true → exec (.partyQueryAnswer id) s = .next
          ((b.acquireViews t.core .sys).release t.id [i])) ∧
        (error = none → place = .ok none → waitHolds w.cc 0 w.value = false → exec (.partyQueryAnswer id) s = .next
          (put (some (.word { w with again := false, dropped := true })))) ∧
        ∀ c, error = some c → exec (.partyQueryAnswer id) s = .next ((put none).raise t c [i] [i] (t.fibre i).pc)) ∧
      (m.body = .partyAns t.id i false →
        exec (.partyQueryAnswer id) s = .next ((put none).raise t { code := 0x20 } [i] [i] (t.fibre i).pc))) ∧
    ∀ i w p d n k age, t.cond = .resident → (t.fibre i).wait = some (.query w p d n k age) → s.rtoTicks ≤ age →
      exec (.partyQueryTimeout t.id i) s = .next
        ((s.modTeam t.id fun y => y.modFibre i fun f => { f with wait := none }).raise t { code := 0x41 } [i] [i] (t.fibre i).pc)

/-- R146, R147, R153, R155 to R157, R258, R313: engine commands start, move a line and end; pushes and contributions arrive at their window
and are answered. The model's choices in it: log entries 16, 26, 41, 42, 73, 76. -/
def Obligations.EngineEvents : Prop :=
  (∀ (s : State) (t : Team) (m : Cmd) (c : Nat), s.running c m.id = some (m, t) →
    (m.started = false → (∀ x ∈ (s.core c).cmds, m.waitsFor x = false) → s.fibreBusy t m = false → s.windowBytesLeft t m = false →
      (m.kind.fills = true → s.imageRead t m.base m.size = false) →
      exec (.copyCommandStart c m.id) s = .next (s.modCmd c m.id fun x => { x with started := true })) ∧
    (m.started = true → m.done < m.size → s.windowBytesLeft t m = false →
      exec (.copyLineTransfer c m.id) s = .next (s.moveLine t m) ∧
      ∀ w, m.kind = .fill w → exec (.copyLineTransfer c m.id) s = .next (s.deliverLine t m (wordsOf (List.replicate 64 w)))) ∧
    ∀ va index, m.kind = .red va index → s.mayRetry m = true →
      exec (.contributionRetry c m.id) s = .next
        (State.sendContribution { s with msgs := s.msgs.filter fun x => x.body != .wake m.id } t m va index)) ∧
  (∀ (s : State) (t : Team) (m : Cmd) (c : Nat), s.attended c m.id = some (m, t) → m.started = true → m.size ≤ m.done →
    (m.kind.fills = true → exec (.copyCommandComplete c m.id) s = .next
      ((s.modCore c fun k => { k with cmds := k.cmds.filter fun x => x.id != m.id }).moveHandle t m.h fun x => { x with st := .full })) ∧
    (∀ n e, m.kind = .cpout n e → s.storesOf c m.id = false → exec (.copyCommandComplete c m.id) s = .next
      ((s.modCore c fun k => { k with cmds := k.cmds.filter fun x => x.id != m.id }).moveHandle t m.h fun x => { x with st := .full })) ∧
    (∀ va, m.kind = .push va → s.pushCut t m va = false → m.sent = true → s.rtoTicks ≤ m.age →
      exec (.copyCommandComplete c m.id) s = .next (s.failPush t m 0x43 2 (s.pushPeer t m va) va)) ∧
    ∀ va index, m.kind = .red va index → s.pushCut t m va = false → m.sent = true → m.refused = false → s.rtoTicks ≤ m.age →
      exec (.copyCommandComplete c m.id) s = .next (s.failPush t m 0x43 2 (s.pushPeer t m va) va)) ∧
  (∀ (s : State) (c id : Nat), s.returned c id ≠ [] →
    exec (.pushRetry c id) s = .next ((s.returned c id).foldl (fun x m => (x.dropMsg m.id).send m.dst m.src m.body)
      (s.modCmd c id fun x => { x with age := 0 }))) ∧
  (∀ (s : State) (id : Nat) (m : Msg), s.msg? id = some m → s.deals m →
    let done (e : Instr) (b : State) : Prop := exec e s = .next (b.dropMsg id)
    (∀ pid pa data last lines, m.body = .push pid pa data last lines → m.dst.place = .home →
      let got := s.pushedIn m.src.dev pid + if lines = [] then 0 else 256
      let none_ := (s.setPushedIn m.src.dev pid 0).send m.dst m.src (.pushAck pid .noWindow)
      (s.windowAtPa pa = none → done (.pushLineWrite id) (if s.windowClosed (pa / 128) then s.send m.dst m.src m.body else none_)) ∧
      ∀ c e off, s.windowAtPa pa = some (c, e, off) →
        (e.arrEn = false ∨ s.linesFit c e lines = false → done (.pushLineWrite id) none_) ∧
        (e.arrEn = true → s.linesFit c e lines = true →
          (e.moving = true → done (.pushLineWrite id) (s.send m.dst m.src m.body)) ∧
          (e.moving = false → last = none →
            done (.pushLineWrite id) ((s.putWindow c e off (natBytes 256 data.toNat)).setPushedIn m.src.dev pid got)) ∧
          (e.moving = false → lines ≠ [] → ∀ n, last = some n → n ≤ got → done (.pushLineWrite id)
            ((((s.putWindow c e off (natBytes 256 data.toNat)).setPushedIn m.src.dev pid 0).windowArrive e n).send m.dst m.src
              (.pushAck pid .ok))))) ∧
    (∀ pid st c k t, m.body = .pushAck pid st → findCmd pid s.cores 0 = some (c, k) → s.team? k.team = some t → t.framed = false →
      (st = .ok → done (.pushAck id) (s.endCmd c t k)) ∧
      (st = .noWindow → done (.pushAck id) (s.nextWindow t k m.src.dev)) ∧
      (∀ p, st = .noWindow → s.translate t.core t.asid k.target .store t.privileged = .ok p → m.src.dev ∉ k.tried →
        (∀ d, d = p.home ∨ d ∈ s.otherDevices → d = m.src.dev ∨ d ∈ k.tried) →
        done (.pushAck id) (s.failPush t k 0x66 0 p.home k.target)) ∧
      (st = .passed → done (.pushAck id) (s.failPush t k 0x65 0 m.src.dev k.target)) ∧
      (st = .refused → done (.pushAck id) (s.modCmd c pid fun x => { x with refused := true, noted := true, age := 0 })) ∧
      (st = .queueFull → done (.pushAck id) (s.modCmd c pid fun x => { x with refused := true, noted := false, age := 0 }))) ∧
    ∀ pid pa index words c e off t, m.body = .contrib pid pa index words → s.windowAtPa pa = some (c, e, off) → e.arrEn = true →
      off + 4 * words.length ≤ e.size → e.moving = false → s.team? e.team = some t →
      let obj := e.lbase + e.arr
      let next := objRnext (s.object t obj)
      let base := s.localBase e.team
      let answer (x : State) (st : RemStatus) : State := x.send m.dst m.src (.pushAck pid st)
      (index < next.toNat → done (.contributionArrival id) (answer s .passed)) ∧
      (index = next.toNat →
        let a := s.addWords c e off words
        let b := (a.setObject t obj (putBits (a.object t obj) 80 16 (index + 1))).windowArrive e (4 * words.length)
        done (.contributionArrival id) ((answer b .ok).wakeSender m.dst c (b.localBase e.team + obj) (objRnext (b.object t obj)))) ∧
      (next.toNat < index → (s.core c).noted.length < 64 → done (.contributionArrival id)
        (answer (s.modCore c fun k => { k with noted := k.noted ++ [⟨m.src, pid, base + obj, index⟩] }) .refused)) ∧
      (next.toNat < index → 64 ≤ (s.core c).noted.length → done (.contributionArrival id) (answer s .queueFull))) ∧
  ∀ (s : State) (c : Nat) (u : PubLeft), ((s.core c).unpub.find? fun x => x.blk == u.blk) = some u →
    let b := s.modCore c fun k => { k with unpub := k.unpub.filter fun x => x.blk != u.blk }
    ∀ h, s.hold? (.pubCore c) u.blk = some h → exec (.windowWriteback c u.blk) s = .next
      (b.evictTokens { h with data := blockOfBytes ((s.core c).lmem.read u.la 128), dirty := true })

/-- R197, R205, R206, R244, R245, R255, R274, R353, R204, R317: page walks, fills, and the steps that perform accesses. The model's choices
in it: log entries 24, 50, 79. -/
def Obligations.AccessEvents : Prop :=
  (∀ (s : State) (c asid va : Nat) (e : BitVec 64), s.walk (BitVec.ofNat 10 asid) va = .ok e →
    let lg := pageLg (leafSize e)
    let x : TlbEntry :=
      { asid := BitVec.ofNat 10 asid, gen := s.genOf (BitVec.ofNat 10 asid), va := va / 2 ^ lg * 2 ^ lg, lg := lg, leaf := e }
    ∃ u, exec (.pageWalk c asid va) s = .next u ∧ u = { s with cores := u.cores, dies := u.dies } ∧
      (c < s.cores.length → u.core c = { s.core c with tlb := (u.core c).tlb } ∧ x ∈ (u.core c).tlb) ∧
      ((s.core c).die < s.dies.length → x ∈ (u.die (s.core c).die).tlb)) ∧
  (∀ (s : State) (c blk : Nat) (r : Req), s.localCopy blk = none → s.coreWants c blk false = some r →
    (s.hold? (.die (s.core c).die) blk = none → exec (.lineFill c blk) s = .next (s.askRead c blk r.page.asid (r.halvesOf blk))) ∧
    ∀ h, s.hold? (.die (s.core c).die) blk = some h → h.readable = true → h.valid = 3 → exec (.lineFill c blk) s = .next (s.lend c blk r.page.asid)) ∧
  (∀ (s : State) (t : Team) (c : Nat) (r : Req), s.req? c r.id = some r → s.team? r.team = some t →
    (s.faultReady c r = true → r.byCopy = false → ∃ u x q, exec (.openAccessFault c r.id) s = .next u ∧
      u.team? t.id = some x ∧ x.cond = .saving .trap false 0 ∧ x.faultRec = some q ∧ nat q.cause ∈ [0x40, 0x41, 0x70] ∧ q.epc = r.epc ∧
      ∀ i ∈ r.bundle, i < t.fibres.length → (x.fibre i).pc = r.epc ∧ (x.fibre i).regs = (t.fibre i).regs) ∧
    (r.reads = true → r.miss ≠ .ingress → s.lineHeld c r = false →
      (s.route r.page = .remote → r.sent = false → exec (.performLoad c r.id) s = .next (s.sendLoad c r)) ∧
      ((s.route r.page = .remote → r.sent = true) →
        (∀ u, s.gatherRead c r = some u → exec (.performLoad c r.id) s = .next u) ∧
        (s.gatherRead c r = none →
          let b := if s.route r.page = .uncached then s.reqRelease c r.ord else s
          let x := b.performBlocks c r (distinct (r.openLanes.map r.laneBlk))
          exec (.performLoad c r.id) s = .next
            ((if s.route r.page = .token then x.1.wantsDone c (distinct (x.2.1.map r.laneBlk)) else x.1.homeDone (s.orderReads c r)).settleLoad
              c r (r.openLanes.filter fun l => !x.2.1.contains l) x.2.2))))) ∧
  (∀ (s : State) (c : Nat) (r : Req), s.req? c r.id = some r → r.sent = false → storeBehind r (s.core c).reqs = false →
    s.reqMigrated r = true → s.remoteHeld c r = false → s.lineBehind c r = false →
    let queued := (s.dropReq c r.id).modCore c fun k => { k with storeQ := k.storeQ ++ [r] }
    let does (b : State) : Prop := exec (.enqueueStore c r.id) s = .next b
    let goes (b : State) : Prop := (s.gatherWrite c r = none → does (b.homeDone r.blocks)) ∧ ∀ u, s.gatherWrite c r = some u → does u
    (r.kind = .store →
      (r.page.home = s.dev → s.route r.page ≠ .uncached → does queued) ∧
      (r.page.home = s.dev → s.route r.page = .uncached → s.gatherLine r = none →
        goes (((s.uncachedPoison c r).dropReq c r.id).uncachedStore c r)) ∧
      (r.page.home ≠ s.dev → s.route r.page = .remote → does ((s.dropReq c r.id).postLine c r)) ∧
      (r.page.home ≠ s.dev → s.route r.page = .token → does ((s.dropReq c r.id).startStoreLine c r))) ∧
    (storeBehind r (s.core c).storeQ = false → s.intercepted r.page = false → ∀ op,
      (r.kind = .red op → r.page.home = s.dev → s.route r.page = .priv → goes (s.atomView c r op)) ∧
      (r.kind = .atom op → r.openLanes ≠ [] → s.atomTurn c r = none → goes (s.atomGo c r op)))) ∧
  (∀ (s : State) (c : Nat) (r : Req), ((s.core c).storeQ.find? fun q => q.id == r.id) = some r → r.sent = false →
    s.oldest c r = true → s.reqMigrated r = true → s.remoteHeld c r = false →
    (s.route r.page = .priv →
      (s.gatherWrite c r = none → exec (.drain c r.id) s = .next ((s.drainPrivate c r).homeDone r.blocks)) ∧
      ∀ u, s.gatherWrite c r = some u → exec (.drain c r.id) s = .next u) ∧
    (s.route r.page = .token → exec (.drain c r.id) s = .next (s.drainToken c r))) ∧
  (∀ (s : State) (c a : Nat) (x : Sector), x.dirty = true →
    (c < s.cores.length → findSector (s.core c).view a = some x → exec (.writeBack (.core c) a) s = .next
      ((s.modCore c fun k => { k with view := putSector k.view { x with dirty := false } }).modDie (s.core c).die fun k =>
        { k with view := putSector k.view { x with dirty := true, asid := ((findSector k.view x.addr).map (·.asid)).getD x.asid } })) ∧
    (findSector (s.die c).view a = some x → s.channelShut (a * 64) = false → exec (.writeBack (.die c) a) s = .next
      ((s.writePa (x.addr * 64) (natBytes 64 x.data.toNat)).modDie c fun k => { k with view := putSector k.view { x with dirty := false } }))) ∧
  (∀ (s : State) (c a : Nat),
    let keep (x : Sector) : Bool := x.dirty || x.addr != a
    exec (.sectorDrop (.core c) a) s = .next (s.modCore c fun k => { k with view := k.view.filter keep }) ∧
    exec (.sectorDrop (.die c) a) s = .next (s.modDie c fun k => { k with view := k.view.filter keep }) ∧
    exec .generationSweep s = .next { s with
      cores := s.cores.map fun k => { k with tlb := k.tlb.filter fun e => e.gen == s.genOf e.asid }
      dies := s.dies.map fun k => { k with tlb := k.tlb.filter fun e => e.gen == s.genOf e.asid }
      sys := { s.sys with retiredGens := [] } }) ∧
  (∀ (s : State) (m : Msg), m.dst.dev = s.dev → m.age < usTicks 1000 →
    (∀ pa mask tag ep, m.body = .loadReq pa mask tag ep → s.shutOut { m with dst := s.here .home } = false →
      let blks := s.lineBlocks pa (sectorBytes mask)
      (s.gatherAll blks false = none → exec (.deliver m) s = .next ((s.answerLoad m pa mask tag ep).homeDone blks)) ∧
      ∀ u, s.gatherAll blks false = some u → exec (.deliver m) s = .next (u.takeIn m .home)) ∧
    (∀ pa op x y tag ep, m.body = .atomReq pa op x y tag ep → exec (.deliver m) s = .next
      { s with
        msgs := s.msgs ++ [{ m with id := s.nextId, dst := s.here m.dst.place, taken := false, rerouted := false }]
        nextId := s.nextId + 1 })) ∧
  ∀ (s : State) (n k : Nat) (e : BitVec 192) (h : Hold), assoc s.sys.migration n = some e → e.getLsbD 0 = true → k < 64 →
    e.getLsbD (128 + k) = false → s.channelShut (entryFrame e + 128 * k) = false →
    s.hold? (entryPuller e) (entryOld e k) = some h → h.writable = true →
    exec (.migrationPull n k) s = .next (s.pulled n k e h)

/-- R211 to R218, R220, R222, R223, R314, R315: records arrive, launches are taken, their teams admitted, and launches and teams end. The
model's choices in it: log entries 23, 34, 46, 47, 65. -/
def Obligations.LaunchEvents : Prop :=
  (∀ (s : State) (q : Nat) (r : LineData), (s.sys.windows.getD q (0, false)).2 = true →
    (s.queueOn q = true → s.queueFull q = false → (∀ x ∈ s.offers, x.q ≠ q) →
      State.gatherClass { s with nextId := s.nextId + 1 } s.nextId r = none → ∃ u, exec (.hostLaunchWrite q r) s = .next u ∧
      (∃ l ∈ u.launches, l.q = q ∧ l.slot = (s.queue q).widx ∧ l.record = r ∧ l.status = .queued ∧ l.parent = none ∧ l.depth = 0) ∧
      (q < s.sys.queues.length → (u.queue q).widx = ((s.queue q).widx + 1) % 2 ^ (s.queue q).lsize)) ∧
    (s.queueOn q = false ∨ s.queueFull q = true → exec (.hostLaunchWrite q r) s = .next
      (State.modQueue { s with nextId := s.nextId + 1 } q fun d => { d with ovf := if d.ovf = 0xFFFF then d.ovf else d.ovf + 1 }))) ∧
  (∀ (s : State) (core slot : Nat) (a : Arm), assoc (s.core core).arms slot = some a → a.fired = true → s.queueOn a.q = true →
    s.queueFull a.q = false → s.gatherClass a.team a.record = none → (∀ t, s.team? a.team = some t → t.lbase ≠ none) →
    let b := (s.accept a.team a.q a.record 0 none .sys).modCore core fun k => { k with arms := assocDel k.arms slot }
    (b.team? a.team = none → exec (.armedLaunchEnqueue core slot) s = .next b) ∧
    ∀ t, b.team? a.team = some t → t.lbase ≠ none →
      exec (.armedLaunchEnqueue core slot) s = .next (b.setObject t a.obj (putBits (b.object t a.obj) 70 1 0))) ∧
  (∀ (s : State) (id pid line num q : Nat) (r : LineData) (m : Msg), s.msg? id = some m → s.deals m →
    m.body = .launchLine pid line num r → s.windowOf (line * 256) = some q →
    let f := s.flow m.src.dev q
    let done (b : State) : Prop := exec (.launchLine id) s = .next (b.dropMsg id)
    (num < f.due → done s) ∧
    (num = f.due → done (((s.putFlow { f with due := f.due + 1 }).offerLine q m pid r).drainFlow 64 m.src.dev q)) ∧
    (f.due < num → f.early.length < 64 →
      done (s.putFlow { f with early := f.early ++ [(num, m, 0)] })) ∧
    (f.due < num → 64 ≤ f.early.length → done (s.replyTo m (.postedAck pid .refused)))) ∧
  (∀ (s : State) (src q : Nat),
    let f := s.flow src q
    (∃ x ∈ f.early, usTicks 1000 ≤ x.2.2) → exec (.launchLinePassOver src q) s = .next
      ((s.putFlow { f with due := f.due + 1, passed := f.passed ++ [f.due] }).drainFlow 64 src q)) ∧
  (∀ (s : State) (p : Post), s.post? p.id = some p → p.kind = .launchLine → p.refused = true →
    exec (.launchLineResend p.id) s = .next ((s.modPost p.id fun x => { x with refused := false }).send
      (s.here (.die (s.core p.core).die)) ⟨p.home, .home⟩ (.launchLine p.id (p.pa / 256) p.num p.data))) ∧
  (∀ (s : State) (l : Launch), s.launch? l.id = some l → l.taken = false → s.sys.go = true →
    l.slot = (s.queue l.q).ridx → (∀ x ∈ s.takenBefore l, x.allIn = true) →
    let b := (s.modQueue l.q fun d => { d with ridx := (d.ridx + 1) % 2 ^ d.lsize }).modLaunch l.id fun x => { x with taken := true }
    (l.status ≠ .queued → exec (.launchTake l.id) s = .next b) ∧
    (l.status = .queued → (recLegal l.record = true → s.gatherLaunch l = none) →
      let c := b.dropOwn 0 l.id
      let ends (r : Nat) : Prop := ∃ u, exec (.launchTake l.id) s = .next u ∧ u = { c with launches := u.launches } ∧
        u.launch? l.id = some { l with
          taken := true
          status := .retiring r } ∧ ∀ id, id ≠ l.id → u.launch? id = s.launch? id
      (s.acceptable l = none → ends 1) ∧
      ∀ k, s.acceptable l = some k →
        (s.unfit l k = true → ends 2) ∧
        (s.unfit l k = false → exec (.launchTake l.id) s = .next (c.modLaunch l.id fun x => { x with kernel := some k })))) ∧
  (∀ (s b : State) (l : Launch) (k : Kernel) (core : Nat), s.choose core = some (l, k) → k.progress ≠ 0 →
    s.gatherRecords l k = none → s.place l k core l.next .resident = some b → (∀ x, b.launch? l.id = some x → x.status.failing = false) →
    ∃ u t, exec (.teamAdmit l.id core) s = .next u ∧ u.lastQueue = l.q ∧ t ∈ u.teams ∧ t.launch = l.id ∧ t.num = l.next ∧ t.core = core ∧
      t.cond = .resident ∧ t.asid = recAsid l.record ∧ t.depth = l.depth ∧ nat t.nteam = recTeams l.record ∧
      t.consts = (List.range 16).map (recConst l.record) ∧ t.fmts = (List.range 8).map (recFmt l.record) ∧
      t.fibres.length = k.fibres ∧
      ∀ i < k.fibres, (t.fibre i).cond = (if i < k.team then .live else .dormant) ∧
        (i < k.team → (t.fibre i).pc = 0 ∧ (t.fibre i).preds = 0 ∧ (t.fibre i).regs = List.replicate (8 * k.winInit) 0)) ∧
  (∀ (s b : State) (l h : Launch) (k : Kernel), s.launch? l.id = some l → s.headOf l.q = some (h, k) → h.id = l.id → k.progress = 0 →
    l.status = .queued → s.heldBack l = false → s.gridTurn l = true → s.gatherRecords l k = none → s.placeGrid l k (recTeams l.record) 0 = some b →
    let c : State := { b with teams := b.teams.map fun (t : Team) => if t.launch = l.id then { t with cond := .resident } else t }
    exec (.gridWholeAdmit l.id) s = .next { ((c.dropOwn 0 l.id).startLaunch l).keepPromise l.id with lastQueue := l.q }) ∧
  (∀ (s : State) (q : Nat) (l : Launch) (k : Kernel), s.headOf q = some (l, k) → k.progress = 0 → l.status = .queued →
    l.starving = false → 10485760 ≤ l.waited →
    exec (.queueHeadStarve q) s = .next (s.modLaunch l.id fun x => { x with starving := true })) ∧
  (∀ (s : State) (t : Team), s.team? t.id = some t →
    (t.cond = .resident → t.handlerFor = none → t.live = [] → s.workDone t = true →
      exec (.teamEndFree t.id) s = .next ((s.freeRegisters t).modTeam t.id fun x => { x with
        cond := .ended
        reserve := []
        linger := []
        fibres := x.fibres.map fun f => { f with blocks := [] }
        lbase := if s.keepsLocal t then x.lbase else none })) ∧
    (t.cond = .ended → s.outstanding t.id = [] → s.accessesLeft t = false → exec (.teamRetire t.id) s = .next (s.retireTeam t))) ∧
  ∀ (s : State) (l : Launch) (r : Nat), s.launch? l.id = some l →
    (s.retiresWith l = some r →
      let b := (((s.settleGone l.id).modLaunch l.id fun x => { x with status := .retired r }).keepPromise l.id).writeStatus l 3 r false
      let c := b.complete 0 l.record r (some (l.q * 65536 + l.slot)) l.id
      let d := if c.2 then c.1.modLaunch l.id fun x => { x with lost := true } else c.1
      exec (.launchRetire l.id) s = .next (match l.parent with
        | some p => d.wakeParent p
        | none => d)) ∧
    (l.status = .retired r → l.lost = true → exec (.completionWriteFail l.id) s = .next
      ((s.modLaunch l.id fun x => { x with lost := false }).writeStatus l 3 r true))

/-- R93, R228 to R235, R309, R345: why teams are saved, the end of a save, the entry of the trap handler, the paging queue, and
re-admission. The model's choices in it: log entries 2, 10, 23, 25, 66, 70. -/
def Obligations.SavingEvents : Prop :=
  (∀ (s : State) (t : Team) (c : Nat), 10240 ≤ (s.core c).deadlock → s.grantBlocked c = true →
    latest (s.teams.filter fun x => x.savable c) = some t →
    exec (.registerDeadlockEvict c) s = .next ((s.modCore c fun k => { k with deadlock := 0 }).modTeam t.id fun x =>
      { x with cond := .saving .evict false 0 })) ∧
  (∀ (s b : State) (t : Team) (q : Nat) (l : Launch) (k : Kernel), s.team? t.id = some t → s.headOf q = some (l, k) →
    s.lacksRoom l k = some b → s.heldBack l = false → (∀ x, (s.core t.core).promised = some x → x = l.id) →
    latest (s.teams.filter fun x => x.core == t.core && s.preemptible x (s.queue q).prio.toNat && (b.without x).fitsTeam t.core k) =
      some t →
    exec (.preempt q t.id) s = .next ((s.modTeam t.id fun x => x.runOn s.stamp).modCore t.core fun k =>
      { k with promised := some l.id })) ∧
  (∀ (t : Team) (stamp : Nat), (t.runOn stamp).cond = .saving .preempt true 0 ∧ (t.runOn stamp).pools = [] ∧
    (t.runOn stamp).fibres = t.fibres) ∧
  (∀ (s : State) (t : Team) (why : SaveWhy) (points : Bool), s.team? t.id = some t → t.cond = .written why points →
    (t.lost = true → exec (.teamSaveComplete t.id) s = .next (s.fail t.launch 6)) ∧
    (t.lost = false → s.ownBusy t.id = false → exec (.teamSaveComplete t.id) s = .next (s.finishSave s t why points))) ∧
  (∀ (s : State) (t : Team) (why : SaveWhy) (points : Bool) (age : Nat), s.team? t.id = some t → t.cond = .saving why points age →
    (points = true → 40960 ≤ age → exec (.preemptStopTimeout t.id) s = .next
      (s.modTeam t.id fun x => { x with cond := .saving why false age })) ∧
    (t.handlerFor ≠ none → exec (.teamSaveComplete t.id) s = .next (s.fail t.launch 4)) ∧
    (t.handlerFor = none → (points = true → t.stopped = true) → s.saveBusy t = false →
      exec (.teamSaveComplete t.id) s = .next (s.endSave t why points))) ∧
  (∀ (s : State) (c : Nat), s.coreExists c = true → ∃ u, exec (.saveRequestWrite c true) s = .next u ∧
    ∀ id x, s.team? id = some x → u.team? id = some (if x.savable c then { x with cond := .saving .request false 0 } else x)) ∧
  (∀ (s : State) (t : Team) (a : BitVec 64), s.team? t.id = some t → t.cond = .resident → t.overflow = some a →
    exec (.errorQueueOverflowTrap t.id) s = .next ((if t.handlerFor = none then s.modCore t.core fun k => k.trap t else s).modTeam t.id fun x => { x with
      cond := .saving .trap false 0
      overflow := none
      faultRec := some { cause := 0x42, fmask := 0, addr := a, epc := 0xFFFFFFFF, lanes := List.replicate 32 none } })) ∧
  (∀ (s b : State) (x : Team) (c : Nat) (rest : List Nat) (k : Kernel) (data : BitVec 256),
    (s.core c).handler = none → (s.core c).trapQueue = x.id :: rest → s.team? x.id = some x → x.cond = .trapped →
    s.gatherOwn c x.id x.asid (imageRanges (s.reader c x.id x.asid) (ctxHandler (s.contextBits x.asid.toNat))) = none →
    let a := s.modCore c fun k => { k with trapQueue := rest }
    a.handlerImage x = some (k, data) → ((a.dropOwn c x.id).setMoving x true).writeFrameLocal x = .ok b →
    b.team? x.id = some x → x.lost = false → c < b.cores.length → (b.core c).trapQueue = rest →
    ∃ u h, exec (.trapHandlerEntry c) s = .next u ∧ h ∈ u.teams ∧ (u.core c).handler = some h.id ∧ (u.core c).trapQueue = rest ∧
      h.handlerFor = some x.id ∧ h.core = x.core ∧ h.asid = x.asid ∧ h.cond = (if b.ownBusy x.id then .reserved else .resident) ∧
      h.kernel.code = k.code ∧
      h.fibres = [{ Fibre.empty .live with
        regs := List.replicate 64 0
        blocks := List.range 8 }]) ∧
  (∀ (s : State) (t : Team) (kind : BitVec 2), s.team? t.id = some t → t.cond = .saved (.page kind) none false →
    (s.sys.pagingWr - s.sys.pagingRd).toNat < 256 → s.tickets.length < 2 ^ 16 →
    (∀ pa, pa = s.sys.pagingBase + s.sys.pagingWr.toNat % 256 * 32 → isDram pa = true → s.gatherBlock (blkOf s.dev pa) true = none) →
    ∃ u x tk, exec (.pagingQueueWrite t.id) s = .next u ∧ u.sys.pagingWr = s.sys.pagingWr + 1 ∧ u.host.msix0 = s.host.msix0 + 1 ∧
      u.team? t.id = some x ∧ x.cond = .saved (.page kind) (some tk) false ∧ tk ∉ s.tickets) ∧
  (∀ (s : State) (v : BitVec 16),
    exec (.pagingReadIndexWrite v) s = .next { s with sys := { s.sys with pagingRd := v } } ∧
    ∃ u, exec (.resumeTicketWrite v) s = .next u ∧ u = { s with teams := u.teams } ∧ ∀ id x, s.team? id = some x →
      (∀ why b, x.cond = .saved why (some v) b → u.team? id = some { x with cond := .saved why none true }) ∧
      ((∀ why b, x.cond ≠ .saved why (some v) b) → u.team? id = some x)) ∧
  ∀ (s : State) (t : Team) (c : Nat), s.team? t.id = some t → s.canReadmit t c = true →
    (∀ k, s.collector t = some k → k = c) → t.lost = false → s.gatherFrame t = none → s.wouldFit t c = true →
    (∀ y, t.cls = 0 → s.reload t = some y → exec (.teamReadmit t.id c) s = .next (s.runAgain y)) ∧
    (t.cls ≠ 0 → (c = t.core ∨ s.windowsOf t = []) → t.reopen = [] → exec (.teamReadmit t.id c) s = .next (s.readmit t c))

/-- R269 to R283: tries, persistent requests, activations, token messages, evictions, peers and recalls. The model's choices in it: log
entries 9, 15, 38, 39, 52, 54. -/
def Obligations.TokenEvents : Prop :=
  (∀ (s : State) (id : Nat) (m : Msg), s.msg? id = some m →
    let p := m.dst.place
    let does (e : Instr) (d : Dealt) : Prop := exec e s = .next (dealt id d)
    s.deals m →
    (∀ blk kind req tag, m.body = .tryTok blk kind req tag →
      does (.tryArrive id) (s.answer p blk kind false req tag m.halves) ∧
      ∀ h, p ≠ .home → s.isFrozen p blk = false → s.windowAtCore p blk = false → s.actOf p blk = none → s.hold? p blk = some h →
        s.recall p blk kind h.n = none →
        (kind = .read → h.pole = false → does (.tryArrive id) (.done s)) ∧
        (kind = .read → h.pole = true → 2 ≤ h.n → does (.tryArrive id) (.done (s.sendTokens h req (min 72 (h.n - 1)) false true tag))) ∧
        (kind = .read → h.pole = true → h.n < 2 → does (.tryArrive id) (.done (s.sendTokens h req h.n true true tag))) ∧
        (kind = .write → does (.tryArrive id) (.done (s.sendTokens h req h.n h.pole false tag)))) ∧
    (∀ blk req tag, m.body = .publishReq blk req tag →
      does (.publishRequest id) (s.answer p blk .write true req tag m.halves) ∧
      (p ≠ .home → s.isFrozen p blk = false → s.windowAtCore p blk = true → s.published blk ≠ none →
        does (.publishRequest id) (.done (s.send (s.here p) req (.publishNotice blk))))) ∧
    (∀ blk req key tag, m.body = .persist blk req key tag → s.isLocal blk = true → s.unbacked (blkPa blk) = false → s.atHome req = false → s.homeWaits blk .write = none →
      (∀ e ∈ s.coh.table, ¬ (e.blk = blk ∧ e.req = req)) →
      (32 ≤ (s.coh.table.filter fun e => sameTable e.blk blk).length →
        does (.persistentRequest id) (.done (s.send (s.here .home) req (.persistFull blk tag)))) ∧
      ((s.coh.table.filter fun e => sameTable e.blk blk).length < 32 →
        does (.persistentRequest id) (.done (State.nextWave { s with coh := { s.coh with
          table := s.coh.table ++ [⟨blk, req, key, tag, false, false, 0, []⟩] } } blk)))) ∧
    (∀ blk req key tag, m.body = .activate blk req key tag → s.isFrozen p blk = false → (∀ a ∈ s.coh.acts, a ≠ ⟨p, blk, req, tag⟩) →
      req ≠ s.here p → does (.activation id)
        (State.giveActive { s with coh := { s.coh with acts := s.coh.acts ++ [⟨p, blk, req, tag⟩] } } p blk req tag)) ∧
    (∀ blk req key tag, m.body = .deactivate blk req key tag →
      (p = .home → ∀ e, s.entryOf blk req tag = some e → does (.deactivation id) (.done (s.endPersist e))) ∧
      (p ≠ .home → m.src.dev = s.dev ∨ ⟨p, blk, req, tag⟩ ∈ s.coh.acts →
        does (.deactivation id) (.done (s.endAct ⟨p, blk, req, tag⟩)))) ∧
    (∀ blk serial n pole dirty data tag, m.body = .tokens blk serial n pole dirty data tag → s.isFrozen p blk = false → n ≠ 0 →
      let b := if data.isSome then s.takePoison m blk dirty else s
      (p = .home → s.isLocal blk = true →
        does (.tokenMessage id) (.done (b.homeTakes p m blk serial n pole dirty data))) ∧
      (∀ d, p = .die d → does (.tokenMessage id) (.done (b.placeTakes p m blk serial n pole dirty data tag)))) ∧
    (∀ blk, m.body = .poleAck blk → does (.poleAck id) (.done { s with coh := { s.coh with
      shadows := dropShadow p blk m.src s.coh.shadows } })) ∧
    (∀ pa op x y tag ep, m.body = .atomReq pa op x y tag ep →
      let blk := blkOf s.dev pa
      does (.homeAtomic id) (s.homeAtomic m pa op x y tag ep) ∧
      (s.lowerLane m pa tag = false → s.unbacked pa = false → (isDram pa && (s.windowOf pa).isSome) = false → isRegs pa = false →
        s.windowMoving blk = false → s.localCopy blk = none → s.isFrozen .home blk = false → s.homeWaits blk .write = none →
        (s.homeTokens blk).2.1 = 4096 → s.activeOf blk = none → s.poisoned blk = false → m.src.dev ≠ s.dev →
        let old := BitVec.ofNat 32 (bytesNat (blockSlice (s.current blk) (pa % 128) 4))
        does (.homeAtomic id) (.done (((s.writeBlock blk (pa % 128) (wordBytes (atomNew op old x y))).finishWant .home blk).replyTo m (.atomResp tag ep .ok old))))) ∧
    ∀ tag ep st old c r, m.body = .atomResp tag ep st old → tag / 64 < 2 ^ 20 → s.tagged tag ep = some (c, r) →
      does (.atomicReply id) (.done (s.atomAnswer c r (tag % 64) st old))) ∧
  (∀ (s : State) (w : Want), s.wantId? w.id = some w →
    (s.satisfied w = false → w.stage = .no →
      (s.tryLimit w.blk ≤ w.tryAge → w.tries < 4 → exec (.tryTimeout w.id) s = .next (s.sendTry w)) ∧
      (usTicks 20 ≤ w.age → exec (.persistentRequestIssue w.id) s = .next (s.sendPersist w)) ∧
      (4 ≤ w.tries → s.tryLimit w.blk ≤ w.tryAge → exec (.persistentRequestIssue w.id) s = .next (s.sendPersist w))) ∧
    ∀ age, w.stage = .refused age → usTicks 1 ≤ age → exec (.persistentRetry w.id) s = .next (s.sendPersist w)) ∧
  ∀ (s : State) (p : Place) (blk c peer d n : Nat) (h : Hold),
    (s.hold? p blk = some h → s.evictable p blk = true → exec (.eviction p blk) s = .next (s.evictTokens h)) ∧
    (s.hold? (.die d) blk = some h → h.lent ≠ [] → exec (.tokenRecall d blk) s = .next
      ((s.putHold { h with lent := [] }).wakeWaits (fun k => (s.core k).die == d) blk)) ∧
    (s.hold? (.die (s.core c).die) blk = some h → assoc (s.core c).peers blk = some peer → h.readable = true →
      (∀ x ∈ h.lent, x.1 ≠ c) → ∀ r, s.coreWants c blk false = some r → peer ≠ c → assoc h.lent peer = some n → 2 ≤ n →
      exec (.peerProbe c blk) s = .next
        ((s.putHold { h with
          lent := (h.lent.map fun x => if x.1 == peer then (x.1, x.2 - 1) else x) ++ [(c, 1)]
          filled := assocSet h.filled c r.page.asid }).notePeer c blk))

/-- R284, R285, R318: audits, the recreation of a block, and the end of both. The model's choices in it: log entry 40. -/
def Obligations.AuditEvents : Prop :=
  (∀ (s : State) (blk : Nat) (e : PEntry), s.activeOf blk = some e → s.audit? blk = none → s.auditTicks e ≤ e.age →
    let ps := s.activeParties blk e.req
    exec (.auditStart blk) s = .next (((s.putAudit { blk := blk, stage := .asking, waiting := ps.map fun p => (p, 0), asked := ps, sum := 0
                                                     poleData := none, shadow := none, poleSeen := false }).freeze .home blk).sendAll
      (s.here .home) ps (.audit blk (s.homeTokens blk).1))) ∧
  (∀ (s : State) (a : Audit), s.audit? a.blk = some a →
    (∀ p n, a.stage = .asking → (p, n) ∈ a.waiting → usTicks 10 ≤ n → exec (.auditRepeat a.blk p) s = .next
      ((s.putAudit { a with waiting := a.waiting.map fun w => if w.1 == p then (p, 0) else w }).send (s.here .home) p
        (.audit a.blk (s.homeTokens a.blk).1))) ∧
    (a.stage = .holdoff → s.recentlyMade a.blk = false → exec (.auditHoldoffExpire a.blk) s = .next (s.recreate a))) ∧
  ∀ (s : State) (id : Nat) (m : Msg), s.msg? id = some m → s.deals m →
    let done (e : Instr) (b : State) : Prop := exec e s = .next (b.dropMsg id)
    (∀ blk serial, m.body = .audit blk serial → done (.audit id)
      (((s.meant m blk).foldl (fun s p => s.freeze p blk) s).send m.dst m.src (s.reportOf (s.meant m blk) blk))) ∧
    (∀ blk, m.body = .invalidate blk → (.bridge ∈ s.meant m blk → s.recall .bridge blk .write 0 = none) → done (.audit id)
      (((s.meant m blk).foldl (fun s p => s.invalidate p blk) s).send m.dst m.src (.invAck blk))) ∧
    (∀ blk serial, m.body = .unfreeze blk serial → done (.unfreeze id)
      ((s.meant m blk).foldl (fun s p => (s.thaw p blk).relearn p blk serial) s)) ∧
    (∀ blk n pole dirty data shadow a, m.body = .report blk n pole dirty data shadow → s.audit? blk = some a → a.stage = .asking →
      (∃ k, (m.src, k) ∈ a.waiting) →
      let a' : Audit := { a with
        waiting := a.waiting.filter fun w => w.1 != m.src
        sum := a.sum + n
        poleSeen := a.poleSeen || pole
        poleData := if pole then data else a.poleData
        shadow := a.shadow.orElse fun _ => shadow }
      (a'.waiting ≠ [] → done (.auditReport id) (s.putAudit a')) ∧
      (a'.waiting = [] → a'.sum + (s.homeTokens blk).2.1 = 4096 → done (.auditReport id) (s.endAudit a')) ∧
      (a'.waiting = [] → a'.sum + (s.homeTokens blk).2.1 ≠ 4096 → s.recentlyMade blk = true →
        done (.auditReport id) (s.putAudit { a' with stage := .holdoff })) ∧
      (a'.waiting = [] → a'.sum + (s.homeTokens blk).2.1 ≠ 4096 → s.recentlyMade blk = false →
        done (.auditReport id) (s.recreate a'))) ∧
    ∀ blk a, m.body = .invAck blk → s.audit? blk = some a → a.stage = .dropping →
      let a' : Audit := { a with waiting := a.waiting.filter fun w => w.1 != m.src }
      (a'.waiting ≠ [] → done (.recreationAck id) (s.putAudit a')) ∧
      (a'.waiting = [] → done (.recreationAck id) ((s.renew blk).endAudit a'))

/-- R273, R287 to R290, R292: leased reads and writes at the home, conversions of form, the meridian tick and the sweeps. The model's
choices in it: log entries 20, 35. -/
def Obligations.LeaseEvents : Prop :=
  (∀ (s : State) (blk : Nat), s.isLocal blk = true → isHost (blkPa blk) = false → s.localCopy blk = none →
    (∀ r p se, s.metaOf blk = .token r true p se 4096 →
      ∃ u, exec (.formConversion blk true) s = .next u ∧ u.metaOf blk = .lease p se s.sys.mtime s.sys.mtime) ∧
    (∀ p se w r, s.metaOf blk = .lease p se w r → timeLe s.sys.mtime (r + 3) = false →
      ∃ u, exec (.formConversion blk false) s = .next u ∧ u.metaOf blk = .token false true p se 4096)) ∧
  (∀ (s : State) (c : Nat) (r : Req), s.req? c r.id = some r → s.route r.page = .leased → s.reqMigrated r = true →
    (r.reads = true → r.miss ≠ .ingress → s.lineHeld c r = false → s.leaseHeld c r = false →
      let x := (s.leaseMisses c r).foldl (fun (x : State × List LaneReq × List (LaneReq × Nat)) b =>
        let y := x.1.leaseBlock c r b
        (y.1, x.2.1 ++ y.2.1, x.2.2 ++ y.2.2)) (s, [], [])
      exec (.leaseRead c r.id) s = .next (x.1.settleLoad c r (r.openLanes.filter fun l => !x.2.1.contains l) x.2.2)) ∧
    let x := (s.leaseRelease c r).leaseLanes c r
    s.leaseReady c r = true → s.ordShut c r = false → (∀ l ∈ r.lanes, l ∈ x.2) →
      exec (.leaseWrite c r.id) s = .next ((x.1.dropReq c r.id).reqAcquire c r.ord) ∧
        exec (.leaseWriteHeld c r.id) s = .next ((x.1.dropReq c r.id).reqAcquire c r.ord)) ∧
  (∀ (s : State) (c : Nat) (r : Req), s.req? c r.id = none → ((s.core c).storeQ.find? fun q => q.id == r.id) = some r →
    r.kind ≠ .flagged → s.route r.page = .leased → s.oldest c r = true → s.reqMigrated r = true → s.ordShut c r = false →
    let x := (s.leaseRelease c r).leaseLanes c r
    (∀ l ∈ r.lanes, l ∈ x.2) →
      exec (.leaseWrite c r.id) s = .next (x.1.dropStore c r.id) ∧ exec (.leaseWriteHeld c r.id) s = .next (x.1.dropStore c r.id)) ∧
  (∀ (s : State) (c blk : Nat) (q : Req) (p : Bool) (se : BitVec 8) (w r : BitVec 24), s.metaOf blk = .lease p se w r →
    (s.leaseMiss c q blk w r).metaOf blk =
      .lease p se w (timeMax r ((s.core c).lt + (s.leaseOf q.page.asid.toNat).setWidth 24)) ∧
    (s.leaseShut blk = false → s.channelShut (blkPa blk) = false → timeLe (timeMax (r + 1) (s.core c).lt) (s.sys.mtime + 2 ^ 21) = true →
      s.writeTime c blk = some (timeMax (r + 1) (s.core c).lt)) ∧
    (timeLe r s.sys.mtime = true → 2 ^ 22 < (s.sys.mtime - r).toNat →
      ∃ u, exec (.homeLeaseSweep blk) s = .next u ∧ u.metaOf blk = .lease p se s.sys.mtime s.sys.mtime)) ∧
  ∀ (s : State),
    (∃ u, exec .meridianTick s = .next u ∧ u.sys.mtime = s.sys.mtime + 1 ∧ u.ticks = s.ticks + 1 ∧ u.issues = [] ∧
      u.cores.length = s.cores.length ∧ (∀ c < s.cores.length, (u.core c).lt = timeMax (s.core c).lt (s.sys.mtime + 1)) ∧
      ∀ id t, s.team? id = some t →
        let cooled := t.cool ((20 - s.slice) * Clock.rate (s.die (s.core t.core).die).clock) !(s.core t.core).reads.isEmpty
        u.team? id = some (cooled.older (s.tenths t.core) (s.staleAt (s.sys.mtime + 1) t.core))) ∧
    ∀ c,
      let keep (x : LeaseCopy) : Bool := !(timeLe x.rts s.sys.mtime && 2 ^ 22 < (s.sys.mtime - x.rts).toNat)
      exec (.cacheLeaseSweep (.core c)) s = .next (s.modCore c fun k => { k with leases := k.leases.filter keep }) ∧
      exec (.cacheLeaseSweep (.die c)) s = .next (s.modDie c fun k => { k with leases := k.leases.filter keep })

/-- R293 to R296, R346, R352: the host's snoops and grants, back-invalidation, and the host's accesses to device memory. The model's choices
in it: log entries 9, 37, 84, 85, 86. -/
def Obligations.HostEvents : Prop :=
  ∀ (s : State) (line : Nat),
    let blk := s.hostBlk line
    let dblk := s.devBlk line
    (s.grantOf line = .i ∨ (s.homeTokens blk).2.1 = 4096 → exec (.hostSnpInv line) s = .next (s.answerSnoop line .i)) ∧
    (s.grantOf line ≠ .i → (s.homeTokens blk).2.1 ≠ 4096 →
      let b := ((s.startSnoop line .snoopInv).ask .home 72 blk .write false 0).asBridge blk
      ∀ w, b.want? .home blk = some w → w.stage = .no → exec (.hostSnpInv line) s = .next (b.sendPersist w)) ∧
    (s.grantOf line = .i → exec (.hostSnpData line) s = .next (s.answerSnoop line .i)) ∧
    (s.grantOf line ≠ .i → (s.homeTokens blk).2.2 = true → exec (.hostSnpData line) s = .next (s.answerSnoop line .s)) ∧
    (s.grantOf line ≠ .i → (s.homeTokens blk).2.2 = false → exec (.hostSnpData line) s = .next
      ((s.startSnoop line .snoopData).ask .home 72 blk .pole false 0)) ∧
    (s.ownerHere blk = true →
      exec (.hostSnpCur line) s = .next ((s.hostAnswer line (halfData (s.current blk) (line % 2))).endSnoop line)) ∧
    (s.ownerHere blk = false → s.otherDevices ≠ [] → (∀ x ∈ s.host.snoops, x.1 ≠ line) →
      exec (.hostSnpCur line) s = .next (s.askCurrent line)) ∧
    (∀ g d k, (s.host.waits.find? fun w => w.1 == line && !w.2.back) = some k →
      let b := State.putHostLine { s with host := { s.host with waits := s.host.waits.erase k } } line d
      (k.2 = .rdShared → g ≠ .i → exec (.hostLineGrant line g d) s = .next ((b.fillHalf line d).setGrant line g)) ∧
      (k.2 = .rdOwn → g = .e ∨ g = .m → exec (.hostLineGrant line g d) s = .next ((b.fillHalf line d).setGrant line g)) ∧
      (∀ c r, k.2 = .rdCurr c r → exec (.hostLineGrant line g d) s = .next (b.halfLoad c r line d))) ∧
    (∀ d,
      let b := if Grant.writable (s.heldOf line) then s.bridgeTakes line d else s
      ((line, .snoopInv) ∈ s.host.waits → exec (.backInvalidate line true d) s = .next ((b.endHostWait line true).setHeld line .i)) ∧
      ((line, .snoopData) ∈ s.host.waits → exec (.backInvalidate line false d) s = .next ((b.endHostWait line true).setHeld line .s))) ∧
    (∃ u, exec (.biConflict line) s = .next u ∧ u = { s with host := { s.host with waits := u.host.waits } } ∧ ∀ w,
      w ∈ u.host.waits ↔ (w ∈ s.host.waits ∧ w ≠ (line, .snoopInv) ∧ w ≠ (line, .snoopData)) ∨
        (w = (line, .conflict true) ∧ (line, .snoopInv) ∈ s.host.waits) ∨
        (w = (line, .conflict false) ∧ (line, .snoopData) ∈ s.host.waits)) ∧
    (s.unbacked (line * 64) = false →
      (isDram (line * 64) = false → exec (.hostUncachedRead (line * 64)) s = .next
        (s.hostAnswer line (BitVec.ofNat 512 (bytesNat (s.uncachedRead (line * 64) 64))))) ∧
      (∀ bytes, isDram (line * 64) = false → isHost (line * 64) = false →
        exec (.hostUncachedWrite (line * 64) bytes) s = .next (s.uncachedWrite (line * 64) bytes)) ∧
      (isDram (line * 64) = true →
        (s.windowOf (line * 64) = none → s.windowMoving dblk = false → s.localCopy dblk = none → (s.metaOf dblk).isLease = false →
          (s.hold? .bridge dblk = none → exec (.hostUncachedRead (line * 64)) s = .next (s.ask .bridge 72 dblk .read false 0)) ∧
          ∀ h, s.hold? .bridge dblk = some h →
            (h.readable = true → exec (.hostUncachedRead (line * 64)) s = .next (s.answerHeld line h)) ∧
            ∀ bytes, h.writable = true → bytes.length ≤ 64 → exec (.hostUncachedWrite (line * 64) bytes) s = .next
              ((s.putHold { h with
                data := patchBlock h.data (line * 64 % 128) bytes
                dirty := true }).finishWant .bridge dblk)) ∧
        (s.featureOn 2 = true →
          (∀ d, Grant.writable (s.heldOf line) = true →
            exec (.hostCachedMemRequest line .writeBack d) s = .next (((s.bridgeTakes line d).setHeld line .i).hostServed line)) ∧
          ∀ h d, s.hold? .bridge dblk = some h →
            (h.readable = true →
              exec (.hostCachedMemRequest line .shared d) s = .next ((((s.spill dblk).answerOwn line h).setHeld line .s).hostServed line)) ∧
            (h.writable = true →
              exec (.hostCachedMemRequest line .exclusive d) s = .next ((((s.spill dblk).answerOwn line h).setHeld line .e).hostServed line)))))

/-- R300 to R305: links and ports, slots and orbits, digests and relays. The model's choices in it: log entries 17, 55, 60. -/
def Obligations.FabricEvents : Prop :=
  ∀ (s : State),
    (∀ d e, exec (.frameReplay d e) s = .next s) ∧
    (∀ d e, d ≠ e → (s.die d).live.getLsbD e = true → exec (.linkDead d e) s = .next
      ((((s.inject d (s.between d e)).inject e (s.between e d)).modDie d fun k => { k with live := k.live &&& ~~~(1#4 <<< e) }).modDie e fun k =>
        { k with live := k.live &&& ~~~(1#4 <<< d) })) ∧
    (∀ p, s.fab.portEn.getLsbD p = true →
      let lost (m : Msg) : Bool := m.dst.dev != s.dev && (s.hopTo m.dst.dev).bind s.portOf == some p
      let lostRelay (m : Msg) : Bool := if m.rerouted then lost m else s.portOf m.dst.dev == some p
      let mark (which : Msg → Bool) (m : Msg) : Msg := if which m then { m with rerouted := true } else m
      let off : Fabric := { s.fab with portEn := s.fab.portEn &&& ~~~(1#32 <<< p), relay := s.fab.relay.map (mark lostRelay) }
      exec (.portFailure p) s = .next (State.inject { s with msgs := s.msgs.map (mark lost), fab := off } (p / 8)
        ((s.msgs.filter lost ++ s.fab.relay.filter lostRelay).map fun m => m.id))) ∧
    (∀ xs, 150 ≤ s.fab.slotAge → s.fab.slot < 32 → ∃ u, exec (.rotorSlotStart xs) s = .next u ∧
      u = { s with msgs := u.msgs, fab := u.fab } ∧ u.fab.slot = s.fab.slot + 1 ∧ u.fab.slotAge = s.fab.slotAge - 150 ∧
      u.fab.sched = s.fab.sched ∧ u.fab.portEn = s.fab.portEn ∧ (∀ m ∈ u.msgs, m ∈ s.msgs) ∧ ∀ m ∈ s.msgs, m.dst.dev = s.dev → m ∈ u.msgs) ∧
    (32 ≤ s.fab.slot → 150 ≤ s.fab.slotAge → exec .orbitStart s = .next { s with fab := { s.fab with
      slot := 0
      met := 0
      sched := s.fab.schedNext.foldl (fun l e => if e.2 = 0 then assocDel l e.1 else assocSet l e.1 e.2) s.fab.sched
      schedNext := [] } }) ∧
    (∀ peer es, exec (.scheduleDigest peer es) s = .next { s with fab := { s.fab with
      digests := (s.fab.digests.filter fun g => g.1 != peer) ++ [(peer, es, 0)] } }) ∧
    (∀ peer, exec (.digestDiscard peer) s = .next { s with fab := { s.fab with
      digests := s.fab.digests.filter fun g => g.1 != peer || g.2.2 < 600 } }) ∧
    (∀ m, m.dst.dev ≠ s.dev → m.age < usTicks 1000 → s.fab.relay.length < s.relayRoom m.rerouted → exec (.relayForward m) s = .next { s with
      fab := { s.fab with relay := s.fab.relay ++ [{ m with id := s.nextId }] }
      nextId := s.nextId + 1 }) ∧
    ∀ id, ∃ u, exec (.messageAgeDrop id) s = .next u ∧ u = { s with msgs := u.msgs, fab := { s.fab with relay := u.fab.relay } } ∧
      (∀ m, m ∈ u.msgs ↔ m ∈ s.msgs ∧ (m.id = id → Msg.tooOld m = false)) ∧
      ∀ m, m ∈ u.fab.relay ↔ m ∈ s.fab.relay ∧ (m.id = id → m.age < usTicks 1000)

/-- R132, R306 to R310, R312, R316: remote loads and their answers, posted writes, store lines, flagged stores, and accesses to published
windows from outside. The model's choices in it: log entries 34, 48, 49, 53, 79. -/
def Obligations.RemoteEvents : Prop :=
  (∀ (s : State) (id : Nat) (m : Msg), s.msg? id = some m → s.deals m →
    let done (e : Instr) (b : State) : Prop := exec e s = .next (b.dropMsg id)
    (∀ tag ep st data c r, m.body = .loadResp tag ep st data → s.asker tag ep = some (c, r) →
      let gets (again : Bool) : State := (s.modReq c r.id fun q => { q with
        data := some data
        sent := again }).freeTag c r.id
      let bad : List (LaneReq × Nat) :=
        (r.openLanes.filter fun l => m.poison.isEmpty || m.poison.contains (r.laneBlk l)).map fun l => (l, 0x70)
      ((∀ op, r.kind ≠ .atom op) →
        (st = .ok → done (.remoteResponse id) (gets true)) ∧
        (st = .dataError → r.quiet = true → done (.remoteResponse id) ((gets true).settleLoad c r r.openLanes bad)) ∧
        (st = .dataError → r.quiet = false →
          done (.remoteResponse id) ((gets true).modReq c r.id fun q => { q with bad := q.bad ++ bad }))) ∧
      (∀ op, r.kind = .atom op →
        (st = .ok → done (.remoteResponse id) (gets false)) ∧
        (st = .dataError → r.byCopy = false →
          done (.remoteResponse id) ((gets false).modReq c r.id fun q => { q with bad := q.bad ++ bad }))) ∧
      (st = .notBacked → done (.remoteResponse id) (((s.modReq c r.id (Req.failAll 0x40)).freeTag c r.id).dropPrefetch c r.id))) ∧
    (∀ pid pa mask d, m.body = .posted pid pa mask d →
      let blks := s.lineBlocks pa mask
      (s.gatherAll blks true = none → done (.postedWrite id) ((s.applyPosted m pid pa mask d).homeDone blks)) ∧
      ∀ u, s.gatherAll blks true = some u → exec (.postedWrite id) s = .next (u.takeUp id)) ∧
    (∀ pid pa op x, m.body = .postedRed pid pa op x → m.dst.place = .home →
      let blks := s.lineBlocks pa (BitVec.ofNat 256 (2 ^ (pa % 256)))
      (s.gatherAll blks true = none → done (.postedWrite id) ((s.applyRed m pid pa op x).homeDone blks)) ∧
      ∀ u, s.gatherAll blks true = some u → exec (.postedWrite id) s = .next (u.takeUp id)) ∧
    (∀ pid pa op x, s.unbacked pa = false → (isDram pa && (s.windowOf pa).isSome) = false →
      let old := BitVec.ofNat 32 (bytesNat (s.uncachedRead pa 4))
      s.applyRed m pid pa op x = (s.uncachedWrite pa (wordBytes (atomNew op old x 0))).replyTo m
        (.postedAck pid (if isDram pa && s.poisoned (blkOf s.dev pa) then .dataError else .ok))) ∧
    (∀ pid st p, m.body = .postedAck pid st → s.post? pid = some p →
      (st = .ok → done (.postedWriteAck id) ((((s.endPost p).dropShadows p).dropAgain p).flagsAfter p)) ∧
      (st = .dataError → done (.postedWriteAck id) (s.failPost p.asStore 0x70 0)) ∧
      (st = .queueFull → done (.postedWriteAck id) ((s.dropShadows p).failPost p.asLine 0x44 4)) ∧
      (st = .queueOff → done (.postedWriteAck id) ((s.dropShadows p).failPost p.asLine 0x44 5)) ∧
      (st = .partialLine → done (.postedWriteAck id) ((s.dropShadows p).failPost p 0x44 6)) ∧
      (st = .notBacked → done (.postedWriteAck id) (s.failPost p.asStore 0x43 3))) ∧
    (∀ pid pa w flag, m.body = .flagData pid pa w flag → m.dst.place = .home →
      exec (.flaggedData id) s = .next (dealt id (s.applyFlagged m pid pa w flag)) ∧
      (s.unbacked pa = false → (isDram pa && (s.windowOf pa).isSome) = false → s.homeNeeds (blkOf s.dev pa) = none →
        s.poisoned (blkOf s.dev pa) = false → flag = none →
        done (.flaggedData id) ((s.homePut pa (wordBytes w)).replyTo m (.flagAck pid false .ok)))) ∧
    (∀ pid pa, m.body = .flagUpd pid pa → m.dst.place = .home →
      exec (.flagUpdate id) s = .next (dealt id (s.applyFlag m pid pa)) ∧
      (s.unbacked pa = false → (isDram pa && (s.windowOf pa).isSome) = false → s.absentAt pa = false → s.homeNeeds (blkOf s.dev pa) = none →
        (∀ e, s.objectAtPa (s.dev * 2 ^ 52 + pa) = some e → done (.flagUpdate id) ((s.windowArrive e 4).replyTo m (.flagAck pid true .ok))) ∧
        (s.objectAtPa (s.dev * 2 ^ 52 + pa) = none → s.poisoned (blkOf s.dev pa) = false → done (.flagUpdate id)
          ((s.homePut pa (wordBytes (BitVec.ofNat 32 (s.readPaNat pa 4) + 1))).replyTo m (.flagAck pid true .ok))))) ∧
    (∀ pa tag ep, m.body = .pubLoad pa tag ep →
      let b := blkOf 0 (pa / 256 * 256)
      (s.valueHere (blkOf 0 pa) = true → (∀ k ∈ [b, b + 1], s.valueHere k = true → s.poisoned k = false) →
        done (.publishedAccess id) (s.replyTo m (.loadResp tag ep .ok
        (BitVec.ofNat 2048 (bytesNat (blockBytesOf (s.current b) ++ blockBytesOf (s.current (b + 1)))))))) ∧
      (s.valueHere (blkOf 0 pa) = false → m.src.dev = pa / 2 ^ 52 →
        done (.publishedAccess id) (s.replyTo m (.loadResp tag ep .refused 0))) ∧
      (s.valueHere (blkOf 0 pa) = false → m.src.dev ≠ pa / 2 ^ 52 →
        done (.publishedAccess id) (s.send m.src (homeParty b) (.loadReq (pa % 2 ^ 52) 15 tag ep)))) ∧
    ∀ pa op x y tag ep, m.body = .pubAtom pa op x y tag ep → s.windowMoving (blkOf 0 pa) = false →
      (s.localCopy (blkOf 0 pa)).isSome = true → done (.publishedAccess id) (s.doAtomic m (blkOf 0 pa) pa op x y tag ep)) ∧
  (∀ (s : State) (c : Nat) (r : Req), s.req? c r.id = some r → r.isOpen = true → r.openLanes ≠ [] → r.page.home ≠ s.dev →
    (r.sent = true ∨ (r.kind.isRead = true ∧ r.tried ≠ none)) → (s.route r.page = .remote → r.data = none) →
    (s.cutOff c r = true → exec (.remoteLoadTimeout c r.id) s = .next (s.abandonLine c r 0x40)) ∧
    (s.cutOff c r = false → s.rtoTicks ≤ r.age → exec (.remoteLoadTimeout c r.id) s = .next (s.abandonLine c r 0x41)) ∧
    (s.route r.page = .remote → ∀ code, s.abandonLine c r code =
      ((State.retireTag { s with msgs := s.msgs.filter fun m => !s.asksFor c r m } c r.id).modReq c r.id (Req.failAll code)).dropPrefetch
        c r.id)) ∧
  ∀ (s : State) (p : Post), s.post? p.id = some p →
    (p.kind ≠ .storeLine → p.home ≠ s.dev →
      (s.reachable p.home = true → s.rtoTicks ≤ p.age → exec (.postedWriteTimeout p.id) s = .next (s.failPost p 0x43 2)) ∧
      (s.reachable p.home = false → (∃ m ∈ s.msgs, m.dst.dev ≠ s.dev ∧ carries m p.id = true) →
        exec (.postedWriteTimeout p.id) s = .next
          (State.failPost { s with msgs := s.msgs.filter fun m => !(m.dst.dev != s.dev && carries m p.id) } p 0x43 1))) ∧
    (p.kind ≠ .storeLine → p.home = s.dev → s.rtoTicks ≤ p.age →
      (∀ m ∈ s.msgs, m.dst.dev = s.dev → carries m p.id = false ∧ answers m p.id = false) →
      exec (.postedWriteTimeout p.id) s = .next (s.failPost p 0x43 2)) ∧
    (p.kind = .storeLine →
      (∀ hs, p.sent = false → (∀ sc, relScope p.ord = some sc → s.flushShut p.core sc = false) → s.collected p = some hs →
        let (num, a) := (hs.foldl (fun s h => s.giveStored p h) s).lineNum p
        let b := (a.modPost p.id fun x => { x with sent := true, age := 0, num := num.getD x.num }).reAsk p.core p.blocks
        exec (.storeLinePost p.id) s = .next (b.send (b.here (.die (b.core p.core).die)) ⟨p.home, .home⟩
          (.storeLine p.id (hs.map fun h => (h.blk, h.serial, p.applyTo h)) num))) ∧
      (p.sent = false → p.home ≠ s.dev → s.reachable p.home = false →
        exec (.storeLineTimeout p.id) s = .next ((s.failPost p 0x43 1).giveUp p.core p.blocks)) ∧
      (p.sent = false → p.home ≠ s.dev → s.reachable p.home = true → s.rtoTicks ≤ p.age →
        exec (.storeLineTimeout p.id) s = .next ((s.failPost p 0x43 2).giveUp p.core p.blocks)) ∧
      (p.sent = true → s.rtoTicks ≤ p.age → s.reachable p.home = false → (∀ m ∈ s.msgs, m.dst.dev ≠ s.dev → carries m p.id = false) →
        exec (.storeAckTimeout p.id) s = .next ((s.dropShadows p).failPost p 0x43 1)) ∧
      (p.sent = true → s.reachable p.home = false → (∃ m ∈ s.msgs, m.dst.dev ≠ s.dev ∧ carries m p.id = true) →
        exec (.storeAckTimeout p.id) s = .next
          ((State.dropShadows { s with msgs := s.msgs.filter fun m => !(m.dst.dev != s.dev && carries m p.id) } p).failPost p 0x43 1)) ∧
      (p.sent = true → s.rtoTicks ≤ p.age → s.reachable p.home = true → s.collected p = none →
        exec (.storeAckTimeout p.id) s = .next
          ((p.blocks.filter fun b => (s.hold? (.die (s.core p.core).die) b).all fun h => !h.writable).foldl (fun s b => s.askAgain p b) s)))

/-- R116, R117, R214, R300, R302, R323, R331, R335, R338, R342 to R346, R348 to R351, R354: row operations and near-bank steps, start-up,
the device registers, and the health of the device. The model's choices in it: log entries 2, 28, 43, 44, 59. -/
def Obligations.DeviceEvents : Prop :=
  ∀ (s : State),
    (∀ c id r x, s.rowNext c id = some (r, x) →
      let src := s.stepSources x
      let dst := s.rowBlocks x.d
      s.stepShut x = false →
      (s.engineReady (engineOf x.d) src dst = true → exec (.rowOperation c id) s = .next (s.rowStep r x)) ∧
      ∀ t, s.team? r.team = some t → s.engineReady (engineOf x.d) src dst = false →
        exec (.rowOperation c id) s = .next (s.engineAsk (engineOf x.d) t.asid src dst)) ∧
    (∀ c r, s.rowWaiting c = some r → s.slotsHeld c < 64 → exec (.rowSlotAcquire c) s = .next { s with
      rows := s.rows.map fun (q : RowCmd) => if q.id == r.id then { q with slot := some c } else q }) ∧
    (∀ st ch n, s.nbRunning st ch = some n →
      let e := n.table.getD n.upc 0
      ((entOp e < 2 ∨ 4 < entOp e) → exec (.nearBankStep st ch) s = .next (s.nbNext (n.compute e 0) e)) ∧
      ∀ row, (2 ≤ entOp e → entOp e ≤ 4 → n.row (entStrm e) = some row →
        s.engineReady (engineOf row.1) (if entOp e = 4 then [] else s.rowBlocks row.1) (if entOp e = 4 then s.rowBlocks row.1 else []) = true →
        exec (.nearBankStep st ch) s = .next (s.nbRow n e row))) ∧
    (∀ st ch n, s.unit? st ch = some n → n.cond = .running → s.sys.mtime.toNat % 32 = 0 → n.window = 0 →
      exec (.arbitrationWindow st ch) s = .next (s.putUnit { n with window := 4 })) ∧
    (∀ part, ∃ u, exec (.reset part) s = .next u ∧ u.dram = [] ∧ u.cores = coresFrom (Part.coresPerDie part) (s.deadCores part) (Part.dies part) 0 ∧
      u.dies = (State.resetPart part).dies ∧ u.coh = (State.resetPart part).coh ∧ u.fab = (State.resetPart part).fab ∧ u.teams = [] ∧
      u.launches = [] ∧ u.rows = [] ∧ u.nb = [] ∧ u.sys.go = false ∧ u.sys.accept = 0 ∧ u.sys.queues = List.replicate 16 .reset ∧
      u.host.mem = s.host.mem ∧ u.health.lmsTop = s.health.lmsTop ∧ u.health.lmsLeaf = s.health.lmsLeaf ∧
      (u.sys.failing = 0 → u.sys.startupDone = true ∧ u.sys.offer = Part.offer part) ∧
      (u.sys.failing ≠ 0 → u.sys.startupDone = false ∧ u.sys.offer = 0)) ∧
    (∀ rate, exec (.hostLinkTrain rate) s = .next { s with host := { s.host with rate := min rate 64 } }) ∧
    (∀ v, exec (.goWrite v) s = .next { s with sys := { s.sys with go := v, locked := s.sys.locked || v } }) ∧
    (∀ v,
      let b : State := { s with sys := { s.sys with accept := v &&& s.sys.offer } }
      (s.sys.locked = false →
        exec (.featureAcceptWrite v) s = .next (if b.featureOn 0 then b else { b with fab := { b.fab with portEn := 0 } })) ∧
      (s.sys.locked = true → exec (.featureAcceptWrite v) s = .next s)) ∧
    (∀ d v, exec (.linkRetrainWrite d v) s = .next (s.modDie d fun k =>
      { k with retrain := k.retrain ||| (v &&& ~~~(1#4 <<< d) &&& ~~~k.retired) })) ∧
    (∀ d e, d ≠ e → (s.die d).retrain.getLsbD e = true → (s.die d).retired.getLsbD e = false →
      (exec (.linkRetrainDone d e true) s = .next
        ((s.modDie d fun k => { k with live := k.live ||| 1#4 <<< e, retrain := k.retrain &&& ~~~(1#4 <<< e) }).modDie e fun k =>
          { k with live := k.live ||| 1#4 <<< d, retrain := k.retrain &&& ~~~(1#4 <<< d) })) ∧
      exec (.linkRetrainDone d e false) s = .next
        ((s.modDie d fun k => { k with retrain := k.retrain &&& ~~~(1#4 <<< e) }).modDie e fun k =>
          { k with retrain := k.retrain &&& ~~~(1#4 <<< d) })) ∧
    (∀ c, c < s.cores.length → (s.core c).present = true →
      exec (.umissClear c 0) s = .next (s.modCore c fun k => { k with umiss := 0 }) ∧
      ∀ v, exec (.seedWrite c v) s = .next (s.modCore c fun k => { k with seed := if v = 0 then 1 else v })) ∧
    (∀ n, exec (.staleCounterClear n 0) s = .next (s.modDie n fun k => { k with stale := 0 }) ∧
      exec (.mismatchCounterClear n 0) s = .next { s with fab := { s.fab with mismatch := assocDel s.fab.mismatch n } } ∧
      exec (.queueOvfClear n 0) s = .next { s with sys := { s.sys with queues := s.sys.queues.modify n fun d => { d with ovf := 0 } } }) ∧
    (∀ off n v, exec (.registerWrite off n v) s = .next (s.regWrite off (natBytes n v))) ∧
    (∀ v, exec (.registerWrite 0x40 8 v) s = .next { s with sys := { s.sys with astBase := v / 2 ^ 16 % 2 ^ 36 * 2 ^ 16 } }) ∧
    (∀ loc,
      let old := errorsOf s.health.corrected loc
      let ms := s.millis :: old.filter fun m => s.millis < m + 86400000
      let b : State := { s with health := { s.health with
        corrected := (s.health.corrected.filter fun p => p.1 != loc) ++ [(loc, ms)] } }
      (ms.length < 3 ∨ loc ∈ s.health.lasting → exec (.correctedError loc) s = .next b) ∧
      (3 ≤ ms.length → loc ∉ s.health.lasting →
        exec (.correctedError loc) s = .next ((b.logRetirement loc ms.length).retireLocation loc))) ∧
    (∀ vs es, exec (.wearRefresh vs es) s = .next { s with health := { s.health with
      wear := (List.range 48).map fun k => (vs.getD k 0, es.getD k 0xFFFFFFFF) } }) ∧
    (∀ d, exec (.thermalStep d false) s = .next (s.modDie d fun k => { k with clock := k.clock.slower }) ∧
      exec (.thermalStep d true) s = .next (s.modDie d fun k => { k with clock := k.clock.faster }) ∧
      exec (.thermalStop d) s = .next (s.modDie d fun k => { k with stopped := true })) ∧
    ∀ use ok,
      let top := s.health.lmsTop.getD (useIndex use) 0
      let leaf := s.health.lmsLeaf.getD (useIndex use) 0
      let n := burned top
      (n ≠ 0 → ok = true → leaf ≠ 1024 → ∃ u, exec (.signRequest use ok) s = .next u ∧ u.health.lmsTop = s.health.lmsTop.set (useIndex use) top ∧
        u.health.lmsLeaf = s.health.lmsLeaf.set (useIndex use) (leaf + 1)) ∧
      (n = 0 ∨ ok = false ∨ leaf = 1024 → n ≠ 1024 → ∃ u, exec (.signRequest use ok) s = .next u ∧
        u.health.lmsTop = s.health.lmsTop.set (useIndex use) (top ||| (1#1024 <<< n)) ∧
        u.health.lmsLeaf = s.health.lmsLeaf.set (useIndex use) 1) ∧
      (n = 0 ∨ ok = false ∨ leaf = 1024 → n = 1024 → exec (.signRequest use ok) s = .next { s with health := { s.health with
        released := (use, none) :: s.health.released } })

/-! ## The machine -/

/-- R2, R58, R117, R214, R229, R272, R283, R286, R301, R302, R325, R344, R350: what the spec says of the machine after reset. The part,
and what the spec gives no value, are the model's choice (log entries 3, 5, 8) and not stated here. -/
def Obligations.ResetState : Prop :=
  let s := State.reset
  (∀ blk, s.metaOf blk = .token false true false 0 4096) ∧ (∀ pa, isDram pa = true → s.readPa pa 1 = [0]) ∧
  s.sys.mtime = 0 ∧ s.sys.startupDone = true ∧ s.sys.failing = 0 ∧
  (∀ c < s.cores.length, (s.core c).lt = 0 ∧ (s.core c).seed = 1 ∧ (s.core c).gen = 1 ∧ (s.core c).umiss = 0 ∧
    (s.core c).saveReq = false ∧ (s.core c).rpath = 0) ∧
  (∀ d < 4, (s.die d).stale = 0 ∧ (s.die d).retrain = 0) ∧
  (∀ q < 16, s.queue q = { ovf := 0, ridx := 0, widx := 0, lsize := 0, prio := 0, fab := false, en := false, base := 0 }) ∧
  (∀ a, s.leaseOf a = 10) ∧
  s.fab.portEn = 0 ∧ s.fab.rto = 0 ∧ s.fab.dev = 0 ∧ (∀ e, (assoc s.fab.sched e).getD 0 = 0) ∧ (∀ p, (assoc s.fab.mismatch p).getD 0 = 0) ∧
  s.health.retirements = [] ∧ s.health.retireCount = 0

/-- R23, R24, R54, R89: with nothing due, a step runs the bundle whose turn it is: the 2 bytes at its program counter, with the next 2 when bit
0 of the first is 1, decode to an instruction. The bundle stalls where a register or predicate of the instruction, or its guard, is pending, or
a register that it writes is read-pending; else the step is that instruction executed by the bundle, after which the scoreboard notes its late
results. That events come first is the model's choice (log entry 1). -/
def Obligations.StepRunsDecoded : Prop :=
  ∀ (s c : State) (t : Team) (i : Instr) (x y : Byte) (rest : List Byte), Issues s c t →
    let va := t.kernel.code + (c.curPc t).toNat
    let runs : Prop :=
      ((∃ k ∈ c.cur.fibs, (marksOfInstr i).waits (t.fibre k) = true) → step s = .next c.stall) ∧
      ((∀ k ∈ c.cur.fibs, (marksOfInstr i).waits (t.fibre k) = false) → ∀ u, exec i c = .next u → step s = .next (c.scored u t i))
    Fetches c t va [x, y] →
    (x.getLsbD 0 = false → decode [x, y] = .ok (i, rest) → runs) ∧
    ∀ (z w : Byte), x.getLsbD 0 = true → Fetches c t (va + 2) [z, w] → decode [x, y, z, w] = .ok (i, rest) → runs

/-- R24, R25, R28 to R38: words of the spec's examples, and what they decode to. -/
def Obligations.DecodeWords : Prop :=
  decodeCode (.unit 0xF9C6) = .ok (.addiC16 (-1) 14) ∧
  decodeCode (.word 0xA180138B) = .ok (.cmpS32 (.pos 7) .ge 3 0 2) ∧
  decodeCode (.word 0x310233D9) = .ok (.ld (.pos 7) 3 2 1 6) ∧
  decodeCode (.word 0xD4427387) = .ok (.movIndirectDst (.pos 7) 40 33 14) ∧
  decodeCode (.word 0xCB150A21) = .ok (.fdiv (.pos 4) 22 10 33) ∧
  decodeCode (.word 0xFFFE49C1) = .ok (.br (.pos 3) 0xFFFE4 true) ∧
  decodeCode (.word 0x00090D45) = .ok (.call (.neg 2) 0x90 true) ∧
  decodeCode (.word 0xC01823F9) = .ok (.qmmaHandle (.pos 7) true true 0 3 0 4) ∧
  decodeCode (.word 0x0A601BF5) = .ok (.cpin (.pos 7) 5 12 3) ∧
  decodeCode (.word 0x300023FF) = .ok (.asgen (.pos 7) 4)

/-- R24 to R38: an instruction that is well formed decodes from its own words, with every operand as it was. -/
def Obligations.EncodeDecode : Prop :=
  ∀ (i : Instr) (c : Code), wf i = true → encode i = some c → decodeCode c = .ok i

/-- Every memory has its canonical form after reset. -/
def Obligations.CanonicalReset : Prop :=
  Canonical State.reset

/-- Every step keeps the canonical form of every memory: cells in rising order, and none of the value that an unlisted address reads as.
-/
def Obligations.CanonicalStep : Prop :=
  ∀ (s u : State), Canonical s → step s = .next u → Canonical u

/-- R344: every instruction and every event goes on to a next state, and so does every step, but that of a device whose start-up has
failed: it has stopped, until another reset, and only the host's reads of device registers go on. The model's choices in it: log entry 56. -/
def Obligations.StepGoesOn : Prop :=
  (∀ (i : Instr) (s : State), ∃ u, exec i s = .next u) ∧
  ∀ (s : State), (s.sys.failing = 0 → goesOn s) ∧
    (s.sys.failing ≠ 0 → (∀ p rest, s.schedule ≠ .reset p :: rest) →
      (∀ pa rest, isRegs pa = true → s.schedule ≠ .hostUncachedRead pa :: rest) → step s = .fault (.startupFailed s.sys.failing.toNat)) ∧
    (∀ p rest, s.sys.failing ≠ 0 → s.schedule = .reset p :: rest → goesOn s) ∧
    ∀ pa rest, s.sys.failing ≠ 0 → isRegs pa = true → s.schedule = .hostUncachedRead pa :: rest → goesOn s
end

