-- ==== Sys2Proof/Laws/State.lean ====
section
/-! SUPPORT. What each update of a state, a team or a fibre leaves in each field; the laws of registers, predicates and of a team's
fibres. -/

namespace Sys2Proof.Machine

/-! ## Registers and predicates -/

@[simp] theorem Fibre.setReg_pc (f : Fibre) (n : Nat) (w : Word) : (f.setReg n w).pc = f.pc := rfl
@[simp] theorem Fibre.setReg_preds (f : Fibre) (n : Nat) (w : Word) : (f.setReg n w).preds = f.preds := rfl
@[simp] theorem Fibre.setReg_regs (f : Fibre) (n : Nat) (w : Word) : (f.setReg n w).regs = f.regs.set n w := rfl
@[simp] theorem Fibre.setReg_pred (f : Fibre) (n : Nat) (w : Word) (p : Pred) : (f.setReg n w).pred p = f.pred p := rfl

/-- A register reads what was written to it. -/
theorem Fibre.setReg_same {f : Fibre} {n : Nat} {w : Word} (h : n < f.regs.length) : (f.setReg n w).reg n = w := by
  simp [Fibre.reg, h]

/-- A register write leaves every other register. -/
theorem Fibre.setReg_other {f : Fibre} {n m : Nat} {w : Word} (h : m ≠ n) : (f.setReg n w).reg m = f.reg m := by
  simp [Fibre.reg, List.getD_eq_getElem?_getD, List.getElem?_set_ne (Ne.symm h)]

@[simp] theorem Fibre.setPred_pc (f : Fibre) (p : Pred) (b : Bool) : (f.setPred p b).pc = f.pc := by
  unfold Fibre.setPred; split <;> rfl
@[simp] theorem Fibre.setPred_regs (f : Fibre) (p : Pred) (b : Bool) : (f.setPred p b).regs = f.regs := by
  unfold Fibre.setPred; split <;> rfl
@[simp] theorem Fibre.setPred_reg (f : Fibre) (p : Pred) (b : Bool) (n : Nat) : (f.setPred p b).reg n = f.reg n := by
  simp [Fibre.reg]

/-- p7 reads 1 (R94). -/
@[simp] theorem Fibre.pred_seven (f : Fibre) : f.pred 7#3 = true := by simp [Fibre.pred]

/-- The bits of the predicate register after a write. -/
theorem predBits (b : BitVec 8) (p q : Pred) (v : Bool) :
    (if v then b ||| (1#8 <<< p.toNat) else b &&& ~~~(1#8 <<< p.toNat)).getLsbD q.toNat = (if q = p then v else b.getLsbD q.toNat) := by
  have hq := q.isLt
  have hp := p.isLt
  cases v <;> by_cases h : q = p
  · subst h; simp
  · have : q.toNat ≠ p.toNat := fun e => h (BitVec.eq_of_toNat_eq e)
    simp [h]; intro; constructor <;> omega
  · subst h; simp; omega
  · have : q.toNat ≠ p.toNat := fun e => h (BitVec.eq_of_toNat_eq e)
    simp [h]; omega

/-- A predicate reads what was written to it, and p7 reads 1 (R94). -/
theorem Fibre.setPred_same (f : Fibre) (p : Pred) (b : Bool) : (f.setPred p b).pred p = (p == 7 || b) := by
  unfold Fibre.setPred
  split
  · next h => simp [h]
  · next h => simp only [Fibre.pred]; rw [predBits]; simp

/-- A predicate write leaves every other predicate. -/
theorem Fibre.setPred_other {f : Fibre} {p q : Pred} {b : Bool} (h : q ≠ p) : (f.setPred p b).pred q = f.pred q := by
  unfold Fibre.setPred
  split
  · rfl
  · simp only [Fibre.pred]; rw [predBits]; simp [h]

/-! ## Teams -/

@[simp] theorem State.modTeam_cur (s : State) (n : Nat) (f : Team → Team) : (s.modTeam n f).cur = s.cur := rfl
@[simp] theorem State.modTeam_stamp (s : State) (n : Nat) (f : Team → Team) : (s.modTeam n f).stamp = s.stamp := rfl
@[simp] theorem State.modTeam_cores (s : State) (n : Nat) (f : Team → Team) : (s.modTeam n f).cores = s.cores := rfl
@[simp] theorem State.modTeam_dies (s : State) (n : Nat) (f : Team → Team) : (s.modTeam n f).dies = s.dies := rfl
@[simp] theorem State.modTeam_dram (s : State) (n : Nat) (f : Team → Team) : (s.modTeam n f).dram = s.dram := rfl
@[simp] theorem State.modTeam_host (s : State) (n : Nat) (f : Team → Team) : (s.modTeam n f).host = s.host := rfl
@[simp] theorem State.modTeam_coh (s : State) (n : Nat) (f : Team → Team) : (s.modTeam n f).coh = s.coh := rfl
@[simp] theorem State.modTeam_fab (s : State) (n : Nat) (f : Team → Team) : (s.modTeam n f).fab = s.fab := rfl
@[simp] theorem State.modTeam_sys (s : State) (n : Nat) (f : Team → Team) : (s.modTeam n f).sys = s.sys := rfl
@[simp] theorem State.modTeam_msgs (s : State) (n : Nat) (f : Team → Team) : (s.modTeam n f).msgs = s.msgs := rfl
@[simp] theorem State.modTeam_launches (s : State) (n : Nat) (f : Team → Team) : (s.modTeam n f).launches = s.launches := rfl
@[simp] theorem State.modTeam_core (s : State) (n : Nat) (f : Team → Team) (c : Nat) : (s.modTeam n f).core c = s.core c := rfl

@[simp] theorem State.modCore_cur (s : State) (c : Nat) (f : Core → Core) : (s.modCore c f).cur = s.cur := rfl
@[simp] theorem State.modCore_teams (s : State) (c : Nat) (f : Core → Core) : (s.modCore c f).teams = s.teams := rfl
@[simp] theorem State.modCore_dies (s : State) (c : Nat) (f : Core → Core) : (s.modCore c f).dies = s.dies := rfl
@[simp] theorem State.modCore_dram (s : State) (c : Nat) (f : Core → Core) : (s.modCore c f).dram = s.dram := rfl
@[simp] theorem State.modCore_host (s : State) (c : Nat) (f : Core → Core) : (s.modCore c f).host = s.host := rfl
@[simp] theorem State.modCore_coh (s : State) (c : Nat) (f : Core → Core) : (s.modCore c f).coh = s.coh := rfl
@[simp] theorem State.modCore_fab (s : State) (c : Nat) (f : Core → Core) : (s.modCore c f).fab = s.fab := rfl
@[simp] theorem State.modCore_team? (s : State) (c : Nat) (f : Core → Core) (n : Nat) : (s.modCore c f).team? n = s.team? n := rfl

@[simp] theorem State.issued_teams (s : State) : s.issued.teams = s.teams := rfl
@[simp] theorem State.issued_cores (s : State) : s.issued.cores = s.cores := rfl
@[simp] theorem State.issued_cur (s : State) : s.issued.cur = s.cur := rfl
@[simp] theorem State.issued_stamp (s : State) : s.issued.stamp = s.stamp := rfl
@[simp] theorem State.issued_issues (s : State) : s.issued.issues = s.cur.core :: s.issues := rfl
@[simp] theorem State.issued_team? (s : State) (n : Nat) : s.issued.team? n = s.team? n := rfl

/-! ## The other fields of an update -/

@[simp] theorem State.modTeam_gone (s : State) (n : Nat) (f : Team → Team) : (s.modTeam n f).gone = s.gone := rfl
@[simp] theorem State.modTeam_offers (s : State) (n : Nat) (f : Team → Team) : (s.modTeam n f).offers = s.offers := rfl
@[simp] theorem State.modTeam_lastQueue (s : State) (n : Nat) (f : Team → Team) : (s.modTeam n f).lastQueue = s.lastQueue := rfl
@[simp] theorem State.modTeam_nb (s : State) (n : Nat) (f : Team → Team) : (s.modTeam n f).nb = s.nb := rfl
@[simp] theorem State.modTeam_rows (s : State) (n : Nat) (f : Team → Team) : (s.modTeam n f).rows = s.rows := rfl
@[simp] theorem State.modTeam_health (s : State) (n : Nat) (f : Team → Team) : (s.modTeam n f).health = s.health := rfl
@[simp] theorem State.modTeam_ticks (s : State) (n : Nat) (f : Team → Team) : (s.modTeam n f).ticks = s.ticks := rfl
@[simp] theorem State.modTeam_slice (s : State) (n : Nat) (f : Team → Team) : (s.modTeam n f).slice = s.slice := rfl
@[simp] theorem State.modTeam_issues (s : State) (n : Nat) (f : Team → Team) : (s.modTeam n f).issues = s.issues := rfl
@[simp] theorem State.modTeam_issuers (s : State) (n : Nat) (f : Team → Team) : (s.modTeam n f).issuers = s.issuers := rfl
@[simp] theorem State.modTeam_nextId (s : State) (n : Nat) (f : Team → Team) : (s.modTeam n f).nextId = s.nextId := rfl
@[simp] theorem State.modTeam_draws (s : State) (n : Nat) (f : Team → Team) : (s.modTeam n f).draws = s.draws := rfl
@[simp] theorem State.modTeam_schedule (s : State) (n : Nat) (f : Team → Team) : (s.modTeam n f).schedule = s.schedule := rfl

@[simp] theorem State.modCore_sys (s : State) (c : Nat) (f : Core → Core) : (s.modCore c f).sys = s.sys := rfl
@[simp] theorem State.modCore_msgs (s : State) (c : Nat) (f : Core → Core) : (s.modCore c f).msgs = s.msgs := rfl
@[simp] theorem State.modCore_gone (s : State) (c : Nat) (f : Core → Core) : (s.modCore c f).gone = s.gone := rfl
@[simp] theorem State.modCore_launches (s : State) (c : Nat) (f : Core → Core) : (s.modCore c f).launches = s.launches := rfl
@[simp] theorem State.modCore_offers (s : State) (c : Nat) (f : Core → Core) : (s.modCore c f).offers = s.offers := rfl
@[simp] theorem State.modCore_lastQueue (s : State) (c : Nat) (f : Core → Core) : (s.modCore c f).lastQueue = s.lastQueue := rfl
@[simp] theorem State.modCore_nb (s : State) (c : Nat) (f : Core → Core) : (s.modCore c f).nb = s.nb := rfl
@[simp] theorem State.modCore_rows (s : State) (c : Nat) (f : Core → Core) : (s.modCore c f).rows = s.rows := rfl
@[simp] theorem State.modCore_health (s : State) (c : Nat) (f : Core → Core) : (s.modCore c f).health = s.health := rfl
@[simp] theorem State.modCore_ticks (s : State) (c : Nat) (f : Core → Core) : (s.modCore c f).ticks = s.ticks := rfl
@[simp] theorem State.modCore_slice (s : State) (c : Nat) (f : Core → Core) : (s.modCore c f).slice = s.slice := rfl
@[simp] theorem State.modCore_stamp (s : State) (c : Nat) (f : Core → Core) : (s.modCore c f).stamp = s.stamp := rfl
@[simp] theorem State.modCore_issues (s : State) (c : Nat) (f : Core → Core) : (s.modCore c f).issues = s.issues := rfl
@[simp] theorem State.modCore_issuers (s : State) (c : Nat) (f : Core → Core) : (s.modCore c f).issuers = s.issuers := rfl
@[simp] theorem State.modCore_nextId (s : State) (c : Nat) (f : Core → Core) : (s.modCore c f).nextId = s.nextId := rfl
@[simp] theorem State.modCore_draws (s : State) (c : Nat) (f : Core → Core) : (s.modCore c f).draws = s.draws := rfl
@[simp] theorem State.modCore_schedule (s : State) (c : Nat) (f : Core → Core) : (s.modCore c f).schedule = s.schedule := rfl

@[simp] theorem State.modDie_sys (s : State) (d : Nat) (f : Die → Die) : (s.modDie d f).sys = s.sys := rfl
@[simp] theorem State.modDie_dram (s : State) (d : Nat) (f : Die → Die) : (s.modDie d f).dram = s.dram := rfl
@[simp] theorem State.modDie_coh (s : State) (d : Nat) (f : Die → Die) : (s.modDie d f).coh = s.coh := rfl
@[simp] theorem State.modDie_msgs (s : State) (d : Nat) (f : Die → Die) : (s.modDie d f).msgs = s.msgs := rfl
@[simp] theorem State.modDie_cores (s : State) (d : Nat) (f : Die → Die) : (s.modDie d f).cores = s.cores := rfl
@[simp] theorem State.modDie_teams (s : State) (d : Nat) (f : Die → Die) : (s.modDie d f).teams = s.teams := rfl
@[simp] theorem State.modDie_gone (s : State) (d : Nat) (f : Die → Die) : (s.modDie d f).gone = s.gone := rfl
@[simp] theorem State.modDie_launches (s : State) (d : Nat) (f : Die → Die) : (s.modDie d f).launches = s.launches := rfl
@[simp] theorem State.modDie_offers (s : State) (d : Nat) (f : Die → Die) : (s.modDie d f).offers = s.offers := rfl
@[simp] theorem State.modDie_lastQueue (s : State) (d : Nat) (f : Die → Die) : (s.modDie d f).lastQueue = s.lastQueue := rfl
@[simp] theorem State.modDie_fab (s : State) (d : Nat) (f : Die → Die) : (s.modDie d f).fab = s.fab := rfl
@[simp] theorem State.modDie_nb (s : State) (d : Nat) (f : Die → Die) : (s.modDie d f).nb = s.nb := rfl
@[simp] theorem State.modDie_rows (s : State) (d : Nat) (f : Die → Die) : (s.modDie d f).rows = s.rows := rfl
@[simp] theorem State.modDie_host (s : State) (d : Nat) (f : Die → Die) : (s.modDie d f).host = s.host := rfl
@[simp] theorem State.modDie_health (s : State) (d : Nat) (f : Die → Die) : (s.modDie d f).health = s.health := rfl
@[simp] theorem State.modDie_ticks (s : State) (d : Nat) (f : Die → Die) : (s.modDie d f).ticks = s.ticks := rfl
@[simp] theorem State.modDie_slice (s : State) (d : Nat) (f : Die → Die) : (s.modDie d f).slice = s.slice := rfl
@[simp] theorem State.modDie_stamp (s : State) (d : Nat) (f : Die → Die) : (s.modDie d f).stamp = s.stamp := rfl
@[simp] theorem State.modDie_issues (s : State) (d : Nat) (f : Die → Die) : (s.modDie d f).issues = s.issues := rfl
@[simp] theorem State.modDie_issuers (s : State) (d : Nat) (f : Die → Die) : (s.modDie d f).issuers = s.issuers := rfl
@[simp] theorem State.modDie_nextId (s : State) (d : Nat) (f : Die → Die) : (s.modDie d f).nextId = s.nextId := rfl
@[simp] theorem State.modDie_draws (s : State) (d : Nat) (f : Die → Die) : (s.modDie d f).draws = s.draws := rfl
@[simp] theorem State.modDie_cur (s : State) (d : Nat) (f : Die → Die) : (s.modDie d f).cur = s.cur := rfl
@[simp] theorem State.modDie_schedule (s : State) (d : Nat) (f : Die → Die) : (s.modDie d f).schedule = s.schedule := rfl
@[simp] theorem State.modDie_team? (s : State) (d : Nat) (f : Die → Die) (m : Nat) : (s.modDie d f).team? m = s.team? m := rfl
@[simp] theorem State.modDie_core (s : State) (d : Nat) (f : Die → Die) (m : Nat) : (s.modDie d f).core m = s.core m := rfl

@[simp] theorem State.modLaunch_sys (s : State) (n : Nat) (f : Launch → Launch) : (s.modLaunch n f).sys = s.sys := rfl
@[simp] theorem State.modLaunch_dram (s : State) (n : Nat) (f : Launch → Launch) : (s.modLaunch n f).dram = s.dram := rfl
@[simp] theorem State.modLaunch_coh (s : State) (n : Nat) (f : Launch → Launch) : (s.modLaunch n f).coh = s.coh := rfl
@[simp] theorem State.modLaunch_msgs (s : State) (n : Nat) (f : Launch → Launch) : (s.modLaunch n f).msgs = s.msgs := rfl
@[simp] theorem State.modLaunch_cores (s : State) (n : Nat) (f : Launch → Launch) : (s.modLaunch n f).cores = s.cores := rfl
@[simp] theorem State.modLaunch_dies (s : State) (n : Nat) (f : Launch → Launch) : (s.modLaunch n f).dies = s.dies := rfl
@[simp] theorem State.modLaunch_teams (s : State) (n : Nat) (f : Launch → Launch) : (s.modLaunch n f).teams = s.teams := rfl
@[simp] theorem State.modLaunch_gone (s : State) (n : Nat) (f : Launch → Launch) : (s.modLaunch n f).gone = s.gone := rfl
@[simp] theorem State.modLaunch_offers (s : State) (n : Nat) (f : Launch → Launch) : (s.modLaunch n f).offers = s.offers := rfl
@[simp] theorem State.modLaunch_lastQueue (s : State) (n : Nat) (f : Launch → Launch) : (s.modLaunch n f).lastQueue = s.lastQueue := rfl
@[simp] theorem State.modLaunch_fab (s : State) (n : Nat) (f : Launch → Launch) : (s.modLaunch n f).fab = s.fab := rfl
@[simp] theorem State.modLaunch_nb (s : State) (n : Nat) (f : Launch → Launch) : (s.modLaunch n f).nb = s.nb := rfl
@[simp] theorem State.modLaunch_rows (s : State) (n : Nat) (f : Launch → Launch) : (s.modLaunch n f).rows = s.rows := rfl
@[simp] theorem State.modLaunch_host (s : State) (n : Nat) (f : Launch → Launch) : (s.modLaunch n f).host = s.host := rfl
@[simp] theorem State.modLaunch_health (s : State) (n : Nat) (f : Launch → Launch) : (s.modLaunch n f).health = s.health := rfl
@[simp] theorem State.modLaunch_ticks (s : State) (n : Nat) (f : Launch → Launch) : (s.modLaunch n f).ticks = s.ticks := rfl
@[simp] theorem State.modLaunch_slice (s : State) (n : Nat) (f : Launch → Launch) : (s.modLaunch n f).slice = s.slice := rfl
@[simp] theorem State.modLaunch_stamp (s : State) (n : Nat) (f : Launch → Launch) : (s.modLaunch n f).stamp = s.stamp := rfl
@[simp] theorem State.modLaunch_issues (s : State) (n : Nat) (f : Launch → Launch) : (s.modLaunch n f).issues = s.issues := rfl
@[simp] theorem State.modLaunch_issuers (s : State) (n : Nat) (f : Launch → Launch) : (s.modLaunch n f).issuers = s.issuers := rfl
@[simp] theorem State.modLaunch_nextId (s : State) (n : Nat) (f : Launch → Launch) : (s.modLaunch n f).nextId = s.nextId := rfl
@[simp] theorem State.modLaunch_draws (s : State) (n : Nat) (f : Launch → Launch) : (s.modLaunch n f).draws = s.draws := rfl
@[simp] theorem State.modLaunch_cur (s : State) (n : Nat) (f : Launch → Launch) : (s.modLaunch n f).cur = s.cur := rfl
@[simp] theorem State.modLaunch_schedule (s : State) (n : Nat) (f : Launch → Launch) : (s.modLaunch n f).schedule = s.schedule := rfl
@[simp] theorem State.modLaunch_team? (s : State) (n : Nat) (f : Launch → Launch) (m : Nat) : (s.modLaunch n f).team? m = s.team? m := rfl
@[simp] theorem State.modLaunch_core (s : State) (n : Nat) (f : Launch → Launch) (m : Nat) : (s.modLaunch n f).core m = s.core m := rfl

@[simp] theorem State.fresh_sys (s : State) : s.fresh.sys = s.sys := rfl
@[simp] theorem State.fresh_dram (s : State) : s.fresh.dram = s.dram := rfl
@[simp] theorem State.fresh_coh (s : State) : s.fresh.coh = s.coh := rfl
@[simp] theorem State.fresh_msgs (s : State) : s.fresh.msgs = s.msgs := rfl
@[simp] theorem State.fresh_cores (s : State) : s.fresh.cores = s.cores := rfl
@[simp] theorem State.fresh_dies (s : State) : s.fresh.dies = s.dies := rfl
@[simp] theorem State.fresh_teams (s : State) : s.fresh.teams = s.teams := rfl
@[simp] theorem State.fresh_gone (s : State) : s.fresh.gone = s.gone := rfl
@[simp] theorem State.fresh_launches (s : State) : s.fresh.launches = s.launches := rfl
@[simp] theorem State.fresh_offers (s : State) : s.fresh.offers = s.offers := rfl
@[simp] theorem State.fresh_lastQueue (s : State) : s.fresh.lastQueue = s.lastQueue := rfl
@[simp] theorem State.fresh_fab (s : State) : s.fresh.fab = s.fab := rfl
@[simp] theorem State.fresh_nb (s : State) : s.fresh.nb = s.nb := rfl
@[simp] theorem State.fresh_rows (s : State) : s.fresh.rows = s.rows := rfl
@[simp] theorem State.fresh_host (s : State) : s.fresh.host = s.host := rfl
@[simp] theorem State.fresh_health (s : State) : s.fresh.health = s.health := rfl
@[simp] theorem State.fresh_ticks (s : State) : s.fresh.ticks = s.ticks := rfl
@[simp] theorem State.fresh_slice (s : State) : s.fresh.slice = s.slice := rfl
@[simp] theorem State.fresh_stamp (s : State) : s.fresh.stamp = s.stamp := rfl
@[simp] theorem State.fresh_issues (s : State) : s.fresh.issues = s.issues := rfl
@[simp] theorem State.fresh_issuers (s : State) : s.fresh.issuers = s.issuers := rfl
@[simp] theorem State.fresh_draws (s : State) : s.fresh.draws = s.draws := rfl
@[simp] theorem State.fresh_cur (s : State) : s.fresh.cur = s.cur := rfl
@[simp] theorem State.fresh_schedule (s : State) : s.fresh.schedule = s.schedule := rfl
@[simp] theorem State.fresh_nextId (s : State) : s.fresh.nextId = s.nextId + 1 := rfl
@[simp] theorem State.fresh_team? (s : State) (m : Nat) : s.fresh.team? m = s.team? m := rfl
@[simp] theorem State.fresh_core (s : State) (m : Nat) : s.fresh.core m = s.core m := rfl

@[simp] theorem State.drawn_sys (s : State) : s.drawn.sys = s.sys := rfl
@[simp] theorem State.drawn_dram (s : State) : s.drawn.dram = s.dram := rfl
@[simp] theorem State.drawn_coh (s : State) : s.drawn.coh = s.coh := rfl
@[simp] theorem State.drawn_msgs (s : State) : s.drawn.msgs = s.msgs := rfl
@[simp] theorem State.drawn_cores (s : State) : s.drawn.cores = s.cores := rfl
@[simp] theorem State.drawn_dies (s : State) : s.drawn.dies = s.dies := rfl
@[simp] theorem State.drawn_teams (s : State) : s.drawn.teams = s.teams := rfl
@[simp] theorem State.drawn_gone (s : State) : s.drawn.gone = s.gone := rfl
@[simp] theorem State.drawn_launches (s : State) : s.drawn.launches = s.launches := rfl
@[simp] theorem State.drawn_offers (s : State) : s.drawn.offers = s.offers := rfl
@[simp] theorem State.drawn_lastQueue (s : State) : s.drawn.lastQueue = s.lastQueue := rfl
@[simp] theorem State.drawn_fab (s : State) : s.drawn.fab = s.fab := rfl
@[simp] theorem State.drawn_nb (s : State) : s.drawn.nb = s.nb := rfl
@[simp] theorem State.drawn_rows (s : State) : s.drawn.rows = s.rows := rfl
@[simp] theorem State.drawn_host (s : State) : s.drawn.host = s.host := rfl
@[simp] theorem State.drawn_health (s : State) : s.drawn.health = s.health := rfl
@[simp] theorem State.drawn_ticks (s : State) : s.drawn.ticks = s.ticks := rfl
@[simp] theorem State.drawn_slice (s : State) : s.drawn.slice = s.slice := rfl
@[simp] theorem State.drawn_stamp (s : State) : s.drawn.stamp = s.stamp := rfl
@[simp] theorem State.drawn_issues (s : State) : s.drawn.issues = s.issues := rfl
@[simp] theorem State.drawn_issuers (s : State) : s.drawn.issuers = s.issuers := rfl
@[simp] theorem State.drawn_nextId (s : State) : s.drawn.nextId = s.nextId := rfl
@[simp] theorem State.drawn_cur (s : State) : s.drawn.cur = s.cur := rfl
@[simp] theorem State.drawn_schedule (s : State) : s.drawn.schedule = s.schedule := rfl
@[simp] theorem State.drawn_draws (s : State) : s.drawn.draws = s.draws + 1 := rfl
@[simp] theorem State.drawn_team? (s : State) (m : Nat) : s.drawn.team? m = s.team? m := rfl
@[simp] theorem State.drawn_core (s : State) (m : Nat) : s.drawn.core m = s.core m := rfl

@[simp] theorem State.dropMsg_sys (s : State) (n : Nat) : (s.dropMsg n).sys = s.sys := rfl
@[simp] theorem State.dropMsg_dram (s : State) (n : Nat) : (s.dropMsg n).dram = s.dram := rfl
@[simp] theorem State.dropMsg_coh (s : State) (n : Nat) : (s.dropMsg n).coh = s.coh := rfl
@[simp] theorem State.dropMsg_cores (s : State) (n : Nat) : (s.dropMsg n).cores = s.cores := rfl
@[simp] theorem State.dropMsg_dies (s : State) (n : Nat) : (s.dropMsg n).dies = s.dies := rfl
@[simp] theorem State.dropMsg_teams (s : State) (n : Nat) : (s.dropMsg n).teams = s.teams := rfl
@[simp] theorem State.dropMsg_gone (s : State) (n : Nat) : (s.dropMsg n).gone = s.gone := rfl
@[simp] theorem State.dropMsg_launches (s : State) (n : Nat) : (s.dropMsg n).launches = s.launches := rfl
@[simp] theorem State.dropMsg_offers (s : State) (n : Nat) : (s.dropMsg n).offers = s.offers := rfl
@[simp] theorem State.dropMsg_lastQueue (s : State) (n : Nat) : (s.dropMsg n).lastQueue = s.lastQueue := rfl
@[simp] theorem State.dropMsg_fab (s : State) (n : Nat) : (s.dropMsg n).fab = s.fab := rfl
@[simp] theorem State.dropMsg_nb (s : State) (n : Nat) : (s.dropMsg n).nb = s.nb := rfl
@[simp] theorem State.dropMsg_rows (s : State) (n : Nat) : (s.dropMsg n).rows = s.rows := rfl
@[simp] theorem State.dropMsg_host (s : State) (n : Nat) : (s.dropMsg n).host = s.host := rfl
@[simp] theorem State.dropMsg_health (s : State) (n : Nat) : (s.dropMsg n).health = s.health := rfl
@[simp] theorem State.dropMsg_ticks (s : State) (n : Nat) : (s.dropMsg n).ticks = s.ticks := rfl
@[simp] theorem State.dropMsg_slice (s : State) (n : Nat) : (s.dropMsg n).slice = s.slice := rfl
@[simp] theorem State.dropMsg_stamp (s : State) (n : Nat) : (s.dropMsg n).stamp = s.stamp := rfl
@[simp] theorem State.dropMsg_issues (s : State) (n : Nat) : (s.dropMsg n).issues = s.issues := rfl
@[simp] theorem State.dropMsg_issuers (s : State) (n : Nat) : (s.dropMsg n).issuers = s.issuers := rfl
@[simp] theorem State.dropMsg_nextId (s : State) (n : Nat) : (s.dropMsg n).nextId = s.nextId := rfl
@[simp] theorem State.dropMsg_draws (s : State) (n : Nat) : (s.dropMsg n).draws = s.draws := rfl
@[simp] theorem State.dropMsg_cur (s : State) (n : Nat) : (s.dropMsg n).cur = s.cur := rfl
@[simp] theorem State.dropMsg_schedule (s : State) (n : Nat) : (s.dropMsg n).schedule = s.schedule := rfl
@[simp] theorem State.dropMsg_team? (s : State) (n : Nat) (m : Nat) : (s.dropMsg n).team? m = s.team? m := rfl
@[simp] theorem State.dropMsg_core (s : State) (n : Nat) (m : Nat) : (s.dropMsg n).core m = s.core m := rfl

@[simp] theorem State.issued_sys (s : State) : s.issued.sys = s.sys := rfl
@[simp] theorem State.issued_dram (s : State) : s.issued.dram = s.dram := rfl
@[simp] theorem State.issued_coh (s : State) : s.issued.coh = s.coh := rfl
@[simp] theorem State.issued_msgs (s : State) : s.issued.msgs = s.msgs := rfl
@[simp] theorem State.issued_dies (s : State) : s.issued.dies = s.dies := rfl
@[simp] theorem State.issued_gone (s : State) : s.issued.gone = s.gone := rfl
@[simp] theorem State.issued_launches (s : State) : s.issued.launches = s.launches := rfl
@[simp] theorem State.issued_offers (s : State) : s.issued.offers = s.offers := rfl
@[simp] theorem State.issued_lastQueue (s : State) : s.issued.lastQueue = s.lastQueue := rfl
@[simp] theorem State.issued_fab (s : State) : s.issued.fab = s.fab := rfl
@[simp] theorem State.issued_nb (s : State) : s.issued.nb = s.nb := rfl
@[simp] theorem State.issued_rows (s : State) : s.issued.rows = s.rows := rfl
@[simp] theorem State.issued_host (s : State) : s.issued.host = s.host := rfl
@[simp] theorem State.issued_health (s : State) : s.issued.health = s.health := rfl
@[simp] theorem State.issued_ticks (s : State) : s.issued.ticks = s.ticks := rfl
@[simp] theorem State.issued_slice (s : State) : s.issued.slice = s.slice := rfl
@[simp] theorem State.issued_issuers (s : State) : s.issued.issuers = s.issuers := rfl
@[simp] theorem State.issued_nextId (s : State) : s.issued.nextId = s.nextId := rfl
@[simp] theorem State.issued_draws (s : State) : s.issued.draws = s.draws := rfl
@[simp] theorem State.issued_schedule (s : State) : s.issued.schedule = s.schedule := rfl

/-- A core that exists holds its change. -/
theorem State.modCore_core {s : State} {c : Nat} {f : Core → Core} (h : c < s.cores.length) : (s.modCore c f).core c = f (s.core c) := by
  simp [State.core, State.modCore, List.getD_eq_getElem?_getD, h]

/-- No other core changes. -/
theorem State.modCore_other {s : State} {c d : Nat} {f : Core → Core} (h : d ≠ c) : (s.modCore c f).core d = s.core d := by
  simp [State.core, State.modCore, List.getD_eq_getElem?_getD, Ne.symm h]

theorem State.team?_id {s : State} {n : Nat} {t : Team} (h : s.team? n = some t) : t.id = n := by
  have := List.find?_some h
  simpa using this

/-- The changed team, where the change keeps its number. -/
theorem State.modTeam_same {s : State} {n : Nat} {f : Team → Team} (hf : ∀ t, (f t).id = t.id) :
    (s.modTeam n f).team? n = (s.team? n).map f := by
  simp only [State.team?, State.modTeam]
  induction s.teams with
  | nil => rfl
  | cons t ts ih =>
    simp only [List.map_cons, List.find?_cons]
    by_cases h : t.id = n
    · simp [h, hf]
    · simpa [h, beq_false_of_ne h] using ih

/-- No other team changes. -/
theorem State.modTeam_other {s : State} {n m : Nat} {f : Team → Team} (hf : ∀ t, (f t).id = t.id) (h : m ≠ n) :
    (s.modTeam n f).team? m = s.team? m := by
  simp only [State.team?, State.modTeam]
  induction s.teams with
  | nil => rfl
  | cons t ts ih =>
    simp only [List.map_cons, List.find?_cons]
    by_cases h' : t.id = n
    · have : ¬ n = m := fun e => h e.symm
      simpa [h', hf, this, beq_false_of_ne this] using ih
    · by_cases h'' : t.id = m
      · subst h''; simp [h']
      · simpa [h', h'', beq_false_of_ne h''] using ih

/-! ## The fibres of a team -/

@[simp] theorem Team.modFibres_id (t : Team) (is : List Nat) (f : Nat → Fibre → Fibre) : (t.modFibres is f).id = t.id := rfl
@[simp] theorem Team.modFibres_bundles (t : Team) (is : List Nat) (f : Nat → Fibre → Fibre) : (t.modFibres is f).bundles = t.bundles := rfl
@[simp] theorem Team.modFibres_length (t : Team) (is : List Nat) (f : Nat → Fibre → Fibre) :
    (t.modFibres is f).fibres.length = t.fibres.length := by
  simp [Team.modFibres]

/-- What each fibre becomes. -/
theorem Team.modFibres_fibre (t : Team) (is : List Nat) (f : Nat → Fibre → Fibre) (i : Nat) :
    (t.modFibres is f).fibre i = if i ∈ is ∧ i < t.fibres.length then f i (t.fibre i) else t.fibre i := by
  by_cases h : i < t.fibres.length
  · simp [Team.modFibres, Team.fibre, List.getD_eq_getElem?_getD, h]
  · simp [Team.modFibres, Team.fibre, List.getD_eq_getElem?_getD, h]

/-! ## Bytes -/

/-- What the value of a block rests on. -/
theorem State.current_congr {s u : State} (hc : u.cores = s.cores) (hh : u.coh = s.coh) (hm : u.msgs = s.msgs) (hd : u.dram = s.dram)
    (ho : u.host = s.host) (hw : u.sys = s.sys) (hp : u.health = s.health) (hl : ∀ n, u.localBase n = s.localBase n) (blk : Nat) :
    u.current blk = s.current blk := by
  have hb : (fun x : Nat × Nat × PubEntry × Nat => (x.1, x.2.1, u.localBase x.2.2.1.team + x.2.2.1.lbase + x.2.2.2, x.2.2.2))
      = fun x => (x.1, x.2.1, s.localBase x.2.2.1.team + x.2.2.1.lbase + x.2.2.2, x.2.2.2) := by
    funext x; rw [hl]
  simp only [State.current, State.localCopy, State.published, State.leftover, State.memBlock, State.dramBlock, State.windowOf,
    State.dramReached, State.stackLive, State.homeSerial, State.metaOf, State.core, hc, hh, hm, hd, ho, hw, hp, hb]
  all_goals rfl

theorem State.readPa_congr {s u : State} (hc : u.cores = s.cores) (hh : u.coh = s.coh) (hm : u.msgs = s.msgs) (hd : u.dram = s.dram)
    (ho : u.host = s.host) (hw : u.sys = s.sys) (hp : u.health = s.health) (hf : u.fab = s.fab) (hl : ∀ n, u.localBase n = s.localBase n) (pa n : Nat) :
    u.readPa pa n = s.readPa pa n := by
  simp only [State.readPa]
  generalize n / 128 + 2 = k
  induction k generalizing pa n with
  | zero => rfl
  | succ k ih =>
    simp only [State.readBlocks, State.current_congr hc hh hm hd ho hw hp hl, ih, State.dev, hf]

/-- A change of teams that leaves their local ranges leaves every byte. -/
theorem State.localBase_congr {s : State} {n : Nat} {f : Team → Team} (hi : ∀ t, (f t).id = t.id) (hf : ∀ t, (f t).lbase = t.lbase)
    (m : Nat) : (s.modTeam n f).localBase m = s.localBase m := by
  simp only [State.localBase]
  by_cases h : m = n
  · subst h
    rw [State.modTeam_same hi]
    cases s.team? m <;> simp [hf]
  · rw [State.modTeam_other hi h]

/-! ## Arrivals of row engines and quiet teams -/

/-- With no write in a window of another device, the arrival is made at once (R329). -/
@[simp] theorem State.arriveAfter_nil (s : State) (team obj : Nat) (w : Option (BitVec 24)) :
    s.arriveAfter team obj w [] = (s.noteTime team obj w).arrive team obj 2048 5 := rfl

/-- With such a write, the arrival is noted and nothing else changes. -/
theorem State.arriveAfter_waits (s : State) (team obj : Nat) (w : Option (BitVec 24)) {posts : List Nat} (h : posts ≠ []) :
    s.arriveAfter team obj w posts =
      { s with coh := { s.coh with arrivals := s.coh.arrivals ++ [{ team := team, obj := obj, posts := posts, wts := w }] } } := by
  simp [State.arriveAfter, h]

/-- The end of a post leaves a state in which no arrival waits. -/
theorem State.settleArrivals_none {s : State} (h : s.coh.arrivals = []) (post : Nat) : s.settleArrivals post = s := by
  obtain ⟨⟩ := s
  simp_all [State.settleArrivals]
  rw [← h]

/-- Time that passes leaves a team without marks alone, when its core's quarters read no image. -/
theorem Team.cool_quiet {t : Team} (h : t.marked = false) (n : Nat) : t.cool n false = t := by
  simp [Team.cool, h]

end Sys2Proof.Machine
end

