-- ==== Sys2Proof/Laws/Issue.lean ====
section
/-! SUPPORT. What issuing can do: one lemma for each outcome of `issue`, and the shapes of the lane instructions. -/

namespace Sys2Proof.Machine

theorem firstFail_none (i : Nat) (f : Fibre) (cs : List Check) (k : Nat) :
    firstFail i f cs k = none ↔ ∀ c ∈ cs, c i f = none := by
  induction cs generalizing k with
  | nil => simp [firstFail]
  | cons c cs ih =>
    simp only [firstFail]
    cases h : c i f <;> simp [h, ih]

theorem failures_nil (t : Team) (act : List Nat) (cs : List Check) :
    failures t act cs = [] ↔ ∀ i ∈ act, ∀ c ∈ cs, c i (t.fibre i) = none := by
  simp [failures, List.filterMap_eq_nil_iff, firstFail_none]

theorem earliest_none (l : List (Nat × Nat × Cause)) : earliest l = none ↔ l = [] := by
  cases l with
  | nil => simp [earliest]
  | cons x xs =>
    simp only [earliest]
    cases h : earliest xs <;> simp
    split <;> simp

/-- No cause is recorded exactly when no check fails in any fibre. -/
theorem recorded_none (t : Team) (act : List Nat) (cs : List Check) :
    recorded t act cs = none ↔ ∀ i ∈ act, ∀ c ∈ cs, c i (t.fibre i) = none := by
  simp [recorded, earliest_none, failures_nil]

theorem checkWindow_none (uses : Fibre → List Nat) (i : Nat) (f : Fibre) :
    checkWindow uses i f = none ↔ ∀ n ∈ uses f, n < f.regs.length := by
  simp [checkWindow]

/-- Issuing always goes on. -/
theorem issue_next (fm : Form) (own : State → Team → List Nat → List Check) (eff : State → Team → List Nat → State)
    (s : State) : ∃ u, issue fm own eff s = .next u := by
  unfold issue
  cases s.curTeam with
  | none => exact ⟨_, rfl⟩
  | some t =>
    simp only
    split
    · exact ⟨_, rfl⟩
    · cases fm.isLoad <;> simp only [Bool.false_eq_true, if_true, if_false] <;> split
      all_goals first
        | exact ⟨_, rfl⟩
        | split
          · exact ⟨_, rfl⟩
          · cases recorded t (s.active t fm.guard) (fm.early ++ [checkWindow fm.uses] ++ own s t (s.active t fm.guard)) <;>
              exact ⟨_, rfl⟩

/-- Past the interlocks and the guard, an instruction takes the first cause that its checks find, or has its effect. -/
theorem issue_checked {fm : Form} {own : State → Team → List Nat → List Check} {eff : State → Team → List Nat → State}
    {s : State} {t : Team} (ht : s.curTeam = some t) (hp : pendingUse t s.cur.fibs fm.uses = false)
    (ho : (if fm.isLoad then s.hasAcquire t s.cur.fibs || s.readPending t s.cur.fibs fm.writes else s.hasOpen t s.cur.fibs) = false)
    (hg : fm.guard ≠ .neg 7) :
    issue fm own eff s =
      match recorded t (s.active t fm.guard) (fm.early ++ [checkWindow fm.uses] ++ own s t (s.active t fm.guard)) with
      | some (c, is) => .next (s.raise t c is s.cur.fibs (s.curPc t))
      | none => .next (eff s t (s.active t fm.guard)) := by
  unfold issue
  rw [ht]
  simp only [hp, ho, Bool.false_eq_true, if_false, if_neg hg]
  all_goals rfl

theorem no_cause {s : State} {t : Team} {g : Guard} {uses : Fibre → List Nat} {early own : List Check}
    (hw : InWindow s t g uses) (he : NoCause s t g early) (ho : NoCause s t g own) :
    recorded t (s.active t g) (early ++ [checkWindow uses] ++ own) = none := by
  rw [recorded_none]
  intro i hi c hc
  simp only [List.mem_append, List.mem_singleton] at hc
  rcases hc with (hc | rfl) | hc
  · exact he i hi c hc
  · exact (checkWindow_none _ _ _).2 (hw i hi)
  · exact ho i hi c hc

/-- An instruction that can issue, and whose checks find no cause, has its effect on the fibres whose guard holds. -/
theorem issue_runs {fm : Form} {own : State → Team → List Nat → List Check} {eff : State → Team → List Nat → State}
    {s : State} {t : Team} (h : CanIssue s t fm.guard fm.uses) (hl : fm.isLoad = false)
    (he : NoCause s t fm.guard fm.early) (ho : NoCause s t fm.guard (own s t (s.active t fm.guard))) :
    issue fm own eff s = .next (eff s t (s.active t fm.guard)) := by
  rw [issue_checked h.team h.ready (by simp [hl, h.settled]) h.guard, no_cause h.window he ho]

/-- The same for a load. -/
theorem issue_loads {fm : Form} {own : State → Team → List Nat → List Check} {eff : State → Team → List Nat → State}
    {s : State} {t : Team} (h : CanLoad s t fm.guard fm.uses fm.writes) (hl : fm.isLoad = true)
    (he : NoCause s t fm.guard fm.early) (ho : NoCause s t fm.guard (own s t (s.active t fm.guard))) :
    issue fm own eff s = .next (eff s t (s.active t fm.guard)) := by
  rw [issue_checked h.team h.ready (by simp [hl, h.settled, h.readable]) h.guard, no_cause h.window he ho]

/-- The reserved guard raises cause 0x02 in every fibre of the bundle (R28, R39). -/
theorem issue_reserved {fm : Form} {own : State → Team → List Nat → List Check} {eff : State → Team → List Nat → State}
    {s : State} {t : Team} (ht : s.curTeam = some t) (hp : pendingUse t s.cur.fibs fm.uses = false)
    (ho : (if fm.isLoad then s.hasAcquire t s.cur.fibs || s.readPending t s.cur.fibs fm.writes else s.hasOpen t s.cur.fibs) = false)
    (hg : fm.guard = .neg 7) :
    issue fm own eff s = .next (s.raise t { code := 0x02 } s.cur.fibs s.cur.fibs (s.curPc t)) := by
  unfold issue
  rw [ht]
  simp only [hp, ho, Bool.false_eq_true, if_false, if_pos hg]

/-- The effect of a lane instruction that can issue. -/
theorem laneOp_runs {s : State} {t : Team} {g : Guard} {len : Nat} {uses : Fibre → List Nat} {f : Nat → Fibre → Fibre}
    (h : CanIssue s t g uses) : laneOp g len uses f s = .next (s.writeFibres (s.active t g) len f) :=
  issue_runs (fm := { guard := g, uses := uses }) h rfl (by simp [NoCause]) (by simp [NoCause])

/-! ## What a register write leaves -/

theorem State.active_sub {s : State} {t : Team} {g : Guard} {i : Nat} (h : i ∈ s.active t g) : i ∈ s.cur.fibs :=
  (List.mem_filter.1 h).1

/-- The team after `writeFibres`. -/
theorem State.writeFibres_team {s : State} {t : Team} (ht : s.curTeam = some t) (act : List Nat) (len : Nat)
    (f : Nat → Fibre → Fibre) :
    (s.writeFibres act len f).team? t.id = some
      { (t.modFibres act f).modFibres s.cur.fibs fun _ x => { x with pc := x.pc + BitVec.ofNat 32 len } with
        bundles := t.bundles.map fun b => if b.fibs == s.cur.fibs then { b with last := s.stamp, stalled := false, begun := false } else b } := by
  have hid := State.team?_id ht
  have h0 : s.team? s.cur.team = some t := ht
  rw [hid]
  simp only [State.writeFibres, State.advance, State.issued_team?, State.modTeam_cur]
  refine (State.modTeam_same ?_).trans ?_
  · intro _; rfl
  · rw [State.modTeam_same (s := s) (f := fun t => t.modFibres act f) (fun _ => rfl), h0]
    rfl

/-- What each fibre becomes. -/
theorem State.writeFibres_fibre {s : State} {t : Team} (ht : s.curTeam = some t) (act : List Nat) (len : Nat)
    (f : Nat → Fibre → Fibre) (i : Nat) :
    (s.writeFibres act len f).fibreNow t i =
      if i < t.fibres.length then
        let x := if i ∈ act then f i (t.fibre i) else t.fibre i
        if i ∈ s.cur.fibs then { x with pc := x.pc + BitVec.ofNat 32 len } else x
      else t.fibre i := by
  simp only [State.fibreNow, State.writeFibres_team ht, Option.getD_some]
  show (((t.modFibres act f).modFibres s.cur.fibs fun _ x => { x with pc := x.pc + BitVec.ofNat 32 len }).fibre i) = _
  rw [Team.modFibres_fibre, Team.modFibres_fibre, Team.modFibres_length]
  by_cases h : i < t.fibres.length <;> simp [h]

/-- A change of registers and predicates lands. -/
theorem State.writeFibres_lands {s : State} {t : Team} (ht : s.curTeam = some t) {act : List Nat} (ha : ∀ i ∈ act, i ∈ s.cur.fibs)
    (len : Nat) {f : Nat → Fibre → Fibre} {ws : Nat → Fibre → List (Nat × Word)} {ps : Nat → Fibre → List (Pred × Bool)}
    (hk : ∀ i ∈ act, (t.fibre i).keeps (f i (t.fibre i)) ((ws i (t.fibre i)).map (fun p => p.1)) ((ps i (t.fibre i)).map fun p => p.1))
    (hpc : ∀ i ∈ act, (f i (t.fibre i)).pc = (t.fibre i).pc)
    (hr : ∀ i ∈ act, ∀ p ∈ ws i (t.fibre i), (f i (t.fibre i)).reg p.1 = p.2)
    (hp : ∀ i ∈ act, ∀ p ∈ ps i (t.fibre i), (f i (t.fibre i)).pred p.1 = (p.1 == 7 || p.2)) :
    Lands s (s.writeFibres act len f) t act len ws ps where
  rest := rfl
  bytes := by
    refine ⟨fun pa => State.readPa_congr (s := s) (u := s.writeFibres act len f) rfl rfl rfl rfl rfl rfl rfl rfl (fun n => ?_) pa 1, fun _ _ => rfl, fun _ => rfl⟩
    refine (State.localBase_congr ?_ ?_ n).trans (State.localBase_congr ?_ ?_ n) <;> intro _ <;> rfl
  others := by
    intro id h
    rw [State.team?_id ht] at h
    simp only [State.writeFibres, State.advance, State.issued_team?, State.modTeam_cur]
    refine (State.modTeam_other ?_ h).trans (State.modTeam_other ?_ h) <;> intro _ <;> rfl
  own := by
    refine ⟨_, State.writeFibres_team ht act len f, rfl, by simp, ?_⟩
    simp only [List.map_map]
    apply List.map_congr_left
    intro b _
    simp only [Function.comp]
    split <;> rfl
  moved := by
    intro i hi hl
    rw [State.writeFibres_fibre ht]
    by_cases h : i ∈ act
    · simp [hl, hi, h, hpc i h]
    · simp [hl, hi, h]
  stayed := by
    intro i hi
    rw [State.writeFibres_fibre ht]
    have : i ∉ act := fun h => hi (ha i h)
    simp [hi, this]
  kept := by
    intro i
    rw [State.writeFibres_fibre ht]
    have key (x y : Fibre) (rs : List Nat) (qs : List Pred) (h : x.keeps y rs qs) (c : Word) : x.keeps { y with pc := c } rs qs := by
      obtain ⟨h1, h2, h3, h4⟩ := h
      refine ⟨?_, h2, h3, h4⟩
      rw [h1]
    have self (x : Fibre) (rs : List Nat) (qs : List Pred) : x.keeps x rs qs := ⟨rfl, rfl, fun _ _ => rfl, fun _ _ => rfl⟩
    by_cases hl : i < t.fibres.length
    · by_cases h : i ∈ act
      · simp only [hl, h, ha i h, if_true]
        exact key _ _ _ _ (hk i h) _
      · simp only [hl, h, if_true, if_false]
        split
        · exact key _ _ _ _ (self _ _ _) _
        · exact self _ _ _
    · simp only [hl, if_false]
      exact self _ _ _
  regs := by
    intro i hi hl p hq
    rw [State.writeFibres_fibre ht]
    simp only [hl, hi, ha i hi, if_true]
    exact hr i hi p hq
  preds := by
    intro i hi hl p hq
    rw [State.writeFibres_fibre ht]
    simp only [hl, hi, ha i hi, if_true]
    exact hp i hi p hq

theorem Fibre.setReg_keeps (x : Fibre) (d : Nat) (w : Word) : x.keeps (x.setReg d w) [d] [] := by
  refine ⟨rfl, by simp, ?_, fun _ _ => rfl⟩
  intro n hn
  exact Fibre.setReg_other (by simpa using hn)

theorem Fibre.setPred_keeps (x : Fibre) (p : Pred) (b : Bool) : x.keeps (x.setPred p b) [] [p] := by
  refine ⟨?_, by simp, fun _ _ => by simp, ?_⟩
  · unfold Fibre.setPred; split <;> rfl
  · intro q hq
    exact Fibre.setPred_other (by simpa using hq)

/-- One register written in each fibre. -/
theorem State.setReg_lands {s : State} {t : Team} (ht : s.curTeam = some t) {act : List Nat} (ha : ∀ i ∈ act, i ∈ s.cur.fibs) (len d : Nat)
    {v : Nat → Fibre → Word} (hw : ∀ i ∈ act, d < (t.fibre i).regs.length) :
    Lands s (s.writeFibres act len fun i x => x.setReg d (v i x)) t act len (fun i x => [(d, v i x)]) fun _ _ => [] := by
  apply State.writeFibres_lands ht ha
  · intro i _; exact Fibre.setReg_keeps _ _ _
  · intro i _; rfl
  · intro i hi p hp
    simp only [List.mem_singleton] at hp
    subst hp
    exact Fibre.setReg_same (hw i hi)
  · intro i _ p hp
    simp at hp

/-- One predicate written in each fibre. -/
theorem State.setPred_lands {s : State} {t : Team} (ht : s.curTeam = some t) {act : List Nat} (ha : ∀ i ∈ act, i ∈ s.cur.fibs) (len : Nat)
    (p : Pred) {v : Nat → Fibre → Bool} :
    Lands s (s.writeFibres act len fun i x => x.setPred p (v i x)) t act len (fun _ _ => []) fun i x => [(p, v i x)] := by
  apply State.writeFibres_lands ht ha
  · intro i _; exact Fibre.setPred_keeps _ _ _
  · intro i _; simp
  · intro i _ q hq
    simp at hq
  · intro i hi q hq
    simp only [List.mem_singleton] at hq
    subst hq
    exact Fibre.setPred_same _ _ _

end Sys2Proof.Machine
end

