-- ==== Sys2Proof/Laws/Memory.lean ====
section
/-! SUPPORT. Memory: the canonical form, a byte read after a write, and that the operations on which all others rest keep every memory
canonical. -/

namespace Sys2Proof.Machine

/-! ## The canonical form -/

/-- The canonical form above a bound: addresses rise strictly from the bound on, and no byte listed is 0. -/
theorem Mem.wfFrom_iff {m : Mem} {lo : Nat} :
    Mem.wfFrom lo m = true ↔ m.Pairwise (fun x y => x.1 < y.1) ∧ ∀ x ∈ m, lo ≤ x.1 ∧ x.2 ≠ 0 := by
  induction m generalizing lo with
  | nil => simp [Mem.wfFrom]
  | cons x m ih =>
    obtain ⟨a, b⟩ := x
    simp only [Mem.wfFrom, Bool.and_eq_true, decide_eq_true_eq, bne_iff_ne, ih, List.pairwise_cons, List.mem_cons, forall_eq_or_imp]
    constructor
    · rintro ⟨⟨h1, h2⟩, h3, h4⟩
      exact ⟨⟨fun y hy => (h4 y hy).1, h3⟩, ⟨h1, h2⟩, fun y hy => ⟨by have := (h4 y hy).1; omega, (h4 y hy).2⟩⟩
    · rintro ⟨⟨h1, h2⟩, ⟨h3, h4⟩, h5⟩
      exact ⟨⟨h3, h4⟩, h2, fun y hy => ⟨h1 y hy, (h5 y hy).2⟩⟩

theorem Mem.wf_iff {m : Mem} : m.wf = true ↔ m.Pairwise (fun x y => x.1 < y.1) ∧ ∀ x ∈ m, x.2 ≠ 0 := by
  rw [Mem.wf, Mem.wfFrom_iff]
  simp

@[simp] theorem Mem.wf_nil : Mem.wf [] = true := rfl

/-- Leaving cells out keeps the form. -/
theorem Mem.wf_filter {m : Mem} (p : Host.Cell → Bool) (h : m.wf = true) : Mem.wf (m.filter p) = true := by
  rw [Mem.wf_iff] at h ⊢
  exact ⟨h.1.filter _, fun x hx => h.2 x (List.mem_filter.1 hx).1⟩

theorem cells_mem {a : Nat} {bs : List Byte} {x : Host.Cell} :
    x ∈ cells a bs ↔ a ≤ x.1 ∧ x.1 < a + bs.length ∧ x.2 = bs.getD (x.1 - a) 0 ∧ x.2 ≠ 0 := by
  induction bs generalizing a with
  | nil =>
    simp only [cells, List.not_mem_nil, List.length_nil, false_iff]
    omega
  | cons b bs ih =>
    have tail : x ∈ cells (a + 1) bs ↔ a + 1 ≤ x.1 ∧ x.1 < a + (bs.length + 1) ∧ x.2 = (b :: bs).getD (x.1 - a) 0 ∧ x.2 ≠ 0 := by
      rw [ih]
      constructor
      · rintro ⟨h1, h2, h3, h4⟩
        refine ⟨h1, by omega, ?_, h4⟩
        rw [show x.1 - a = (x.1 - (a + 1)) + 1 by omega, List.getD_cons_succ]
        exact h3
      · rintro ⟨h1, h2, h3, h4⟩
        refine ⟨h1, by omega, ?_, h4⟩
        rw [show x.1 - a = (x.1 - (a + 1)) + 1 by omega, List.getD_cons_succ] at h3
        exact h3
    simp only [cells, List.length_cons]
    split
    · rename_i hb
      rw [tail]
      constructor
      · rintro ⟨h1, h2, h3, h4⟩
        exact ⟨by omega, h2, h3, h4⟩
      · rintro ⟨h1, h2, h3, h4⟩
        refine ⟨?_, h2, h3, h4⟩
        by_contra hlt
        have : x.1 - a = 0 := by omega
        rw [this] at h3
        exact h4 (h3.trans (by simpa using hb))
    · rename_i hb
      rw [List.mem_cons, tail]
      constructor
      · rintro (rfl | ⟨h1, h2, h3, h4⟩)
        · exact ⟨le_refl _, by simp, by simp, hb⟩
        · exact ⟨by omega, h2, h3, h4⟩
      · rintro ⟨h1, h2, h3, h4⟩
        by_cases he : x.1 = a
        · left
          have : x.1 - a = 0 := by omega
          rw [this] at h3
          exact Prod.ext he (by simpa using h3)
        · exact Or.inr ⟨by omega, h2, h3, h4⟩

theorem cells_pairwise (a : Nat) (bs : List Byte) : (cells a bs).Pairwise (fun x y => x.1 < y.1) := by
  induction bs generalizing a with
  | nil => simp [cells]
  | cons b bs ih =>
    simp only [cells]
    split
    · exact ih _
    · refine List.pairwise_cons.2 ⟨fun y hy => ?_, ih _⟩
      have := (cells_mem.1 hy).1
      show a < y.1
      omega

theorem Mem.mem_write {m : Mem} {a : Nat} {bs : List Byte} {x : Host.Cell} :
    x ∈ m.write a bs ↔
      (x ∈ m ∧ (x.1 < a ∨ a + bs.length ≤ x.1)) ∨ (a ≤ x.1 ∧ x.1 < a + bs.length ∧ x.2 = bs.getD (x.1 - a) 0 ∧ x.2 ≠ 0) := by
  simp only [Mem.write, List.mem_append, List.mem_filter, cells_mem, decide_eq_true_eq]
  tauto

/-- A write keeps the canonical form. -/
theorem Mem.wf_write {m : Mem} (a : Nat) (bs : List Byte) (h : m.wf = true) : Mem.wf (m.write a bs) = true := by
  rw [Mem.wf_iff] at h ⊢
  refine ⟨?_, fun x hx => ?_⟩
  · simp only [Mem.write, List.pairwise_append, List.mem_append, List.mem_filter, decide_eq_true_eq]
    refine ⟨⟨h.1.filter _, cells_pairwise _ _, fun x hx y hy => ?_⟩, h.1.filter _, fun x hx y hy => ?_⟩
    · have := (cells_mem.1 hy).1
      omega
    · rcases hx with hx | hx
      · omega
      · have := (cells_mem.1 hx).2.1
        omega
  · rcases Mem.mem_write.1 hx with hx | hx
    · exact h.2 x hx.1
    · exact hx.2.2.2

/-! ## Reading one byte -/

/-- In canonical form a cell is listed exactly when its byte is read and is not 0. -/
theorem Mem.mem_iff {m : Mem} (h : m.wf = true) {a : Nat} {b : Byte} : (a, b) ∈ m ↔ b ≠ 0 ∧ m.get a = b := by
  rw [Mem.wf_iff] at h
  induction m with
  | nil => simp only [List.not_mem_nil, Mem.get, false_iff]; rintro ⟨h1, rfl⟩; exact h1 rfl
  | cons x m ih =>
    obtain ⟨k, v⟩ := x
    have ih' := ih ⟨(List.pairwise_cons.1 h.1).2, fun y hy => h.2 y (List.mem_cons_of_mem _ hy)⟩
    have hv : v ≠ 0 := h.2 (k, v) List.mem_cons_self
    have hlt : ∀ y ∈ m, k < y.1 := fun y hy => (List.pairwise_cons.1 h.1).1 y hy
    simp only [List.mem_cons, Prod.mk.injEq, Mem.get]
    split
    · rename_i hk
      subst hk
      constructor
      · rintro (⟨_, rfl⟩ | hm)
        · exact ⟨hv, rfl⟩
        · exact absurd (hlt _ hm) (lt_irrefl _)
      · rintro ⟨_, rfl⟩
        exact Or.inl ⟨rfl, rfl⟩
    · rename_i hk
      split
      · rename_i hlt'
        constructor
        · rintro (⟨rfl, _⟩ | hm)
          · exact absurd rfl hk
          · exact absurd (hlt _ hm) (by simpa using Nat.le_of_lt hlt')
        · rintro ⟨h1, rfl⟩
          exact absurd rfl h1
      · rw [ih']
        constructor
        · rintro (⟨rfl, _⟩ | hm)
          · exact absurd rfl hk
          · exact hm
        · exact Or.inr

/-- Two canonical memories that list the same cells read the same. -/
theorem Mem.get_of_mem {m : Mem} (h : m.wf = true) {a : Nat} {b : Byte} (hm : b = 0 → ∀ c, (a, c) ∉ m) (hb : b ≠ 0 → (a, b) ∈ m) :
    m.get a = b := by
  by_cases h0 : b = 0
  · subst h0
    by_contra hne
    exact hm rfl (m.get a) ((Mem.mem_iff h).2 ⟨hne, rfl⟩)
  · exact ((Mem.mem_iff h).1 (hb h0)).2

/-- A byte read after a write: the byte written there, or what was there before. -/
theorem Mem.get_write {m : Mem} (h : m.wf = true) (a : Nat) (bs : List Byte) (x : Nat) :
    (m.write a bs).get x = if a ≤ x ∧ x < a + bs.length then bs.getD (x - a) 0 else m.get x := by
  apply Mem.get_of_mem (Mem.wf_write a bs h)
  · intro h0 c hc
    rcases Mem.mem_write.1 hc with ⟨h1, h2⟩ | ⟨h1, h2, h3, h4⟩
    · rw [if_neg (by simp only at h2; omega)] at h0
      obtain ⟨h5, h6⟩ := (Mem.mem_iff h).1 h1
      exact h5 (h6 ▸ h0)
    · rw [if_pos ⟨h1, h2⟩] at h0
      exact h4 (h3.trans h0)
  · intro h0
    rw [Mem.mem_write]
    split
    · rename_i hin
      rw [if_pos hin] at h0
      exact Or.inr ⟨hin.1, hin.2, rfl, h0⟩
    · rename_i hout
      rw [if_neg hout] at h0
      exact Or.inl ⟨(Mem.mem_iff h).2 ⟨h0, rfl⟩, by simp only; omega⟩

theorem Mem.get_filter {m : Mem} (h : m.wf = true) (p : Nat → Bool) (x : Nat) :
    Mem.get (m.filter fun c => p c.1) x = if p x then m.get x else 0 := by
  apply Mem.get_of_mem (Mem.wf_filter _ h)
  · intro h0 c hc
    obtain ⟨h1, h2⟩ := List.mem_filter.1 hc
    have h2' : p x = true := h2
    rw [if_pos h2'] at h0
    obtain ⟨h5, h6⟩ := (Mem.mem_iff h).1 h1
    exact h5 (h6 ▸ h0)
  · intro h0
    by_cases hp : p x = true
    · rw [if_pos hp] at h0 ⊢
      exact List.mem_filter.2 ⟨(Mem.mem_iff h).2 ⟨h0, rfl⟩, hp⟩
    · rw [if_neg hp] at h0
      exact absurd rfl h0

/-- Several bytes at once are those bytes, one by one. -/
theorem Mem.read_eq {m : Mem} (h : m.wf = true) (a n : Nat) : m.read a n = (List.range n).map fun i => m.get (a + i) := by
  simp only [Mem.read]
  apply List.map_congr_left
  intro i hi
  have := Mem.get_filter h (fun x => decide (a ≤ x) && decide (x < a + n)) (a + i)
  rw [this, if_pos (by simp only [List.mem_range] at hi; simp; omega)]

@[simp] theorem Mem.read_length (m : Mem) (a n : Nat) : (m.read a n).length = n := by simp [Mem.read]

/-! ## Operations that keep every memory canonical -/

theorem Canonical.congr {s u : State} (h : Canonical s) (hd : u.dram = s.dram) (hh : u.host.mem = s.host.mem) (hc : u.cores = s.cores) :
    Canonical u := by
  unfold Canonical
  rw [hd, hh, hc]
  exact h

theorem Canonical.modTeam {s : State} (h : Canonical s) (n : Nat) (f : Team → Team) : Canonical (s.modTeam n f) := h

theorem Canonical.modCore {s : State} (h : Canonical s) (c : Nat) (f : Core → Core)
    (hf : ∀ k, k.lmem.wf = true → (f k).lmem.wf = true) : Canonical (s.modCore c f) := by
  refine ⟨h.1, h.2.1, fun k hk => ?_⟩
  obtain ⟨i, hi, rfl⟩ := List.getElem_of_mem hk
  simp only [State.modCore, List.length_modify] at hi
  simp only [State.modCore, List.getElem_modify]
  split
  · exact hf _ (h.2.2 _ (List.getElem_mem _))
  · exact h.2.2 _ (List.getElem_mem _)

/-- Bytes of a core's local memory are written. -/
theorem Canonical.writeLocal {s : State} (h : Canonical s) (c a : Nat) (bs : List Byte) :
    Canonical (s.modCore c fun k => { k with lmem := k.lmem.write a bs }) :=
  h.modCore c _ fun _ hk => Mem.wf_write a bs hk

theorem Canonical.setMemBlock {s : State} (h : Canonical s) (blk : Nat) (d : BlockData) : Canonical (s.setMemBlock blk d) := by
  unfold State.setMemBlock
  simp only
  split
  · exact ⟨h.1, Mem.wf_write _ _ h.2.1, h.2.2⟩
  · split
    · exact h
    · exact ⟨Mem.wf_write _ _ h.1, h.2.1, h.2.2⟩

/-- A block changes at every copy of it. -/
theorem Canonical.changeBlock {s : State} (h : Canonical s) (blk : Nat) (f : BlockData → BlockData) : Canonical (s.changeBlock blk f) := by
  unfold State.changeBlock
  split
  · exact h.modCore _ _ fun _ hk => Mem.wf_write _ _ hk
  · exact (h.setMemBlock _ _).congr rfl rfl rfl

theorem Canonical.clearPoison {s : State} (h : Canonical s) (blk off n : Nat) : Canonical (s.clearPoison blk off n) := by
  unfold State.clearPoison State.setPoison State.setMeta
  split
  · split <;> exact h.congr rfl rfl rfl
  · exact h

theorem Canonical.writeBlock {s : State} (h : Canonical s) (blk off : Nat) (bs : List Byte) : Canonical (s.writeBlock blk off bs) := by
  unfold State.writeBlock
  have hc := (h.clearPoison blk off bs.length).changeBlock blk fun d => patchBlock d off bs
  generalize (s.clearPoison blk off bs.length).changeBlock blk (fun d => patchBlock d off bs) = u at hc ⊢
  by_cases hr : s.blockReady blk true = true
  · simpa [hr] using hc
  · simp only [hr]
    exact hc.congr rfl rfl rfl

theorem Canonical.writeBlocks (n : Nat) {s : State} (h : Canonical s) (pa : Nat) (bs : List Byte) :
    Canonical (State.writeBlocks n s pa bs) := by
  induction n generalizing s pa bs with
  | zero => exact h
  | succ n ih =>
    simp only [State.writeBlocks]
    split
    · exact h.writeBlock _ _ _
    · exact ih (h.writeBlock _ _ _) _ _

/-- Bytes of device memory are written. -/
theorem Canonical.writePa {s : State} (h : Canonical s) (pa : Nat) (bs : List Byte) : Canonical (s.writePa pa bs) := by
  unfold State.writePa
  split
  · exact h
  · exact h.writeBlocks _ _ _

end Sys2Proof.Machine
end

