-- ==== Sys2Proof/Laws/PerInstr.lean ====
section
/-! SUPPORT. The family `Size`: bit 0 of an instruction's first unit says whether it has 2 bytes or 4 (R23, R25, R27). -/

namespace Sys2Proof.Laws.Size

/-- Bit 0 of the code is 0 for a compact instruction and 1 for a 32-bit one; an event has no code. -/
def Statement (i : Instr) : Prop :=
  match encode i with
  | some (.unit u) => isCompact u = true
  | some (.word w) => isCompact (w.setWidth 16) = false
  | none => True

theorem unit (b : BitVec 5) (d : Reg) (op : BitVec 4) : isCompact (unit16 b d op) = true := by
  have h : (unit16 b d op).getLsbD 0 = false := by
    rw [unit16, BitVec.getLsbD_append]
    rfl
  simp only [isCompact, h, Bool.not_false]

theorem word (f : BitVec 21) (g : Guard) (m : BitVec 6) : isCompact ((word32 f g m).setWidth 16) = false := by
  have h : (word32 f g m).getLsbD 0 = true := by
    rw [word32, BitVec.getLsbD_append]
    rfl
  simp only [isCompact, BitVec.getLsbD_setWidth, h, Nat.zero_lt_succ, decide_true, Bool.and_self, Bool.not_true]

theorem movC16 (b : BitVec 5) (d : Reg) : Statement (.movC16 b d) := unit _ _ _
theorem moviC16 (imm : BitVec 5) (d : Reg) : Statement (.moviC16 imm d) := unit _ _ _
theorem addC16 (b : BitVec 5) (d : Reg) : Statement (.addC16 b d) := unit _ _ _
theorem addiC16 (imm : BitVec 5) (d : Reg) : Statement (.addiC16 imm d) := unit _ _ _
theorem subC16 (b : BitVec 5) (d : Reg) : Statement (.subC16 b d) := unit _ _ _
theorem mulLoC16 (b : BitVec 5) (d : Reg) : Statement (.mulLoC16 b d) := unit _ _ _
theorem andC16 (b : BitVec 5) (d : Reg) : Statement (.andC16 b d) := unit _ _ _
theorem orC16 (b : BitVec 5) (d : Reg) : Statement (.orC16 b d) := unit _ _ _
theorem xorC16 (b : BitVec 5) (d : Reg) : Statement (.xorC16 b d) := unit _ _ _
theorem shlC16 (b : BitVec 5) (d : Reg) : Statement (.shlC16 b d) := unit _ _ _
theorem shrC16 (b : BitVec 5) (d : Reg) : Statement (.shrC16 b d) := unit _ _ _
theorem minS32C16 (b : BitVec 5) (d : Reg) : Statement (.minS32C16 b d) := unit _ _ _
theorem maxS32C16 (b : BitVec 5) (d : Reg) : Statement (.maxS32C16 b d) := unit _ _ _
theorem faddC16 (b : BitVec 5) (d : Reg) : Statement (.faddC16 b d) := unit _ _ _
theorem fmulC16 (b : BitVec 5) (d : Reg) : Statement (.fmulC16 b d) := unit _ _ _
theorem fmaxC16 (b : BitVec 5) (d : Reg) : Statement (.fmaxC16 b d) := unit _ _ _
theorem add (g : Guard) (b : Reg) (a : Reg) (d : Reg) : Statement (.add g b a d) := word _ _ _
theorem addc (g : Guard) (b : Reg) (a : Reg) (d : Reg) : Statement (.addc g b a d) := word _ _ _
theorem sub (g : Guard) (b : Reg) (a : Reg) (d : Reg) : Statement (.sub g b a d) := word _ _ _
theorem subb (g : Guard) (b : Reg) (a : Reg) (d : Reg) : Statement (.subb g b a d) := word _ _ _
theorem mulLo (g : Guard) (b : Reg) (a : Reg) (d : Reg) : Statement (.mulLo g b a d) := word _ _ _
theorem mulHiS32 (g : Guard) (b : Reg) (a : Reg) (d : Reg) : Statement (.mulHiS32 g b a d) := word _ _ _
theorem mulHiN32 (g : Guard) (b : Reg) (a : Reg) (d : Reg) : Statement (.mulHiN32 g b a d) := word _ _ _
theorem mad (g : Guard) (b : Reg) (a : Reg) (d : Reg) : Statement (.mad g b a d) := word _ _ _
theorem and (g : Guard) (b : Reg) (a : Reg) (d : Reg) : Statement (.and g b a d) := word _ _ _
theorem or (g : Guard) (b : Reg) (a : Reg) (d : Reg) : Statement (.or g b a d) := word _ _ _
theorem xor (g : Guard) (b : Reg) (a : Reg) (d : Reg) : Statement (.xor g b a d) := word _ _ _
theorem andn (g : Guard) (b : Reg) (a : Reg) (d : Reg) : Statement (.andn g b a d) := word _ _ _
theorem minS32 (g : Guard) (b : Reg) (a : Reg) (d : Reg) : Statement (.minS32 g b a d) := word _ _ _
theorem maxS32 (g : Guard) (b : Reg) (a : Reg) (d : Reg) : Statement (.maxS32 g b a d) := word _ _ _
theorem minN32 (g : Guard) (b : Reg) (a : Reg) (d : Reg) : Statement (.minN32 g b a d) := word _ _ _
theorem maxN32 (g : Guard) (b : Reg) (a : Reg) (d : Reg) : Statement (.maxN32 g b a d) := word _ _ _
theorem shl (g : Guard) (b : Reg) (a : Reg) (d : Reg) : Statement (.shl g b a d) := word _ _ _
theorem shr (g : Guard) (b : Reg) (a : Reg) (d : Reg) : Statement (.shr g b a d) := word _ _ _
theorem sar (g : Guard) (b : Reg) (a : Reg) (d : Reg) : Statement (.sar g b a d) := word _ _ _
theorem rot (g : Guard) (b : Reg) (a : Reg) (d : Reg) : Statement (.rot g b a d) := word _ _ _
theorem popc (g : Guard) (a : Reg) (d : Reg) : Statement (.popc g a d) := word _ _ _
theorem clz (g : Guard) (a : Reg) (d : Reg) : Statement (.clz g a d) := word _ _ _
theorem brev (g : Guard) (a : Reg) (d : Reg) : Statement (.brev g a d) := word _ _ _
theorem abs (g : Guard) (a : Reg) (d : Reg) : Statement (.abs g a d) := word _ _ _
theorem bfxS32 (g : Guard) (b : Reg) (a : Reg) (d : Reg) : Statement (.bfxS32 g b a d) := word _ _ _
theorem bfxN32 (g : Guard) (b : Reg) (a : Reg) (d : Reg) : Statement (.bfxN32 g b a d) := word _ _ _
theorem bfi (g : Guard) (b : Reg) (a : Reg) (d : Reg) : Statement (.bfi g b a d) := word _ _ _
theorem mov (g : Guard) (a : Reg) (d : Reg) : Statement (.mov g a d) := word _ _ _
theorem movKconst (g : Guard) (k : BitVec 4) (d : Reg) : Statement (.movKconst g k d) := word _ _ _
theorem movIndirectSrc (g : Guard) (imm : BitVec 6) (a : Reg) (d : Reg) : Statement (.movIndirectSrc g imm a d) := word _ _ _
theorem movIndirectDst (g : Guard) (imm : BitVec 6) (a : Reg) (d : Reg) : Statement (.movIndirectDst g imm a d) := word _ _ _
theorem sel (g : Guard) (n : Pred) (b : Reg) (a : Reg) (d : Reg) : Statement (.sel g n b a d) := word _ _ _
theorem cmpS32 (g : Guard) (c : Cond) (b : Reg) (a : Reg) (p : Pred) : Statement (.cmpS32 g c b a p) := word _ _ _
theorem cmpN32 (g : Guard) (c : Cond) (b : Reg) (a : Reg) (p : Pred) : Statement (.cmpN32 g c b a p) := word _ _ _
theorem movi (g : Guard) (imm : BitVec 15) (d : Reg) : Statement (.movi g imm d) := word _ _ _
theorem imhi (g : Guard) (imm : BitVec 15) (d : Reg) : Statement (.imhi g imm d) := word _ _ _
theorem addi (g : Guard) (imm : BitVec 9) (a : Reg) (d : Reg) : Statement (.addi g imm a d) := word _ _ _
theorem andi (g : Guard) (imm : BitVec 9) (a : Reg) (d : Reg) : Statement (.andi g imm a d) := word _ _ _
theorem ori (g : Guard) (imm : BitVec 9) (a : Reg) (d : Reg) : Statement (.ori g imm a d) := word _ _ _
theorem xori (g : Guard) (imm : BitVec 9) (a : Reg) (d : Reg) : Statement (.xori g imm a d) := word _ _ _
theorem shli (g : Guard) (cnt : BitVec 5) (a : Reg) (d : Reg) : Statement (.shli g cnt a d) := word _ _ _
theorem shri (g : Guard) (cnt : BitVec 5) (a : Reg) (d : Reg) : Statement (.shri g cnt a d) := word _ _ _
theorem sari (g : Guard) (cnt : BitVec 5) (a : Reg) (d : Reg) : Statement (.sari g cnt a d) := word _ _ _
theorem cmpiS32 (g : Guard) (imm : BitVec 9) (a : Reg) (c : Cond) (p : Pred) : Statement (.cmpiS32 g imm a c p) := word _ _ _
theorem cmpiN32 (g : Guard) (imm : BitVec 9) (a : Reg) (c : Cond) (p : Pred) : Statement (.cmpiN32 g imm a c p) := word _ _ _
theorem fadd (g : Guard) (b : Reg) (a : Reg) (d : Reg) : Statement (.fadd g b a d) := word _ _ _
theorem fsub (g : Guard) (b : Reg) (a : Reg) (d : Reg) : Statement (.fsub g b a d) := word _ _ _
theorem fmul (g : Guard) (b : Reg) (a : Reg) (d : Reg) : Statement (.fmul g b a d) := word _ _ _
theorem ffma (g : Guard) (b : Reg) (a : Reg) (d : Reg) : Statement (.ffma g b a d) := word _ _ _
theorem fmin (g : Guard) (b : Reg) (a : Reg) (d : Reg) : Statement (.fmin g b a d) := word _ _ _
theorem fmax (g : Guard) (b : Reg) (a : Reg) (d : Reg) : Statement (.fmax g b a d) := word _ _ _
theorem fdiv (g : Guard) (b : Reg) (a : Reg) (d : Reg) : Statement (.fdiv g b a d) := word _ _ _
theorem frcp (g : Guard) (a : Reg) (d : Reg) : Statement (.frcp g a d) := word _ _ _
theorem frsq (g : Guard) (a : Reg) (d : Reg) : Statement (.frsq g a d) := word _ _ _
theorem fsqrt (g : Guard) (a : Reg) (d : Reg) : Statement (.fsqrt g a d) := word _ _ _
theorem fexp2 (g : Guard) (a : Reg) (d : Reg) : Statement (.fexp2 g a d) := word _ _ _
theorem flog2 (g : Guard) (a : Reg) (d : Reg) : Statement (.flog2 g a d) := word _ _ _
theorem fclass (g : Guard) (a : Reg) (d : Reg) : Statement (.fclass g a d) := word _ _ _
theorem fcmpF32 (g : Guard) (c : Cond) (b : Reg) (a : Reg) (p : Pred) : Statement (.fcmpF32 g c b a p) := word _ _ _
theorem hadd2F16 (g : Guard) (b : Reg) (a : Reg) (d : Reg) : Statement (.hadd2F16 g b a d) := word _ _ _
theorem hmul2F16 (g : Guard) (b : Reg) (a : Reg) (d : Reg) : Statement (.hmul2F16 g b a d) := word _ _ _
theorem hfma2F16 (g : Guard) (b : Reg) (a : Reg) (d : Reg) : Statement (.hfma2F16 g b a d) := word _ _ _
theorem hmax2F16 (g : Guard) (b : Reg) (a : Reg) (d : Reg) : Statement (.hmax2F16 g b a d) := word _ _ _
theorem hadd2Bf16 (g : Guard) (b : Reg) (a : Reg) (d : Reg) : Statement (.hadd2Bf16 g b a d) := word _ _ _
theorem hmul2Bf16 (g : Guard) (b : Reg) (a : Reg) (d : Reg) : Statement (.hmul2Bf16 g b a d) := word _ _ _
theorem hfma2Bf16 (g : Guard) (b : Reg) (a : Reg) (d : Reg) : Statement (.hfma2Bf16 g b a d) := word _ _ _
theorem hmax2Bf16 (g : Guard) (b : Reg) (a : Reg) (d : Reg) : Statement (.hmax2Bf16 g b a d) := word _ _ _
theorem cvtI2fS32 (g : Guard) (a : Reg) (d : Reg) : Statement (.cvtI2fS32 g a d) := word _ _ _
theorem cvtI2fN32 (g : Guard) (a : Reg) (d : Reg) : Statement (.cvtI2fN32 g a d) := word _ _ _
theorem cvtF2iS32 (g : Guard) (a : Reg) (d : Reg) : Statement (.cvtF2iS32 g a d) := word _ _ _
theorem cvtF2iN32 (g : Guard) (a : Reg) (d : Reg) : Statement (.cvtF2iN32 g a d) := word _ _ _
theorem cvtF2hF16 (g : Guard) (a : Reg) (d : Reg) : Statement (.cvtF2hF16 g a d) := word _ _ _
theorem cvtF2hBf16 (g : Guard) (a : Reg) (d : Reg) : Statement (.cvtF2hBf16 g a d) := word _ _ _
theorem cvtH2fF16 (g : Guard) (a : Reg) (d : Reg) : Statement (.cvtH2fF16 g a d) := word _ _ _
theorem cvtH2fBf16 (g : Guard) (a : Reg) (d : Reg) : Statement (.cvtH2fBf16 g a d) := word _ _ _
theorem cvtfNar (g : Guard) (n : Slot) (a : Reg) (d : Reg) : Statement (.cvtfNar g n a d) := word _ _ _
theorem cvtfWid (g : Guard) (n : Slot) (a : Reg) (d : Reg) : Statement (.cvtfWid g n a d) := word _ _ _
theorem pk4 (g : Guard) (n : Slot) (a : Reg) (d : Reg) : Statement (.pk4 g n a d) := word _ _ _
theorem upk4 (g : Guard) (n : Slot) (a : Reg) (d : Reg) : Statement (.upk4 g n a d) := word _ _ _
theorem fscale (g : Guard) (b : Reg) (a : Reg) (d : Reg) : Statement (.fscale g b a d) := word _ _ _
theorem rgen (g : Guard) (d : Reg) : Statement (.rgen g d) := word _ _ _
theorem pand (g : Guard) (b : Pred) (a : Pred) (d : Pred) : Statement (.pand g b a d) := word _ _ _
theorem por (g : Guard) (b : Pred) (a : Pred) (d : Pred) : Statement (.por g b a d) := word _ _ _
theorem pxor (g : Guard) (b : Pred) (a : Pred) (d : Pred) : Statement (.pxor g b a d) := word _ _ _
theorem pnot (g : Guard) (a : Pred) (d : Pred) : Statement (.pnot g a d) := word _ _ _
theorem pmov (g : Guard) (a : Pred) (d : Pred) : Statement (.pmov g a d) := word _ _ _
theorem br (g : Guard) (off : BitVec 20) (uni : Bool) : Statement (.br g off uni) := word _ _ _
theorem brRgp (g : Guard) (off : BitVec 20) (uni : Bool) : Statement (.brRgp g off uni) := word _ _ _
theorem call (g : Guard) (off : BitVec 20) (uni : Bool) : Statement (.call g off uni) := word _ _ _
theorem fork (g : Guard) (off : BitVec 20) : Statement (.fork g off) := word _ _ _
theorem brx (g : Guard) (uni : Bool) (a : Reg) : Statement (.brx g uni a) := word _ _ _
theorem brxRgp (g : Guard) (uni : Bool) (a : Reg) : Statement (.brxRgp g uni a) := word _ _ _
theorem callx (g : Guard) (uni : Bool) (a : Reg) : Statement (.callx g uni a) := word _ _ _
theorem ret (g : Guard) (uni : Bool) : Statement (.ret g uni) := word _ _ _
theorem exit (g : Guard) : Statement (.exit g) := word _ _ _
theorem fend (g : Guard) : Statement (.fend g) := word _ _ _
theorem home (g : Guard) : Statement (.home g) := word _ _ _
theorem nop (g : Guard) : Statement (.nop g) := word _ _ _
theorem trap (g : Guard) (code : BitVec 10) : Statement (.trap g code) := word _ _ _
theorem brk (g : Guard) : Statement (.brk g) := word _ _ _
theorem voteAll (g : Guard) (a : Pred) (d : Pred) : Statement (.voteAll g a d) := word _ _ _
theorem voteAny (g : Guard) (a : Pred) (d : Pred) : Statement (.voteAny g a d) := word _ _ _
theorem voteBallot (g : Guard) (a : Pred) (d : Reg) : Statement (.voteBallot g a d) := word _ _ _
theorem shflIdx (g : Guard) (b : Reg) (a : Reg) (d : Reg) : Statement (.shflIdx g b a d) := word _ _ _
theorem shflUp (g : Guard) (b : Reg) (a : Reg) (d : Reg) : Statement (.shflUp g b a d) := word _ _ _
theorem shflDown (g : Guard) (b : Reg) (a : Reg) (d : Reg) : Statement (.shflDown g b a d) := word _ _ _
theorem shflXor (g : Guard) (b : Reg) (a : Reg) (d : Reg) : Statement (.shflXor g b a d) := word _ _ _
theorem gredAddS32 (g : Guard) (a : Reg) (d : Reg) : Statement (.gredAddS32 g a d) := word _ _ _
theorem gredAddF32 (g : Guard) (a : Reg) (d : Reg) : Statement (.gredAddF32 g a d) := word _ _ _
theorem gredMinS32 (g : Guard) (a : Reg) (d : Reg) : Statement (.gredMinS32 g a d) := word _ _ _
theorem gredMaxS32 (g : Guard) (a : Reg) (d : Reg) : Statement (.gredMaxS32 g a d) := word _ _ _
theorem gredMinF32 (g : Guard) (a : Reg) (d : Reg) : Statement (.gredMinF32 g a d) := word _ _ _
theorem gredMaxF32 (g : Guard) (a : Reg) (d : Reg) : Statement (.gredMaxF32 g a d) := word _ _ _
theorem gredAnd (g : Guard) (a : Reg) (d : Reg) : Statement (.gredAnd g a d) := word _ _ _
theorem gredOr (g : Guard) (a : Reg) (d : Reg) : Statement (.gredOr g a d) := word _ _ _
theorem matchLanes (g : Guard) (a : Reg) (d : Reg) : Statement (.matchLanes g a d) := word _ _ _
theorem rgrow (g : Guard) (n : BitVec 6) : Statement (.rgrow g n) := word _ _ _
theorem rshrink (g : Guard) (n : BitVec 6) : Statement (.rshrink g n) := word _ _ _
theorem rwin (g : Guard) (d : Reg) : Statement (.rwin g d) := word _ _ _
theorem movx (g : Guard) (a : Reg8) (d : Reg8) : Statement (.movx g a d) := word _ _ _
theorem ld (g : Guard) (m : BitVec 4) (r : Rec) (i : Reg) (d : Reg) : Statement (.ld g m r i d) := word _ _ _
theorem st (g : Guard) (m : BitVec 4) (r : Rec) (i : Reg) (d : Reg) : Statement (.st g m r i d) := word _ _ _
theorem ldNarrowWide (g : Guard) (w : Width) (r : Rec) (i : Reg) (d : Reg) : Statement (.ldNarrowWide g w r i d) := word _ _ _
theorem stNarrowWide (g : Guard) (w : Width) (r : Rec) (i : Reg) (d : Reg) : Statement (.stNarrowWide g w r i d) := word _ _ _
theorem ldAcq (g : Guard) (sc : Scope) (r : Rec) (i : Reg) (d : Reg) : Statement (.ldAcq g sc r i d) := word _ _ _
theorem stRel (g : Guard) (sc : Scope) (r : Rec) (i : Reg) (d : Reg) : Statement (.stRel g sc r i d) := word _ _ _
theorem atomAddS32 (g : Guard) (r : Rec) (i : Reg) (d : Reg) : Statement (.atomAddS32 g r i d) := word _ _ _
theorem atomAddF32 (g : Guard) (r : Rec) (i : Reg) (d : Reg) : Statement (.atomAddF32 g r i d) := word _ _ _
theorem atomMinS32 (g : Guard) (r : Rec) (i : Reg) (d : Reg) : Statement (.atomMinS32 g r i d) := word _ _ _
theorem atomMaxS32 (g : Guard) (r : Rec) (i : Reg) (d : Reg) : Statement (.atomMaxS32 g r i d) := word _ _ _
theorem atomMinN32 (g : Guard) (r : Rec) (i : Reg) (d : Reg) : Statement (.atomMinN32 g r i d) := word _ _ _
theorem atomMaxN32 (g : Guard) (r : Rec) (i : Reg) (d : Reg) : Statement (.atomMaxN32 g r i d) := word _ _ _
theorem atomAnd (g : Guard) (r : Rec) (i : Reg) (d : Reg) : Statement (.atomAnd g r i d) := word _ _ _
theorem atomOr (g : Guard) (r : Rec) (i : Reg) (d : Reg) : Statement (.atomOr g r i d) := word _ _ _
theorem atomXor (g : Guard) (r : Rec) (i : Reg) (d : Reg) : Statement (.atomXor g r i d) := word _ _ _
theorem atomExch (g : Guard) (r : Rec) (i : Reg) (d : Reg) : Statement (.atomExch g r i d) := word _ _ _
theorem atomCas (g : Guard) (r : Rec) (i : Reg) (d : Reg) : Statement (.atomCas g r i d) := word _ _ _
theorem atomOrdAddS32 (g : Guard) (os : OrdScope) (a : Reg) (d : Reg) : Statement (.atomOrdAddS32 g os a d) := word _ _ _
theorem atomOrdAddF32 (g : Guard) (os : OrdScope) (a : Reg) (d : Reg) : Statement (.atomOrdAddF32 g os a d) := word _ _ _
theorem atomOrdMinS32 (g : Guard) (os : OrdScope) (a : Reg) (d : Reg) : Statement (.atomOrdMinS32 g os a d) := word _ _ _
theorem atomOrdMaxS32 (g : Guard) (os : OrdScope) (a : Reg) (d : Reg) : Statement (.atomOrdMaxS32 g os a d) := word _ _ _
theorem atomOrdAnd (g : Guard) (os : OrdScope) (a : Reg) (d : Reg) : Statement (.atomOrdAnd g os a d) := word _ _ _
theorem atomOrdOr (g : Guard) (os : OrdScope) (a : Reg) (d : Reg) : Statement (.atomOrdOr g os a d) := word _ _ _
theorem atomOrdExch (g : Guard) (os : OrdScope) (a : Reg) (d : Reg) : Statement (.atomOrdExch g os a d) := word _ _ _
theorem atomOrdCas (g : Guard) (os : OrdScope) (a : Reg) (d : Reg) : Statement (.atomOrdCas g os a d) := word _ _ _
theorem redAddS32 (g : Guard) (r : Rec) (i : Reg) (d : Reg) : Statement (.redAddS32 g r i d) := word _ _ _
theorem redAddF32 (g : Guard) (r : Rec) (i : Reg) (d : Reg) : Statement (.redAddF32 g r i d) := word _ _ _
theorem redMinS32 (g : Guard) (r : Rec) (i : Reg) (d : Reg) : Statement (.redMinS32 g r i d) := word _ _ _
theorem redMaxS32 (g : Guard) (r : Rec) (i : Reg) (d : Reg) : Statement (.redMaxS32 g r i d) := word _ _ _
theorem redMinN32 (g : Guard) (r : Rec) (i : Reg) (d : Reg) : Statement (.redMinN32 g r i d) := word _ _ _
theorem redMaxN32 (g : Guard) (r : Rec) (i : Reg) (d : Reg) : Statement (.redMaxN32 g r i d) := word _ _ _
theorem redAnd (g : Guard) (r : Rec) (i : Reg) (d : Reg) : Statement (.redAnd g r i d) := word _ _ _
theorem redOr (g : Guard) (r : Rec) (i : Reg) (d : Reg) : Statement (.redOr g r i d) := word _ _ _
theorem redXor (g : Guard) (r : Rec) (i : Reg) (d : Reg) : Statement (.redXor g r i d) := word _ _ _
theorem pf (g : Guard) (r : Rec) (i : Reg) : Statement (.pf g r i) := word _ _ _
theorem fence (g : Guard) (os : OrdScope) : Statement (.fence g os) := word _ _ _
theorem wait (g : Guard) (c : WaitCond) (k : Class) (a : Reg) (d : Reg) : Statement (.wait g c k a d) := word _ _ _
theorem ltime (g : Guard) (d : Reg) : Statement (.ltime g d) := word _ _ _
theorem lpub (g : Guard) (a : Reg) (d : Reg) : Statement (.lpub g a d) := word _ _ _
theorem stf (g : Guard) (b : Reg) (a : Reg) (d : Reg) : Statement (.stf g b a d) := word _ _ _
theorem lld (g : Guard) (imm : BitVec 9) (a : Reg) (d : Reg) : Statement (.lld g imm a d) := word _ _ _
theorem lst (g : Guard) (imm : BitVec 9) (a : Reg) (d : Reg) : Statement (.lst g imm a d) := word _ _ _
theorem latomAddS32 (g : Guard) (a : Reg) (d : Reg) : Statement (.latomAddS32 g a d) := word _ _ _
theorem latomAddF32 (g : Guard) (a : Reg) (d : Reg) : Statement (.latomAddF32 g a d) := word _ _ _
theorem latomMinS32 (g : Guard) (a : Reg) (d : Reg) : Statement (.latomMinS32 g a d) := word _ _ _
theorem latomMaxS32 (g : Guard) (a : Reg) (d : Reg) : Statement (.latomMaxS32 g a d) := word _ _ _
theorem latomAnd (g : Guard) (a : Reg) (d : Reg) : Statement (.latomAnd g a d) := word _ _ _
theorem latomOr (g : Guard) (a : Reg) (d : Reg) : Statement (.latomOr g a d) := word _ _ _
theorem latomExch (g : Guard) (a : Reg) (d : Reg) : Statement (.latomExch g a d) := word _ _ _
theorem latomCas (g : Guard) (a : Reg) (d : Reg) : Statement (.latomCas g a d) := word _ _ _
theorem bar (g : Guard) (k : Class) : Statement (.bar g k) := word _ _ _
theorem boinit (g : Guard) (b : Reg) (a : Reg) : Statement (.boinit g b a) := word _ _ _
theorem boarr (g : Guard) (b : Reg) (a : Reg) : Statement (.boarr g b a) := word _ _ _
theorem bowait (g : Guard) (k : Class) (a : Reg) (d : Reg) : Statement (.bowait g k a d) := word _ _ _
theorem botest (g : Guard) (a : Reg) (p : Pred) : Statement (.botest g a p) := word _ _ _
theorem halloc (g : Guard) (a : Reg) (h : Handle) : Statement (.halloc g a h) := word _ _ _
theorem hfree (g : Guard) (h : Handle) : Statement (.hfree g h) := word _ _ _
theorem hbind (g : Guard) (n : Rec) (a : Reg) (h : Handle) : Statement (.hbind g n a h) := word _ _ _
theorem hstate (g : Guard) (a : Reg) (h : Handle) : Statement (.hstate g a h) := word _ _ _
theorem hwptr (g : Guard) (a : Reg) (h : Handle) : Statement (.hwptr g a h) := word _ _ _
theorem hwait (g : Guard) (st : HState) (k : Class) (h : Handle) : Statement (.hwait g st k h) := word _ _ _
theorem cpcancel (g : Guard) (h : Handle) : Statement (.cpcancel g h) := word _ _ _
theorem cpin (g : Guard) (n : Rec) (a : Reg) (h : Handle) : Statement (.cpin g n a h) := word _ _ _
theorem cpout (g : Guard) (n : Rec) (a : Reg) (h : Handle) : Statement (.cpout g n a h) := word _ _ _
theorem cppush (g : Guard) (a : Reg) (h : Handle) : Statement (.cppush g a h) := word _ _ _
theorem cpred (g : Guard) (a : Reg) (h : Handle) : Statement (.cpred g a h) := word _ _ _
theorem cpfill (g : Guard) (a : Reg) (h : Handle) : Statement (.cpfill g a h) := word _ _ _
theorem qmmaHandle (g : Guard) (reuse : Bool) (half : Bool) (f : Slot) (h : Handle) (ab : BitVec 4) (db : BitVec 4) : Statement (.qmmaHandle g reuse half f h ab db) := word _ _ _
theorem qmmaReg (g : Guard) (reuse : Bool) (half : Bool) (f : Slot) (bb : BitVec 4) (ab : BitVec 4) (db : BitVec 4) : Statement (.qmmaReg g reuse half f bb ab db) := word _ _ _
theorem qpro (g : Guard) (b : Reg) (a : Reg) (db : BitVec 4) : Statement (.qpro g b a db) := word _ _ _
theorem qzero (g : Guard) (db : BitVec 4) : Statement (.qzero g db) := word _ _ _
theorem smx (g : Guard) (sb : BitVec 4) (db : BitVec 4) : Statement (.smx g sb db) := word _ _ _
theorem smxCvt (g : Guard) (f : Slot) (sb : BitVec 4) (db : BitVec 4) : Statement (.smxCvt g f sb db) := word _ _ _
theorem qsr (g : Guard) (l : Bool) (d : Reg) : Statement (.qsr g l d) := word _ _ _
theorem qsw (g : Guard) (l : Bool) (a : Reg) : Statement (.qsw g l a) := word _ _ _
theorem rcopy (g : Guard) (d : Reg) : Statement (.rcopy g d) := word _ _ _
theorem rfill (g : Guard) (d : Reg) : Statement (.rfill g d) := word _ _ _
theorem rand (g : Guard) (d : Reg) : Statement (.rand g d) := word _ _ _
theorem ror (g : Guard) (d : Reg) : Statement (.ror g d) := word _ _ _
theorem rxor (g : Guard) (d : Reg) : Statement (.rxor g d) := word _ _ _
theorem rnot (g : Guard) (d : Reg) : Statement (.rnot g d) := word _ _ _
theorem nbload (g : Guard) (d : Reg) : Statement (.nbload g d) := word _ _ _
theorem nbrun (g : Guard) (d : Reg) : Statement (.nbrun g d) := word _ _ _
theorem nbstat (g : Guard) (d : Reg) : Statement (.nbstat g d) := word _ _ _
theorem nbcancel (g : Guard) (d : Reg) : Statement (.nbcancel g d) := word _ _ _
theorem launch (g : Guard) (d : Reg) : Statement (.launch g d) := word _ _ _
theorem wchild (g : Guard) (k : Class) : Statement (.wchild g k) := word _ _ _
theorem srd (g : Guard) (sr : SpecialReg) (d : Reg) : Statement (.srd g sr d) := word _ _ _
theorem swr (g : Guard) (sr : SpecialReg) (d : Reg) : Statement (.swr g sr d) := word _ _ _
theorem tret (g : Guard) : Statement (.tret g) := word _ _ _
theorem errq (g : Guard) (d : Reg) : Statement (.errq g d) := word _ _ _
theorem asgen (g : Guard) (d : Reg) : Statement (.asgen g d) := word _ _ _
theorem sflush (g : Guard) (d : Reg) : Statement (.sflush g d) := word _ _ _
theorem halt (g : Guard) : Statement (.halt g) := word _ _ _
theorem groupingStagePass (core : Nat) : Statement (.groupingStagePass core) := trivial
theorem gatheringPoolClose (team : Nat) (target : Word) : Statement (.gatheringPoolClose team target) := trivial
theorem pendingWriteComplete (team : Nat) (fib : Nat) (reg : Nat) : Statement (.pendingWriteComplete team fib reg) := trivial
theorem grantRequestGranted (core : Nat) (lane : Nat) : Statement (.grantRequestGranted core lane) := trivial
theorem registerDeadlockEvict (core : Nat) : Statement (.registerDeadlockEvict core) := trivial
theorem starvationTimeout (team : Nat) (fib : Nat) : Statement (.starvationTimeout team fib) := trivial
theorem armedLaunchEnqueue (core : Nat) (slot : Nat) : Statement (.armedLaunchEnqueue core slot) := trivial
theorem copyCommandStart (core : Nat) (id : Nat) : Statement (.copyCommandStart core id) := trivial
theorem copyLineTransfer (core : Nat) (id : Nat) : Statement (.copyLineTransfer core id) := trivial
theorem copyCommandComplete (core : Nat) (id : Nat) : Statement (.copyCommandComplete core id) := trivial
theorem pushLineWrite (id : Nat) : Statement (.pushLineWrite id) := trivial
theorem pushAck (id : Nat) : Statement (.pushAck id) := trivial
theorem pushRetry (core : Nat) (id : Nat) : Statement (.pushRetry core id) := trivial
theorem contributionArrival (id : Nat) : Statement (.contributionArrival id) := trivial
theorem contributionRetry (core : Nat) (id : Nat) : Statement (.contributionRetry core id) := trivial
theorem publishedAccess (id : Nat) : Statement (.publishedAccess id) := trivial
theorem publishRequest (id : Nat) : Statement (.publishRequest id) := trivial
theorem windowWriteback (core : Nat) (blk : Nat) : Statement (.windowWriteback core blk) := trivial
theorem pageWalk (core : Nat) (asid : Nat) (va : Nat) : Statement (.pageWalk core asid va) := trivial
theorem lineFill (core : Nat) (blk : Nat) : Statement (.lineFill core blk) := trivial
theorem openAccessFault (core : Nat) (id : Nat) : Statement (.openAccessFault core id) := trivial
theorem performLoad (core : Nat) (id : Nat) : Statement (.performLoad core id) := trivial
theorem enqueueStore (core : Nat) (id : Nat) : Statement (.enqueueStore core id) := trivial
theorem drain (core : Nat) (id : Nat) : Statement (.drain core id) := trivial
theorem writeBack (view : View) (sector : Nat) : Statement (.writeBack view sector) := trivial
theorem sectorDrop (view : View) (sector : Nat) : Statement (.sectorDrop view sector) := trivial
theorem deliver (m : Msg) : Statement (.deliver m) := trivial
theorem generationSweep : Statement (.generationSweep) := trivial
theorem migrationPull (entry : Nat) (block : Nat) : Statement (.migrationPull entry block) := trivial
theorem errorQueueOverflowTrap (team : Nat) : Statement (.errorQueueOverflowTrap team) := trivial
theorem pagingQueueWrite (team : Nat) : Statement (.pagingQueueWrite team) := trivial
theorem pagingReadIndexWrite (rd : BitVec 16) : Statement (.pagingReadIndexWrite rd) := trivial
theorem resumeTicketWrite (ticket : BitVec 16) : Statement (.resumeTicketWrite ticket) := trivial
theorem hostLaunchWrite (q : Nat) (rec : LineData) : Statement (.hostLaunchWrite q rec) := trivial
theorem launchLine (id : Nat) : Statement (.launchLine id) := trivial
theorem launchLinePassOver (src : Nat) (q : Nat) : Statement (.launchLinePassOver src q) := trivial
theorem launchTake (launch : Nat) : Statement (.launchTake launch) := trivial
theorem teamAdmit (launch : Nat) (core : Nat) : Statement (.teamAdmit launch core) := trivial
theorem gridWholeAdmit (launch : Nat) : Statement (.gridWholeAdmit launch) := trivial
theorem queueHeadStarve (q : Nat) : Statement (.queueHeadStarve q) := trivial
theorem teamReadmit (team : Nat) (core : Nat) : Statement (.teamReadmit team core) := trivial
theorem teamEndFree (team : Nat) : Statement (.teamEndFree team) := trivial
theorem teamRetire (team : Nat) : Statement (.teamRetire team) := trivial
theorem launchRetire (launch : Nat) : Statement (.launchRetire launch) := trivial
theorem completionWriteFail (launch : Nat) : Statement (.completionWriteFail launch) := trivial
theorem preempt (q : Nat) (team : Nat) : Statement (.preempt q team) := trivial
theorem preemptStopTimeout (team : Nat) : Statement (.preemptStopTimeout team) := trivial
theorem saveRequestWrite (core : Nat) (v : Bool) : Statement (.saveRequestWrite core v) := trivial
theorem teamSaveComplete (team : Nat) : Statement (.teamSaveComplete team) := trivial
theorem trapHandlerEntry (core : Nat) : Statement (.trapHandlerEntry core) := trivial
theorem tryArrive (id : Nat) : Statement (.tryArrive id) := trivial
theorem tryTimeout (want : Nat) : Statement (.tryTimeout want) := trivial
theorem persistentRequestIssue (want : Nat) : Statement (.persistentRequestIssue want) := trivial
theorem persistentRequest (id : Nat) : Statement (.persistentRequest id) := trivial
theorem persistentRetry (want : Nat) : Statement (.persistentRetry want) := trivial
theorem activation (id : Nat) : Statement (.activation id) := trivial
theorem deactivation (id : Nat) : Statement (.deactivation id) := trivial
theorem tokenMessage (id : Nat) : Statement (.tokenMessage id) := trivial
theorem eviction (place : Place) (blk : Nat) : Statement (.eviction place blk) := trivial
theorem poleAck (id : Nat) : Statement (.poleAck id) := trivial
theorem peerProbe (core : Nat) (blk : Nat) : Statement (.peerProbe core blk) := trivial
theorem tokenRecall (die : Nat) (blk : Nat) : Statement (.tokenRecall die blk) := trivial
theorem auditStart (blk : Nat) : Statement (.auditStart blk) := trivial
theorem audit (id : Nat) : Statement (.audit id) := trivial
theorem auditRepeat (blk : Nat) (party : Party) : Statement (.auditRepeat blk party) := trivial
theorem auditReport (id : Nat) : Statement (.auditReport id) := trivial
theorem recreationAck (id : Nat) : Statement (.recreationAck id) := trivial
theorem auditHoldoffExpire (blk : Nat) : Statement (.auditHoldoffExpire blk) := trivial
theorem unfreeze (id : Nat) : Statement (.unfreeze id) := trivial
theorem formConversion (blk : Nat) (toLease : Bool) : Statement (.formConversion blk toLease) := trivial
theorem homeAtomic (id : Nat) : Statement (.homeAtomic id) := trivial
theorem atomicReply (id : Nat) : Statement (.atomicReply id) := trivial
theorem leaseRead (core : Nat) (id : Nat) : Statement (.leaseRead core id) := trivial
theorem leaseWrite (core : Nat) (id : Nat) : Statement (.leaseWrite core id) := trivial
theorem leaseWriteHeld (core : Nat) (id : Nat) : Statement (.leaseWriteHeld core id) := trivial
theorem meridianTick : Statement (.meridianTick) := trivial
theorem homeLeaseSweep (blk : Nat) : Statement (.homeLeaseSweep blk) := trivial
theorem cacheLeaseSweep (view : View) : Statement (.cacheLeaseSweep view) := trivial
theorem waitReload (team : Nat) (fib : Nat) : Statement (.waitReload team fib) := trivial
theorem partyQuery (id : Nat) : Statement (.partyQuery id) := trivial
theorem hostSnpInv (line : Nat) : Statement (.hostSnpInv line) := trivial
theorem hostSnpData (line : Nat) : Statement (.hostSnpData line) := trivial
theorem hostSnpCur (line : Nat) : Statement (.hostSnpCur line) := trivial
theorem hostLineGrant (line : Nat) (grant : Grant) (data : SectorData) : Statement (.hostLineGrant line grant data) := trivial
theorem backInvalidate (line : Nat) (inv : Bool) (data : SectorData) : Statement (.backInvalidate line inv data) := trivial
theorem biConflict (line : Nat) : Statement (.biConflict line) := trivial
theorem hostUncachedRead (pa : Nat) : Statement (.hostUncachedRead pa) := trivial
theorem hostUncachedWrite (pa : Nat) (bytes : List Byte) : Statement (.hostUncachedWrite pa bytes) := trivial
theorem frameReplay (d : Nat) (e : Nat) : Statement (.frameReplay d e) := trivial
theorem linkDead (d : Nat) (e : Nat) : Statement (.linkDead d e) := trivial
theorem rotorSlotStart (xs : List Exchange) : Statement (.rotorSlotStart xs) := trivial
theorem orbitStart : Statement (.orbitStart) := trivial
theorem scheduleDigest (peer : Nat) (entries : List Word) : Statement (.scheduleDigest peer entries) := trivial
theorem digestDiscard (peer : Nat) : Statement (.digestDiscard peer) := trivial
theorem relayForward (m : Msg) : Statement (.relayForward m) := trivial
theorem messageAgeDrop (id : Nat) : Statement (.messageAgeDrop id) := trivial
theorem portFailure (p : Nat) : Statement (.portFailure p) := trivial
theorem remoteLoadTimeout (core : Nat) (id : Nat) : Statement (.remoteLoadTimeout core id) := trivial
theorem remoteResponse (id : Nat) : Statement (.remoteResponse id) := trivial
theorem postedWrite (id : Nat) : Statement (.postedWrite id) := trivial
theorem postedWriteAck (id : Nat) : Statement (.postedWriteAck id) := trivial
theorem postedWriteTimeout (post : Nat) : Statement (.postedWriteTimeout post) := trivial
theorem storeLinePost (post : Nat) : Statement (.storeLinePost post) := trivial
theorem storeLineTimeout (post : Nat) : Statement (.storeLineTimeout post) := trivial
theorem storeAckTimeout (post : Nat) : Statement (.storeAckTimeout post) := trivial
theorem flaggedData (id : Nat) : Statement (.flaggedData id) := trivial
theorem flagUpdate (id : Nat) : Statement (.flagUpdate id) := trivial
theorem rowOperation (core : Nat) (id : Nat) : Statement (.rowOperation core id) := trivial
theorem rowSlotAcquire (core : Nat) : Statement (.rowSlotAcquire core) := trivial
theorem nearBankStep (stack : Nat) (channel : Nat) : Statement (.nearBankStep stack channel) := trivial
theorem arbitrationWindow (stack : Nat) (channel : Nat) : Statement (.arbitrationWindow stack channel) := trivial
theorem reset (part : Part) : Statement (.reset part) := trivial
theorem hostLinkTrain (rate : Nat) : Statement (.hostLinkTrain rate) := trivial
theorem goWrite (v : Bool) : Statement (.goWrite v) := trivial
theorem featureAcceptWrite (v : BitVec 256) : Statement (.featureAcceptWrite v) := trivial
theorem linkRetrainWrite (die : Nat) (bits : BitVec 4) : Statement (.linkRetrainWrite die bits) := trivial
theorem linkRetrainDone (die : Nat) (e : Nat) (ok : Bool) : Statement (.linkRetrainDone die e ok) := trivial
theorem umissClear (core : Nat) (v : Word) : Statement (.umissClear core v) := trivial
theorem staleCounterClear (die : Nat) (v : Word) : Statement (.staleCounterClear die v) := trivial
theorem seedWrite (core : Nat) (v : Word) : Statement (.seedWrite core v) := trivial
theorem mismatchCounterClear (port : Nat) (v : Word) : Statement (.mismatchCounterClear port v) := trivial
theorem queueOvfClear (q : Nat) (v : BitVec 16) : Statement (.queueOvfClear q v) := trivial
theorem registerWrite (off : Nat) (bytes : Nat) (v : Nat) : Statement (.registerWrite off bytes v) := trivial
theorem correctedError (loc : Location) : Statement (.correctedError loc) := trivial
theorem wearRefresh (values : List Word) (eols : List Word) : Statement (.wearRefresh values eols) := trivial
theorem thermalStep (die : Nat) (up : Bool) : Statement (.thermalStep die up) := trivial
theorem thermalStop (die : Nat) : Statement (.thermalStop die) := trivial
theorem signRequest (use : SignUse) (flashOk : Bool) : Statement (.signRequest use flashOk) := trivial
theorem hostCachedMemRequest (line : Nat) (req : HostCacheReq) (data : SectorData) : Statement (.hostCachedMemRequest line req data) := trivial
theorem partyQueryAnswer (id : Nat) : Statement (.partyQueryAnswer id) := trivial
theorem partyQueryTimeout (team : Nat) (fib : Nat) : Statement (.partyQueryTimeout team fib) := trivial
theorem launchLineResend (id : Nat) : Statement (.launchLineResend id) := trivial

end Sys2Proof.Laws.Size
end

