-- ==== Sys2Proof/Laws/Step.lean ====
section
/-! SUPPORT. What a step can do with the instruction that its bundle fetches, what handing on a message can do, and what the A latch gives. -/

namespace Sys2Proof.Machine

/-- A latch that matches gives the registers' own values (R167). -/
@[simp] theorem operandA_eq (kept : Option (List Word)) (a : Nat) (f : Fibre) : operandA kept a f = f.regsFrom a 16 := by
  cases kept with
  | none => rfl
  | some ws =>
    simp only [operandA]
    split
    · assumption
    · rfl

/-- A multiplication accumulates row A by its image, whatever the latch holds. -/
theorem State.multiply_slot {s : State} {t : Team} {act : List Nat} {sl : Slot} {v : SlotVal} (h : s.slot t sl = some v) (reuse half : Bool)
    (ab db : BitVec 4) (img : Nat → Nat) :
    s.multiply t act sl reuse half ab db img = (s.latch t act ab reuse).writeFibres act 4 fun i f =>
      accumulate v half (img (quarterOf i)) (4 * ab.toNat) (4 * db.toNat) f := by
  simp only [State.multiply, h, operandA_eq, accumulate]

/-- An instruction one of whose names is marked does not issue (R89, R94). -/
theorem State.runInstr_stalls {s : State} {t : Team} {i : Instr} (h : ∃ k ∈ s.cur.fibs, (marksOfInstr i).waits (t.fibre k) = true) :
    s.runInstr t i = .next s.stall := by
  have : s.interlocked t i = true := by simpa [State.interlocked] using h
  simp [State.runInstr, this]

/-- With no name marked, it executes, and the scoreboard notes its late results. -/
theorem State.runInstr_runs {s u : State} {t : Team} {i : Instr} (h : ∀ k ∈ s.cur.fibs, (marksOfInstr i).waits (t.fibre k) = false)
    (hu : exec i s = .next u) : s.runInstr t i = .next (s.scored u t i) := by
  have : s.interlocked t i = false := by simpa [State.interlocked] using h
  simp [State.runInstr, this, hu]

/-- A step that issues does what the fetched code makes of it. -/
theorem step_issues {s c : State} {t : Team} (h : Issues s c t) :
    step s = match c.fetchInstr t with
      | .run i u => u.runInstr t i
      | .done u => .next u := by
  obtain ⟨h1, h2, h3, ⟨r, b, h4, rfl⟩, h6, -⟩ := h
  have hr : step s = runBundle r b := by simp [step, h1, h2, h3, h4]
  have h6 : b.team? r.team = some t := h6
  rw [hr]
  show (match b.team? r.team with
    | none => _
    | some t => _) = _
  rw [h6]
  all_goals rfl

/-- With no read of code under way, nothing of one ends. -/
theorem Issues.endFetch {s c : State} {t : Team} (h : Issues s c t) (va : Nat) : c.endFetch t va = c := by
  have : c.fetched t (c.cur.fibs.headD 0) va = none := by
    simp only [State.fetched, List.find?_eq_none]
    intro q hq
    simp [h.fetched q hq]
  simp only [State.endFetch, this]

/-- The two bytes of a unit of code that lies in a page of this device. -/
theorem Fetches.unit {c : State} {t : Team} {va : Nat} {bs : List Byte} (h : Fetches c t va bs) (pc : Word) :
    c.fetchUnit t va pc = .bytes bs c := by
  obtain ⟨p, a, b, n, d, e, f, g, rfl⟩ := h
  rw [b] at e g
  have o : pageOrd p .rlx = .rlx := by
    revert n
    simp only [pageOrd, MemType.isDevice]
    cases p.ty <;> simp
  simp [State.fetchUnit, a, b, n, d, e, f, g, State.codeBytes, o, State.reqRelease, State.reqAcquire, relScope, acqScope]

/-- A message that is neither too old nor shut out is dealt with. -/
theorem State.deal_deals {s : State} {id : Nat} {m : Msg} (hm : s.msg? id = some m) (hd : s.deals m) (f : Msg → Dealt) :
    s.deal id f = .next (dealt id (f m)) := by
  simp only [State.deal, hm, hd.1, hd.2]
  cases f m <;> rfl

end Sys2Proof.Machine
end

