-- ==== Sys2Proof/Tests/Slice0.lean ====
section
/-! SUPPORT. Tests: words written out from the spec's encodings and what they decode to, ill-formed terms that the check refuses, a few
results that the spec states, and for each statement with hypotheses a state and operands that meet them. -/

namespace Sys2Proof.Tests

open Sys2Proof Sys2Proof.Machine

/-! ## Decoding -/

theorem test_decode_compact :
    [decodeCode (.unit 0xEE60),
     decodeCode (.unit 0x1702),
     decodeCode (.unit 0x3FA4),
     decodeCode (.unit 0x6046),
     decodeCode (.unit 0x88E8),
     decodeCode (.unit 0xB18A),
     decodeCode (.unit 0xDA2C),
     decodeCode (.unit 0x02CE),
     decodeCode (.unit 0x2B70),
     decodeCode (.unit 0x5412),
     decodeCode (.unit 0x7CB4),
     decodeCode (.unit 0xA556),
     decodeCode (.unit 0xCDF8),
     decodeCode (.unit 0xF69A),
     decodeCode (.unit 0x1F3C),
     decodeCode (.unit 0x47DE)] =
    [.ok (.movC16 29 51),
     .ok (.moviC16 2 56),
     .ok (.addC16 7 61),
     .ok (.addiC16 12 2),
     .ok (.subC16 17 7),
     .ok (.mulLoC16 22 12),
     .ok (.andC16 27 17),
     .ok (.orC16 0 22),
     .ok (.xorC16 5 27),
     .ok (.shlC16 10 32),
     .ok (.shrC16 15 37),
     .ok (.minS32C16 20 42),
     .ok (.maxS32C16 25 47),
     .ok (.faddC16 30 52),
     .ok (.fmulC16 3 57),
     .ok (.fmaxC16 8 62)] := rfl

theorem test_decode_integer :
    [decodeCode (.word 0x00AF6A01),
     decodeCode (.word 0x23399381),
     decodeCode (.word 0x45C3BD01),
     decodeCode (.word 0x684DE201),
     decodeCode (.word 0x8AD60B81),
     decodeCode (.word 0xAD603501),
     decodeCode (.word 0xCFEA5A01),
     decodeCode (.word 0xF2748381),
     decodeCode (.word 0x14FEAD03),
     decodeCode (.word 0x3708D203),
     decodeCode (.word 0x5992FB83),
     decodeCode (.word 0x7C1D2503),
     decodeCode (.word 0x9EA74A03),
     decodeCode (.word 0xA1317383),
     decodeCode (.word 0xC3BB9D03),
     decodeCode (.word 0xE645C203)] =
    [.ok (.add (.pos 4) 1 23 45),
     .ok (.addc (.pos 7) 6 28 50),
     .ok (.sub (.neg 2) 11 33 55),
     .ok (.subb (.pos 4) 16 38 60),
     .ok (.mulLo (.pos 7) 21 43 1),
     .ok (.mulHiS32 (.neg 2) 26 48 6),
     .ok (.mulHiN32 (.pos 4) 31 53 11),
     .ok (.mad (.pos 7) 36 58 16),
     .ok (.and (.neg 2) 41 63 21),
     .ok (.or (.pos 4) 46 4 26),
     .ok (.xor (.pos 7) 51 9 31),
     .ok (.andn (.neg 2) 56 14 36),
     .ok (.minS32 (.pos 4) 61 19 41),
     .ok (.maxS32 (.pos 7) 2 24 46),
     .ok (.minN32 (.neg 2) 7 29 51),
     .ok (.maxN32 (.pos 4) 12 34 56)] := rfl

theorem test_decode_shifts :
    [decodeCode (.word 0x08CFEB85),
     decodeCode (.word 0x2B581505),
     decodeCode (.word 0x4DE23A05),
     decodeCode (.word 0x706C6385),
     decodeCode (.word 0x80768D05),
     decodeCode (.word 0xA000B205),
     decodeCode (.word 0xC00ADB85),
     decodeCode (.word 0xE0150505)] =
    [.ok (.shl (.pos 7) 17 39 61),
     .ok (.shr (.neg 2) 22 44 2),
     .ok (.sar (.pos 4) 27 49 7),
     .ok (.rot (.pos 7) 32 54 12),
     .ok (.popc (.neg 2) 59 17),
     .ok (.clz (.pos 4) 0 22),
     .ok (.brev (.pos 7) 5 27),
     .ok (.abs (.neg 2) 10 32)] := rfl

theorem test_decode_fields_and_moves :
    [decodeCode (.word 0x1C9F2A07),
     decodeCode (.word 0x3F295387),
     decodeCode (.word 0x41B37D07),
     decodeCode (.word 0x603DA207),
     decodeCode (.word 0x8681CB87),
     decodeCode (.word 0xA951F507),
     decodeCode (.word 0xCBDA1A07),
     decodeCode (.word 0xCE644389)] =
    [.ok (.bfxS32 (.pos 4) 57 15 37),
     .ok (.bfxN32 (.pos 7) 62 20 42),
     .ok (.bfi (.neg 2) 3 25 47),
     .ok (.mov (.pos 4) 30 52),
     .ok (.movKconst (.pos 7) 13 57),
     .ok (.movIndirectSrc (.neg 2) 18 40 62),
     .ok (.movIndirectDst (.pos 4) 23 45 3),
     .ok (.sel (.pos 7) 6 28 50 8)] := rfl

theorem test_decode_compares :
    [decodeCode (.word 0x70EE2D0B),
     decodeCode (.word 0x1378120D),
     decodeCode (.word 0xEC5C639D),
     decodeCode (.word 0xEEE60D1F),
     decodeCode (.word 0xB1F23BA5)] =
    [.ok (.cmpS32 (.neg 2) .le 33 55 5),
     .ok (.cmpN32 (.pos 4) .eq 38 60 2),
     .ok (.cmpiS32 (.pos 7) 472 46 .ne 4),
     .ok (.cmpiN32 (.neg 2) 477 51 .eq 1),
     .ok (.fcmpF32 (.pos 7) .ge 35 57 7)] := rfl

theorem test_decode_immediates :
    [decodeCode (.word 0x0302BB8F),
     decodeCode (.word 0x030CE511),
     decodeCode (.word 0xDA970A13),
     decodeCode (.word 0xDD213395),
     decodeCode (.word 0xDFAB5D17),
     decodeCode (.word 0xE2358219),
     decodeCode (.word 0x04BFAB9B),
     decodeCode (.word 0x1749D51B),
     decodeCode (.word 0x29D3FA1B)] =
    [.ok (.movi (.pos 7) 385 23),
     .ok (.imhi (.neg 2) 390 28),
     .ok (.addi (.pos 4) 437 11 33),
     .ok (.andi (.pos 7) 442 16 38),
     .ok (.ori (.neg 2) 447 21 43),
     .ok (.xori (.pos 4) 452 26 48),
     .ok (.shli (.pos 7) 9 31 53),
     .ok (.shri (.neg 2) 14 36 58),
     .ok (.sari (.pos 4) 19 41 63)] := rfl

theorem test_decode_fp32 :
    [decodeCode (.word 0x11707221),
     decodeCode (.word 0x33FA9BA1),
     decodeCode (.word 0x5604C521),
     decodeCode (.word 0x788EEA21),
     decodeCode (.word 0x9B1913A1),
     decodeCode (.word 0xBDA33D21),
     decodeCode (.word 0xC02D6221),
     decodeCode (.word 0x00378BA3),
     decodeCode (.word 0x2041B523),
     decodeCode (.word 0x404BDA23),
     decodeCode (.word 0x605403A3),
     decodeCode (.word 0x805E2D23),
     decodeCode (.word 0xA0685223)] =
    [.ok (.fadd (.pos 4) 34 56 14),
     .ok (.fsub (.pos 7) 39 61 19),
     .ok (.fmul (.neg 2) 44 2 24),
     .ok (.ffma (.pos 4) 49 7 29),
     .ok (.fmin (.pos 7) 54 12 34),
     .ok (.fmax (.neg 2) 59 17 39),
     .ok (.fdiv (.pos 4) 0 22 44),
     .ok (.frcp (.pos 7) 27 49),
     .ok (.frsq (.neg 2) 32 54),
     .ok (.fsqrt (.pos 4) 37 59),
     .ok (.fexp2 (.pos 7) 42 0),
     .ok (.flog2 (.neg 2) 47 5),
     .ok (.fclass (.pos 4) 52 10)] := rfl

theorem test_decode_packed16 :
    [decodeCode (.word 0x147CA527),
     decodeCode (.word 0x3686CA27),
     decodeCode (.word 0x5910F3A7),
     decodeCode (.word 0x7B9B1D27),
     decodeCode (.word 0x9E254227),
     decodeCode (.word 0xA0AF6BA7),
     decodeCode (.word 0xC3399527),
     decodeCode (.word 0xE5C3BA27)] =
    [.ok (.hadd2F16 (.neg 2) 40 62 20),
     .ok (.hmul2F16 (.pos 4) 45 3 25),
     .ok (.hfma2F16 (.pos 7) 50 8 30),
     .ok (.hmax2F16 (.neg 2) 55 13 35),
     .ok (.hadd2Bf16 (.pos 4) 60 18 40),
     .ok (.hmul2Bf16 (.pos 7) 1 23 45),
     .ok (.hfma2Bf16 (.neg 2) 6 28 50),
     .ok (.hmax2Bf16 (.pos 4) 11 33 55)] := rfl

theorem test_decode_conversions :
    [decodeCode (.word 0x004DE3B1),
     decodeCode (.word 0x20560D31),
     decodeCode (.word 0x40603231),
     decodeCode (.word 0x606A5BB1),
     decodeCode (.word 0x80748531),
     decodeCode (.word 0xA07EAA31),
     decodeCode (.word 0xC008D3B1),
     decodeCode (.word 0xE012FD31),
     decodeCode (.word 0x401D2233),
     decodeCode (.word 0xE0A74BB3),
     decodeCode (.word 0x01317535),
     decodeCode (.word 0x23BB9A35),
     decodeCode (.word 0x4645C3B5),
     decodeCode (.word 0x6001ED35)] =
    [.ok (.cvtI2fS32 (.pos 7) 38 60),
     .ok (.cvtI2fN32 (.neg 2) 43 1),
     .ok (.cvtF2iS32 (.pos 4) 48 6),
     .ok (.cvtF2iN32 (.pos 7) 53 11),
     .ok (.cvtF2hF16 (.neg 2) 58 16),
     .ok (.cvtF2hBf16 (.pos 4) 63 21),
     .ok (.cvtH2fF16 (.pos 7) 4 26),
     .ok (.cvtH2fBf16 (.neg 2) 9 31),
     .ok (.cvtfNar (.pos 4) 2 14 36),
     .ok (.cvtfWid (.pos 7) 7 19 41),
     .ok (.pk4 (.neg 2) 2 24 46),
     .ok (.upk4 (.pos 4) 7 29 51),
     .ok (.fscale (.pos 7) 12 34 56),
     .ok (.rgen (.neg 2) 61)] := rfl

theorem test_decode_predicates :
    [decodeCode (.word 0x03081239),
     decodeCode (.word 0x21823BB9),
     decodeCode (.word 0x400C2539),
     decodeCode (.word 0x60060A39),
     decodeCode (.word 0x800033B9)] =
    [.ok (.pand (.pos 4) 6 4 2),
     .ok (.por (.pos 7) 3 1 7),
     .ok (.pxor (.neg 2) 0 6 4),
     .ok (.pnot (.pos 4) 3 1),
     .ok (.pmov (.pos 7) 0 6)] := rfl

theorem test_decode_control :
    [decodeCode (.word 0x00262D41),
     decodeCode (.word 0x00267243),
     decodeCode (.word 0x0026CBC5),
     decodeCode (.word 0x00271547),
     decodeCode (.word 0x00B20249),
     decodeCode (.word 0x203C03C9),
     decodeCode (.word 0x40C60549),
     decodeCode (.word 0x60000249),
     decodeCode (.word 0x800003C9),
     decodeCode (.word 0xA0000549),
     decodeCode (.word 0xC0000249),
     decodeCode (.word 0xE00003C9),
     decodeCode (.word 0x0582054B),
     decodeCode (.word 0x0800024B)] =
    [.ok (.br (.neg 2) 610 true),
     .ok (.brRgp (.pos 4) 615 false),
     .ok (.call (.pos 7) 620 true),
     .ok (.fork (.neg 2) 625),
     .ok (.brx (.pos 4) true 25),
     .ok (.brxRgp (.pos 7) false 30),
     .ok (.callx (.neg 2) true 35),
     .ok (.ret (.pos 4) false),
     .ok (.exit (.pos 7)),
     .ok (.fend (.neg 2)),
     .ok (.home (.pos 4)),
     .ok (.nop (.pos 7)),
     .ok (.trap (.neg 2) 705),
     .ok (.brk (.pos 4))] := rfl

theorem test_decode_collectives :
    [decodeCode (.word 0x00060BD1),
     decodeCode (.word 0x20003551),
     decodeCode (.word 0x400B5A51),
     decodeCode (.word 0x023583D3),
     decodeCode (.word 0x24BFAD53),
     decodeCode (.word 0x4749D253),
     decodeCode (.word 0x69D3FBD3),
     decodeCode (.word 0x005C2555),
     decodeCode (.word 0x20664A55),
     decodeCode (.word 0x407073D5),
     decodeCode (.word 0x607A9D55),
     decodeCode (.word 0x8004C255),
     decodeCode (.word 0xA00EEBD5),
     decodeCode (.word 0xC0191555),
     decodeCode (.word 0xE0233A55)] =
    [.ok (.voteAll (.pos 7) 3 1),
     .ok (.voteAny (.neg 2) 0 6),
     .ok (.voteBallot (.pos 4) 5 43),
     .ok (.shflIdx (.pos 7) 4 26 48),
     .ok (.shflUp (.neg 2) 9 31 53),
     .ok (.shflDown (.pos 4) 14 36 58),
     .ok (.shflXor (.pos 7) 19 41 63),
     .ok (.gredAddS32 (.neg 2) 46 4),
     .ok (.gredAddF32 (.pos 4) 51 9),
     .ok (.gredMinS32 (.pos 7) 56 14),
     .ok (.gredMaxS32 (.neg 2) 61 19),
     .ok (.gredMinF32 (.pos 4) 2 24),
     .ok (.gredMaxF32 (.pos 7) 7 29),
     .ok (.gredAnd (.neg 2) 12 34),
     .ok (.gredOr (.pos 4) 17 39)] := rfl

theorem test_decode_windows :
    [decodeCode (.word 0x002D63D7),
     decodeCode (.word 0x23000557),
     decodeCode (.word 0x45800257),
     decodeCode (.word 0x6001DBD7),
     decodeCode (.word 0x81C00557)] =
    [.ok (.matchLanes (.pos 7) 22 44),
     .ok (.rgrow (.neg 2) 6),
     .ok (.rshrink (.pos 4) 11),
     .ok (.rwin (.pos 7) 59),
     .ok (.movx (.neg 2) 56 0)] := rfl

theorem test_decode_loads_and_stores :
    [decodeCode (.word 0xCCDE2A59),
     decodeCode (.word 0x1F6853DB),
     decodeCode (.word 0x11F2755D),
     decodeCode (.word 0xB47CA25D),
     decodeCode (.word 0x0686CBDF),
     decodeCode (.word 0xD910F55F)] =
    [.ok (.ld (.pos 4) 12 25 47 5),
     .ok (.st (.pos 7) 1 30 52 10),
     .ok (.ldNarrowWide (.neg 2) .n8 3 57 14),
     .ok (.stNarrowWide (.pos 4) .n16 8 62 20),
     .ok (.ldAcq (.pos 7) .fib 13 3 25),
     .ok (.stRel (.neg 2) .pkg 18 8 30)] := rfl

theorem test_decode_atomics :
    [decodeCode (.word 0x0B9B1A61),
     decodeCode (.word 0x1E2543E1),
     decodeCode (.word 0x20AF6D61),
     decodeCode (.word 0x33399261),
     decodeCode (.word 0x45C3BBE1),
     decodeCode (.word 0x584DE561),
     decodeCode (.word 0x6AD60A61),
     decodeCode (.word 0x7D6033E1),
     decodeCode (.word 0x8FEA5D61),
     decodeCode (.word 0x92748261),
     decodeCode (.word 0xA4FEA3E1)] =
    [.ok (.atomAddS32 (.pos 4) 23 13 35),
     .ok (.atomAddF32 (.pos 7) 28 18 40),
     .ok (.atomMinS32 (.neg 2) 1 23 45),
     .ok (.atomMaxS32 (.pos 4) 6 28 50),
     .ok (.atomMinN32 (.pos 7) 11 33 55),
     .ok (.atomMaxN32 (.neg 2) 16 38 60),
     .ok (.atomAnd (.pos 4) 21 43 1),
     .ok (.atomOr (.pos 7) 26 48 6),
     .ok (.atomXor (.neg 2) 31 53 11),
     .ok (.atomExch (.pos 4) 4 58 16),
     .ok (.atomCas (.pos 7) 9 63 20)] := rfl

theorem test_decode_ordered_atomics :
    [decodeCode (.word 0x0708D563),
     decodeCode (.word 0x2990FA63),
     decodeCode (.word 0x4C1D23E3),
     decodeCode (.word 0x6EA54D63),
     decodeCode (.word 0x80317263),
     decodeCode (.word 0xA0399BE3),
     decodeCode (.word 0xC645C563),
     decodeCode (.word 0xE8CDE263)] =
    [.ok (.atomOrdAddS32 (.neg 2) (.acq .dom) 4 26),
     .ok (.atomOrdAddF32 (.pos 4) (.rel .core) 8 31),
     .ok (.atomOrdMinS32 (.pos 7) (.ar .fib) 14 36),
     .ok (.atomOrdMaxS32 (.neg 2) (.ar .pkg) 18 41),
     .ok (.atomOrdAnd (.pos 4) .rlx 24 46),
     .ok (.atomOrdOr (.pos 7) .rlx 28 51),
     .ok (.atomOrdExch (.neg 2) (.acq .die) 34 56),
     .ok (.atomOrdCas (.pos 4) (.rel .grp) 38 60)] := rfl

theorem test_decode_reductions :
    [decodeCode (.word 0x0B5813E5),
     decodeCode (.word 0x1DE23D65),
     decodeCode (.word 0x206C6265),
     decodeCode (.word 0x32F68BE5),
     decodeCode (.word 0x4500B565),
     decodeCode (.word 0x578ADA65),
     decodeCode (.word 0x6A1503E5),
     decodeCode (.word 0x7C9F2D65),
     decodeCode (.word 0x8F295265),
     decodeCode (.word 0xF1B203E5)] =
    [.ok (.redAddS32 (.pos 7) 22 44 2),
     .ok (.redAddF32 (.neg 2) 27 49 7),
     .ok (.redMinS32 (.pos 4) 0 54 12),
     .ok (.redMaxS32 (.pos 7) 5 59 17),
     .ok (.redMinN32 (.neg 2) 10 0 22),
     .ok (.redMaxN32 (.pos 4) 15 5 27),
     .ok (.redAnd (.pos 7) 20 10 32),
     .ok (.redOr (.neg 2) 25 15 37),
     .ok (.redXor (.pos 4) 30 20 42),
     .ok (.pf (.pos 7) 3 25)] := rfl

theorem test_decode_ordering :
    [decodeCode (.word 0x04000567),
     decodeCode (.word 0x22C5C267),
     decodeCode (.word 0x4001F3E7),
     decodeCode (.word 0x60581567),
     decodeCode (.word 0x8E644267)] =
    [.ok (.fence (.neg 2) (.acq .fib)),
     .ok (.wait (.pos 4) .ne .par 34 56),
     .ok (.ltime (.pos 7) 62),
     .ok (.lpub (.neg 2) 44 2),
     .ok (.stf (.pos 4) 28 50 8)] := rfl

theorem test_decode_local :
    [decodeCode (.word 0x10EE6BE9),
     decodeCode (.word 0x1378956B),
     decodeCode (.word 0x0002BA6D),
     decodeCode (.word 0x200CE3ED),
     decodeCode (.word 0x40170D6D),
     decodeCode (.word 0x6021326D),
     decodeCode (.word 0x802B5BED),
     decodeCode (.word 0xA035856D),
     decodeCode (.word 0xC03FAA6D),
     decodeCode (.word 0xE049D3ED)] =
    [.ok (.lld (.pos 7) 33 55 13),
     .ok (.lst (.neg 2) 38 60 18),
     .ok (.latomAddS32 (.pos 4) 1 23),
     .ok (.latomAddF32 (.pos 7) 6 28),
     .ok (.latomMinS32 (.neg 2) 11 33),
     .ok (.latomMaxS32 (.pos 4) 16 38),
     .ok (.latomAnd (.pos 7) 21 43),
     .ok (.latomOr (.neg 2) 26 48),
     .ok (.latomExch (.pos 4) 31 53),
     .ok (.latomCas (.pos 7) 36 58)] := rfl

theorem test_decode_barriers :
    [decodeCode (.word 0x0000056F),
     decodeCode (.word 0x2C5C026F),
     decodeCode (.word 0x4EE603EF),
     decodeCode (.word 0x6170756F),
     decodeCode (.word 0x807A1A6F)] =
    [.ok (.bar (.neg 2) .conc),
     .ok (.boinit (.pos 4) 24 46),
     .ok (.boarr (.pos 7) 29 51),
     .ok (.bowait (.neg 2) .own 56 14),
     .ok (.botest (.pos 4) 61 3)] := rfl

theorem test_decode_handles :
    [decodeCode (.word 0x0080C3F1),
     decodeCode (.word 0x4000ED71),
     decodeCode (.word 0x88D11271),
     decodeCode (.word 0xC0F93BF1),
     decodeCode (.word 0x01216573),
     decodeCode (.word 0x48018A73),
     decodeCode (.word 0x8001B3F3)] =
    [.ok (.halloc (.pos 7) 16 24),
     .ok (.hfree (.neg 2) 29),
     .ok (.hbind (.pos 4) 4 26 34),
     .ok (.hstate (.pos 7) 31 39),
     .ok (.hwptr (.neg 2) 36 44),
     .ok (.hwait (.pos 4) .filling .conc 49),
     .ok (.cpcancel (.pos 7) 54)] := rfl

theorem test_decode_copies :
    [decodeCode (.word 0x3B99DD75),
     decodeCode (.word 0x45C20275),
     decodeCode (.word 0x81E22BF5),
     decodeCode (.word 0xC0125575),
     decodeCode (.word 0x003A7A77)] =
    [.ok (.cpin (.neg 2) 29 51 59),
     .ok (.cpout (.pos 4) 2 56 64),
     .ok (.cppush (.pos 7) 60 69),
     .ok (.cpred (.neg 2) 2 74),
     .ok (.cpfill (.pos 4) 7 79)] := rfl

theorem test_decode_matrix :
    [decodeCode (.word 0x646023F9),
     decodeCode (.word 0x0A8ACD7B),
     decodeCode (.word 0x249D727B),
     decodeCode (.word 0x40001BFB),
     decodeCode (.word 0x6002457B),
     decodeCode (.word 0x606CEA7B),
     decodeCode (.word 0x800193FB),
     decodeCode (.word 0xA003BD7B)] =
    [.ok (.qmmaHandle (.pos 7) false true 4 140 0 4),
     .ok (.qmmaReg (.neg 2) true false 5 1 5 9),
     .ok (.qpro (.pos 4) 36 58 14),
     .ok (.qzero (.pos 7) 3),
     .ok (.smx (.neg 2) 4 8),
     .ok (.smxCvt (.pos 4) 5 9 13),
     .ok (.qsr (.pos 7) false 50),
     .ok (.qsw (.neg 2) true 55)] := rfl

theorem test_decode_rows :
    [decodeCode (.word 0x0001E27D),
     decodeCode (.word 0x100003FD),
     decodeCode (.word 0x2000357D),
     decodeCode (.word 0x3000527D),
     decodeCode (.word 0x400083FD),
     decodeCode (.word 0x5000A57D),
     decodeCode (.word 0x6000D27D),
     decodeCode (.word 0x7000F3FD),
     decodeCode (.word 0x8001257D),
     decodeCode (.word 0x9001427D)] =
    [.ok (.rcopy (.pos 4) 60),
     .ok (.rfill (.pos 7) 0),
     .ok (.rand (.neg 2) 6),
     .ok (.ror (.pos 4) 10),
     .ok (.rxor (.pos 7) 16),
     .ok (.rnot (.neg 2) 20),
     .ok (.nbload (.pos 4) 26),
     .ok (.nbrun (.pos 7) 30),
     .ok (.nbstat (.neg 2) 36),
     .ok (.nbcancel (.pos 4) 40)] := rfl

theorem test_decode_system :
    [decodeCode (.word 0x000173FF),
     decodeCode (.word 0x0802057F),
     decodeCode (.word 0x1007C27F),
     decodeCode (.word 0x1823EBFF),
     decodeCode (.word 0x2000057F),
     decodeCode (.word 0x28003A7F),
     decodeCode (.word 0x300063FF),
     decodeCode (.word 0x38008D7F),
     decodeCode (.word 0x4000027F)] =
    [.ok (.launch (.pos 7) 46),
     .ok (.wchild (.neg 2) .par),
     .ok (.srd (.pos 4) .team 56),
     .ok (.swr (.pos 7) .rpath 61),
     .ok (.tret (.neg 2)),
     .ok (.errq (.pos 4) 7),
     .ok (.asgen (.pos 7) 12),
     .ok (.sflush (.neg 2) 17),
     .ok (.halt (.pos 4))] := rfl

/-- The example words of the spec's chapters. -/
theorem test_decode_examples_lanes :
    [decodeCode (.word 0x651243D3), decodeCode (.word 0x080003CB), decodeCode (.word 0x801E43D7), decodeCode (.word 0x240003D7),
     decodeCode (.word 0x60002BD7), decodeCode (.word 0x408213B9), decodeCode (.word 0x001D1B9D), decodeCode (.word 0x40041BB1),
     decodeCode (.word 0x430A23B5), decodeCode (.word 0x60003BB5), decodeCode (.word 0x400A33B3), decodeCode (.word 0x001063B5),
     decodeCode (.word 0x2018A3B5)] =
    [.ok (.shflXor (.pos 7) 10 9 8), .ok (.brk (.pos 7)), .ok (.movx (.pos 7) 3 200), .ok (.rgrow (.pos 7) 8), .ok (.rwin (.pos 7) 5),
     .ok (.pxor (.pos 7) 1 1 2), .ok (.cmpiS32 (.pos 7) 0 14 .gt 3), .ok (.cvtF2iS32 (.pos 7) 2 3), .ok (.fscale (.pos 7) 6 5 4),
     .ok (.rgen (.pos 7) 7), .ok (.cvtfNar (.pos 7) 2 5 6), .ok (.pk4 (.pos 7) 0 8 12), .ok (.upk4 (.pos 7) 0 12 20)] := rfl

theorem test_decode_examples_memory :
    [decodeCode (.word 0x00122BED), decodeCode (.word 0xEF1423E3), decodeCode (.word 0x40002BE7), decodeCode (.word 0x601853E7),
     decodeCode (.word 0x209423E7), decodeCode (.word 0x86142BE7), decodeCode (.word 0x80A01BF5), decodeCode (.word 0x0000A17D),
     decodeCode (.word 0x253423FB), decodeCode (.word 0x400023FB), decodeCode (.word 0x600423FB), decodeCode (.word 0x80002BFB),
     decodeCode (.word 0xA00233FB)] =
    [.ok (.latomAddS32 (.pos 7) 9 5), .ok (.atomOrdCas (.pos 7) (.ar .dom) 10 4), .ok (.ltime (.pos 7) 5), .ok (.lpub (.pos 7) 12 10),
     .ok (.wait (.pos 7) .eq .par 10 4), .ok (.stf (.pos 7) 12 10 5), .ok (.cppush (.pos 7) 20 3), .ok (.rcopy (.pos 2) 20),
     .ok (.qpro (.pos 7) 41 40 4), .ok (.qzero (.pos 7) 4), .ok (.smx (.pos 7) 8 4), .ok (.qsr (.pos 7) false 5),
     .ok (.qsw (.pos 7) true 6)] := rfl

theorem test_decode_examples_system :
    [decodeCode (.word 0x080003FF), decodeCode (.word 0x080203FF), decodeCode (.word 0x0000A3FF), decodeCode (.word 0x200003FF),
     decodeCode (.word 0x400003FF), decodeCode (.word 0x000A03CB), decodeCode (.word 0x10061BFF), decodeCode (.word 0x182213FF),
     decodeCode (.word 0x280043FF), decodeCode (.word 0x380023FF)] =
    [.ok (.wchild (.pos 7) .conc), .ok (.wchild (.pos 7) .par), .ok (.launch (.pos 7) 20), .ok (.tret (.pos 7)), .ok (.halt (.pos 7)),
     .ok (.trap (.pos 7) 5), .ok (.srd (.pos 7) .team 3), .ok (.swr (.pos 7) .rpath 2), .ok (.errq (.pos 7) 8), .ok (.sflush (.pos 7) 4)] :=
  rfl

/-- R28, R39: the reserved guard, a major that is not assigned, and a `launch` of an odd register. -/
theorem test_decode_refused :
    decodeCode (.word 0x00AF6F81) = .error .reservedGuard ∧ decodeCode (.word 0x000003AB) = .error (.illegal (.pos 7)) ∧
      decodeCode (.word 0x0000ABFF) = .error (.illegal (.pos 7)) :=
  ⟨rfl, rfl, rfl⟩

/-! ## Ill-formed terms -/

theorem test_wf_guard : wf (.add (.neg 7) 0 1 2) = false ∧ wf (.halt (.neg 7)) = false := by decide

theorem test_wf_counts :
    wf (.rgrow (.pos 7) 0) = false ∧ wf (.rgrow (.pos 7) 33) = false ∧ wf (.rshrink (.pos 7) 0) = false ∧ wf (.rshrink (.pos 7) 33) = false ∧
      wf (.rgrow (.pos 7) 32) = true := by
  decide

theorem test_wf_codes : wf (.fence (.pos 7) .rlx) = false ∧ wf (.swr (.pos 7) .team 3) = false := by decide

/-- A pair or a pointer at an odd register. -/
theorem test_wf_pairs :
    [Instr.ldNarrowWide (.pos 7) .w64 0 2 5, .stNarrowWide (.pos 7) .w64 0 2 5, .atomCas (.pos 7) 0 2 5, .atomOrdAddS32 (.pos 7) .rlx 5 2,
      .atomOrdAddF32 (.pos 7) .rlx 5 2, .atomOrdMinS32 (.pos 7) .rlx 5 2, .atomOrdMaxS32 (.pos 7) .rlx 5 2, .atomOrdAnd (.pos 7) .rlx 5 2,
      .atomOrdOr (.pos 7) .rlx 5 2, .atomOrdExch (.pos 7) .rlx 5 2, .atomOrdCas (.pos 7) .rlx 5 2, .atomOrdCas (.pos 7) .rlx 2 5,
      .wait (.pos 7) .eq .own 5 2, .wait (.pos 7) .eq .own 2 5, .lpub (.pos 7) 5 2, .lpub (.pos 7) 2 5, .stf (.pos 7) 5 2 1,
      .stf (.pos 7) 2 5 1, .latomCas (.pos 7) 1 5, .boinit (.pos 7) 5 1, .cppush (.pos 7) 5 0, .cpred (.pos 7) 5 0, .rcopy (.pos 7) 5,
      .rfill (.pos 7) 5, .rand (.pos 7) 5, .ror (.pos 7) 5, .rxor (.pos 7) 5, .rnot (.pos 7) 5, .nbload (.pos 7) 5, .nbrun (.pos 7) 5,
      .nbstat (.pos 7) 5, .nbcancel (.pos 7) 5, .launch (.pos 7) 5].all (fun i => !wf i) = true := by
  decide

/-! ## A small machine -/

/-- A live fibre with 64 registers, of value 0 but for those given. -/
def fib (ws : List (Nat × Word)) : Fibre :=
  { Fibre.empty .live with
    regs := ws.foldl (fun l w => l.set w.1 w.2) (List.replicate 64 0)
    blocks := List.range 8 }

/-- A record of 16 elements of 4 bytes at 4096, the fibres' slices 64 bytes apart, that raises where an access leaves it. -/
def rec4 : BitVec 256 := BitVec.ofNat 256 (64 * 2 ^ 136 + 2 ^ 132 + 2 * 2 ^ 120 + 4 * 2 ^ 96 + 16 * 2 ^ 64 + 4096)

/-- A readable and writable token page of 2 GiB of the device at virtual address 0. -/
def page0 : TlbEntry :=
  { asid := 0, gen := 0, va := 0, lg := 31
    leaf := BitVec.ofNat 64 (1 + 2 ^ 3 + 2 ^ 4 + 2 ^ 6 + 2 * 2 ^ 8 + 3 * 2 ^ 12 + 0x80000000 / 8192 * 2 ^ 14) }

/-- A team on core 0 that holds bytes 4096 to 8191 of local memory. Its slots: FP8 to nearest, INT8, and stochastic FP8. -/
def team (fs : List Fibre) : Team :=
  { Machine.setupTeam 7 0 with
    kernel := { Machine.setupKernel with targets := [(0, [8])] }
    fibres := fs
    records := List.replicate 32 rec4
    fmts := [3, 5, 0x20003, 15]
    bundles := [⟨[0, 1], 0, false, false⟩]
    lbase := some 4096 }

/-- One die with one core; the bundle of fibres 0 and 1 of this team issues. -/
def mach (t : Team) : State :=
  { sys := { DeviceRegs.reset .tly8P with accept := 0x7E }
    dram := [], coh := .reset, msgs := [], cores := [{ Core.reset 0 with tlb := [page0] }]
    dies := [{ Die.reset 1 0 with present := true }], teams := [t], gone := [], launches := [], offers := [], lastQueue := 15
    fab := .reset, nb := [], rows := [], host := .reset, health := .reset .tly8P, ticks := 0, slice := 0, stamp := 0, issues := [], issuers := []
    nextId := 100, draws := 0, cur := ⟨7, [0, 1], 0⟩, schedule := [] }

/-- Two fibres with these registers; only in the second p0 holds. -/
def duo (ws xs : List (Nat × Word)) : Team := team [fib ws, { fib xs with preds := 1 }]

theorem ready {t : Team} {g : Guard} {uses : Fibre → List Nat} {s : State} (h : s.curTeam = some t)
    (hc : pendingUse t s.cur.fibs uses = false ∧ s.hasOpen t s.cur.fibs = false ∧ g ≠ .neg 7 ∧
      ∀ i ∈ s.active t g, ∀ n ∈ uses (t.fibre i), n < (t.fibre i).regs.length) : CanIssue s t g uses :=
  ⟨h, hc.1, hc.2.1, hc.2.2.1, hc.2.2.2⟩

theorem readyToLoad {t : Team} {g : Guard} {uses : Fibre → List Nat} {writes : List Nat} {s : State} (h : s.curTeam = some t)
    (hc : pendingUse t s.cur.fibs uses = false ∧ s.hasAcquire t s.cur.fibs = false ∧ s.readPending t s.cur.fibs writes = false ∧
      g ≠ .neg 7 ∧ ∀ i ∈ s.active t g, ∀ n ∈ uses (t.fibre i), n < (t.fibre i).regs.length) : CanLoad s t g uses writes :=
  ⟨h, hc.1, hc.2.1, hc.2.2.1, hc.2.2.2.1, hc.2.2.2.2⟩

/-! ## States and operands that meet the hypotheses of the statements -/

set_option maxRecDepth 20000
set_option exponentiation.threshold 2048

/-- Fibre 1 alone executes under p0; register 1 holds 8, and register 2 the highest register's number less 5. -/
def t0 : Team := duo [] [(1, 8), (2, 58)]
def s0 : State := mach t0

theorem test_meets_compactForms :
    CanIssue s0 t0 (.pos 7) (fun _ => [31, 63]) ∧ CanIssue s0 t0 (.pos 7) (fun _ => [63]) :=
  ⟨ready rfl (by decide), ready rfl (by decide)⟩

theorem test_meets_integerOperations :
    CanIssue s0 t0 (.pos 0) (fun _ => [63, 2, 63]) ∧ CanIssue s0 t0 (.neg 0) (fun _ => [0, 0, 0]) :=
  ⟨ready rfl (by decide), ready rfl (by decide)⟩

theorem test_meets_bitFields :
    CanIssue s0 t0 (.pos 0) (fun _ => [63, 2]) ∧ CanIssue s0 t0 (.pos 0) (fun _ => [63, 2, 63]) :=
  ⟨ready rfl (by decide), ready rfl (by decide)⟩

theorem test_meets_moves :
    CanIssue s0 t0 (.pos 0) (fun _ => [63, 1]) ∧ CanIssue s0 t0 (.pos 0) (fun _ => [63]) ∧
      CanIssue s0 t0 (.pos 0) (fun x => [2, 1, nat (x.reg 2) + 5]) ∧ CanIssue s0 t0 (.pos 0) (fun x => [1, 2, nat (x.reg 2) + 5]) :=
  ⟨ready rfl (by decide), ready rfl (by decide), ready rfl (by decide), ready rfl (by decide)⟩

theorem test_meets_selectAndCompares :
    CanIssue s0 t0 (.pos 0) (fun _ => [1, 2, 63]) ∧ CanIssue s0 t0 (.pos 0) (fun _ => [1, 63]) ∧ CanIssue s0 t0 (.pos 0) (fun _ => [63]) :=
  ⟨ready rfl (by decide), ready rfl (by decide), ready rfl (by decide)⟩

theorem test_meets_immediates : CanIssue s0 t0 (.pos 0) (fun _ => [63]) ∧ CanIssue s0 t0 (.pos 0) (fun _ => [63, 63]) :=
  ⟨ready rfl (by decide), ready rfl (by decide)⟩

theorem test_meets_fp32 : CanIssue s0 t0 (.neg 0) (fun _ => [1, 2, 63]) ∧ CanIssue s0 t0 (.neg 0) (fun _ => [1, 63]) :=
  ⟨ready rfl (by decide), ready rfl (by decide)⟩

theorem test_meets_packed16 : CanIssue s0 t0 (.pos 7) (fun _ => [1, 2, 63]) := ready rfl (by decide)

theorem test_meets_plainConversions : CanIssue s0 t0 (.pos 0) (fun _ => [1, 63]) := ready rfl (by decide)

theorem test_meets_predicateInstructions : CanIssue s0 t0 (.pos 0) (fun _ => []) := ready rfl (by decide)

theorem test_meets_collectives :
    t0.whole s0.cur.fibs = true ∧ CanIssue s0 t0 (.pos 0) (fun _ => []) ∧ CanIssue s0 t0 (.pos 0) (fun _ => [63]) ∧
      CanIssue s0 t0 (.pos 0) (fun _ => [1, 2, 63]) ∧ CanIssue s0 t0 (.pos 0) (fun _ => [1, 63]) :=
  ⟨by decide, ready rfl (by decide), ready rfl (by decide), ready rfl (by decide), ready rfl (by decide)⟩

theorem test_meets_slotConversions :
    (s0.slot t0 0).map (fun v => (v.elem.width, v.rnd)) = some (8, .nearest) ∧
      (s0.slot t0 2).map (fun v => (v.elem.width, v.rnd)) = some (8, .stochastic) ∧ s0.active t0 (.pos 0) ≠ [] ∧
      CanIssue s0 t0 (.pos 0) (fun _ => [1, 63]) ∧ CanIssue s0 t0 (.pos 0) (fun _ => [60, 61, 62, 63, 60]) ∧
      CanIssue s0 t0 (.pos 0) (fun _ => [1, 60, 61, 62, 63]) ∧ CanIssue s0 t0 (.pos 0) (fun _ => [63]) :=
  ⟨by decide, by decide, by decide, ready rfl (by decide), ready rfl (by decide), ready rfl (by decide), ready rfl (by decide)⟩

theorem test_meets_branches :
    CanIssue s0 t0 (.pos 0) (fun _ => []) ∧ CanIssue s0 t0 (.pos 0) (fun _ => [1]) ∧
      ∀ i ∈ s0.active t0 (.pos 0), ∃ l, assoc t0.kernel.targets (nat (t0.fibre i).pc) = some l ∧ nat ((t0.fibre i).reg 1) ∈ l :=
  ⟨ready rfl (by decide), ready rfl (by decide), fun i hi => ⟨[8], by revert i; decide⟩⟩

/-- A fibre at call depth `d`, its last link in the core 6. -/
def called (d : Nat) : Fibre := { fib [(1, 8)] with cd := d, links := List.replicate 8 6 }

/-- Depths 7 and 8: the last link entry in the core, and the first in spill memory. -/
def tCall : Team := team [called 7, called 8]

theorem test_meets_callsAndReturns :
    let s := mach tCall
    let spill : List Item := (s.active tCall (.pos 7)).filterMap fun i =>
      if (tCall.fibre i).cd < 8 then none else s.item tCall .store i (linkPlace tCall i (tCall.fibre i).cd) 4 [] [] ((tCall.fibre i).pc + 4) 0
    spill.length = 1 ∧ CanIssue s tCall (.pos 7) (fun _ => []) ∧ CanIssue s tCall (.pos 7) (fun _ => [1]) ∧
      NoCause s tCall (.pos 7) (s.linkChecks tCall .store fun x => x.cd) ∧ (∀ i ∈ s.active tCall (.pos 7), (tCall.fibre i).cd ≠ 255) ∧
      s.accessStalls tCall (s.active tCall (.pos 7)) false (lineGroups spill) = false ∧
      (∀ i ∈ s.active tCall (.pos 7), ∃ l, assoc tCall.kernel.targets (nat (tCall.fibre i).pc) = some l ∧ nat ((tCall.fibre i).reg 1) ∈ l) ∧
      NoCause s tCall (.pos 7) (s.linkChecks tCall .load fun x => x.cd - 1) ∧
      ∀ i ∈ s.active tCall (.pos 7), (tCall.fibre i).cd ≠ 0 ∧ s.linkWord tCall i = some 6 ∧ nat (6 : Word) < tCall.kernel.codeBytes :=
  ⟨by decide, ready rfl (by decide), ready rfl (by decide), by unfold NoCause; decide, by decide, by decide,
    fun i hi => ⟨[8], by revert i; decide⟩, by unfold NoCause; decide, by decide⟩

/-! ## Results that the spec states -/

/-- Register `d` of fibre 1 after an instruction of this team's bundle. -/
def result (i : Instr) (t : Team) (d : Nat) : Option Word :=
  match exec i (mach t) with
  | .next u => some ((u.fibreNow t 1).reg d)
  | _ => none

/-- R100: the example of `bfx`. -/
theorem test_bfx :
    result (.bfxN32 (.pos 7) 2 1 3) (duo [] [(1, 0xABCD), (2, 0x804)]) 3 = some 0xBC ∧
      result (.bfxS32 (.pos 7) 2 1 3) (duo [] [(1, 0xABCD), (2, 0x804)]) 3 = some 0xFFFFFFBC := by
  decide

/-- R108: the example of `hadd2.bf16`. -/
theorem test_hadd2 : result (.hadd2Bf16 (.pos 7) 2 1 3) (duo [] [(1, 0x3F804000), (2, 0x3F803F80)]) 3 = some 0x40004040 := by decide

/-- R118: 2.5 to 2, and −3.5 to −4. -/
theorem test_cvt_f2i :
    result (.cvtF2iS32 (.pos 7) 2 3) (duo [] [(2, 0x40200000)]) 3 = some 2 ∧
      result (.cvtF2iS32 (.pos 7) 2 3) (duo [] [(2, 0xC0600000)]) 3 = some 0xFFFFFFFC := by
  decide

/-- R120: the example of `pk4` and `upk4` through E4M3. -/
theorem test_pk4 :
    result (.pk4 (.pos 7) 0 8 12) (duo [] [(8, 0x3F800000), (9, 0x43E80000), (10, 0xFF800000), (11, 0x3B400000)]) 12 =
      some 0x02FF7E38 := by
  decide

theorem test_upk4 :
    [20, 21, 22, 23].map (result (.upk4 (.pos 7) 0 12 20) (duo [] [(12, 0x02FF7E38)])) =
      [some 0x3F800000, some 0x43E00000, some 0x7FC00000, some 0x3B800000] := by
  decide

/-- R121: 1.5 × 2^−150 rounds to 2^−149. -/
theorem test_fscale : result (.fscale (.pos 7) 6 5 4) (duo [] [(5, 0x3FC00000), (6, 0xFFFFFF6A)]) 4 = some 1 := by decide

/-- R116: four lanes, one draw, through stochastic BF16. -/
theorem test_stochastic :
    let t : Team := { team (List.replicate 4 (fib [(5, 0x3F800010)])) with fmts := [0, 0, 0x20002] }
    let s : State := { mach t with cores := [{ Core.reset 0 with gen := 0xF5 }], cur := ⟨7, [0, 1, 2, 3], 0⟩ }
    (match exec (.cvtfNar (.pos 7) 2 5 6) s with
      | .next u => some (((List.range 4).map fun i => (u.fibreNow t i).reg 6), (u.core 0).gen)
      | _ => none) = some ([0x3F80, 0x3F80, 0x3F81, 0x3F81], 0x1EB) := by
  decide

/-- R169: one element, three roundings. -/
theorem test_qpro :
    let f : Fibre := { fib [(16, 0x3B800000), (40, 0x3F800800), (41, 0x3F800800)] with
      mat := { MatrixState.reset with
        part := ⟨BitVec.ofNat 80 (65536 * 2 ^ 32 + 2 ^ 14), .none⟩ :: List.replicate 15 ⟨0, .none⟩
        isOpen := true
        lo := true
        hi := true
        tag := 4 } }
    result (.qpro (.pos 7) 41 40 4) (team [f, f]) 16 = some 0x47801000 := by
  decide

/-- R143, R144: the example of `halloc` and `hstate`. -/
theorem test_halloc :
    let t : Team := { duo [(1, 1024)] [(1, 1024)] with
      lsize := 65536
      handles := [{ HandleState.unallotted with allotted := true, base := 57344, size := 8192 }, .unallotted] }
    (match exec (.halloc (.pos 7) 1 1) (mach t) with
      | .next u => (u.team? 7).map fun x => ((x.handle 1).base, (x.handle 1).word)
      | _ => none) = some (56320, 0x1B800808) := by
  decide

/-- R24: the next step runs the word that `withFetchWord` stores. -/
theorem test_step_movi :
    (match step (({ mach t0 with cores := [Core.reset 0] } : State).withFetchWord 32 (0x0000038F + 5 * 2 ^ 11 + 9 * 2 ^ 17)) with
      | .next u => u.teams.map fun t => ((t.fibre 31).reg 5, (t.fibre 31).pc)
      | _ => []) = [(9, 4)] := by
  decide

/-- Fibres 0 and 1 run, fibres 2 and 3 are dormant. -/
def tFork : Team := team [fib [(3, 9)], { fib [(3, 9)] with preds := 1 }, Fibre.empty .dormant, Fibre.empty .dormant]
def sFork : State := mach tFork

theorem test_meets_fibresAndWindows :
    let act := sFork.active tFork (.pos 7)
    CanIssue sFork tFork (.pos 7) (fun _ => []) ∧ act.length ≤ tFork.dormant.length ∧ sFork.performedAt tFork act .team = true ∧
      (∀ i ∈ act, (tFork.fibre i).regs.length + 8 * 24 ≤ 8 * tFork.kernel.winMax) ∧
      (∀ i ∈ act, 8 * 7 + 8 ≤ (tFork.fibre i).regs.length) ∧
      (∀ i ∈ act, ∀ p ∈ (tFork.fibre i).pend, p.reg < (tFork.fibre i).regs.length - 8 * 7) :=
  ⟨ready rfl (by decide), by decide, by decide, by decide, by decide, by decide⟩

theorem test_meets_fork :
    CanIssue sFork tFork (.pos 0) (fun _ => []) ∧ sFork.active tFork (.pos 0) = [1] ∧ sFork.performedAt tFork [1] .team = true ∧
      1 < tFork.fibres.length ∧ tFork.dormant ≠ [] ∧ tFork.dormant.headD 0 ∉ sFork.cur.fibs ∧
      (sFork.grantNow tFork 1 (laneOf (tFork.dormant.headD 0)) tFork.kernel.winInit).map
        (fun p => (p.2.team? tFork.id).map fun t => t.fibres) = some (some tFork.fibres) :=
  ⟨ready rfl (by decide), by decide, by decide, by decide, by decide, by decide, rfl⟩

theorem test_meets_traps :
    CanIssue s0 t0 (.pos 0) (fun _ => []) ∧ s0.active t0 (.pos 0) ≠ [] ∧ s0.active t0 (.neg 7) = [] ∧
      CanIssue s0 t0 (.pos 1) (fun _ => []) ∧ s0.active t0 (.pos 1) = [] :=
  ⟨ready rfl (by decide), by decide, by decide, ready rfl (by decide), by decide⟩

/-- The index of the last element of the fibre's slice in registers 1 and 2, and a generic pointer to it in registers 4 and 5. -/
def tMem : Team := duo [(1, 15)] [(1, 15), (4, 60), (6, 4)]
def sMem : State := mach tMem

theorem test_meets_loads :
    let x := loadAccess (.pos 7) 4 false (.acq .sys) 3 1 0 [63]
    let y := loadAccess (.pos 7) 2 true .rlx 3 1 0 [63]
    CanLoad sMem tMem (.pos 7) (fun _ => x.addr ++ x.data ++ x.dst) x.dst ∧ Placed sMem tMem (.pos 7) x (sMem.placedError tMem) ∧
      CanLoad sMem tMem (.pos 7) (fun _ => y.addr ++ y.data ++ y.dst) y.dst ∧ Placed sMem tMem (.pos 7) y (sMem.placedError tMem) ∧
      Quiet sMem tMem ∧ sMem.active tMem (.pos 7) ≠ [] ∧ (63 : Reg).toNat % 2 = 1 :=
  ⟨readyToLoad rfl (by decide), by unfold Placed; decide, readyToLoad rfl (by decide), by unfold Placed; decide,
    ⟨rfl, by decide, by decide⟩, by decide, by decide⟩

/-- A load and a store of a pair, each at the last even register. -/
theorem test_meets_pairs :
    let x := loadAccess (.pos 7) 8 false .rlx 3 0 0 (widthRegs .w64 62)
    let y := storeAccess (.pos 7) 8 .rlx 3 0 0 (widthRegs .w64 62)
    (62 : Reg).toNat % 2 = 0 ∧ CanLoad sMem tMem (.pos 7) (fun _ => x.addr ++ x.data ++ x.dst) x.dst ∧
      Placed sMem tMem (.pos 7) x (sMem.placedError tMem) ∧ CanIssue sMem tMem (.pos 7) (fun _ => y.addr ++ y.data ++ y.dst) ∧
      Placed sMem tMem (.pos 7) y (sMem.placedError tMem) :=
  ⟨by decide, readyToLoad rfl (by decide), by unfold Placed; decide, ready rfl (by decide), by unfold Placed; decide⟩

theorem test_meets_stores :
    let x := storeAccess (.pos 7) 4 (.rel .sys) 3 1 0 [63]
    CanIssue sMem tMem (.pos 7) (fun _ => x.addr ++ x.data ++ x.dst) ∧ Placed sMem tMem (.pos 7) x (sMem.placedError tMem) ∧
      sMem.performedAt tMem (sMem.active tMem (.pos 7)) .sys = true :=
  ⟨ready rfl (by decide), by unfold Placed; decide, by decide⟩

theorem test_meets_atomics :
    let x := atomAccess (.pos 0) .cas 3 1 62
    let y := atomOrdAccess (.pos 0) .cas (.ar .sys) 4 62
    CanIssue sMem tMem (.pos 0) (fun _ => x.addr ++ x.data ++ x.dst) ∧ Placed sMem tMem (.pos 0) x (sMem.placedError tMem) ∧
      CanIssue sMem tMem (.pos 0) (fun _ => y.addr ++ y.data ++ y.dst) ∧ Placed sMem tMem (.pos 0) y (sMem.placedError tMem) ∧
      sMem.performedAt tMem (sMem.active tMem (.pos 0)) .sys = true :=
  ⟨ready rfl (by decide), by unfold Placed; decide, ready rfl (by decide), by unfold Placed; decide, by decide⟩

theorem test_meets_reductionsAndPrefetch :
    let x := redAccess (.pos 0) .addS32 3 1 63
    let item (k : Nat) : Option Item :=
      sMem.item tMem .store k (pointerAddr tMem ((tMem.fibre k).pair 4) 4) 4 [] [] ((tMem.fibre k).reg 63) 0
    let kept := (sMem.active tMem (.pos 0)).filter fun k => (item k).isSome
    let items : List Item := kept.filterMap fun k => (item k).map fun x =>
      { x with lane := { x.lane with flag := sMem.flagRef tMem kept 6 (tMem.fibre k) } }
    CanIssue sMem tMem (.pos 0) (fun _ => x.addr ++ x.data ++ x.dst) ∧
      Placed sMem tMem (.pos 0) x (fun _ => sMem.redError tMem) ∧ CanIssue sMem tMem (.pos 0) (fun _ => [63]) ∧
      sMem.accessStalls tMem (sMem.active tMem (.pos 0)) true
        (lineGroups (sMem.pfItems tMem (sMem.active tMem (.pos 0)) 3 1)) = false ∧
      CanIssue sMem tMem (.pos 0) (fun _ => [4, 5, 6, 7, 63]) ∧ items.length = 1 ∧
      (∀ k ∈ sMem.active tMem (.pos 0), ∀ code, sMem.stfError tMem 4 6 code (tMem.fibre k) = none) ∧
      sMem.accessStalls tMem (sMem.active tMem (.pos 0)) false (lineGroups items) = false :=
  ⟨ready rfl (by decide), by unfold Placed; decide, ready rfl (by decide), by decide, ready rfl (by decide), by decide,
    by
      intro k hk code
      have h : k = 1 := by revert k; decide
      subst h
      rfl,
    by decide⟩

theorem test_meets_fenceTimeAndWait :
    let act := sMem.active tMem (.pos 0)
    CanIssue sMem tMem (.pos 0) (fun _ => []) ∧ act ≠ [] ∧ sMem.fenceWaits tMem act (.ar .sys) = false ∧
      sMem.seenWaits tMem act .sys = false ∧ CanIssue sMem tMem (.pos 0) (fun _ => [63]) ∧
      (∀ r ∈ sMem.pendingReqs tMem act, ¬ (r.page.ty = .normal ∧ r.page.cls = .leased)) ∧
      (∀ q ∈ sMem.pendingPosts tMem act, ¬ (q.ty = .normal ∧ q.cls = .leased)) ∧
      CanIssue sMem tMem (.pos 0) (fun _ => [4, 5, 62, 63]) ∧
      sMem.accessStalls tMem act true (lineGroups (sMem.waitItems tMem act 4 62)) = false ∧
      ∀ i ∈ act, partyLegal ((tMem.fibre i).reg 63) = true ∧ sMem.asksOther ((tMem.fibre i).reg 63) = false ∧
        sMem.partyError tMem .par ((tMem.fibre i).reg 63) = none ∧
        sMem.placedError tMem .load false (pointerAddr tMem ((tMem.fibre i).pair 4) 4) = none ∧
        pointerAddr tMem ((tMem.fibre i).pair 4) 4 ≠ .ok none := by
  refine ⟨ready rfl (by decide), by decide, by decide, by decide, ready rfl (by decide), by decide, by decide, ready rfl (by decide), by decide, ?_⟩
  intro i hi
  have h : i = 1 := by revert i; decide
  subst h
  exact ⟨rfl, rfl, rfl, rfl, fun h => by cases h⟩

/-- A page of 8 KiB, all of whose tokens the core holds for a window, and a record over it. -/
def tPub : Team :=
  { duo [(8, 0x800)] [(8, 0x800)] with
    lsize := 8192
    records := List.replicate 32 (BitVec.ofNat 256 (2 ^ 132 + 2 * 2 ^ 120 + 4 * 2 ^ 96 + 2048 * 2 ^ 64 + 8192)) }

def sPub : State :=
  { mach tPub with
    cores := [{ Core.reset 0 with tlb := [
      { asid := 0, gen := 0, va := 8192, lg := 13
        leaf := BitVec.ofNat 64 (1 + 2 ^ 3 + 2 ^ 4 + 2 ^ 6 + 2 * 2 ^ 8 + 0x80000000 / 8192 * 2 ^ 14) }] }]
    coh := { Coherence.reset with
      holds := (List.range 64).map fun k =>
        { who := .pubCore 0, blk := blkOf 0 0x80000000 + k, serial := 0, n := 4096, pole := true, dirty := false, data := 0, valid := 3
          lent := [], filled := [], asid := 0, slice := 0 } } }

theorem test_meets_publication :
    let act := sPub.active tPub (.pos 0)
    let w := (tPub.fibre (actingLane act)).reg 8
    CanIssue sPub tPub (.pos 0) (fun _ => [10, 11, 8, 9]) ∧ act ≠ [] ∧ NoCause sPub tPub (.pos 0) (sPub.lpubChecks tPub act 8 10) ∧
      pubSize w ≠ 0 ∧ pubPlace tPub ((tPub.fibre (actingLane act)).pair 10) (pubSize w * 8192) = .ok (some 8192) ∧
      (blocksOfPages (sPub.pubBlocks tPub 8192 (pubSize w))).length = 64 ∧
      ∀ b ∈ blocksOfPages (sPub.pubBlocks tPub 8192 (pubSize w)),
        (sPub.hold? (.pubCore tPub.core) b).any Hold.writable = true ∧ sPub.want? (.pubCore tPub.core) b = none ∧
          sPub.windowHere tPub.core b = false ∧ (∀ u ∈ (sPub.core tPub.core).unpub, u.blk ≠ b) ∧ sPub.pubAbsent tPub 8192 (pubSize w) = [] :=
  ⟨ready rfl (by decide), by decide, by unfold NoCause; decide, by decide, rfl, by decide, by decide⟩

/-- The window of that page, published. -/
def sWin : State :=
  { mach t0 with cores := [{ Core.reset 0 with pubs := [(5, { team := 7, bits := 1 <<< 127, pages := [0x80000000], moving := false })] }] }

theorem test_meets_publication_end :
    let act := sWin.active t0 (.pos 0)
    let w := (t0.fibre (actingLane act)).reg 8
    CanIssue sWin t0 (.pos 0) (fun _ => [10, 11, 8, 9]) ∧ act ≠ [] ∧ NoCause sWin t0 (.pos 0) (sWin.lpubChecks t0 act 8 10) ∧
      pubSize w = 0 ∧ sWin.windowAt t0 (pubLbase w) = some 5 :=
  ⟨ready rfl (by decide), by decide, by unfold NoCause; decide, by decide, by decide⟩

theorem test_meets_specialRegisterReads : CanIssue s0 t0 (.pos 0) (fun _ => [63]) := ready rfl (by decide)

theorem test_meets_specialRegisterWrites :
    CanIssue s0 t0 (.pos 0) (fun _ => [63]) ∧ s0.active t0 (.pos 0) ≠ [] ∧ t0.handlerFor = none ∧
      CanIssue (mach { t0 with handlerFor := some 3 }) { t0 with handlerFor := some 3 } (.pos 0) (fun _ => [63]) :=
  ⟨ready rfl (by decide), by decide, rfl, ready rfl (by decide)⟩

/-- Local addresses of the last word, and of the last object, of the team's 4096 bytes. -/
def tLoc : Team := duo [] [(1, 4092), (2, 4080), (4, 16), (5, 0x40000000)]
def sLoc : State := mach tLoc

theorem test_meets_localAccesses :
    let act := sLoc.active tLoc (.pos 0)
    let a (i : Nat) : Nat := nat ((tLoc.fibre i).reg 1) % 2 ^ 19
    CanIssue sLoc tLoc (.pos 0) (fun _ => [1, 63]) ∧ CanIssue sLoc tLoc (.pos 0) (fun _ => 1 :: atomData .cas 62) ∧
      (sLoc.core tLoc.core).lmem.wf = true ∧ tLoc.lbase = some 4096 ∧ tLoc.core < sLoc.cores.length ∧
      ∀ i ∈ act, a i % 4 = 0 ∧ a i + 4 ≤ tLoc.lsize ∧ sLoc.readBlocked tLoc (a i) 4 = false ∧ sLoc.writeBlocked tLoc (a i) 4 = false :=
  ⟨ready rfl (by decide), ready rfl (by decide), rfl, rfl, by decide, by decide⟩

theorem test_meets_barriersAndArrivals :
    let act := sLoc.active tLoc (.pos 0)
    let obj (i : Nat) : Nat := nat ((tLoc.fibre i).reg 2) % 2 ^ 19
    CanIssue sLoc tLoc (.pos 0) (fun _ => []) ∧ State.legalOwn tLoc .par = true ∧ sLoc.performedAt tLoc act .team = true ∧
      CanIssue sLoc tLoc (.pos 0) (fun _ => [2, 4, 5]) ∧ CanIssue sLoc tLoc (.pos 0) (fun _ => [2, 4]) ∧ tLoc.lbase ≠ none ∧
      (∀ i ∈ act, obj i % 16 = 0 ∧ obj i + 16 ≤ tLoc.lsize ∧ sLoc.writeBlocked tLoc (obj i) 16 = false) ∧
      (∀ i ∈ act, nat ((tLoc.fibre i).reg 4) ≠ 0 ∧ nat ((tLoc.fibre i).reg 5) / 2 ^ 24 % 2 ^ 6 = 0 ∧
        nat ((tLoc.fibre i).reg 5) / 2 ^ 30 ≤ 1) ∧
      sLoc.team? tLoc.id = some tLoc ∧ (sLoc.core tLoc.core).lmem.wf = true :=
  ⟨ready rfl (by decide), by decide, by decide, ready rfl (by decide), ready rfl (by decide), by decide, by decide, by decide, rfl, rfl⟩

/-- The object at 4080 expects 16 bytes: 15 leave its phase as it is, 16 end it. -/
def sObj : State := sLoc.setObject tLoc 4080 (initObject 16 0)

theorem test_meets_arrivals :
    let o := sObj.object tLoc 4080
    sObj.team? tLoc.id = some tLoc ∧ (sObj.core tLoc.core).lmem.wf = true ∧ objArrived o + 15 < objExpected o ∧
      objExpected o ≤ objArrived o + 16 ∧ objExpected o < objArrived o + 17 ∧ o.getLsbD armedBit = false ∧
      ∀ i ∈ tLoc.live, (tLoc.fibre i).wait = none :=
  ⟨rfl, by decide, by decide, by decide, by decide, by decide, by decide⟩

theorem test_meets_barrierWaits :
    let act := sObj.active tLoc (.pos 0)
    let obj (i : Nat) : Nat := nat ((tLoc.fibre i).reg 2) % 2 ^ 19
    CanIssue sObj tLoc (.pos 0) (fun _ => [2]) ∧ CanIssue sObj tLoc (.pos 0) (fun _ => [2, 63]) ∧ tLoc.lbase ≠ none ∧
      (∀ i ∈ act, obj i % 16 = 0 ∧ obj i + 16 ≤ tLoc.lsize ∧ sObj.writeBlocked tLoc (obj i) 16 = false) ∧
      ∀ i ∈ act, sObj.bowaitError .own (sObj.object tLoc (obj i)) = none :=
  ⟨ready rfl (by decide), ready rfl (by decide), by decide, by decide, by decide⟩

/-- Handles 0 and 2 hold the upper half of the local range, empty and full; handle 1 holds no region. Register 1 is what is left. -/
def tHand : Team :=
  { duo [] [(1, 2048)] with
    records := List.replicate 32 (BitVec.ofNat 256 (2 ^ 132 + 2 * 2 ^ 120 + 4 * 2 ^ 96 + 256 * 2 ^ 64 + 4096))
    handles := [{ HandleState.unallotted with allotted := true, base := 3072, size := 1024 }, .unallotted,
      { HandleState.unallotted with allotted := true, base := 2048, size := 1024, st := .full }] }
def sHand : State := mach tHand

theorem test_meets_tileHandles :
    let act := sHand.active tHand (.pos 0)
    let v := nat ((tHand.fibre (actingLane act)).reg 1)
    2 < tHand.handles.length ∧ act ≠ [] ∧ CanIssue sHand tHand (.pos 0) (fun _ => [1]) ∧ CanIssue sHand tHand (.pos 0) (fun _ => []) ∧
      ((tHand.handle 1).fault = false ∧ (tHand.handle 1).allotted = false ∧ v % 256 = 0 ∧ 256 ≤ v ∧ v ≤ 524288 ∧ v ≤ tHand.regionTop) ∧
      (∀ h ∈ [0, 2], (tHand.handle h).fault = false ∧ (tHand.handle h).allotted = true ∧ sHand.regionBusy tHand h = false) ∧
      (tHand.handle 0).st = .free ∧ (tHand.handle 2).st = .full ∧ State.legalOwn tHand .par = true :=
  ⟨by decide, by decide, ready rfl (by decide), ready rfl (by decide), by decide, by decide, rfl, by decide, rfl⟩

theorem test_meets_copyCommands :
    let act := sHand.active tHand (.pos 0)
    let f := tHand.fibre (actingLane act)
    act ≠ [] ∧ (sHand.core tHand.core).cmds.length + (sHand.core tHand.core).reads.length < 256 ∧ CanIssue sHand tHand (.pos 0) (fun _ => [2]) ∧
      malformed (tHand.record 31) = false ∧ rangeError tHand 31 0 (nat (f.reg 2)) = none ∧ tHand.refuses 31 = false ∧
      CanIssue sHand tHand (.pos 0) (fun _ => [2, 3]) ∧ pointerAligned tHand (f.pair 2) 1024 1 = .ok (some 4096) ∧
      CanIssue sHand tHand (.pos 0) (fun _ => [2, 3, 4]) ∧ pointerAligned tHand (f.pair 2) 1024 4 = .ok (some 4096) ∧
      sHand.team? tHand.id = some tHand ∧ tHand.core < sHand.cores.length :=
  ⟨by decide, by decide, ready rfl (by decide), by decide, by decide, by decide, ready rfl (by decide), rfl, ready rfl (by decide), rfl,
    rfl, by decide⟩

/-- The eight fibres of a quarter, with an open partial of tag 12, and a full handle of 1 KiB. -/
def tMat : Team :=
  { team (List.replicate 8 { fib [] with mat := { MatrixState.reset with isOpen := true, tag := 12 } }) with
    handles := [{ HandleState.unallotted with allotted := true, base := 3072, size := 1024, st := .full }] }
def sMat : State := { mach tMat with cur := ⟨7, List.range 8, 0⟩ }

theorem test_meets_matrixMultiply :
    let act := sMat.active tMat (.pos 7)
    (sMat.slot tMat 1).map (fun v => (v.elem, v.scaleMode)) = some (.int8, 0) ∧
      CanIssue sMat tMat (.pos 7) (fun _ => group 12 16 ++ group 0 16) ∧
      NoCause sMat tMat (.pos 7) (matrixChecks sMat tMat act 1 false 0 (imageChecks tMat 0 false)) ∧ act ≠ [] ∧
      (tMat.handle 0).st = .full ∧
      (sMat.core tMat.core).cmds.length + (sMat.core tMat.core).reads.length + (distinct (act.map quarterOf)).length ≤ 256 ∧
      CanIssue sMat tMat (.pos 7) (fun _ => group 12 16 ++ group 0 16 ++ group 8 32) ∧
      NoCause sMat tMat (.pos 7) (matrixChecks sMat tMat act 1 true 0 []) ∧ 48 + 16 ≤ (tMat.fibre 0).regs.length :=
  ⟨by decide, ready rfl (by decide), by unfold NoCause; decide, by decide, rfl, by decide, ready rfl (by decide), by unfold NoCause; decide, by decide⟩

theorem test_meets_matrixSideInstructions :
    let act := sMat.active tMat (.pos 7)
    CanIssue sMat tMat (.pos 7) (fun _ => 1 :: 2 :: group 12 16) ∧
      (∀ i ∈ act, (tMat.fibre i).mat.isOpen = true ∧ (tMat.fibre i).mat.tag = 12) ∧ act ≠ [] ∧
      CanIssue sMat tMat (.pos 7) (fun _ => group 12 16) ∧ CanIssue sMat tMat (.pos 7) (fun _ => group 0 16 ++ group 12 16) ∧
      (sMat.slot tMat 0).map (fun v => (softSlot v, v.rnd)) = some (true, .nearest) ∧
      (sMat.slot tMat 2).map (fun v => (softSlot v, v.rnd)) = some (true, .stochastic) ∧
      CanIssue sMat tMat (.pos 7) (fun _ => [63]) :=
  ⟨ready rfl (by decide), by decide, by decide, ready rfl (by decide), ready rfl (by decide), by decide, by decide, ready rfl (by decide)⟩

/-- A record of 256 KiB from 16384 on, over a page of the row-linear form whose row 8 lies there. Registers 8 to 15: row operands, two
rows, and the last object of the local range. -/
def tRow : Team :=
  { duo [(14, 1), (15, 255)] [(10, 2048), (12, 4096), (14, 1), (15, 255)] with
    records := List.replicate 32 (BitVec.ofNat 256 (2 ^ 132 + 2 * 2 ^ 120 + 4 * 2 ^ 96 + 65536 * 2 ^ 64 + 16384)) }
def rowPage0 : TlbEntry :=
  { asid := 0, gen := 0, va := 0, lg := 31
    leaf := BitVec.ofNat 64 (1 + 2 ^ 3 + 2 ^ 4 + 2 ^ 6 + 2 ^ 7 + 2 * 2 ^ 8 + 3 * 2 ^ 12 + 2 ^ 39 / 8192 * 2 ^ 14) }
def sRow : State := { mach tRow with cores := [{ Core.reset 0 with tlb := [rowPage0] }] }

theorem test_meets_rowInstructions :
    let act := sRow.active tRow (.pos 0)
    CanIssue sRow tRow (.pos 0) (fun _ => (List.range 8).map fun k => 8 + k) ∧ act ≠ [] ∧ sRow.featureOn 4 = true ∧
      sRow.slotsHeld tRow.core < 64 ∧
      ∀ fn ∈ [RowFn.copy, .and, .not, .zeros, .pattern],
        NoCause sRow tRow (.pos 0)
          (checkActing tRow act (fun x => tRow.objectError (rowObj (x.reg 15))) :: sRow.rowChecks tRow act (rowOperands (fun _ => fn) 8)) :=
  ⟨ready rfl (by decide), by decide, by decide, by decide, by unfold NoCause; decide⟩

/-- Registers 40 to 51 name a unit by its row, an image of no entry, and a run without streams. -/
def tNear : Team := { tRow with fibres := [fib [], { fib [(42, 4064), (51, 255)] with preds := 1 }] }
def sNear (us : List NearBank) : State := { mach tNear with cores := [{ Core.reset 0 with tlb := [rowPage0] }], nb := us }

theorem test_meets_nearBankInstructions :
    let s := sNear []
    let act := s.active tNear (.pos 0)
    let f := tNear.fibre (actingLane act)
    act ≠ [] ∧ s.featureOn 5 = true ∧ NoCause s tNear (.pos 0) (s.rowChecks tNear act fun x => [unitOperand 40 x]) ∧
      CanIssue s tNear (.pos 0) (fun _ => [40, 41, 42, 43]) ∧
      NoCause s tNear (.pos 0) ((s.nbloadChecks tNear 40).map fun c => checkActing tNear act c) ∧ imageCount f 40 = 0 ∧
      s.readBlocked tNear (imageAddr f 40) 32 = false ∧ s.unitNamed tNear 40 f = (0, 0) ∧ s.unit? 0 0 = none ∧
      CanIssue s tNear (.pos 0) (fun _ => [40, 41, 42]) ∧ CanIssue s tNear (.pos 0) (fun _ => [40, 41]) :=
  ⟨by decide, by decide, by unfold NoCause; decide, ready rfl (by decide), by unfold NoCause; decide, by decide, by decide, by decide,
    by decide, ready rfl (by decide), ready rfl (by decide)⟩

/-- The unit is held with a table of one entry, and may run; it may also run already, or be another team's. -/
theorem test_meets_nearBankRuns :
    let s := sNear [{ newUnit 0 0 7 with table := [0] }]
    let act := s.active tNear (.pos 0)
    CanIssue s tNear (.pos 0) (fun _ => (List.range 12).map fun k => 40 + k) ∧
      NoCause s tNear (.pos 0) (s.nbrunChecks tNear act 40) ∧
      ((sNear [{ newUnit 0 0 7 with cond := .running }]).unit? 0 0).any (fun u => u.owner == 7 && u.cond != .held) = true ∧
      ((sNear [newUnit 0 0 9]).unit? 0 0).any (fun u => u.owner != 7) = true :=
  ⟨ready rfl (by decide), by unfold NoCause; decide, by decide, by decide⟩

def queue1 : QueueDesc := { QueueDesc.reset with lsize := 4, en := true }

/-- A launch in slot 0 of queue 0. -/
def launch1 : Launch :=
  { id := 3, q := 0, slot := 0, taken := true, record := 0, cls := 1, status := .started, depth := 1, parent := some 7, acq := .pkg, kernel := none
    next := 0, done := 0, waited := 0, starving := false, frames := [], lost := false }

def tSys : Team := { tHand with fibres := [fib [], { fib [] with preds := 1 }] }

/-- The leader's 256 bytes have been read. Queue 0 is on and has room, or holds a launch in the next slot, or is off. -/
def sSys (qs : List QueueDesc) (ls : List Launch) : State :=
  { mach tSys with
    sys := { DeviceRegs.reset .tly8P with accept := 0x7E, go := true, queues := qs }
    launches := ls
    cores := [{ Core.reset 0 with
      tlb := [page0]
      reqs := [{ id := 9, inst := 9, team := 7, bundle := [0, 1], epc := 0, kind := .fetch, ord := .rlx, va := 4096
                 page := ⟨0x80001000, 0, .normal, .token, false, 0⟩, lanes := [], data := some 0, sent := false, age := 0, bad := []
                 all := [(0, 0)], told := false, cmd := some 0, miss := .hit, good := false, acted := false, tried := none, rts := none }] }] }

theorem test_meets_systemInstructions :
    let s := sSys [queue1] []
    let act := s.active tSys (.neg 0)
    CanIssue s tSys (.neg 0) (fun _ => [60, 61, 62, 63]) ∧ NoCause s tSys (.neg 0) (s.launchChecks tSys 60) ∧ act = [0] ∧
      launchPlace tSys ((tSys.fibre 0).pair 60) = .ok (some 4096) ∧ (s.fetched tSys 0 4096).map (fun q => q.lanes) = some [] ∧
      s.performedAt tSys [0] .pkg = true ∧ s.gatherClass tSys.id 0 = none ∧ CanIssue s tSys (.neg 0) (fun _ => []) ∧ s.outstanding tSys.id = [] ∧
      (sSys [queue1] [launch1]).outstanding tSys.id ≠ [] ∧
      (∀ l ∈ (sSys [queue1] [launch1]).outstanding tSys.id, legalWait .par (some l) = true) ∧
      CanIssue s tSys (.neg 0) (fun _ => (List.range 8).map fun n => 56 + n) :=
  ⟨ready rfl (by decide), by unfold NoCause; decide, by decide, rfl, rfl, by decide, by decide, ready rfl (by decide), rfl, by decide, by decide,
    ready rfl (by decide)⟩

theorem test_meets_launchOutcomes :
    (sSys [queue1] []).queueOn 0 = true ∧ (sSys [queue1] []).queueFull 0 = false ∧ (sSys [queue1] [launch1]).queueFull 0 = true ∧
      (sSys [queue1] []).queueOn 15 = false ∧ (0xFFFFFFDF : Word).getLsbD 5 = false :=
  ⟨rfl, rfl, rfl, rfl, rfl⟩

/-- The handler of team 3. -/
def tTrap : Team := { t0 with handlerFor := some 3 }

theorem test_meets_privilegedInstructions :
    let s := mach tTrap
    let act := s.active tTrap (.pos 0)
    let a : BitVec 10 := BitVec.ofNat 10 (nat ((tTrap.fibre (actingLane act)).reg 63))
    act ≠ [] ∧ CanIssue s tTrap (.pos 0) (fun _ => [63]) ∧ s.sys.bumps = [] ∧ (a.toNat, s.genOf a + 1) ∉ s.sys.retiredGens ∧
      s.oldAccesses a s.nextId = false ∧ s.viewsShut = false ∧ CanIssue s tTrap (.pos 0) (fun _ => []) ∧ s.performedAt tTrap act .sys = true ∧
      s.team? 3 = none ∧
      (let x : Team := { t0 with id := 3, frameVa := 65536 }
       let u : State := { s with teams := [tTrap, x] }
       u.team? 3 = some x ∧ u.gatherFrame x = none) :=
  ⟨by decide, ready rfl (by decide), rfl, by decide, by decide, by decide, ready rfl (by decide), by decide, rfl, rfl, by decide⟩

theorem quiet0 : Quiet s0 t0 := ⟨rfl, by decide, by decide⟩

theorem test_meets_guards :
    guardOf (.halt (.neg 7)) = some (.neg 7) ∧ Quiet s0 t0 ∧ guardOf (.stf (.pos 1) 2 4 6) = some (.pos 1) ∧
      s0.active t0 (.pos 1) = [] ∧ ∀ k ∈ s0.cur.fibs, (t0.fibre k).running = true :=
  ⟨rfl, quiet0, rfl, by decide, by decide⟩

/-- Register 63 is the last of a window of 64; a window of 56 lacks it. -/
def tShort : Team := team [fib [], { fib [(2, 0xFFFFFFFF)] with preds := 1, regs := (fib [(2, 58)]).regs.take 56 }]

theorem test_meets_privilegeAndWindowCauses :
    Quiet s0 t0 ∧ t0.handlerFor = none ∧ s0.active t0 (.pos 0) ≠ [] ∧ Quiet (mach tShort) tShort ∧
      ∀ uses : Fibre → List Nat, uses ∈ [fun _ => [1, 63, 2], fun _ => [63, 1], fun x => [2, 1, nat (x.reg 2) + 5]] →
        ((mach tShort).active tShort (.pos 7)).filter (fun k => (uses (tShort.fibre k)).any fun n => (tShort.fibre k).regs.length ≤ n) = [1] := by
  refine ⟨quiet0, rfl, by decide, ⟨rfl, by decide, by decide⟩, ?_⟩
  intro uses h
  simp only [List.mem_cons, List.not_mem_nil, or_false] at h
  rcases h with rfl | rfl | rfl <;> rfl

theorem test_meets_takingAnException :
    let c : Cause := { code := 0x7F, inner := 255, trap := 1023 }
    s0.team? t0.id = some t0 ∧ c.code < 0x80 ∧ c.inner < 256 ∧ c.trap < 1024 :=
  ⟨rfl, by decide, by decide, by decide⟩

/-! ### Events -/

/-- The fibre waits on the word at 4096, which must be 0. -/
def waitOn (again : Bool) : WaitWord :=
  { cc := .eq, value := 0, va := 4096, asid := 0, since := 0, blk := 0, rts := none, again := again, dropped := false }

/-- Fibre 1 waits or holds a known late result, fibre 2 is dormant; two fibres wait in a pool 64 cycles old. -/
def tEv (f : Fibre) : Team :=
  { team [fib [], f, Fibre.empty .dormant] with
    starve := 4
    pools := [{ target := 8, fibs := [(0, 1)], age := 640 }] }
def sEv (f : Fibre) (reqs : List Req) (gr : List GrantReq) (ms : List Msg) : State :=
  { mach (tEv f) with
    cores := [{ Core.reset 0 with tlb := [page0], reqs := reqs, grants := if gr.isEmpty then [] else [(2, gr)] }]
    msgs := ms }

def fetch1 : Req :=
  { id := 9, inst := 9, team := 7, bundle := [1], epc := 0, kind := .fetch, ord := .rlx, va := 4096
    page := ⟨0x80001000, 0, .normal, .token, false, 0⟩, lanes := [], data := some 0, sent := false, age := 0, bad := [], all := [(1, 1)]
    told := false, cmd := some 1, miss := .hit, good := false, acted := false, tried := none, rts := none }

def msg (b : Body) : Msg := { id := 4, src := ⟨0, .home⟩, dst := ⟨0, .home⟩, body := b, age := 0, poison := [], halves := 3, taken := false, rerouted := false }

/-- No near-bank unit runs, so nothing but its age keeps a message from being dealt with. -/
theorem dealsWith {s : State} {m : Msg} (hn : s.nb = []) (h : Msg.tooOld m = false) : s.deals m :=
  ⟨h, by simp [State.shutOut, State.channelShut, hn]⟩

/-- The same state with the channel of an address between its windows (R338). -/
def gated (s : State) (pa : Nat) : State :=
  { s with nb := [{ newUnit (stackOf pa) (channelOf pa) 7 with cond := .running }] }

theorem test_meets_fibreEvents :
    let p : Pool := { target := 8, fibs := [(0, 1)], age := 640 }
    let f := { fib [] with pend := [⟨63, 5, some 9⟩], wait := some .home, timer := 160 }
    let s := sEv f [] [] []
    s.team? 7 = some (tEv f) ∧ (tEv f).cond = .resident ∧ (tEv f).runs = true ∧ (tEv f).pools.find? (fun q => q.target == p.target) = some p ∧
      (∀ q ∈ (tEv f).pools, q.fibs.length ≤ 1024) ∧ (∀ i ∈ (tEv f).live, ((tEv f).fibre i).wait ≠ none ∨ ∃ q ∈ (tEv f).pools, ∃ x ∈ q.fibs, x.1 = i) ∧
      ¬ (∀ i ∈ (tEv (fib [])).live, ((tEv (fib [])).fibre i).wait ≠ none ∨ ∃ q ∈ (tEv (fib [])).pools, ∃ x ∈ q.fibs, x.1 = i) ∧
      640 ≤ p.age ∧ ((tEv f).fibre 1).pend.find? (fun q => q.reg == 63) = some ⟨63, 5, some 9⟩ ∧
      (∀ r ∈ (s.core 0).reqs ++ (s.core 0).storeQ, r.inst = 5 → r.team ≠ 7) ∧
      ((tEv f).fibre 1).cond = .live ∧ ((tEv f).fibre 1).wait ≠ none ∧ 2 ^ (tEv f).starve * 10 ≤ ((tEv f).fibre 1).timer :=
  ⟨rfl, rfl, rfl, rfl, by decide, by decide, by decide, by decide, rfl, by decide, rfl, by decide, by decide⟩

theorem test_meets_grants :
    let f := { fib [] with wait := some (.fork 8) }
    let grow := sEv (fib []) [] [{ made := 1, team := 7, fib := 1, need := 768, child := none }] []
    let fork := sEv f [] [{ made := 1, team := 7, fib := 1, need := 8, child := some 2 }] []
    (grow.grantHead 0 2).map (fun r => (r.1.child, r.2.1.length, (r.2.2.team? r.1.team).isSome)) = some (none, 768, true) ∧
      (fork.grantHead 0 2).map (fun r => (r.1.child, r.2.1.length, (r.2.2.team? r.1.team).isSome)) = some (some 2, 8, true) ∧
      ((tEv f).fibre 2).cond = .dormant ∧ ((tEv f).fibre 1).wait = some (.fork 8) :=
  ⟨rfl, rfl, rfl, rfl⟩

theorem test_meets_waits :
    let f := { fib [] with wait := some (.word (waitOn true)) }
    let q := { fib [] with wait := some (.query (waitOn true) 60 1 0 .par 2500) }
    (sEv f [fetch1] [] []).fetched (tEv f) 1 4096 = some fetch1 ∧ BitVec.ofNat 32 (bytesNat (fetch1.bytesAt 4096 4)) = (0 : Word) ∧
      BitVec.ofNat 32 (bytesNat ({ fetch1 with data := some 1 }.bytesAt 4096 4)) = (1 : Word) ∧
      (sEv f [] [] []).fetched (tEv f) 1 4096 = none ∧ (sEv f [] [] []).reloadDue (tEv f) (waitOn true) = true ∧
      (sEv f [] [] [msg (.partyAsk 0 .par 7 1)]).msg? 4 = some (msg (.partyAsk 0 .par 7 1)) ∧
      ((tEv q).fibre 1).wait = some (.query (waitOn true) 60 1 0 .par 2500) ∧ (sEv q [] [] []).rtoTicks ≤ 2500 ∧
      (∀ g b, (sEv g [] [] [msg b]).deals (msg b)) ∧ ∀ b, (sEv q [] [] [msg (.partyAns 7 1 b)]).msg? 4 = some (msg (.partyAns 7 1 b)) :=
  ⟨rfl, by decide, by decide, rfl, rfl, rfl, rfl, by decide, fun _ _ => dealsWith rfl rfl, fun _ => rfl⟩

/-- Pointers through record 0: to the last word of its span, past its span, where the access is dropped or raises a cause. -/
theorem test_meets_partyAnswers :
    let q : Wait := .query { waitOn true with value := 1 } 60 1 0 .par 0
    let t (oox : Bool) : Team := { tEv { fib [] with wait := some q } with
      records := List.replicate 32 (if oox then rec4 else BitVec.ofNat 256 (2 * 2 ^ 120 + 4 * 2 ^ 96 + 16 * 2 ^ 64 + 4096)) }
    let s (oox : Bool) : State := { sEv (fib []) [] [] [] with teams := [t oox] }
    ((t true).fibre 1).wait = some q ∧ pointerAddr (t true) 60 4 = .ok (some 4156) ∧ (s true).placedError (t true) .load false (.ok (some 4156)) = none ∧
      pointerAddr (t false) 64 4 = .ok none ∧ (s false).placedError (t false) .load false (.ok none) = none ∧
      waitHolds .eq 0 0 = true ∧ waitHolds .eq 0 1 = false ∧
      ((s true).placedError (t true) .load false (pointerAddr (t true) (2 ^ 32) 4)).isSome = true :=
  ⟨rfl, rfl, by decide, rfl, by decide, by decide, by decide, by decide⟩

/-- An engine command of fibre 1 on handle 0. -/
def cmd (k : CmdKind) (started : Bool) (done : Nat) : Cmd :=
  { id := 20, team := 7, fib := 1, h := 0, kind := k, epc := 0, base := 3072, size := 1024, started := started, done := done, inst := 20
    sent := false, refused := false, noted := false, age := 0, held := [], tried := [], implicit := false, fibs := [1] }
def sCmd (m : Cmd) (ms : List Msg) : State :=
  { mach tHand with
    cores := [{ Core.reset 0 with tlb := [page0], cmds := [m] }]
    msgs := ms }

theorem test_meets_engineCommands :
    let m0 := cmd (.cpin 0 0) false 0
    let m1 := cmd (.fill 5) true 768
    let m2 := { cmd (.red 4096 1) true 0 with refused := true, age := 63 }
    (sCmd m0 []).running 0 20 = some (m0, tHand) ∧ (∀ x ∈ ((sCmd m0 []).core 0).cmds, m0.waitsFor x = false) ∧
      (sCmd m0 []).fibreBusy tHand m0 = false ∧ (sCmd m0 []).windowBytesLeft tHand m0 = false ∧ m0.kind.fills = true ∧
      (sCmd m0 []).imageRead tHand m0.base m0.size = false ∧ (sCmd m1 []).running 0 20 = some (m1, tHand) ∧ m1.done < m1.size ∧ (sCmd m1 []).windowBytesLeft tHand m1 = false ∧
      (sCmd m2 []).running 0 20 = some (m2, tHand) ∧ (sCmd m2 []).mayRetry m2 = true :=
  ⟨rfl, by decide, by decide, by decide, rfl, by decide, rfl, by decide, by decide, rfl, by decide⟩

theorem test_meets_engineEnds :
    (∀ k, (sCmd (cmd k true 1024) []).attended 0 20 = some (cmd k true 1024, tHand)) ∧ (CmdKind.cpin 0 0).fills = true ∧
      (sCmd (cmd (.cpout 0 0) true 1024) []).storesOf 0 20 = false ∧
      ∀ k, let m : Cmd := { cmd k true 1024 with sent := true, age := 2500 }
        (sCmd m []).attended 0 20 = some (m, tHand) ∧ m.age = 2500 ∧ s0.rtoTicks = 2500 ∧ (sCmd m []).fab = s0.fab ∧
          ∀ va, (sCmd m []).pushCut tHand m va = false :=
  ⟨fun _ => rfl, rfl, by decide, fun _ => ⟨rfl, rfl, by decide, rfl, fun _ => Bool.and_false _⟩⟩

/-- A window of 8 KiB of team 7's local range, over the block of physical address 0x80000000, with an object in its last bytes. -/
def entry (moving : Bool) : PubEntry :=
  { team := 7, bits := BitVec.ofNat 128 (2 ^ 127 + 2 ^ 126 + 511 * 2 ^ 101 + 2 ^ 94), pages := [blkOf 0 0x80000000], moving := moving }
def sPush (b : Body) (moving : Bool) : State :=
  { mach { tPub with lbase := some 4096 } with
    cores := [{ Core.reset 0 with tlb := [page0], pubs := [(5, entry moving)], cmds := [cmd (.push 4096) true 1024] }]
    msgs := [{ msg b with src := ⟨0, .die 0⟩ }] }

theorem test_meets_pushes :
    let b (last : Option Nat) (lines : List Nat) : Body := .push 20 0x80001F00 0 last lines
    (∀ v n ls, (sPush (b n ls) v).msg? 4 = some { msg (b n ls) with src := ⟨0, .die 0⟩ } ∧
        (sPush (b n ls) v).deals { msg (b n ls) with src := ⟨0, .die 0⟩ } ∧ (msg (b n ls)).dst.place = .home) ∧
      (sPush (b none []) false).windowAtPa 0x80002000 = none ∧
      (∀ v, (sPush (b none []) v).windowAtPa 0x80001F00 = some (0, entry v, 7936)) ∧
      (∀ v, (entry v).arrEn = true ∧ (entry v).size = 7936 + 256 ∧ (entry v).moving = v ∧
        (sPush (b none []) v).linesFit 0 (entry v) [0x80001F00] = true) ∧
      (sPush (b none []) false).linesFit 0 (entry false) [0x80001F00, 0x80002000] = false ∧
      ({ entry false with bits := 1 <<< 127 } : PubEntry).arrEn = false ∧
      256 ≤ (sPush (b none []) false).pushedIn 0 20 + if [0x80001F00] = [] then 0 else 256 :=
  ⟨fun _ _ _ => ⟨rfl, dealsWith rfl rfl, rfl⟩, by decide, fun v => by cases v <;> decide, fun v => by cases v <;> decide, by decide, by decide, by decide⟩

theorem test_meets_pushAnswers :
    (∀ st, (sPush (.pushAck 20 st) false).msg? 4 = some { msg (.pushAck 20 st) with src := ⟨0, .die 0⟩ } ∧
        (sPush (.pushAck 20 st) false).deals { msg (.pushAck 20 st) with src := ⟨0, .die 0⟩ }) ∧
      findCmd 20 (sPush (.pushAck 20 .ok) false).cores 0 = some (0, cmd (.push 4096) true 1024) ∧
      (((sPush (.pushAck 20 .ok) false).team? 7).map Team.framed) = some false ∧
      (let m : Msg := { msg (.push 20 4096 0 none [4096]) with dst := ⟨0, .die 0⟩, age := 1 }
       (sCmd (cmd (.push 4096) true 1024) [m]).cmd? 0 20 = some (cmd (.push 4096) true 1024) ∧
         (sCmd (cmd (.push 4096) true 1024) [m]).returned 0 20 ≠ []) ∧
      (let s := sPush (.pushAck 20 .noWindow) false
       ((s.team? 7).map fun t => (s.translate t.core t.asid 4096 .store t.privileged).toOption.map fun p => p.home) = some (some 0) ∧
         s.otherDevices = []) :=
  ⟨fun _ => ⟨rfl, dealsWith rfl rfl⟩, by decide, by decide, ⟨rfl, by decide⟩, by decide, by decide⟩

theorem test_meets_contributions :
    let b := Body.contrib 20 0x80001F00 3 (List.replicate 64 1)
    let t := { tPub with lbase := some 4096 }
    let s := sPush b false
    s.msg? 4 = some { msg b with src := ⟨0, .die 0⟩ } ∧ s.deals { msg b with src := ⟨0, .die 0⟩ } ∧
      s.windowAtPa 0x80001F00 = some (0, entry false, 7936) ∧ 7936 + 4 * (List.replicate 64 (1 : Word)).length ≤ (entry false).size ∧
      s.team? (entry false).team = some t ∧ objRnext (s.object t ((entry false).lbase + (entry false).arr)) = 0 ∧
      (0 : BitVec 16).toNat < (3 : BitVec 16).toNat ∧ (s.core 0).noted.length < 64 ∧
      64 ≤ ((s.modCore 0 fun k => { k with noted := List.replicate 64 ⟨⟨0, .home⟩, 1, 0, 0⟩ }).core 0).noted.length ∧
      ((s.setObject t ((entry false).lbase + (entry false).arr) (putBits 0 80 16 4)).object t ((entry false).lbase + (entry false).arr)
        |> objRnext) = 4 :=
  ⟨rfl, dealsWith rfl rfl, by decide, by decide, rfl, by decide, by decide, by decide, by decide, by decide⟩

theorem test_meets_windowWriteback :
    let u : PubLeft := { blk := blkOf 0 0x80000000, la := 4096, team := 7 }
    let s := { sPub with cores := [{ Core.reset 0 with unpub := [u] }] }
    (s.core 0).unpub.find? (fun x => x.blk == u.blk) = some u ∧
      ((s.modCore 0 fun k => { k with unpub := [] }).hold? (.pubCore 0) u.blk).isSome = true :=
  ⟨by decide, by decide⟩

theorem test_meets_pageWalk :
    (((mach t0).withProgram [0]).walk 0 0x7FFFFFFF).toOption = some (BitVec.ofNat 64 (Machine.setupLeaf 0)) := by
  decide

/-- A block of this device. -/
def blkA : Nat := blkOf 0 0x80001000

/-- A block's tokens at a place. -/
def holding (who : Place) (blk n : Nat) (pole : Bool) (lent : List (Nat × Nat)) : Hold :=
  { who := who, blk := blk, serial := 0, n := n, pole := pole, dirty := false, data := 0, valid := 3, lent := lent, filled := [], asid := 0, slice := 0 }

def lane1 : LaneReq := { lane := 1, fib := 1, off := 252, size := 4, dst := [63], reads := [1], x := 5, y := 6, flag := none }

/-- A request of fibre 1 for the last word of a line, on a page of a type and a class. -/
def req1 (k : ReqKind) (home : Nat) (ty : MemType) (cls : PageClass) : Req :=
  { id := 9, inst := 9, team := 7, bundle := [1], epc := 0, kind := k, ord := .rlx, va := 4096, page := ⟨0x80001000, home, ty, cls, false, 0⟩
    lanes := [lane1], data := none, sent := false, age := 0, bad := [], all := [(1, 1)], told := false, cmd := none
    miss := .hit, good := false, acted := false, tried := none, rts := none }
def sReq (rs qs : List Req) (hs : List Hold) : State :=
  { mach t0 with
    cores := [{ Core.reset 0 with tlb := [page0], reqs := rs, storeQ := qs }]
    coh := { Coherence.reset with holds := hs } }

theorem test_meets_lineFill :
    let r := req1 (.load false) 0 .normal .token
    let blk := blkOf 0 0x80001080
    let h := holding (.die 0) blk 1 false []
    (sReq [r] [] [h]).localCopy blk = none ∧ (sReq [r] [] [h]).coreWants 0 blk false = some r ∧
      (sReq [r] [] []).hold? (.die ((sReq [r] [] []).core 0).die) blk = none ∧ (sReq [r] [] [h]).hold? (.die 0) blk = some h ∧
      h.readable = true ∧ h.valid = 3 :=
  ⟨by decide, by decide, by decide, rfl, by decide, rfl⟩

theorem test_meets_openAccesses :
    let r := req1 (.load false) 0 .normal .token
    let b := { r with bad := [(lane1, 0x70)] }
    (sReq [b] [] []).req? 0 9 = some b ∧ (sReq [b] [] []).team? 7 = some t0 ∧ (sReq [b] [] []).faultReady 0 b = true ∧ b.byCopy = false ∧
      (∀ home ∈ [0, 1], let q := req1 (.load false) home .normal .priv
        (sReq [q] [] []).req? 0 9 = some q ∧ q.reads = true ∧ q.miss ≠ .ingress ∧ (sReq [q] [] []).lineHeld 0 q = false ∧
          (sReq [q] [] []).route q.page = (if home = 0 then .priv else .remote) ∧ ((sReq [q] [] []).gatherRead 0 q).isNone = true) ∧
      (let q := req1 (.load false) 0 .normal .priv
       ((gated (sReq [q] [] []) 0x80001080).gatherRead 0 q).isSome = true) ∧
      s0.route (req1 (.load false) 1 .normal .priv).page = .remote ∧ r.sent = false :=
  ⟨rfl, rfl, by decide, by decide, by decide, by decide, by decide, rfl⟩

theorem test_meets_enqueueStore :
    (∀ k ∈ [.store, .atom .cas, .red .addS32], ∀ h ∈ [0, 1], ∀ ty ∈ [MemType.normal, .device], ∀ c ∈ [PageClass.priv, .leased, .token],
      let r := req1 k h ty c
      (sReq [r] [] []).req? 0 9 = some r ∧ r.sent = false ∧ storeBehind r ((sReq [r] [] []).core 0).reqs = false ∧
        (sReq [r] [] []).reqMigrated r = true ∧ storeBehind r ((sReq [r] [] []).core 0).storeQ = false ∧
        (sReq [r] [] []).remoteHeld 0 r = false ∧ (sReq [r] [] []).lineBehind 0 r = false ∧ (sReq [r] [] []).gatherLine r = none ∧
        (sReq [r] [] []).intercepted r.page = false ∧ r.openLanes ≠ [] ∧ ((sReq [r] [] []).gatherWrite 0 r).isNone = true) ∧
      (∀ r ∈ [req1 .store 0 .device .priv, req1 (.red .addS32) 0 .normal .priv, req1 (.atom .cas) 0 .normal .priv],
        ((gated (sReq [r] [] []) 0x80001080).gatherWrite 0 r).isSome = true) ∧
      (let a := { req1 (.atom .cas) 0 .normal .priv with good := true }
       (sReq [a] [] []).atomTurn 0 a = none) ∧
      (let a := { req1 (.atom .cas) 1 .normal .priv with good := true, acted := true }
       (sReq [a] [] []).atomTurn 0 a = none) ∧
      s0.route (req1 .store 0 .normal .priv).page = .priv ∧ s0.route (req1 .store 0 .normal .leased).page = .leased ∧
      s0.route (req1 .store 0 .normal .token).page = .token ∧ s0.route (req1 .store 0 .device .token).page = .uncached ∧
      s0.route (req1 .store 1 .device .token).page = .remote ∧ s0.route (req1 .store 1 .normal .token).page = .token ∧ s0.dev = 0 :=
  ⟨by decide, by decide, by decide, by decide, by decide, by decide, by decide, by decide, by decide, by decide, by decide⟩

theorem test_meets_drain :
    ∀ c ∈ [PageClass.priv, .token],
      let r := req1 .store 0 .normal c
      ((sReq [] [r] []).core 0).storeQ.find? (fun q => q.id == r.id) = some r ∧ r.sent = false ∧ (sReq [] [r] []).oldest 0 r = true ∧
        (sReq [] [r] []).reqMigrated r = true ∧ (sReq [] [r] []).remoteHeld 0 r = false ∧ ((sReq [] [r] []).gatherWrite 0 r).isNone = true ∧
        ((gated (sReq [] [r] []) 0x80001080).gatherWrite 0 r).isSome = (c == .priv) := by
  decide

theorem test_meets_views :
    let x : Sector := { addr := 0x2000040, data := 1, dirty := true, asid := 0 }
    let s := { s0 with cores := [{ Core.reset 0 with view := [x] }], dies := [{ Die.reset 1 0 with view := [x] }] }
    x.dirty = true ∧ 0 < s.cores.length ∧ findSector (s.core 0).view x.addr = some x ∧ findSector (s.die 0).view x.addr = some x ∧
      s.channelShut (x.addr * 64) = false :=
  ⟨rfl, by decide, rfl, rfl, by decide⟩

theorem test_meets_deliver :
    let m (b : Body) : Msg := { msg b with age := usTicks 1000 - 1 }
    (∀ b, (m b).dst.dev = s0.dev) ∧ (∀ b, (m b).age < usTicks 1000) ∧ (m (.loadReq 0 15 0 0)).body = .loadReq 0 15 0 0 ∧
      (m (.atomReq 0 .cas 1 2 0 0)).body = .atomReq 0 .cas 1 2 0 0 ∧
      (let l : Msg := m (.loadReq 0x80001000 15 0 0)
       s0.shutOut { l with dst := s0.here .home } = false ∧ (s0.gatherAll (s0.lineBlocks 0x80001000 (sectorBytes 15)) false).isNone = true ∧
         let x : State := { s0 with coh := { Coherence.reset with metas := [(blkA, .token false false false 0 0)] } }
         x.shutOut { l with dst := x.here .home } = false ∧ (x.gatherAll (x.lineBlocks 0x80001000 (sectorBytes 15)) false).isSome = true) :=
  ⟨fun _ => rfl, fun _ => by show usTicks 1000 - 1 < usTicks 1000; decide, rfl, rfl, by decide⟩

theorem test_meets_migrationPull :
    let blk := blkOf 0 (0x80001F80)
    let h := holding (.puller 0) blk 4096 true []
    let e := BitVec.ofNat 192 (1 + 0x80000000 / 8192 * 2 ^ 79)
    let s := { sReq [] [] [h] with sys := { DeviceRegs.reset .tly8P with migration := [(3, e)] } }
    assoc s.sys.migration 3 = some e ∧ e.getLsbD 0 = true ∧ e.getLsbD (128 + 63) = false ∧
      s.channelShut (entryFrame e + 128 * 63) = false ∧ s.hold? (entryPuller e) (entryOld e 63) = some h ∧ h.writable = true :=
  ⟨rfl, by decide, by decide, by decide, by decide, by decide⟩

/-- The kernel of an image at 8192: `n` fibres, one live, windows of one block, 4 bytes of code. -/
def kern (n progress : Nat) : Kernel :=
  { code := 8256, codeBytes := 4, fibres := n, team := 1, winMax := 1, winInit := 1, localBlocks := 0, handles := 0, progress := progress
    hasData := false, dataRec := 0, img := 8192, targets := [], points := [] }

/-- Its header (R41), as a number. -/
def header (n progress : Nat) : Nat :=
  0x45574B4E + 2 ^ 32 + progress * 2 ^ 40 + 2 ^ 48 + 2 ^ 56 + 2 ^ 64 + n * 2 ^ 80 + 4 * 2 ^ 192

/-- A launch record of one team: image 8192, record table 16384, no completion record. -/
def record1 : LineData := BitVec.ofNat 2048 (2 ^ 224 + 8192 * 2 ^ 391 + 16384 * 2 ^ 455)

/-- A launch of that record in slot 0 of queue 0. -/
def launchOf (k : Option Kernel) (cls : Nat) : Launch :=
  { launch1 with record := record1, kernel := k, cls := cls, status := .queued, parent := none, taken := k.isSome }

/-- Queue 0 is on; an image, a valid space and a context with one slot of 64 KiB lie in memory. -/
def sLau (n progress : Nat) (ls : List Launch) : State :=
  let s := mach t0
  { s with
    sys := { DeviceRegs.reset .tly8P with go := true, queues := [queue1], astBase := 0x40000000, ctxBase := 0x40100000 }
    dram := dramPut (dramPut (dramPut [] 0x40000000 (natBytes 16 1)) 0x40100000 (natBytes 64 (1 + 16 * 2 ^ 397 + 2 ^ 413))) 0x80002000
      (natBytes 64 (header n progress))
    teams := []
    launches := ls }

theorem test_meets_launchTake :
    let l := launchOf none 1
    (∀ st, (sLau 1 1 [{ l with status := st }]).launch? 3 = some { l with status := st }) ∧ l.status = .queued ∧ l.taken = false ∧
      (sLau 1 1 [l]).sys.go = true ∧ (sLau 1 1 [l]).gatherLaunch l = none ∧ (LaunchStatus.retiring 4 ≠ .queued) ∧
      l.slot = ((sLau 1 1 [l]).queue l.q).ridx ∧ (sLau 1 1 [l]).takenBefore l = [] ∧ (sLau 1 2 [l]).acceptable l = none ∧
      (sLau 1 1 [l]).acceptable l = some (kern 1 1) ∧ (sLau 1 1 [l]).unfit l (kern 1 1) = false ∧
      (sLau 1024 1 [l]).acceptable l = some (kern 1024 1) ∧ (sLau 1024 1 [l]).unfit l (kern 1024 1) = true :=
  ⟨fun _ => rfl, rfl, rfl, rfl, by decide, by decide, rfl, rfl, rfl, rfl, by decide, rfl, by decide⟩

theorem test_meets_launchWrites :
    let s (ls : List Launch) : State := { sLau 1 1 ls with sys := { (sLau 1 1 ls).sys with windows := [(0x80000000, true), (0x80002000, true)] } }
    ((s []).sys.windows.getD 0 (0, false)).2 = true ∧ (s []).queueOn 0 = true ∧ (s []).queueFull 0 = false ∧ 0 < (s []).sys.queues.length ∧
      (s []).offers = [] ∧ State.gatherClass { s [] with nextId := 101 } 100 record1 = none ∧
      (s [launch1]).queueFull 0 = true ∧ ((s []).sys.windows.getD 1 (0, false)).2 = true ∧ (s []).queueOn 1 = false ∧
      (s []).windowOf (0x800000 * 256) = some 0 :=
  ⟨rfl, rfl, rfl, by decide, rfl, by decide, rfl, rfl, rfl, by decide⟩

theorem test_meets_armedLaunch :
    let a : Arm := { team := 7, q := 0, record := record1, obj := 4080, fired := true }
    let s (ts : List Team) : State := { sLau 1 1 [] with cores := [{ Core.reset 0 with arms := [(31, a)] }], teams := ts }
    (∀ ts, assoc ((s ts).core 0).arms 31 = some a) ∧ a.fired = true ∧ (s []).queueOn a.q = true ∧ (s []).queueFull a.q = false ∧
      (s []).team? 7 = none ∧ (∀ ts ∈ [[], [t0]], (s ts).gatherClass a.team a.record = none) ∧ (s [t0]).team? 7 = some t0 ∧ t0.lbase ≠ none ∧
      (((s [t0]).accept a.team a.q a.record 0 none .sys).modCore 0 fun k => { k with arms := assocDel k.arms 31 }).team? 7 = some t0 :=
  ⟨fun _ => rfl, rfl, rfl, rfl, rfl, by decide, rfl, by decide, rfl⟩

/-- Launch lines of device 0 to queue 0: number 5 is due, and the early ones wait for it. -/
def sFlow (early age : Nat) (b : Body) : State :=
  { sLau 1 1 [] with
    sys := { (sLau 1 1 []).sys with windows := [(0x80000000, true)] }
    fab := { Fabric.reset with flows := [{ src := 0, frame := 0x40000, due := 5, early := List.replicate early (7, msg b, age), passed := [] }] }
    msgs := [msg b] }

theorem test_meets_launchLines :
    (∀ n, let b := Body.launchLine 3 0x800000 n 0
      (sFlow 0 0 b).msg? 4 = some (msg b) ∧ (sFlow 0 0 b).deals (msg b) ∧ (sFlow 0 0 b).windowOf (0x800000 * 256) = some 0) ∧
      (let s := sFlow 64 (usTicks 1000) (.wake 0)
       (s.flow 0 0).due = 5 ∧ 4 < (s.flow 0 0).due ∧ (s.flow 0 0).due < 6 ∧ 64 ≤ (s.flow 0 0).early.length ∧
         (∃ x ∈ (s.flow 0 0).early, usTicks 1000 ≤ x.2.2) ∧ ((sFlow 63 0 (.wake 0)).flow 0 0).early.length < 64) :=
  ⟨fun _ => ⟨rfl, dealsWith rfl rfl, rfl⟩, by decide, by decide, by decide, by decide, ⟨(7, msg (.wake 0), usTicks 1000), by decide, by decide⟩, by decide⟩

/-- A post of kind `k` to device 1. -/
def post (k : PostKind) (sent refused : Bool) (age : Nat) : Post :=
  { id := 6, kind := k, core := 0, team := 7, fib := 1, epc := 0, va := 4096, pa := 0x80001000, home := 1, fibs := [1], ty := .normal, cls := .token
    ord := .rlx, lanes := 2, mask := 15, data := 0
    flags := [], cmd := none, sent := sent, refused := refused, age := age, inst := 9, num := 3, told := false }

theorem test_meets_launchLineResend :
    let p := post .launchLine true true 0
    let s := { mach t0 with fab := { Fabric.reset with posts := [p] } }
    s.post? 6 = some p ∧ p.kind = .launchLine ∧ p.refused = true :=
  ⟨rfl, rfl, rfl⟩

theorem test_meets_teamAdmit :
    let l := launchOf (some (kern 1 1)) 1
    let s := sLau 1 1 [l]
    s.choose 0 = some (l, kern 1 1) ∧ (kern 1 1).progress ≠ 0 ∧ s.gatherRecords l (kern 1 1) = none ∧
      (s.place l (kern 1 1) 0 l.next .resident).map (fun b => (b.launch? l.id).all fun x => !x.status.failing) = some true :=
  ⟨rfl, by decide, by decide, by decide⟩

theorem test_meets_gridWholeAdmit :
    let l := launchOf (some (kern 1 0)) 0
    let s := sLau 1 0 [l]
    s.launch? 3 = some l ∧ s.headOf l.q = some (l, kern 1 0) ∧ (kern 1 0).progress = 0 ∧ s.heldBack l = false ∧ s.gridTurn l = true ∧
      s.gatherRecords l (kern 1 0) = none ∧
      (s.placeGrid l (kern 1 0) (recTeams l.record) 0).isSome = true ∧ l.status = .queued ∧ l.starving = false ∧
      10485760 ≤ ({ l with waited := 10485760 } : Launch).waited :=
  ⟨rfl, rfl, rfl, by decide, by decide, by decide, by decide, rfl, rfl, by decide⟩

theorem test_meets_teamEnds :
    let t (c : TeamCond) : Team := { team [Fibre.empty .ended] with cond := c }
    (∀ c, (mach (t c)).team? 7 = some (t c)) ∧ (t .resident).handlerFor = none ∧ (t .resident).live = [] ∧
      (mach (t .resident)).workDone (t .resident) = true ∧ (mach (t .ended)).outstanding 7 = [] ∧
      (mach (t .ended)).accessesLeft (t .ended) = false :=
  ⟨fun _ => rfl, rfl, rfl, by decide, rfl, by decide⟩

theorem test_meets_launchRetire :
    let l (st : LaunchStatus) : Launch := { launch1 with record := record1, status := st, next := 1, done := 1, lost := true }
    let s (st : LaunchStatus) : State := sLau 1 1 [l st]
    (∀ st, (s st).launch? 3 = some (l st)) ∧ (s .started).retiresWith (l .started) = some 0 ∧
      (s (.retiring 4)).retiresWith (l (.retiring 4)) = some 4 ∧ (l (.retired 4)).status = .retired 4 ∧ (l (.retired 4)).lost = true :=
  ⟨fun _ => rfl, by decide, by decide, rfl, rfl⟩

/-- A fibre waits for a window that the core cannot give; the core's handles are all in use by the team, of queue 1. -/
def tGrow : Team :=
  { team [{ Fibre.empty .live with wait := some (.grow 1) }] with
    launch := 3
    age := 10485760
    kernel := { Machine.setupKernel with fibres := 1, team := 1, handles := Config.coreHandles } }
def kWait : Kernel := { kern 1 1 with handles := 1 }
def lWait : Launch := { launchOf (some kWait) 1 with id := 5 }
def sGrow : State :=
  { mach tGrow with
    sys := { DeviceRegs.reset .tly8P with
      go := true, queues := [{ queue1 with prio := 3 }, { queue1 with prio := 2 }], astBase := 0x40000000, ctxBase := 0x40100000 }
    dram := dramPut (dramPut [] 0x40000000 (natBytes 16 1)) 0x40100000 (natBytes 64 (1 + 16 * 2 ^ 397 + 2 ^ 413))
    cores := [{ Core.reset 0 with deadlock := 10240 }]
    launches := [{ launch1 with q := 1, next := 1 }, lWait] }

theorem test_meets_evict :
    10240 ≤ (sGrow.core 0).deadlock ∧ sGrow.grantBlocked 0 = true ∧
      (latest (sGrow.teams.filter fun x => x.savable 0)).map (fun x => x.id) = some 7 :=
  ⟨by decide, by decide, by decide⟩

theorem test_meets_preempt :
    (sGrow.headOf 0).map (fun x => (x.1.id, x.2)) = some (5, kWait) ∧ (sGrow.lacksRoom lWait kWait).isSome = true ∧
      sGrow.heldBack lWait = false ∧ (sGrow.core 0).promised = none ∧
      (sGrow.lacksRoom lWait kWait).any (fun b => (latest (sGrow.teams.filter fun x => x.core == 0 &&
        sGrow.preemptible x (sGrow.queue 0).prio.toNat && (b.without x).fitsTeam 0 kWait)).any fun x => x.id == 7) = true :=
  ⟨by decide, by decide, by decide, rfl, by decide⟩

theorem test_meets_saves :
    let t (f : Fibre) (c : TeamCond) : Team := { team [f] with cond := c }
    let u := t { fib [] with wait := some .home } (.saving .preempt true 40960)
    let h : Team := { u with handlerFor := some 3 }
    (mach u).team? 7 = some u ∧ (mach h).team? 7 = some h ∧ h.handlerFor ≠ none ∧ u.handlerFor = none ∧ u.stopped = true ∧
      (mach u).saveBusy u = false ∧ s0.coreExists 0 = true ∧ ({ t0 with overflow := some 5 } : Team).cond = .resident ∧
      ∀ lost, let w : Team := { t { fib [] with wait := some .home } (.written .preempt true) with lost := lost }
        (mach w).team? 7 = some w ∧ (mach w).ownBusy 7 = false :=
  ⟨rfl, rfl, by decide, rfl, by decide, by decide, by decide, rfl, fun _ => ⟨rfl, rfl⟩⟩

theorem test_meets_trapHandlerEntry :
    let t : Team := { team [fib []] with cond := .trapped, frameVa := 65536, kernel := { Machine.setupKernel with localBlocks := 1 } }
    let s : State := { sLau 1 1 [] with
      dram := dramPut (dramPut (dramPut [] 0x40000000 (natBytes 16 1)) 0x40100000
        (natBytes 64 (1 + 8192 * 2 ^ 340 + 16 * 2 ^ 397 + 2 ^ 413))) 0x80002000 (natBytes 64 (header 1 1))
      cores := [{ Core.reset 0 with tlb := [page0], trapQueue := [7] }]
      teams := [t] }
    0 < s.cores.length ∧ (s.core 0).handler = none ∧ (s.core 0).trapQueue = [7] ∧ s.team? 7 = some t ∧ t.cond = .trapped ∧
      ((s.modCore 0 fun k => { k with trapQueue := [] }).handlerImage t).isSome = true ∧
      s.gatherOwn 0 7 t.asid (imageRanges (s.reader 0 7 t.asid) (ctxHandler (s.contextBits t.asid.toNat))) = none ∧
      ((((s.modCore 0 fun k => { k with trapQueue := [] }).dropOwn 0 7).setMoving t true).writeFrameLocal t).toOption.map
        (fun b => (decide (b.team? 7 = some t), t.lost, b.cores.length, (b.core 0).trapQueue)) = some (true, false, 1, []) :=
  ⟨by decide, rfl, rfl, rfl, rfl, by decide, by decide, by decide⟩

theorem test_meets_paging :
    let t : Team := { t0 with cond := .saved (.page 1) none false }
    let u : Team := { t0 with cond := .saved (.page 1) (some 9) false }
    (mach t).team? 7 = some t ∧ ((mach t).sys.pagingWr - (mach t).sys.pagingRd).toNat < 256 ∧ (mach t).tickets.length < 2 ^ 16 ∧
      (let s : State := { mach t with sys := { (mach t).sys with pagingBase := 0x80000000 } }
       isDram (s.sys.pagingBase + s.sys.pagingWr.toNat % 256 * 32) = true ∧
         (s.gatherBlock (blkOf s.dev (s.sys.pagingBase + s.sys.pagingWr.toNat % 256 * 32)) true).isNone = true) ∧
      (mach u).team? 7 = some u :=
  ⟨rfl, by decide, by decide, by decide, rfl⟩

theorem test_meets_teamReadmit :
    let t (n : Nat) : Team := { team [fib []] with
      cond := .saved .request none true
      cls := n
      frameVa := 65536
      kernel := { Machine.setupKernel with fibres := 1, team := 1, winMax := 8, localBlocks := 0 }
      lbase := none }
    (∀ n ∈ [0, 1], (mach (t n)).canReadmit (t n) 0 = true ∧ (t n).reopen = [] ∧ (mach (t n)).collector (t n) = none ∧ (t n).lost = false ∧
        (mach (t n)).gatherFrame (t n) = none) ∧
      (∀ n ∈ [0, 1], (mach (t n)).wouldFit (t n) 0 = true) ∧ ((mach (t 0)).reload (t 0)).isSome = true :=
  ⟨by decide, by decide, by decide⟩

/-- A state with messages, holdings, wants and a persistent table. -/
def sTok (m : Msg) (hs : List Hold) (ws : List Want) (es : List PEntry) : State :=
  { mach t0 with
    msgs := [m]
    coh := { Coherence.reset with holds := hs, wants := ws, table := es } }
def toDie (b : Body) : Msg := { msg b with dst := ⟨0, .die 0⟩, src := ⟨0, .die 1⟩ }

theorem test_meets_tries :
    let m (k : WantKind) : Msg := toDie (.tryTok blkA k ⟨0, .die 1⟩ 3)
    let s (k : WantKind) (n : Nat) (pole : Bool) : State := sTok (m k) [holding (.die 0) blkA n pole []] [] []
    (∀ k n pole, (s k n pole).msg? 4 = some (m k) ∧ (s k n pole).deals (m k) ∧ (s k n pole).hold? (.die 0) blkA = some (holding (.die 0) blkA n pole []) ∧
      (s k n pole).actOf (.die 0) blkA = none ∧ (s k n pole).recall (.die 0) blkA k n = none) ∧
      (s .read 2 true).isFrozen (.die 0) blkA = false ∧ (s .read 2 true).windowAtCore (.die 0) blkA = false ∧
      (let w : Msg := { msg (.publishReq blkA ⟨0, .die 1⟩ 3) with dst := ⟨0, .pubCore 0⟩ }
       let p : State := { sPush (.publishReq blkA ⟨0, .die 1⟩ 3) false with msgs := [w] }
       p.msg? 4 = some w ∧ p.deals w ∧ p.isFrozen (.pubCore 0) (blkOf 0 0x80000000) = false ∧ p.windowAtCore (.pubCore 0) (blkOf 0 0x80000000) = true ∧
         p.published (blkOf 0 0x80000000) ≠ none) :=
  ⟨fun _ _ _ => ⟨rfl, dealsWith rfl rfl, rfl, rfl, rfl⟩, by decide, by decide, rfl, dealsWith rfl rfl, by decide, by decide, by decide⟩

/-- Other parties' entries in the table of a block's home. -/
def others (n : Nat) : List PEntry := (List.range n).map fun k => ⟨blkA, ⟨k + 1, .die 0⟩, k, 5, true, false, 0, []⟩

theorem test_meets_persistentRequests :
    let m : Msg := msg (.persist blkA ⟨0, .die 1⟩ 9 3)
    let s (n : Nat) : State := sTok m [] [] (others n)
    (∀ n, (s n).msg? 4 = some m ∧ (s n).deals m) ∧ (s 0).isLocal blkA = true ∧ (s 0).unbacked (blkPa blkA) = false ∧ (s 0).atHome ⟨0, .die 1⟩ = false ∧ (s 0).homeWaits blkA .write = none ∧
      (∀ n ∈ [31, 32], (∀ e ∈ (s n).coh.table, ¬ (e.blk = blkA ∧ e.req = ⟨0, .die 1⟩)) ∧
        ((s n).coh.table.filter fun e => sameTable e.blk blkA).length = n) :=
  ⟨fun _ => ⟨rfl, dealsWith rfl rfl⟩, by decide, by decide, by decide, rfl, by decide⟩

theorem test_meets_tokenMessages :
    let s (b : Body) : State := sTok (toDie b) [] [] []
    (∀ b, (s b).msg? 4 = some (toDie b) ∧ (s b).deals (toDie b)) ∧
      (∀ b, (sTok (msg b) [] [] []).msg? 4 = some (msg b) ∧ (sTok (msg b) [] [] []).deals (msg b)) ∧
      (s (.poleAck blkA)).isFrozen (.die 0) blkA = false ∧ (s (.poleAck blkA)).coh.acts = [] ∧
      (⟨0, .die 1⟩ : Party) ≠ s0.here (.die 0) ∧ s0.isLocal blkA = true ∧ s0.isFrozen .home blkA = false ∧
      (let e : PEntry := ⟨blkA, ⟨1, .die 0⟩, 0, 5, true, true, 0, []⟩
       let h : State := sTok (msg (.deactivate blkA e.req 0 5)) [] [] [e]
       h.msg? 4 = some (msg (.deactivate blkA e.req 0 5)) ∧ h.deals (msg (.deactivate blkA e.req 0 5)) ∧ h.entryOf blkA e.req 5 = some e) ∧
      (toDie (.deactivate blkA ⟨0, .die 1⟩ 0 5)).src.dev = s0.dev :=
  ⟨fun _ => ⟨rfl, dealsWith rfl rfl⟩, fun _ => ⟨rfl, dealsWith rfl rfl⟩, by decide, rfl, by decide, by decide, by decide,
    ⟨rfl, dealsWith rfl rfl, rfl⟩, rfl⟩

theorem test_meets_homeAtomics :
    let m : Msg := { msg (.atomReq 0x80001000 .addS32 1 0 64 0) with src := ⟨1, .die 0⟩ }
    let s := sTok m [] [] []
    s.msg? 4 = some m ∧ s.deals m ∧ (isDram 0x80001000 && (s.windowOf 0x80001000).isSome) = false ∧ s.windowMoving blkA = false ∧
      m.src.dev ≠ s.dev ∧ s.lowerLane m 0x80001000 64 = false ∧ s.unbacked 0x80001000 = false ∧ isRegs 0x80001000 = false ∧
      s.localCopy blkA = none ∧ s.isFrozen .home blkA = false ∧ s.homeWaits blkA .write = none ∧ (s.homeTokens blkA).2.1 = 4096 ∧
      s.activeOf blkA = none ∧ s.poisoned blkA = false ∧
      (let r := req1 (.atom .addS32) 1 .normal .priv
       let q : State := { sReq [r] [] [] with
         cores := [{ Core.reset 0 with reqs := [r], tags := [(5, 9)] }]
         msgs := [msg (.atomResp (5 * 64 + 1) 0 .ok 7)] }
       q.msg? 4 = some (msg (.atomResp (5 * 64 + 1) 0 .ok 7)) ∧ q.deals (msg (.atomResp (5 * 64 + 1) 0 .ok 7)) ∧ q.tagged (5 * 64 + 1) 0 = some (0, r)) :=
  ⟨rfl, dealsWith rfl rfl, by decide, by decide, by decide, by decide, by decide, by decide, by decide, by decide, rfl, by decide, rfl, by decide, rfl,
    dealsWith rfl rfl, rfl⟩

/-- A want of die 0 for a block. -/
def want (st : PStage) (tries tryAge age : Nat) : Want :=
  { id := 8, who := .die 0, die := 0, agent := 0, blk := blkA, kind := .write, publish := false, asid := 0, serial := none, early := []
    tries := tries, tryAge := tryAge, age := age, stage := st, denied := false, halves := 3 }

theorem test_meets_wants :
    let s (w : Want) : State := sTok (msg (.wake 0)) [] [w] []
    (∀ w ∈ [want .no 3 12500 0, want .no 4 12500 0, want .no 0 0 1250, want (.refused 63) 0 0 0], (s w).wantId? 8 = some w ∧
      (s w).satisfied w = false ∧ (s w).tryLimit w.blk ≤ 12500) ∧ usTicks 20 = 1250 ∧ usTicks 1 = 63 :=
  ⟨by decide, by decide, by decide⟩

theorem test_meets_copies :
    let h := holding (.die 0) blkA 100 true [(1, 2)]
    let r := req1 (.load false) 0 .normal .token
    let s : State := { sReq [r] [] [h] with
      cores := [{ Core.reset 0 with tlb := [page0], reqs := [{ r with lanes := [{ lane1 with off := 0 }] }], peers := [(blkA, 1)] }] }
    s.hold? (.die 0) blkA = some h ∧ s.evictable (.die 0) blkA = true ∧ h.lent ≠ [] ∧ assoc (s.core 0).peers blkA = some 1 ∧
      h.readable = true ∧ (∀ x ∈ h.lent, x.1 ≠ 0) ∧ (s.coreWants 0 blkA false).isSome = true ∧ assoc h.lent 1 = some 2 :=
  ⟨rfl, by decide, by decide, rfl, by decide, by decide, by decide, rfl⟩

theorem test_meets_audits :
    let e : PEntry := ⟨blkA, ⟨0, .die 1⟩, 9, 3, true, true, 500, []⟩
    let a (st : AuditStage) (ps : List (Party × Nat)) (n : Nat) : Audit :=
      { blk := blkA, stage := st, waiting := ps, asked := [], sum := n, poleData := none, shadow := none, poleSeen := false }
    let s (x : Audit) (b : Body) : State := { sTok { msg b with src := ⟨0, .die 1⟩ } [] [] [] with
      coh := { Coherence.reset with audits := [x], metas := [(0x80001000 / 128, .token false false false 0 96)] } }
    (sTok (msg (.wake 0)) [] [] [e]).activeOf blkA = some e ∧ (sTok (msg (.wake 0)) [] [] [e]).audit? blkA = none ∧
      (sTok (msg (.wake 0)) [] [] [e]).auditTicks e ≤ e.age ∧
      (∀ st ps n b, (s (a st ps n) b).audit? blkA = some (a st ps n) ∧ (s (a st ps n) b).msg? 4 = some { msg b with src := ⟨0, .die 1⟩ } ∧
        (s (a st ps n) b).deals { msg b with src := ⟨0, .die 1⟩ }) ∧
      usTicks 10 = 625 ∧ (s (a .holdoff [] 0) (.wake 0)).recentlyMade blkA = false ∧
      (∃ k, ((⟨0, .die 1⟩ : Party), k) ∈ (a .asking [(⟨0, .die 1⟩, 625)] 0).waiting) ∧
      ((s (a .asking [(⟨0, .die 1⟩, 0)] 0) (.wake 0)).homeTokens blkA).2.1 = 96 ∧
      ({ s (a .holdoff [] 0) (.wake 0) with coh := { Coherence.reset with recreated := [(blkA, 5)] } }.recentlyMade blkA) = true ∧
      Place.bridge ∉ s0.meant { msg (.invalidate blkA) with src := ⟨0, .die 1⟩ } blkA :=
  ⟨rfl, rfl, by decide, fun _ _ _ _ => ⟨rfl, rfl, dealsWith rfl rfl⟩, by decide, by decide, ⟨625, by decide⟩, by decide, by decide, by decide⟩

/-- The block is in lease form, with these times, at this meridian time. -/
def sLease (rs qs : List Req) (w r m : BitVec 24) : State :=
  { sReq rs qs [] with
    sys := { DeviceRegs.reset .tly8P with accept := 0x7E, mtime := m }
    coh := { Coherence.reset with metas := [(blkOf 0 0x80001080, .lease false 0 w r)] } }

theorem test_meets_leases :
    let b := blkOf 0 0x80001080
    s0.isLocal b = true ∧ isHost (blkPa b) = false ∧ s0.localCopy b = none ∧ s0.metaOf b = .token false true false 0 4096 ∧
      (sLease [] [] 0 0 4).metaOf b = .lease false 0 0 0 ∧ timeLe 4 (0 + 3 : BitVec 24) = false ∧
      (sLease [] [] 0 0x1FFFFF 0).leaseShut b = false ∧ (sLease [] [] 0 0x1FFFFF 0).channelShut (blkPa b) = false ∧
      timeLe (timeMax (0x1FFFFF + 1) 0) (0 + 2 ^ 21) = true ∧ timeLe 0 (2 ^ 22 + 1) = true ∧ 2 ^ 22 < (2 ^ 22 + 1 - 0 : BitVec 24).toNat :=
  ⟨by decide, by decide, by decide, by decide, rfl, by decide, by decide, by decide, by decide, by decide, by decide⟩

theorem test_meets_leasedAccesses :
    let l := req1 (.load false) 0 .normal .leased
    let a := { req1 (.atom .addS32) 0 .normal .leased with good := true }
    let w := req1 .store 0 .normal .leased
    (sLease [l] [] 0 0 4).leaseHeld 0 l = false ∧ l.miss ≠ .ingress ∧ (sLease [l] [] 0 0 4).lineHeld 0 l = false ∧
    (sLease [a] [] 0 0 4).leaseReady 0 a = true ∧ (sLease [a] [] 0 0 4).ordShut 0 a = false ∧ (sLease [] [w] 0 0 4).ordShut 0 w = false ∧
    (∀ r ∈ [l, a], (sLease [r] [] 0 0 4).req? 0 9 = some r ∧ (sLease [r] [] 0 0 4).route r.page = .leased ∧
      (sLease [r] [] 0 0 4).reqMigrated r = true) ∧ l.reads = true ∧ a.good = true ∧
      (∀ x ∈ a.lanes, x ∈ (((sLease [a] [] 0 0 4).leaseRelease 0 a).leaseLanes 0 a).2) ∧
      (sLease [] [w] 0 0 4).req? 0 9 = none ∧ ((sLease [] [w] 0 0 4).core 0).storeQ.find? (fun q => q.id == 9) = some w ∧
      w.kind ≠ .flagged ∧ (sLease [] [w] 0 0 4).route w.page = .leased ∧ (sLease [] [w] 0 0 4).oldest 0 w = true ∧
      (sLease [] [w] 0 0 4).reqMigrated w = true ∧ ∀ x ∈ w.lanes, x ∈ (((sLease [] [w] 0 0 4).leaseRelease 0 w).leaseLanes 0 w).2 :=
  ⟨by decide, by decide, by decide, by decide, by decide, by decide, by decide, by decide, rfl, by decide, rfl, rfl, by decide, by decide, by decide,
    by decide, by decide⟩

/-- Line 8 of host memory with a grant, and line 2^24 of device memory as the host holds it, with the bridge's tokens and waits. -/
def sHost (g : Grant) (n : Nat) (pole : Bool) (ws : List (Nat × HostWait)) (held : Grant) (hs : List Hold) : State :=
  { mach t0 with
    coh := { Coherence.reset with holds := hs }
    host := { HostSide.reset with
      grants := [(8, g)]
      table := [(blkOf 0 (2 ^ 51 + 512), 0, n, pole)]
      waits := ws
      held := [(2 ^ 24, held)] } }

theorem test_meets_hostSnoops :
    let s (g : Grant) (n : Nat) (pole : Bool) : State := sHost g n pole [] .i []
    (∀ g n pole, (s g n pole).grantOf 8 = g) ∧ (∀ x ∈ [(4096, true), (4095, true), (4095, false)], ((s .e x.1 x.2).homeTokens ((s .e x.1 x.2).hostBlk 8)).2 = x) ∧
      (((s .e 4095 false).startSnoop 8 .snoopInv).ask .home 72 ((s .e 4095 false).hostBlk 8) .write false 0
        |>.want? .home ((s .e 4095 false).hostBlk 8)).map (fun w => w.stage) = some .no :=
  ⟨fun _ _ _ => rfl, by decide, by decide⟩

/-- A port of the device is connected to device 1. -/
def portOn : Fabric := { Fabric.reset with portEn := 1, sched := [(0, 0x80000400)] }

theorem test_meets_currentSnoops :
    let s : State := { sHost .e 0 false [] .i [] with fab := portOn }
    (sHost .e 4096 true [] .i []).ownerHere (s0.hostBlk 8) = true ∧ s.ownerHere (s0.hostBlk 8) = false ∧ s.otherDevices ≠ [] ∧
      s.host.snoops = [] :=
  ⟨by decide, by decide,
    List.ne_nil_of_mem (a := 1) (List.mem_filter.mpr ⟨List.mem_range.mpr (by decide), by decide⟩), rfl⟩

theorem test_meets_hostLines :
    let wait (k : HostWait) : List (Nat × HostWait) := [(2 ^ 24, k)]
    (∀ k ∈ [HostWait.rdShared, .rdOwn, .rdCurr 0 9],
      (sHost .i 4096 true (wait k) .i []).host.waits.find? (fun w => w.1 == 2 ^ 24 && !w.2.back) = some (2 ^ 24, k)) ∧
      (2 ^ 24, HostWait.snoopInv) ∈ (sHost .i 4096 true (wait .snoopInv) .m []).host.waits ∧
      (2 ^ 24, HostWait.snoopData) ∈ (sHost .i 4096 true (wait .snoopData) .m []).host.waits ∧
      Grant.writable ((sHost .i 4096 true [] .m []).heldOf (2 ^ 24)) = true ∧
      (sHost .i 4096 true (wait .snoopInv) .i []).host.waits.find? (fun x => x.1 == 2 ^ 24 && x.2.back) = some (2 ^ 24, .snoopInv) :=
  ⟨by decide, by decide, by decide, by decide, by decide⟩

theorem test_meets_hostAccesses :
    let s (hs : List Hold) : State := sHost .i 4096 true [] .m hs
    let h (n : Nat) : Hold := holding .bridge (s0.devBlk (2 ^ 24)) n true []
    isDram (2 ^ 34 * 64) = false ∧ isHost (2 ^ 34 * 64) = false ∧ isDram (2 ^ 24 * 64) = true ∧ (s []).windowOf (2 ^ 24 * 64) = none ∧
      (∀ l ∈ [2 ^ 34, 2 ^ 24], (s []).unbacked (l * 64) = false) ∧ (s []).windowMoving ((s []).devBlk (2 ^ 24)) = false ∧
      (s []).localCopy ((s []).devBlk (2 ^ 24)) = none ∧ ((s []).metaOf ((s []).devBlk (2 ^ 24))).isLease = false ∧
      (s []).hold? .bridge ((s []).devBlk (2 ^ 24)) = none ∧ (∀ n ∈ [1, 4096], (s [h n]).hold? .bridge ((s []).devBlk (2 ^ 24)) = some (h n) ∧
        (h n).readable = true) ∧ (h 4096).writable = true ∧ (List.replicate 64 (0 : Byte)).length ≤ 64 ∧ (s []).featureOn 2 = true :=
  ⟨by decide, by decide, by decide, by decide, by decide, by decide, by decide, by decide, rfl, by decide, by decide, by decide, by decide⟩

theorem test_meets_fabric :
    let m (d n : Nat) : Msg := { msg (.wake 0) with dst := ⟨d, .home⟩, age := n }
    let s : State := { s0 with
      dies := [{ Die.reset 1 0 with present := true, live := 2 }, { Die.reset 1 0 with present := true, live := 1 }]
      fab := { Fabric.reset with portEn := 0x80000000, slot := 31, slotAge := 150, relay := [m 1 62500] }
      msgs := [m 1 0, m 0 62500] }
    (s.die 0).live.getLsbD 1 = true ∧ s.fab.portEn.getLsbD 31 = true ∧ 150 ≤ s.fab.slotAge ∧ s.fab.slot < 32 ∧
      32 ≤ ({ s.fab with slot := 32 } : Fabric).slot ∧ (m 1 62499).dst.dev ≠ s.dev ∧ (m 1 62499).age < usTicks 1000 ∧
      s.fab.relay.length < s.relayRoom false ∧ usTicks 1000 ≤ (m 1 62500).age ∧ m 0 62500 ∈ s.msgs ∧ (m 0 62500).dst.dev = s.dev :=
  ⟨by decide, by decide, by decide, by decide, by decide, by decide, by decide, by decide, by decide, by decide, by decide⟩

theorem test_meets_remoteMessages :
    let r := req1 (.load false) 1 .normal .priv
    let s (b : Body) : State := { sReq [r] [] [] with
      cores := [{ Core.reset 0 with reqs := [r], tags := [(5, 9)] }]
      msgs := [msg b]
      fab := { Fabric.reset with posts := [post .store true false 0] } }
    (∀ b, (s b).msg? 4 = some (msg b)) ∧ (∀ b, (s b).deals (msg b)) ∧ (msg (.wake 0)).dst.place = .home ∧ (∀ b, (s b).asker (5 * 64) 0 = some (0, r)) ∧ (∀ b, (s b).post? 6 = some (post .store true false 0)) ∧
      s0.unbacked (2 ^ 51) = false ∧ isDram (2 ^ 51) = false ∧ s0.unbacked 0x80001000 = false ∧ isDram 0x80001000 = true ∧
      s0.windowOf 0x80001000 = none ∧ s0.absentAt 0x80001000 = false ∧ (s0.homeNeeds (blkOf s0.dev 0x80001000)).isNone = true ∧ s0.poisoned (blkOf s0.dev 0x80001000) = false ∧
      s0.objectAtPa (s0.dev * 2 ^ 52 + 0x80001000) = none ∧ r.byCopy = false ∧ r.quiet = false ∧
      ({ r with kind := .fetch, cmd := some engineBase } : Req).quiet = true ∧
      (s0.gatherAll (s0.lineBlocks 0x80001000 15) true).isNone = true ∧
      (let x : State := { s0 with coh := { Coherence.reset with metas := [(blkA, .token false false false 0 0)] } }
       (x.gatherAll (x.lineBlocks 0x80001000 15) true).isSome = true) ∧
      (let a := req1 (.atom .cas) 1 .normal .priv
       ({ sReq [a] [] [] with cores := [{ Core.reset 0 with reqs := [a], tags := [(5, 9)] }] } : State).asker (5 * 64) 0 = some (0, a)) :=
  ⟨fun _ => rfl, fun _ => dealsWith rfl rfl, rfl, fun _ => rfl, fun _ => rfl, by decide, by decide, by decide, by decide, by decide, by decide, by decide,
    by decide, by decide, rfl, by decide, by decide, by decide, by decide, rfl⟩

theorem test_meets_windowAccesses :
    let s := sPush (.wake 0) false
    let pa := 0x80000000 + 511 * 16
    s.objectAtPa (s.dev * 2 ^ 52 + pa) = some (entry false) ∧ s.unbacked pa = false ∧ s.windowOf pa = none ∧ s.absentAt pa = false ∧ s.homeNeeds (blkOf s.dev pa) = none ∧
      (s.localCopy (blkOf 0 pa)).isSome = true ∧ s.windowMoving (blkOf 0 pa) = false ∧ s.valueHere (blkOf 0 pa) = true ∧
      s.valueHere (blkOf 0 0x90000000) = false :=
  ⟨by decide, by decide, by decide, by decide, rfl, by decide, by decide, by decide, by decide⟩

theorem test_meets_remoteTimeouts :
    let r := { req1 (.load false) 1 .normal .priv with age := 2500, sent := true }
    let m : Msg := { msg (.loadReq 0x80001000 15 (5 * 64) 0) with dst := ⟨1, .home⟩ }
    let s (on : Bool) : State := { sReq [r] [] [] with
      cores := [{ Core.reset 0 with reqs := [r], tags := [(5, 9)] }]
      msgs := [m]
      fab := if on then portOn else Fabric.reset }
    (∀ on, (s on).req? 0 9 = some r ∧ (s on).route r.page = .remote) ∧ r.isOpen = true ∧ r.openLanes ≠ [] ∧ r.page.home ≠ s0.dev ∧
      r.data = none ∧ r.sent = true ∧ (s false).cutOff 0 r = true ∧ (s true).cutOff 0 r = false ∧ (s true).rtoTicks ≤ r.age :=
  ⟨fun on => ⟨rfl, by cases on <;> decide⟩, by decide, by decide, by decide, rfl, rfl, by decide, by decide, by decide⟩

theorem test_meets_postTimeouts :
    let b := blkOf 1 0x80001000
    let p := post .store true false 2500
    let q (sent : Bool) : Post := post .storeLine sent false 2500
    let m : Msg := { msg (.posted 6 0x80001000 15 0) with dst := ⟨1, .home⟩ }
    let s (x : Post) (hs : List Hold) (on : Bool) : State := { sReq [] [] hs with
      msgs := [m]
      fab := if on then { portOn with posts := [x] } else { Fabric.reset with posts := [x] } }
    (∀ on, (s p [] on).post? 6 = some p ∧ (s p [] on).reachable 1 = on ∧ (s p [] on).rtoTicks ≤ 2500) ∧ p.kind ≠ .storeLine ∧ p.home ≠ s0.dev ∧
      (m.dst.dev ≠ s0.dev ∧ carries m 6 = true) ∧ (∀ x hs on, (s (q x) hs on).post? 6 = some (q x)) ∧
      (∀ x on, (s (q x) [] on).reachable 1 = on) ∧ ((s (q false) [holding (.die 0) b 4096 true []] true).collected (q false)).isSome = true ∧
      (s (q false) [holding (.die 0) b 4096 true []] true).flushShut (q false).core .sys = false ∧
      (s (q true) [] true).collected (q true) = none ∧
      let e : State := { s (q true) [] false with msgs := [] }
      e.post? 6 = some (q true) ∧ e.reachable 1 = false ∧ e.rtoTicks ≤ 2500 ∧ (∀ m ∈ e.msgs, m.dst.dev ≠ e.dev → carries m 6 = false) ∧
        let h : Post := { p with home := 0 }
        (s h [] false).post? 6 = some h ∧ h.home = (s h [] false).dev ∧ (s h [] false).rtoTicks ≤ h.age ∧
          ∀ m ∈ (s h [] false).msgs, m.dst.dev = (s h [] false).dev → carries m 6 = false ∧ answers m 6 = false :=
  ⟨fun on => by cases on <;> exact ⟨rfl, by decide, by decide⟩, by decide, by decide, by decide, fun _ _ on => by cases on <;> rfl,
    fun x on => by cases x <;> cases on <;> decide, by decide, by decide, by decide, rfl, by decide, by decide, (fun _ h => nomatch h), rfl, by decide, by decide, by decide⟩

/-- A row instruction of team 7 on row 8 of the first subarray. -/
def rowCmd (slot : Option Nat) : RowCmd :=
  { id := 5, team := 7, issuer := 0, slot := slot, fn := .zeros, rows := [⟨2 ^ 39 + 16384, 16384, none, none⟩], obj := 0, fib := 1, epc := 0, inst := 4 }

theorem test_meets_rowEvents :
    let s (k : Option Nat) (n : Nat) : State := { mach t0 with
      rows := [rowCmd k]
      coh := { Coherence.reset with metas := (s0.rowBlocks (2 ^ 39 + 16384)).map fun b => (b, .token false true false 0 n) } }
    let x : RowStep := ⟨2 ^ 39 + 16384, 16384, none, none⟩
    (∀ n, (s (some 0) n).rowNext 0 5 = some (rowCmd (some 0), x)) ∧ (∀ n, (s (some 0) n).stepShut x = false) ∧
      (s (some 0) 4096).engineReady (engineOf x.d) [] (s0.rowBlocks x.d) = true ∧
      (s (some 0) 4095).engineReady (engineOf x.d) [] (s0.rowBlocks x.d) = false ∧ (s none 0).rowWaiting 0 = some (rowCmd none) ∧ (s none 0).slotsHeld 0 < 64 ∧
      (s none 0).team? 7 = some t0 :=
  ⟨fun _ => rfl, fun _ => rfl, by decide, by decide, rfl, by decide, rfl⟩

theorem test_meets_nearBankEvents :
    let u (op : Nat) : NearBank := { newUnit 0 0 7 with
      cond := .running
      table := [BitVec.ofNat 64 (op * 2 ^ 44)]
      streams := [some [(2 ^ 39 + 16384, 16384)]] }
    let s (op : Nat) : State := { mach t0 with nb := [u op] }
    (∀ op ∈ [1, 2, 4, 5], ((s op).nbRunning 0 0).isSome = true ∧ entOp ((u op).table.getD (u op).upc 0) = op ∧
      (u op).row (entStrm ((u op).table.getD (u op).upc 0)) = some (2 ^ 39 + 16384, 16384)) ∧
      (s 2).engineReady (engineOf (2 ^ 39 + 16384)) ((s 2).rowBlocks (2 ^ 39 + 16384)) [] = true ∧ (s 4).engineReady (engineOf (2 ^ 39 + 16384)) [] ((s 4).rowBlocks (2 ^ 39 + 16384)) = true ∧
      (s 0).sys.mtime.toNat % 32 = 0 ∧ ((s 0).unit? 0 0).any (fun u => u.cond == .running && u.window == 0) = true :=
  ⟨by decide, by decide, by decide, rfl, by decide⟩

theorem test_meets_deviceEvents :
    let s : State := { s0 with dies := [{ Die.reset 1 0 with retrain := 2 }, Die.reset 1 0] }
    let loc : Location := .laneColumn 0 31
    let ms (old : List Nat) : List Nat := s0.millis :: old.filter fun m => s0.millis < m + 86400000
    s0.sys.locked = false ∧ ({ s0.sys with locked := true } : DeviceRegs).locked = true ∧ (s.die 0).retrain.getLsbD 1 = true ∧
      (s.die 0).retired.getLsbD 1 = false ∧ (s0.core 0).present = true ∧ errorsOf s0.health.corrected loc = [] ∧ (ms [0]).length < 3 ∧
      3 ≤ (ms [0, 0]).length ∧ loc ∉ s0.health.lasting ∧ burned 0 = 0 ∧ burned 1 ≠ 0 ∧ burned (BitVec.allOnes 1024) = 1024 :=
  ⟨rfl, rfl, by decide, by decide, rfl, by decide, by decide, by decide, by decide, by decide, by decide, by decide⟩

/-! ### The machine -/

/-- A machine about to fetch these bytes. -/
def sStep (code : List Byte) : State := { mach t0 with cores := [Core.reset 0] }.withProgram code

/-- The state in which the bundle whose turn it is issues, and its team. -/
def issuing (s : State) : Option (State × Team) :=
  s.pick.bind fun x =>
    let c : State := { x.2 with cur := ⟨x.1.team, x.1.bundle.fibs, x.1.core⟩ }
    c.curTeam.map fun t => (c, t)

/-- Two bytes of its code, from `o` on. -/
def unitOf (c : State) (t : Team) (o : Nat) : Option (List Byte) :=
  match c.translate t.core t.asid (t.kernel.code + (c.curPc t).toNat + o) .fetch t.privileged with
  | .ok p =>
    if p.home = c.dev ∧ p.ty.isDevice = false ∧ isRegs p.pa = false ∧ c.poisoned (blkOf p.home p.pa) = false ∧ c.migrated p p.pa = true ∧
      (c.gatherBlock (blkOf p.home p.pa) false).isNone = true then some (c.readPa p.pa 2) else none
  | .error _ => none

theorem unitOf_fetches {c : State} {t : Team} {o : Nat} {bs : List Byte} (h : unitOf c t o = some bs) :
    Fetches c t (t.kernel.code + (c.curPc t).toNat + o) bs := by
  unfold unitOf at h
  split at h
  · rename_i p hp
    split at h
    · rename_i hc
      exact ⟨p, hp, hc.1, hc.2.1, hc.2.2.1, hc.2.2.2.1, hc.2.2.2.2.1, Option.isNone_iff_eq_none.mp hc.2.2.2.2.2, Option.some.inj h⟩
    · cases h
  · cases h

theorem issuing_issues {s c : State} {t : Team} (h : issuing s = some (c, t))
    (hs : s.sys.failing = 0 ∧ s.schedule = [] ∧ s.due.isNone = true) (hf : ∀ q ∈ (c.core t.core).reqs, q.kind ≠ .fetch) : Issues s c t := by
  unfold issuing at h
  cases hp : s.pick with
  | none => simp [hp] at h
  | some x =>
    simp only [hp, Option.bind_some, Option.map_eq_some_iff] at h
    obtain ⟨t', ht, h⟩ := h
    obtain ⟨rfl, rfl⟩ := Prod.mk.inj h
    exact ⟨hs.1, hs.2.1, Option.isNone_iff_eq_none.mp hs.2.2, ⟨x.1, x.2, hp, rfl⟩, ht, hf⟩

/-- A step that issues the given bytes of code in such a state. -/
def readies (s : State) (bs : List Byte) (p : State → Team → Bool) : Bool :=
  (issuing s).any fun x => ((x.1.core x.2.core).reqs.all fun q => q.kind != .fetch) && unitOf x.1 x.2 0 == some (bs.take 2) &&
    (bs.length == 2 || unitOf x.1 x.2 2 == some (bs.drop 2)) && p x.1 x.2

theorem readies_issues {s : State} {bs : List Byte} {p : State → Team → Bool} (h : readies s bs p = true)
    (hs : s.sys.failing = 0 ∧ s.schedule = [] ∧ s.due.isNone = true) :
    ∃ c t, Issues s c t ∧ Fetches c t (t.kernel.code + (c.curPc t).toNat) (bs.take 2) ∧
      (bs.length ≠ 2 → Fetches c t (t.kernel.code + (c.curPc t).toNat + 2) (bs.drop 2)) ∧ p c t = true := by
  unfold readies at h
  rw [Option.any_eq_true] at h
  obtain ⟨⟨c, t⟩, hi, h⟩ := h
  simp only [Bool.and_eq_true, Bool.or_eq_true, beq_iff_eq, List.all_eq_true, bne_iff_ne] at h
  exact ⟨c, t, issuing_issues hi hs h.1.1.1, unitOf_fetches h.1.1.2, fun hn => unitOf_fetches (h.1.2.resolve_left hn), h.2⟩

/-- The fibres of the team after an instruction and so many hundredths of a cycle. -/
def after (i : Instr) (n : Nat) : Option Fibre :=
  match s0.runInstr t0 i with
  | .next u => (u.team? 7).map fun t => (t.cool n false).fibre 1
  | _ => none

/-- R89, R94, chapter 04 (time to result): a quotient is pending for 20 cycles, for its readers and its writers; a compare's predicate for 2, for
the instruction that it guards. -/
theorem test_scoreboard :
    let waits (i : Instr) (f : Option Fibre) : Option Bool := f.map fun f => (marksOfInstr i).waits f
    waits (.add (.pos 7) 1 3 4) (after (.fdiv (.pos 7) 1 2 3) 1900) = some true ∧
      waits (.movi (.pos 7) 1 3) (after (.fdiv (.pos 7) 1 2 3) 1900) = some true ∧
      waits (.add (.pos 7) 1 2 4) (after (.fdiv (.pos 7) 1 2 3) 0) = some false ∧
      waits (.add (.pos 7) 1 3 4) (after (.fdiv (.pos 7) 1 2 3) 2000) = some false ∧
      waits (.add (.neg 2) 1 1 4) (after (.cmpS32 (.pos 7) .eq 1 2 2) 100) = some true ∧
      waits (.add (.neg 2) 1 1 4) (after (.cmpS32 (.pos 7) .eq 1 2 2) 200) = some false :=
  ⟨by decide, by decide, by decide, by decide, by decide, by decide⟩

/-- The same machine with register 45 of fibre 1 late, as `add` 1, 23, 45 finds it, and without. -/
def sLate (late : Bool) (code : List Byte) : State :=
  let s := sStep code
  { s with teams := s.teams.map fun t => if late then t.modFibre 1 fun f => { f with late := [⟨.reg 45, 100, false, none⟩] } else t }

def waiting (i : Instr) (c : State) (t : Team) : Bool := c.cur.fibs.any fun k => (marksOfInstr i).waits (t.fibre k)

theorem test_meets_stepRunsDecoded :
    let i : Instr := .add (.pos 4) 1 23 45
    (∀ l ∈ [true, false], readies (sLate l [0x01, 0x6A, 0xAF, 0x00]) [0x01, 0x6A, 0xAF, 0x00] (fun c t => waiting i c t == l) = true ∧
      (sLate l [0x01, 0x6A, 0xAF, 0x00]).sys.failing = 0 ∧ (sLate l [0x01, 0x6A, 0xAF, 0x00]).schedule = [] ∧
      (sLate l [0x01, 0x6A, 0xAF, 0x00]).due.isNone = true) ∧
      (0x01 : Byte).getLsbD 0 = true ∧ decode [0x01, 0x6A, 0xAF, 0x00] = .ok (i, []) ∧
      readies (sStep [0x60, 0xEE]) [0x60, 0xEE] (fun c t => !waiting (.movC16 29 51) c t) = true ∧
      (sStep [0x60, 0xEE]).due.isNone = true ∧ (0x60 : Byte).getLsbD 0 = false ∧ decode [0x60, 0xEE] = .ok (.movC16 29 51, []) :=
  ⟨by decide, by decide, rfl, by decide, by decide, by decide, rfl⟩

/-- The bytes of a word, and whether its guard holds in some fibre of the bundle. -/
def bytesOf (v : BitVec 32) : List Byte := [v.extractLsb' 0 8, v.extractLsb' 8 8, v.extractLsb' 16 8, v.extractLsb' 24 8]
def acts (v : BitVec 32) (c : State) (t : Team) : Bool :=
  let g := (v.extractLsb' 7 4).toNat
  c.cur.fibs.any fun k => if g < 8 then (t.fibre k).pred (BitVec.ofNat 3 g) else !(t.fibre k).pred (BitVec.ofNat 3 (g - 8))

theorem test_meets_reservedGuard :
    let s := sStep (bytesOf 0x00000781)
    readies s (bytesOf 0x00000781) (fun _ _ => true) = true ∧ s.sys.failing = 0 ∧ s.schedule = [] ∧ s.due.isNone = true ∧
      (0x00000781 : BitVec 32).getLsbD 0 = true ∧ ((0x00000781 : BitVec 32).extractLsb' 7 4).toNat = 15 :=
  ⟨by decide, rfl, rfl, by decide, by decide, by decide⟩

/-- An unassigned major under p7, and an unassigned minor under p1, which holds in neither fibre. -/
theorem test_meets_unassignedMajor :
    readies (sStep (bytesOf 0x000003A9)) (bytesOf 0x000003A9) (acts 0x000003A9) = true ∧ (sStep (bytesOf 0x000003A9)).due.isNone = true ∧
      (0x000003A9 : BitVec 32).getLsbD 0 = true ∧ ((0x000003A9 : BitVec 32).extractLsb' 1 6).toNat = 0x14 :=
  ⟨by decide, by decide, by decide, by decide⟩

theorem test_meets_unassignedMinor :
    readies (sStep (bytesOf 0x800000B5)) (bytesOf 0x800000B5) (fun c t => !acts 0x800000B5 c t) = true ∧
      (sStep (bytesOf 0x800000B5)).due.isNone = true ∧ (0x800000B5 : BitVec 32).getLsbD 0 = true ∧
      ((0x800000B5 : BitVec 32).extractLsb' 1 6).toNat = 0x1A ∧ ((0x800000B5 : BitVec 32).extractLsb' 29 3).toNat = 4 :=
  ⟨by decide, by decide, by decide, by decide, by decide⟩

theorem test_meets_encodeDecode :
    wf (.qmmaReg (.neg 6) true true 7 15 15 15) = true ∧ (encode (.qmmaReg (.neg 6) true true 7 15 15 15)).isSome = true ∧
      wf (.moviC16 (-16) 63) = true ∧ (encode (.moviC16 (-16) 63)).isSome = true :=
  ⟨by decide, by decide, by decide, by decide⟩

theorem test_meets_canonicalStep :
    let s : State := { s0 with schedule := [.goWrite true], dram := [(5, 1), (6, 2)] }
    Canonical s ∧ ∃ u, step s = .next u :=
  ⟨⟨by decide, by decide, by decide⟩, _, rfl⟩

theorem test_meets_stepGoesOn :
    let s (l : List Instr) : State := { s0 with sys := { s0.sys with failing := 5 }, schedule := l }
    s0.sys.failing = 0 ∧ (∀ l, (s l).sys.failing ≠ 0) ∧ (∀ p rest, (s []).schedule ≠ .reset p :: rest) ∧
      (∀ pa rest, isRegs pa = true → (s []).schedule ≠ .hostUncachedRead pa :: rest) ∧
      (s [.reset .tly1E]).schedule = [.reset .tly1E] ∧
      isRegs (2 ^ 40) = true ∧ (s [.hostUncachedRead (2 ^ 40)]).schedule = [.hostUncachedRead (2 ^ 40)] :=
  ⟨rfl, fun l => by show (5 : BitVec 8) ≠ 0; decide, fun _ _ h => (by cases h), fun _ _ _ h => (by cases h), rfl, by decide, rfl⟩

end Sys2Proof.Tests
end

namespace Sys2Proof.Machine

/-! ## Every step keeps every memory canonical

The proof follows the model file by file. For an operation `f` on the state, `Canonical.f` says that it keeps the canonical form; for an event or
an instruction `e`, `e_preserves` says so of every state that it goes on to. Where an operation writes bytes, this rests on `Mem.wf_write`; where it
does not, its lemma shows by which operations the state comes about. -/

variable {s u : State}

/-- Every state that a result goes on to is canonical. -/
def Keeps (r : Result) : Prop := ∀ u, r = .next u → Canonical u

/-- The state in a value that is found, if any, is canonical. -/
def Found {α : Type} (get : α → State) (o : Option α) : Prop := ∀ a, o = some a → Canonical (get a)

/-- The state of an attempt that succeeds is canonical. -/
def Succeeds (e : Except Nat State) : Prop := ∀ u, e = .ok u → Canonical u

/-- From every canonical state an event goes on to canonical states. -/
def Preserves (e : State → Result) : Prop := ∀ ⦃s⦄, Canonical s → Keeps (e s)

/-- What becomes of a message leaves a canonical state. -/
def Deals (d : Dealt) : Prop := ∀ u, d = .done u ∨ d = .wait u → Canonical u

theorem Canonical.done (h : Canonical s) : Deals (.done s) := fun _ hu => by rcases hu with hu | hu <;> cases hu; exact h

theorem Canonical.wait (h : Canonical s) : Deals (.wait s) := fun _ hu => by rcases hu with hu | hu <;> cases hu; exact h

theorem Canonical.next (h : Canonical s) : Keeps (.next s) := fun _ hu => by cases hu; exact h

theorem Found.some {α : Type} {get : α → State} {a : α} (h : Canonical (get a)) : Found get (some a) := fun _ hu => by cases hu; exact h

theorem Canonical.some (h : Canonical s) : Found id (some s) := Found.some h

theorem Found.none {α : Type} {get : α → State} : Found get none := nofun

theorem Canonical.ok (h : Canonical s) : Succeeds (.ok s) := fun _ hu => by cases hu; exact h

theorem Succeeds.error {e : Nat} : Succeeds (.error e) := nofun

theorem Canonical.ite {c : Prop} {_ : Decidable c} (h : Canonical s) (h' : Canonical u) : Canonical (if c then s else u) := by
  split <;> assumption

theorem Canonical.iteThen {c : Prop} {_ : Decidable c} (h : Canonical s) (hu : Canonical s → Canonical u) :
    Canonical (if c then u else s) := (hu h).ite h

theorem Canonical.iteElse {c : Prop} {_ : Decidable c} (h : Canonical s) (hu : Canonical s → Canonical u) :
    Canonical (if c then s else u) := h.ite (hu h)

theorem Keeps.ite {c : Prop} {_ : Decidable c} {r r' : Result} (h : Keeps r) (h' : Keeps r') : Keeps (if c then r else r') := by
  split <;> assumption

theorem Deals.ite {c : Prop} {_ : Decidable c} {d d' : Dealt} (h : Deals d) (h' : Deals d') : Deals (if c then d else d') := by
  split <;> assumption

theorem Found.ite {c : Prop} {_ : Decidable c} {α : Type} {get : α → State} {o o' : Option α} (h : Found get o) (h' : Found get o') :
    Found get (if c then o else o') := by
  split <;> assumption

theorem Succeeds.ite {c : Prop} {_ : Decidable c} {e e' : Except Nat State} (h : Succeeds e) (h' : Succeeds e') :
    Succeeds (if c then e else e') := by
  split <;> assumption

theorem Found.map {α β : Type} {get : α → State} {get' : β → State} {o : Option α} {f : α → β} (ho : Found get o)
    (hf : ∀ a, Canonical (get a) → Canonical (get' (f a))) : Found get' (o.map f) := by
  cases o with
  | none => exact Found.none
  | some a => exact Found.some (hf a (ho a rfl))

theorem Found.bind {α β : Type} {get : α → State} {get' : β → State} {o : Option α} {f : α → Option β} (ho : Found get o)
    (hf : ∀ a, Canonical (get a) → Found get' (f a)) : Found get' (o.bind f) := by
  cases o with
  | none => exact Found.none
  | some a => exact hf a (ho a rfl)

theorem Canonical.getD {o : Option State} (h : Canonical s) (ho : Found id o) : Canonical (o.getD s) := by
  cases o with
  | none => exact h
  | some u => exact ho u rfl

/-- A fold keeps the canonical form of a state that it carries when each of its steps does. -/
theorem Canonical.foldlBy {α β : Type} (get : β → State) {f : β → α → β} {x : β} {l : List α} (h : Canonical (get x))
    (hf : ∀ x a, Canonical (get x) → Canonical (get (f x a))) : Canonical (get (l.foldl f x)) := by
  induction l generalizing x with
  | nil => exact h
  | cons a l ih => exact ih (hf x a h)

theorem Canonical.foldl {α : Type} {f : State → α → State} {l : List α} (h : Canonical s)
    (hf : ∀ s x, Canonical s → Canonical (f s x)) : Canonical (l.foldl f s) := Canonical.foldlBy id h hf

/-- The cores' local memories stay, and so do DRAM and host memory. -/
theorem Canonical.sameLocals (h : Canonical s) (hc : u.cores.map Core.lmem = s.cores.map Core.lmem) (hd : u.dram = s.dram)
    (hh : u.host.mem = s.host.mem) : Canonical u := by
  refine ⟨hd ▸ h.1, hh ▸ h.2.1, fun k hk => ?_⟩
  have hm : k.lmem ∈ s.cores.map Core.lmem := hc ▸ List.mem_map_of_mem hk
  obtain ⟨x, hx, he⟩ := List.mem_map.1 hm
  exact he ▸ h.2.2 x hx

/-- Every core changes beside its local memory. -/
theorem Canonical.mapCores (h : Canonical s) {f : Core → Core} (hc : u.cores = s.cores.map f) (hf : ∀ k, (f k).lmem = k.lmem)
    (hd : u.dram = s.dram) (hh : u.host.mem = s.host.mem) : Canonical u := by
  refine h.sameLocals ?_ hd hh
  rw [hc, List.map_map]
  exact List.map_congr_left fun k _ => hf k

/-- Parts of the state beside DRAM, the cores and the host change. -/
theorem Canonical.same (h : Canonical s) {sys coh msgs dies teams gone launches offers lastQueue fab nb rows health ticks slice stamp issues issuers
    nextId draws cur schedule} :
    Canonical ⟨sys, s.dram, coh, msgs, s.cores, dies, teams, gone, launches, offers, lastQueue, fab, nb, rows, s.host, health, ticks, slice, stamp,
      issues, issuers, nextId, draws, cur, schedule⟩ := h

/-- Parts of the state beside DRAM and the cores change, and parts of the host beside its memory. -/
theorem Canonical.sameHost (h : Canonical s) {sys coh msgs dies teams gone launches offers lastQueue fab nb rows health ticks slice stamp issues
    issuers nextId draws cur schedule grants table waits snoops held answers rate msix0 msix1} :
    Canonical ⟨sys, s.dram, coh, msgs, s.cores, dies, teams, gone, launches, offers, lastQueue, fab, nb, rows,
      ⟨s.host.mem, grants, table, waits, snoops, held, answers, rate, msix0, msix1⟩, health, ticks, slice, stamp, issues, issuers, nextId, draws, cur,
      schedule⟩ := h

/-- A core changes beside its local memory. -/
theorem Canonical.modCoreBeside (h : Canonical s) {c f} (hf : ∀ k, (f k).lmem = k.lmem) : Canonical (s.modCore c f) :=
  h.modCore c f fun k hk => (hf k).symm ▸ hk

/-- Bytes of host memory are written. -/
theorem Canonical.writeHost (h : Canonical s) {a bs} :
    Canonical { s with host := { s.host with mem := s.host.mem.write a bs } } := ⟨h.1, Mem.wf_write _ _ h.2.1, h.2.2⟩

/-! ### Machine/Ops -/

theorem Canonical.modDie (h : Canonical s) {d f} : Canonical (s.modDie d f) := h
theorem Canonical.modLaunch (h : Canonical s) {id f} : Canonical (s.modLaunch id f) := h

theorem Canonical.raise (h : Canonical s) {t c fibs bundle epc} : Canonical (s.raise t c fibs bundle epc) :=
  ((h.modCoreBeside fun _ => by rfl).ite h).modTeam _ _

theorem Canonical.stall (h : Canonical s) : Canonical s.stall := h.modTeam _ _
theorem Canonical.stallBegun (h : Canonical s) : Canonical s.stallBegun := h.modTeam _ _

/-- An instruction issues: it stalls, takes an exception, or has its effect. -/
theorem issue_preserves {fm own eff} (he : ∀ ⦃s⦄, Canonical s → ∀ t act, Canonical (eff s t act)) : Preserves (issue fm own eff) := by
  intro s h
  unfold issue
  split
  · exact h.next
  · refine h.stall.next.ite (h.stall.next.ite (h.raise.next.ite ?_))
    dsimp only
    split
    exacts [h.raise.next, (he h _ _).next]

theorem Canonical.issued (h : Canonical s) : Canonical s.issued := h
theorem Canonical.advance (h : Canonical s) {len} : Canonical (s.advance len) := (h.modTeam _ _).issued
theorem Canonical.writeFibres (h : Canonical s) {act len f} : Canonical (s.writeFibres act len f) := (h.modTeam _ _).advance
theorem Canonical.split (h : Canonical s) {next} : Canonical (s.split next) := (h.modTeam _ _).issued
theorem Canonical.blockSome (h : Canonical s) {wait go} : Canonical (s.blockSome wait go) := (h.modTeam _ _).issued

theorem Canonical.progress (h : Canonical s) {team} : Canonical (s.progress team) := by
  unfold State.progress
  split
  exacts [(h.modCoreBeside fun _ => by rfl).ite h, h]

theorem Canonical.release (h : Canonical s) {team is} : Canonical (s.release team is) := h.progress.modTeam _ _
theorem Canonical.releaseWhole (h : Canonical s) {team is} : Canonical (s.releaseWhole team is) := h.progress.modTeam _ _
theorem Canonical.drawn (h : Canonical s) : Canonical s.drawn := h
theorem Canonical.fresh (h : Canonical s) : Canonical s.fresh := h

/-! ### Machine/Blocks -/

theorem Canonical.setMeta (h : Canonical s) {blk m} : Canonical (s.setMeta blk m) := h
theorem Canonical.setPoison (h : Canonical s) {blk p} : Canonical (s.setPoison blk p) := h.setMeta.ite h.same
theorem Canonical.dropPatches (h : Canonical s) {blk} : Canonical (s.dropPatches blk) := h

theorem Canonical.fetchSector (h : Canonical s) {c a asid} : Canonical (s.fetchSector c a asid).2 := by
  unfold State.fetchSector
  split
  · exact h
  · dsimp only
    split
    exacts [h.modCoreBeside fun _ => by rfl, (h.modCoreBeside fun _ => by rfl).modDie]

theorem Canonical.enterSector (h : Canonical s) {c a v asid} : Canonical (s.enterSector c a v asid) := (h.modCoreBeside fun _ => by rfl).modDie
theorem Canonical.writeBackCore (h : Canonical s) {c x} : Canonical (s.writeBackCore c x) := (h.modCoreBeside fun _ => by rfl).modDie
theorem Canonical.writeBackDie (h : Canonical s) {d x} : Canonical (s.writeBackDie d x) := (h.writePa _ _).modDie

theorem Canonical.releaseViews (h : Canonical s) {c sc} : Canonical (s.releaseViews c sc) := by
  unfold State.releaseViews
  extract_lets flushCore d flushDie
  have hc : Canonical (flushCore s) := h.foldl fun _ _ h' => h'.writeBackCore
  have hd : Canonical (flushDie (flushCore s)) := hc.foldl fun _ _ h' => h'.writeBackDie
  split
  exacts [hc, hd, hd, hd, h]

theorem Canonical.acquireViews (h : Canonical s) {c sc} : Canonical (s.acquireViews c sc) := by
  unfold State.acquireViews
  extract_lets dropCore dropLeases dropDie
  have hc : Canonical (dropCore s) := h.modCoreBeside fun _ => by rfl
  split
  exacts [hc.modDie, hc.modDie, hc.modDie, hc.modDie, h]

/-! ### Machine/Tokens -/

theorem Canonical.sendHalves (h : Canonical s) {src dst b halves about} : Canonical (s.sendHalves src dst b halves about) := h.same.fresh
theorem Canonical.send (h : Canonical s) {src dst b} : Canonical (s.send src dst b) := h.sendHalves
theorem Canonical.replyTo (h : Canonical s) {m b} : Canonical (s.replyTo m b) := h.sendHalves
theorem Canonical.sendAll (h : Canonical s) {src ds b} : Canonical (s.sendAll src ds b) := h.foldl fun _ _ h' => h'.send
theorem Canonical.dropMsg (h : Canonical s) {id} : Canonical (s.dropMsg id) := h
theorem Canonical.takeUp (h : Canonical s) {id} : Canonical (s.takeUp id) := h

theorem Canonical.onMsg (h : Canonical s) {id f} (hf : ∀ m u, Canonical u → Canonical (f m u)) : Keeps (s.onMsg id f) := by
  unfold State.onMsg
  split
  exacts [h.dropMsg.next.ite (hf _ _ h.dropMsg).next, h.next]

theorem Canonical.deal (h : Canonical s) {id f} (hf : ∀ m, Deals (f m)) : Keeps (s.deal id f) := by
  unfold State.deal
  split
  · refine h.dropMsg.next.ite (h.takeUp.next.ite ?_)
    split
    · next hd => exact (hf _ _ (.inl hd)).dropMsg.next
    · next hd => exact (hf _ _ (.inr hd)).takeUp.next
  · exact h.next

theorem Canonical.noteAway (h : Canonical s) {blk} : Canonical (s.noteAway blk) := by
  unfold State.noteAway
  split
  exacts [h.setMeta, h]

theorem Canonical.setHomeTokens (h : Canonical s) {blk serial n pole away} : Canonical (s.setHomeTokens blk serial n pole away) := by
  unfold State.setHomeTokens
  refine (h.sameHost.noteAway.ite (h.sameHost.iteThen (·.setMeta))).ite ?_
  split
  exacts [h.setMeta, h]

theorem Canonical.hostAsk (h : Canonical s) {line k} : Canonical (s.hostAsk line k) := h.ite h.sameHost
theorem Canonical.hostAnswer (h : Canonical s) {line d} : Canonical (s.hostAnswer line d) := h.sameHost
theorem Canonical.endSnoop (h : Canonical s) {line} : Canonical (s.endSnoop line) := h.sameHost
theorem Canonical.dropHold (h : Canonical s) {p blk} : Canonical (s.dropHold p blk) := h
theorem Canonical.putHold (h : Canonical s) {h'} : Canonical (s.putHold h') := h.dropHold.iteElse (·.same)

theorem Canonical.giveTokens (h : Canonical s) {p blk serial n pole dirty data valid asid slice} :
    Canonical (s.giveTokens p blk serial n pole dirty data valid asid slice) := by
  unfold State.giveTokens
  split
  exacts [h.putHold, h.putHold]

theorem Canonical.wakeSome (h : Canonical s) {p blk leased} : Canonical (s.wakeSome p blk leased) := h
theorem Canonical.wakeWaits (h : Canonical s) {p blk} : Canonical (s.wakeWaits p blk) := h.wakeSome
theorem Canonical.wakeDrain (h : Canonical s) {c blk} : Canonical (s.wakeDrain c blk) := h.wakeSome

theorem Canonical.loseCopy (h : Canonical s) {p blk} : Canonical (s.loseCopy p blk) := by
  unfold State.loseCopy
  split
  exacts [h.wakeWaits, h]

theorem Canonical.takeTokens (h : Canonical s) {h' n pole} : Canonical (s.takeTokens h' n pole) := h.putHold.loseCopy

theorem Canonical.spillDie (h : Canonical s) {d a} : Canonical (s.spillDie d a) := by
  unfold State.spillDie
  split
  exacts [h.writeBackDie.ite h, h]

theorem Canonical.spillCore (h : Canonical s) {c a} : Canonical (s.spillCore c a) := by
  unfold State.spillCore
  split
  exacts [h.writeBackCore.spillDie.ite h, h]

theorem Canonical.spill (h : Canonical s) {blk} : Canonical (s.spill blk) :=
  h.foldl fun _ _ h' => (h'.foldl fun _ _ h'' => h''.spillDie).foldl fun _ _ h'' => h''.spillCore

theorem Canonical.leave (h : Canonical s) {blk dst} : Canonical (s.leave blk dst) := h.ite (h.spill.dropPatches.ite h.spill)

theorem Canonical.sendTokens (h : Canonical s) {h' dst n pole withData tag} : Canonical (s.sendTokens h' dst n pole withData tag) :=
  ((h.leave.takeTokens.iteThen (·.same)).iteElse (·.noteAway)).sendHalves

theorem Canonical.evictTokens (h : Canonical s) {h'} : Canonical (s.evictTokens h') := (h.dropHold.iteThen (·.same)).send.loseCopy

theorem Canonical.homeReceive (h : Canonical s) {blk n pole dirty data} : Canonical (s.homeReceive blk n pole dirty data) := by
  unfold State.homeReceive
  refine Canonical.setHomeTokens ?_
  split
  exacts [h.setMemBlock _ _, h]

theorem Canonical.homeSend (h : Canonical s) {blk dst n pole withData tag} : Canonical (s.homeSend blk dst n pole withData tag) :=
  h.leave.setHomeTokens.sendHalves

theorem Canonical.modWant (h : Canonical s) {id f} : Canonical (s.modWant id f) := h
theorem Canonical.dropWant (h : Canonical s) {id} : Canonical (s.dropWant id) := h
theorem Canonical.notePredict (h : Canonical s) {d blk from_} : Canonical (s.notePredict d blk from_) := h.ite h.modDie
theorem Canonical.sendTry (h : Canonical s) {w} : Canonical (s.sendTry w) := (h.foldl fun _ _ h' => h'.sendHalves).modWant
theorem Canonical.sendPersist (h : Canonical s) {w} : Canonical (s.sendPersist w) := h.send.modWant

theorem Canonical.endWant (h : Canonical s) {w} : Canonical (s.endWant w) := by
  unfold State.endWant
  split
  exacts [h, h, h.send]

theorem Canonical.ask (h : Canonical s) {p agent blk kind publish asid halves} : Canonical (s.ask p agent blk kind publish asid halves) := by
  unfold State.ask
  split
  exacts [h.ite h.modWant.sendTry, h.same.fresh.sendTry]

theorem Canonical.askCore (h : Canonical s) {c blk kind asid halves} : Canonical (s.askCore c blk kind asid halves) := h.ask

theorem Canonical.notePeer (h : Canonical s) {c blk} : Canonical (s.notePeer c blk) := by
  refine h.sameLocals (List.ext_getElem (by simp [State.notePeer]) fun i _ _ => ?_) rfl rfl
  simp only [State.notePeer, List.getElem_map, List.getElem_mapIdx]
  split <;> rfl

theorem Canonical.finishWant (h : Canonical s) {p blk} : Canonical (s.finishWant p blk) := by
  unfold State.finishWant
  split
  exacts [h, h.ite h.dropWant.endWant]

theorem Canonical.gatherBlock (h : Canonical s) {blk write} : Found id (s.gatherBlock blk write) :=
  Found.ite .none (h.some.ite (h.ask.ite (h.foldl fun _ _ h' => h'.hostAsk)).some)

theorem Canonical.gatherAll (h : Canonical s) {blks write} : Found id (s.gatherAll blks write) :=
  Found.ite .none (h.foldl fun _ _ h' => h'.getD h'.gatherBlock).some

theorem Canonical.homeDone (h : Canonical s) {blks} : Canonical (s.homeDone blks) := h.foldl fun _ _ h' => h'.finishWant
theorem Canonical.sendEarly (h : Canonical s) {w e} : Canonical (s.sendEarly w e) := (h.same.ite h).sendHalves

theorem Canonical.withdraw (h : Canonical s) {w} : Canonical (s.withdraw w) := by
  unfold State.withdraw
  dsimp only
  split
  exacts [(h.dropWant.endWant.foldl fun _ _ h' => h'.sendEarly).evictTokens, h.dropWant.endWant.foldl fun _ _ h' => h'.sendEarly]

theorem Canonical.markBad (h : Canonical s) {id blks} : Canonical (s.markBad id blks) := h
theorem Canonical.idleEngines (h : Canonical s) : Canonical s.idleEngines := (h.foldl fun _ _ h' => h'.withdraw).same
theorem Canonical.countStale (h : Canonical s) {d} : Canonical (s.countStale d) := h.modDie

theorem Canonical.pulled (h : Canonical s) {entry block e h'} : Canonical (s.pulled entry block e h') :=
  (h.setMemBlock _ _).setMeta.same.evictTokens.finishWant

theorem Canonical.pull (h : Canonical s) {entry block} : Canonical (s.pull entry block) := by
  unfold State.pull
  split
  · exact h
  · refine h.ite ?_
    dsimp only
    split
    exacts [h.pulled.ite h.ask, h.ask]

theorem Canonical.pullAt (h : Canonical s) {pa} : Canonical (s.pullAt pa) := by
  unfold State.pullAt
  split
  exacts [h.pull, h]

/-! ### Machine/Registers -/

theorem Canonical.setErrq (h : Canonical s) {asid e} : Canonical (s.setErrq asid e) := h
theorem Canonical.setGo (h : Canonical s) {v} : Canonical (s.setGo v) := h
theorem Canonical.setAccept (h : Canonical s) {v} : Canonical (s.setAccept v) := h.ite (h.same.ite h.same.same)
theorem Canonical.setPagingRd (h : Canonical s) {rd} : Canonical (s.setPagingRd rd) := h
theorem Canonical.resumeTicket (h : Canonical s) {t} : Canonical (s.resumeTicket t) := h
theorem Canonical.clearUmiss (h : Canonical s) {c v} : Canonical (s.clearUmiss c v) := (h.modCoreBeside fun _ => by rfl).ite h
theorem Canonical.clearStale (h : Canonical s) {d v} : Canonical (s.clearStale d v) := h.modDie.ite h
theorem Canonical.clearMismatch (h : Canonical s) {p v} : Canonical (s.clearMismatch p v) := h.same.ite h
theorem Canonical.clearOvf (h : Canonical s) {q v} : Canonical (s.clearOvf q v) := h.same.ite h

theorem Canonical.reseed (h : Canonical s) {before c} : Canonical (s.reseed before c) :=
  ((h.modCoreBeside fun _ => by rfl).ite h).iteThen (·.modCoreBeside fun _ => by rfl)

theorem Canonical.setSeed (h : Canonical s) {c v} : Canonical (s.setSeed c v) := (h.modCoreBeside fun _ => by rfl).ite h
theorem Canonical.requestSave (h : Canonical s) {c v} : Canonical (s.requestSave c v) := (h.same.modCoreBeside fun _ => by rfl).ite h
theorem Canonical.requestRetrain (h : Canonical s) {d bits} : Canonical (s.requestRetrain d bits) := h.modDie
theorem Canonical.setFabric (h : Canonical s) {v} : Canonical (s.setFabric v) := h
theorem Canonical.setSched (h : Canonical s) {i v} : Canonical (s.setSched i v) := h
theorem Canonical.setLease (h : Canonical s) {a v} : Canonical (s.setLease a v) := h

theorem Canonical.regPut (h : Canonical s) {base k n v} : Canonical (s.regPut base k n v) :=
  h.setAccept.ite (h.same.ite (h.same.ite (h.setGo.ite (h.same.ite ((h.setPagingRd.ite h).ite ((h.resumeTicket.ite h).ite ((h.clearOvf.ite h).same.ite
    (h.same.ite (h.setFabric.ite (h.setLease.ite (h.same.ite (h.setSched.ite (h.clearMismatch.ite (h.same.ite (h.setErrq.ite (((((h.clearUmiss.ite
    h).iteThen (·.setSeed)).iteThen (·.requestSave)).iteThen (·.modCoreBeside fun _ => by rfl)).ite (((h.clearStale.ite h).iteThen
    (·.requestRetrain)).ite h)))))))))))))))))

theorem Canonical.regRuns {n off bs} (h : Canonical s) : Canonical (State.regRuns n s off bs) := by
  induction n generalizing s off bs with
  | zero => exact h
  | succ n ih =>
    refine h.ite ?_
    split
    exacts [ih h, ih h.regPut]

theorem Canonical.regWrite (h : Canonical s) {off bs} : Canonical (s.regWrite off bs) := h.regRuns

/-! ### Machine/Access -/

theorem Canonical.reqRelease (h : Canonical s) {c ord} : Canonical (s.reqRelease c ord) := by
  unfold State.reqRelease
  split
  exacts [h.releaseViews, h]

theorem Canonical.reqAcquire (h : Canonical s) {c ord} : Canonical (s.reqAcquire c ord) := by
  unfold State.reqAcquire
  split
  exacts [h.acquireViews, h]

theorem Canonical.noteSent (h : Canonical s) {c id} : Canonical (s.noteSent c id) := h.modCoreBeside fun _ => by rfl
theorem Canonical.sendLanes (h : Canonical s) {c r op tag ep} : Canonical (s.sendLanes c r op tag ep) := h.foldl fun _ _ h' => h'.send

theorem Canonical.sendRemote (h : Canonical s) {c r} : Canonical (s.sendRemote c r) := by
  unfold State.sendRemote
  split
  · exact h
  · extract_lets ep src dst noted flushed
    have hn : Canonical noted := Canonical.noteSent (h.modCoreBeside fun _ => by rfl)
    have hf : Canonical flushed := by
      simp only [flushed]
      split
      exacts [hn.reqRelease, hn.reqRelease, hn]
    split
    exacts [hn.sendLanes, hf.send]

theorem Canonical.fromIngress (h : Canonical s) {c r} : Found id (s.fromIngress c r) := (h.modCoreBeside fun _ => by rfl).some.ite Found.none
theorem Canonical.enqueue (h : Canonical s) {c r} : Canonical (s.enqueue c r) := (h.modCoreBeside fun _ => by rfl).fresh.iteThen (·.sendRemote)

theorem Canonical.addReqs (h : Canonical s) {t bundle epc inst kind ord groups} : Canonical (s.addReqs t bundle epc inst kind ord groups) := by
  unfold State.addReqs
  refine h.foldl fun _ _ h' => ?_
  split
  exacts [h', h'.enqueue]

theorem Canonical.releaseOf (h : Canonical s) {t sc} : Canonical (s.releaseOf t sc) := h.releaseViews
theorem Canonical.acquireOf (h : Canonical s) {t sc} : Canonical (s.acquireOf t sc) := h.acquireViews
theorem Canonical.noteSeen (h : Canonical s) {c x} : Canonical (s.noteSeen c x) := h.modCoreBeside fun _ => by rfl
theorem Canonical.startFetch (h : Canonical s) {t fib va n p epc bundle} : Canonical (s.startFetch t fib va n p epc bundle) := h.enqueue
theorem Canonical.useFetch (h : Canonical s) {c r} : Canonical (s.useFetch c r) := (h.modCoreBeside fun _ => by rfl).reqAcquire
theorem Canonical.abandon (h : Canonical s) {c p} : Canonical (s.abandon c p) := h.modCoreBeside fun _ => by rfl
theorem Canonical.startOwn (h : Canonical s) {c who va p} : Canonical (s.startOwn c who va p) := h.enqueue
theorem Canonical.dropOwn (h : Canonical s) {c who} : Canonical (s.dropOwn c who) := h.abandon
theorem Canonical.ownStore (h : Canonical s) {c who va p bs} : Canonical (s.ownStore c who va p bs) := h.abandon.enqueue
theorem Canonical.report (h : Canonical s) {r} : Canonical (s.report r) := (h.writePa _ _).setErrq.ite (h.setErrq.modTeam _ _)

theorem Canonical.reportFor (h : Canonical s) {team cause detail peer kind fib epc addr lanes} :
    Canonical (s.reportFor team cause detail peer kind fib epc addr lanes) := by
  unfold State.reportFor
  split
  exacts [h, (h.modTeam _ _).ite h.report]

theorem Canonical.reportPost (h : Canonical s) {p cause detail} : Canonical (s.reportPost p cause detail) := h.ite (h.modLaunch.ite h.reportFor)
theorem Canonical.sendPost (h : Canonical s) {p body} : Canonical (s.sendPost p body) := h.reportPost.ite h.same.send

/-! ### Machine/Memory -/

theorem Canonical.globalEffect (h : Canonical s) {t act x} : Canonical (s.globalEffect t act x) :=
  h.stall.ite (h.stall.ite h.fresh.addReqs.writeFibres)

theorem globalOp_preserves {x isLoad} : Preserves (globalOp x isLoad) := by
  unfold globalOp
  exact issue_preserves fun _ h _ _ => h.globalEffect

theorem loadOp_preserves {g size signed ord r i m dst} : Preserves (loadOp g size signed ord r i m dst) := fun _ h => globalOp_preserves h
theorem storeOp_preserves {g size ord r i m src} : Preserves (storeOp g size ord r i m src) := fun _ h => globalOp_preserves h
theorem atomOp_preserves {g op r i d} : Preserves (atomOp g op r i d) := fun _ h => globalOp_preserves h
theorem atomOrdOp_preserves {g op os a d} : Preserves (atomOrdOp g op os a d) := fun _ h => globalOp_preserves h

theorem redOp_preserves {g op r i d} : Preserves (redOp g op r i d) := by
  unfold redOp
  exact issue_preserves fun _ h _ _ => h.globalEffect

theorem Canonical.lend (h : Canonical s) {c blk asid} : Canonical (s.lend c blk asid) := by
  unfold State.lend
  split
  exacts [h, h.ite h.putHold.notePeer]

theorem execStf_preserves {g b a d} : Preserves (execStf g b a d) := by
  unfold execStf
  exact issue_preserves fun _ h _ _ => h.stall.ite h.fresh.addReqs.writeFibres

/-! ### Machine/Lane -/

theorem laneOp_preserves {g len uses f} : Preserves (laneOp g len uses f) := by
  unfold laneOp
  exact issue_preserves fun _ h _ _ => h.writeFibres

theorem op3_preserves {g len a b d f} : Preserves (op3 g len a b d f) := fun _ h => laneOp_preserves h
theorem op2_preserves {g len a d f} : Preserves (op2 g len a d f) := fun _ h => laneOp_preserves h
theorem op1_preserves {g len d f} : Preserves (op1 g len d f) := fun _ h => laneOp_preserves h
theorem cmp2_preserves {g a b p f} : Preserves (cmp2 g a b p f) := fun _ h => laneOp_preserves h
theorem cmp1_preserves {g a p f} : Preserves (cmp1 g a p f) := fun _ h => laneOp_preserves h
theorem pred2_preserves {g a b d f} : Preserves (pred2 g a b d f) := fun _ h => laneOp_preserves h

theorem execMovKconst_preserves {g k d} : Preserves (execMovKconst g k d) := by
  unfold execMovKconst
  exact issue_preserves fun _ h _ _ => h.writeFibres

theorem slotOp_preserves {g n uses ok draws f} : Preserves (slotOp g n uses ok draws f) := by
  intro s h
  unfold slotOp
  refine issue_preserves (fun _ h' _ _ => ?_) h
  split
  exacts [h'.advance, h'.writeFibres.iteElse (·.modCoreBeside fun _ => by rfl)]

theorem execRgen_preserves {g d} : Preserves (execRgen g d) := by
  unfold execRgen
  exact issue_preserves fun _ h _ _ => h.writeFibres

theorem execRwin_preserves {g d} : Preserves (execRwin g d) := by
  unfold execRwin
  exact issue_preserves fun _ h _ _ => h.writeFibres

/-! ### Machine/Frames -/

theorem Canonical.gatherOwn (h : Canonical s) {c who asid ranges} : Found id (s.gatherOwn c who asid ranges) :=
  h.some.ite (Found.ite .none (((h.getD h.gatherAll).foldl fun _ _ h' => h'.pullAt).foldl fun _ _ h' => h'.ite h'.startOwn).some)

theorem Canonical.vaWrite {n c who asid priv va bs} (h : Canonical s) : Succeeds (s.vaWrite c who asid priv n va bs) := by
  induction n generalizing s va bs with
  | zero => exact h.ok
  | succ n ih =>
    refine h.ok.ite ?_
    split
    · exact .error
    · exact .ite (.ite (ih h.ownStore) .error) (.ite .error (.ite (ih h.ownStore) (ih (h.writePa _ _))))

theorem Canonical.writeVa (h : Canonical s) {c who asid va bs} : Succeeds (s.writeVa c who asid va bs) := h.vaWrite

theorem Canonical.writeParts {c who asid va l} (h : Canonical s) : Succeeds (s.writeParts c who asid va l) := by
  induction l generalizing s with
  | nil => exact h.ok
  | cons p ps ih =>
    unfold State.writeParts
    split
    exacts [.error, ih (h.writeVa _ ‹_›)]

theorem Canonical.writeFrame (h : Canonical s) {t points} : Succeeds (s.writeFrame t points) := h.writeParts

theorem Canonical.writeFrameLocal (h : Canonical s) {t} : Succeeds (s.writeFrameLocal t) := by
  unfold State.writeFrameLocal
  split
  exacts [h.writeVa, h.ok]

theorem Canonical.progressBack (h : Canonical s) {t} : Canonical (s.progressBack t) := by
  unfold State.progressBack
  split
  exacts [h, h.modCoreBeside fun _ => by rfl]

theorem Canonical.gatherFrame (h : Canonical s) {t} : Found id (s.gatherFrame t) := h.gatherOwn

/-! ### Machine/Resources -/

theorem Canonical.setFree (h : Canonical s) {c lane bs} : Canonical (s.setFree c lane bs) := h.modCoreBeside fun _ => by rfl
theorem Canonical.addFree (h : Canonical s) {c lane bs} : Canonical (s.addFree c lane bs) := h.ite h.setFree
theorem Canonical.markRetiring (h : Canonical s) {l result} : Canonical (s.markRetiring l result) := h.modLaunch

theorem Canonical.unpublish (h : Canonical s) {c slot} : Canonical (s.unpublish c slot) := by
  unfold State.unpublish
  split
  exacts [h, (h.foldl fun _ _ h' => h'.send).modCoreBeside fun _ => by rfl]

theorem Canonical.writeLeft (h : Canonical s) {c u'} : Canonical (s.writeLeft c u') := by
  unfold State.writeLeft
  dsimp only
  split
  exacts [(h.modCoreBeside fun _ => by rfl).evictTokens, h.modCoreBeside fun _ => by rfl]

theorem Canonical.unpublishAll (h : Canonical s) {t} : Canonical (s.unpublishAll t) := h.foldl fun _ _ h' => h'.unpublish
theorem Canonical.postCompletion (h : Canonical s) {p va who bs} : Canonical (s.postCompletion p va who bs) := h.fresh.sendPost

theorem Canonical.complete (h : Canonical s) {c r result launch who} : Canonical (s.complete c r result launch who).1 := by
  unfold State.complete
  split
  · exact h
  · split
    · exact h
    · dsimp only
      split
      · exact h
      · split
        · exact h.postCompletion
        · split
          exacts [(h.vaWrite _ ‹_›), h]

theorem Canonical.dropArms (h : Canonical s) {c p} : Canonical (s.dropArms c p) :=
  (h.modCoreBeside fun _ => by rfl).foldl fun _ _ h' => h'.fresh.complete

theorem Canonical.putBack (h : Canonical s) {c byFibre byLane} : Canonical (s.putBack c byFibre byLane) :=
  (h.foldl fun _ _ h' => h'.addFree).foldl fun _ _ h' => h'.addFree

theorem Canonical.freeRegisters (h : Canonical s) {t} : Canonical (s.freeRegisters t) := h.ite (h.putBack.foldl fun _ _ h' => h'.addFree)
theorem Canonical.dropLoads (h : Canonical s) {t} : Canonical (s.dropLoads t) := h.abandon
theorem Canonical.dropGrants (h : Canonical s) {t} : Canonical (s.dropGrants t) := h.modCoreBeside fun _ => by rfl
theorem Canonical.clearSaveReq (h : Canonical s) {c} : Canonical (s.clearSaveReq c) := h.ite (h.modCoreBeside fun _ => by rfl)
theorem Canonical.noteGone (h : Canonical s) {ts} : Canonical (s.noteGone ts) := h

theorem Canonical.removeTeam (h : Canonical s) {t} : Canonical (s.removeTeam t) :=
  ((h.noteGone.foldl fun _ _ h' => h'.dropLoads.dropGrants).unpublishAll.dropArms.freeRegisters.modCoreBeside
    fun _ => by rfl).same.modLaunch.idleEngines.clearSaveReq.reseed

theorem Canonical.failLaunch {n l result} (h : Canonical s) : Canonical (State.failLaunch n s l result) := by
  induction n generalizing s l result with
  | zero => exact h
  | succ n ih => exact ((h.foldl fun _ _ h' => h'.removeTeam).dropOwn.markRetiring).foldl fun _ _ h' => ih h'

theorem Canonical.fail (h : Canonical s) {l result} : Canonical (s.fail l result) := h.failLaunch

theorem Canonical.claim (h : Canonical s) {team blk fib first} : Canonical (s.claim team blk fib first) := by
  unfold State.claim
  split
  · exact h
  · dsimp only
    split
    exacts [((h.modTeam _ _).writeVa _ ‹_›), (h.modTeam _ _).fail]

theorem Canonical.takeLingering (h : Canonical s) {c lane} : Found Prod.snd (s.takeLingering c lane) := by
  unfold State.takeLingering
  split
  exacts [.some h.setFree, .some h.claim, .none]

theorem Canonical.takeEach {n c lane} (h : Canonical s) : Canonical (State.takeEach n s c lane).2 := by
  induction n generalizing s with
  | zero => exact h
  | succ n ih =>
    unfold State.takeEach
    split
    exacts [ih (h.takeLingering _ ‹_›), h]

theorem Canonical.takeBlocks (h : Canonical s) {c lane need} : Found Prod.snd (s.takeBlocks c lane need) :=
  .ite (.some h.setFree) (.ite (.some h.setFree.takeEach) .none)

theorem Canonical.takeFor (h : Canonical s) {team c lane need} : Found Prod.snd (s.takeFor team c lane need) :=
  h.takeBlocks.map fun p hp => by split; exacts [hp, hp.addFree]

theorem Canonical.takeReserve (h : Canonical s) {t lane need} : Canonical (s.takeReserve t lane need).2 := h.modTeam _ _
theorem Canonical.giveBack (h : Canonical s) {t lane bs} : Canonical (s.giveBack t lane bs) := h.ite ((h.modTeam _ _).ite h.addFree)

theorem Canonical.claimLocal (h : Canonical s) {t} : Canonical (s.claimLocal t) := by
  unfold State.claimLocal
  split
  · exact h
  · dsimp only
    split
    exacts [(((h.unpublishAll.modTeam _ _).foldl fun _ _ h' => h'.writeLeft).writeVa _ ‹_›).modTeam _ _,
      ((h.unpublishAll.modTeam _ _).foldl fun _ _ h' => h'.writeLeft).fail]

theorem Canonical.claimRange (h : Canonical s) {c b size} : Canonical (s.claimRange c b size) := h.foldl fun _ _ h' => h'.claimLocal

theorem Canonical.clearLocal (h : Canonical s) {c b size} : Canonical (s.clearLocal c b size) :=
  h.modCore _ _ fun _ hk => Mem.wf_filter _ hk

/-! ### Machine/Control -/

theorem Canonical.countMiss (h : Canonical s) {c uni nexts} : Canonical (s.countMiss c uni nexts) := (h.modCoreBeside fun _ => by rfl).ite h
theorem Canonical.jump (h : Canonical s) {t uni next} : Canonical (s.jump t uni next) := h.countMiss.split
theorem Canonical.regroup (h : Canonical s) {t act uni next} : Canonical (s.regroup t act uni next) := h.jump.modTeam _ _

theorem execBr_preserves {g off uni} : Preserves (execBr g off uni) := by
  unfold execBr
  exact issue_preserves fun _ h _ _ => h.jump

theorem execBrRgp_preserves {g off uni} : Preserves (execBrRgp g off uni) := by
  unfold execBrRgp
  exact issue_preserves fun _ h _ _ => h.regroup

theorem execBrx_preserves {g uni a} : Preserves (execBrx g uni a) := by
  unfold execBrx
  exact issue_preserves fun _ h _ _ => h.jump

theorem execBrxRgp_preserves {g uni a} : Preserves (execBrxRgp g uni a) := by
  unfold execBrxRgp
  exact issue_preserves fun _ h _ _ => h.regroup

theorem Canonical.callEffect (h : Canonical s) {t act uni next} : Canonical (s.callEffect t act uni next) :=
  h.stall.ite (h.fresh.addReqs.jump.modTeam _ _)

theorem execCall_preserves {g off uni} : Preserves (execCall g off uni) := by
  unfold execCall
  exact issue_preserves fun _ h _ _ => h.callEffect

theorem execCallx_preserves {g uni a} : Preserves (execCallx g uni a) := by
  unfold execCallx
  exact issue_preserves fun _ h _ _ => h.callEffect

theorem Canonical.startLinks (h : Canonical s) {t act} : Canonical (s.startLinks t act) := by
  unfold State.startLinks
  refine h.foldl fun _ _ h' => h'.ite ?_
  split
  · split
    exacts [h'.ite h'.startFetch, h']
  · exact h'

theorem Canonical.endLinks (h : Canonical s) {t act} : Canonical (s.endLinks t act) := h.modCoreBeside fun _ => by rfl

theorem execRet_preserves {g uni} : Preserves (execRet g uni) := by
  unfold execRet
  exact issue_preserves fun _ h _ _ => h.startLinks.stall.ite ((h.endLinks.jump.modTeam _ _).ite h.endLinks.raise)

theorem Canonical.releaseHomes (h : Canonical s) {team} : Canonical (s.releaseHomes team) := by
  unfold State.releaseHomes
  split
  · exact h
  · refine h.foldl fun _ _ h' => ?_
    split
    exacts [h'.releaseWhole, h']

theorem Canonical.releaseBar (h : Canonical s) {team} : Canonical (s.releaseBar team) := by
  unfold State.releaseBar
  split
  exacts [h, h.release.ite h]

theorem Canonical.settle (h : Canonical s) {team} : Canonical (s.settle team) := h.releaseHomes.releaseBar

theorem execHome_preserves {g} : Preserves (execHome g) := by
  unfold execHome
  exact issue_preserves fun _ h _ _ => h.blockSome.settle

theorem execNop_preserves {g} : Preserves (execNop g) := by
  unfold execNop
  exact issue_preserves fun _ h _ _ => h.advance

theorem Canonical.makeChild (h : Canonical s) {team parent c pc blocks} : Canonical (s.makeChild team parent c pc blocks) := h.modTeam _ _

theorem Canonical.grantNow (h : Canonical s) {t fib lane need} : Found Prod.snd (s.grantNow t fib lane need) :=
  .ite (.some h) (.ite (.some h.takeReserve) (.ite h.takeFor .none))

theorem Canonical.queueGrant (h : Canonical s) {c lane r} : Canonical (s.queueGrant c lane r) := h.modCoreBeside fun _ => by rfl

theorem Canonical.forkAll {t off l slots blocked} (h : Canonical s) : Canonical (s.forkAll t off l slots blocked).1 := by
  induction l generalizing s slots blocked with
  | nil => exact h
  | cons f fs ih =>
    have ho : Found Prod.snd (if blocked then none else s.grantNow t f (laneOf (slots.headD 0)) t.kernel.winInit) := .ite .none h.grantNow
    unfold State.forkAll
    dsimp only
    split
    · next hg => exact ih (ho _ hg).makeChild
    · exact ih h.queueGrant

theorem execFork_preserves {g off} : Preserves (execFork g off) := by
  unfold execFork
  exact issue_preserves fun _ h _ _ => h.stall.ite h.forkAll.blockSome

theorem Canonical.endFibres (h : Canonical s) {t act c} : Canonical (s.endFibres t act c) :=
  ((h.foldl fun _ _ h' => h'.giveBack).modTeam _ _).issued.settle

theorem execExit_preserves {g} : Preserves (execExit g) := by
  unfold execExit
  exact issue_preserves fun _ h _ _ => h.endFibres

theorem execFend_preserves {g} : Preserves (execFend g) := by
  unfold execFend
  exact issue_preserves fun _ h _ _ => h.endFibres

theorem execTrap_preserves {g code} : Preserves (execTrap g code) := by
  unfold execTrap
  exact issue_preserves fun _ h _ _ => h.advance

theorem execBrk_preserves {g} : Preserves (execBrk g) := by
  unfold execBrk
  exact issue_preserves fun _ h _ _ => h.advance

theorem Canonical.growAll {t need l} (h : Canonical s) : Canonical (s.growAll t need l).1 := by
  induction l generalizing s with
  | nil => exact h
  | cons f fs ih =>
    unfold State.growAll
    split
    exacts [ih ((h.grantNow _ ‹_›).modTeam _ _), ih h.queueGrant]

theorem execRgrow_preserves {g n} : Preserves (execRgrow g n) := by
  unfold execRgrow
  exact issue_preserves fun _ h _ _ => h.growAll.blockSome

theorem execRshrink_preserves {g n} : Preserves (execRshrink g n) := by
  unfold execRshrink
  exact issue_preserves fun _ h _ _ => h.stall.ite (h.foldl fun _ _ h' => h'.giveBack).writeFibres

theorem Canonical.grantHead (h : Canonical s) {c lane} : Found (fun p => p.2.2) (s.grantHead c lane) := by
  unfold State.grantHead
  split
  · exact .none
  · split
    exacts [.none, .ite .none (h.takeFor.map fun _ hp => hp)]

theorem execGrantRequestGranted_preserves {core lane} : Preserves (execGrantRequestGranted core lane) := by
  intro s h
  unfold execGrantRequestGranted
  split
  · exact h.next
  · next s' hg =>
    have h' : Canonical s' := h.grantHead _ hg
    refine h'.next.ite ?_
    dsimp only
    split
    · exact ((h'.modCoreBeside fun _ => by rfl).modTeam _ _).release.next
    · split
      · exact (h'.modCoreBeside fun _ => by rfl).next
      · split
        exacts [(h'.modCoreBeside fun _ => by rfl).makeChild.release.next, (h'.modCoreBeside fun _ => by rfl).next]

/-! ### Machine/Launches -/

theorem Canonical.modQueue (h : Canonical s) {q f} : Canonical (s.modQueue q f) := h
theorem Canonical.writeStatus (h : Canonical s) {l state result dfail} : Canonical (s.writeStatus l state result dfail) := h.writePa _ _
theorem Canonical.gatherClass (h : Canonical s) {who r} : Found id (s.gatherClass who r) := h.gatherOwn

theorem Canonical.accept (h : Canonical s) {who q r depth parent acq} : Canonical (s.accept who q r depth parent acq) :=
  (h.same.fresh.dropOwn.writePa _ _).writeStatus.modQueue

theorem Canonical.countOvf (h : Canonical s) {q} : Canonical (s.countOvf q) := h.modQueue

theorem Canonical.tellOffer (h : Canonical s) {o st} : Canonical (s.tellOffer o st) := by
  unfold State.tellOffer
  split
  exacts [h.sendHalves, h]

theorem Canonical.enter (h : Canonical s) {o} : Canonical (s.enter o) := h.countOvf.tellOffer.ite (h.countOvf.tellOffer.ite h.accept.tellOffer)
theorem Canonical.offer (h : Canonical s) {q r answer} : Canonical (s.offer q r answer) := h.fresh.enter.ite h.fresh.same

theorem Canonical.pursue (h : Canonical s) {id} : Canonical (s.pursue id) := by
  unfold State.pursue
  split
  · exact h
  · split
    exacts [(h.gatherClass _ ‹_›), h.same.enter]

/-! ### Machine/System -/

theorem Canonical.setObject (h : Canonical s) {t a v} : Canonical (s.setObject t a v) := h.writeLocal _ _ _

theorem Canonical.launchOutcome (h : Canonical s) {t c r} : Canonical (s.launchOutcome t c r).s := by
  unfold State.launchOutcome
  dsimp only
  split
  · split
    · exact h
    · split
      exacts [h, (h.modCoreBeside fun _ => by rfl).setObject]
  · split
    · exact h
    · split
      exacts [h, h.accept]

theorem execLaunch_preserves {g d} : Preserves (execLaunch g d) := by
  intro s h
  unfold execLaunch
  refine issue_preserves (fun s h t _ => h.advance.ite ?_) h
  dsimp only
  split
  · split
    · refine h.stall.ite ?_
      split
      · exact ((Found.ite .none h.gatherClass : Found id _) _ ‹_›).stall
      · exact h.useFetch.releaseOf.launchOutcome.writeFibres
    · exact h.stall.ite h.startFetch.stall
    · exact h.stall
  · exact h.stall

theorem execWchild_preserves {g k} : Preserves (execWchild g k) := by
  unfold execWchild
  exact issue_preserves fun _ h _ _ => h.advance.ite (h.acquireOf.advance.ite h.blockSome)

theorem execSrd_preserves {g sr d} : Preserves (execSrd g sr d) := by
  unfold execSrd
  exact issue_preserves fun _ h _ _ => h.writeFibres

theorem Canonical.setSpecial (h : Canonical s) {t r w} : Canonical (s.setSpecial t r w) := by
  unfold State.setSpecial
  split
  · exact h.modCoreBeside fun _ => by rfl
  · split
    · exact h
    · dsimp only
      split
      exacts [((h.modTeam _ _).writeVa _ ‹_›), (h.modTeam _ _).fail]

theorem execSwr_preserves {g sr d} : Preserves (execSwr g sr d) := by
  intro s h
  unfold execSwr
  exact issue_preserves (fun _ h _ _ => (h.foldl fun _ _ h' => h'.setSpecial).advance) h

theorem Canonical.popError (h : Canonical s) {asid} : Canonical (s.popError asid).2 := by
  unfold State.popError
  dsimp only
  split
  · exact h
  · exact (h.writePa _ _).setErrq

theorem execErrq_preserves {g d} : Preserves (execErrq g d) := by
  unfold execErrq
  exact issue_preserves fun _ h _ _ => h.advance.ite h.popError.acquireOf.writeFibres

theorem Canonical.writeBackAll (h : Canonical s) : Canonical s.writeBackAll :=
  (h.foldl fun _ _ h' => h'.foldl fun _ _ h'' => h''.writeBackCore).foldl fun _ _ h' => h'.foldl fun _ _ h'' => h''.writeBackDie

theorem execAsgen_preserves {g d} : Preserves (execAsgen g d) := by
  intro s h
  unfold execAsgen
  refine issue_preserves (fun _ h' _ _ => h'.advance.ite ?_) h
  dsimp only
  split
  exacts [h'.stall.ite h'.writeBackAll.same.advance, h'.stall.ite (h'.same.fresh.same.stall.ite h'.same.fresh.writeBackAll.advance)]

theorem Canonical.flushSpace (h : Canonical s) {a} : Canonical (s.flushSpace a) :=
  (h.writeBackAll.foldl fun _ _ h' => h'.evictTokens).mapCores rfl (fun _ => rfl) rfl rfl

theorem execSflush_preserves {g d} : Preserves (execSflush g d) := by
  intro s h
  unfold execSflush
  exact issue_preserves (fun _ h _ _ => h.advance.ite (h.stall.ite h.flushSpace.advance)) h

theorem Canonical.setMoving (h : Canonical s) {t b} : Canonical (s.setMoving t b) := h.modCoreBeside fun _ => by rfl

theorem Canonical.awaken (h : Canonical s) {team} : Canonical (s.awaken team) := by
  unfold State.awaken
  dsimp only
  split
  · exact h.same
  · refine h.same.foldl fun _ _ h' => ?_
    split
    exacts [(h'.modTeam _ _).send, h']

theorem Canonical.resumeTeam (h : Canonical s) {y} : Canonical (s.resumeTeam y) := h.same.acquireViews.awaken.settle
theorem Canonical.shrinkAll (h : Canonical s) {x y} : Canonical (s.shrinkAll x y) := h.foldl fun _ _ h' => h'.giveBack

theorem Canonical.growWindows {x y l} (h : Canonical s) : Found Prod.snd (s.growWindows x y l) := by
  induction l generalizing s with
  | nil => exact .some h
  | cons i is ih =>
    let lack := (y.fibre i).blockCount - ((x.fibre i).blocks.take (y.fibre i).blockCount).length
    have ho : Found Prod.snd (if x.cls = 0 then (s.team? x.id).map fun t => s.takeReserve t (laneOf i) lack
        else s.takeFor x.id x.core (laneOf i) lack) := by
      refine .ite ?_ h.takeFor
      cases s.team? x.id with
      | none => exact .none
      | some t => exact .some h.takeReserve
    unfold State.growWindows
    dsimp only
    split
    · exact .none
    · next hg => exact (ih (ho _ hg)).map fun _ hp => hp

theorem Canonical.resumeTrapped (h : Canonical s) {x} : Canonical (s.resumeTrapped x) := by
  unfold State.resumeTrapped
  refine h.fail.ite ?_
  split
  · extract_lets written filled ready
    have hw : Canonical filled := by
      simp only [filled]
      split
      exacts [(h.foldl fun _ _ h' => h'.writeLeft).writeLocal _ _ _, h.foldl fun _ _ h' => h'.writeLeft]
    have hr : Canonical ready := hw.setMoving.progressBack.dropOwn.shrinkAll
    split
    · next hg => exact (hr.growWindows _ hg).resumeTeam
    · exact (hr.freeRegisters.modTeam _ _).reseed
  · exact h.fail

theorem execTret_preserves {g} : Preserves (execTret g) := by
  intro s h
  unfold execTret
  refine issue_preserves (fun s h t _ => h.advance.ite (h.stall.ite ?_)) h
  split
  · next u hu =>
    obtain ⟨x, -, hx⟩ := Option.bind_eq_some_iff.1 hu
    exact (h.gatherFrame _ hx).stall
  · dsimp only
    split
    exacts [(h.releaseOf.issued.same.modCoreBeside fun _ => by rfl).resumeTrapped, (h.releaseOf.issued.same.modCoreBeside fun _ => by rfl)]

theorem execHalt_preserves {g} : Preserves (execHalt g) := by
  intro s h
  unfold execHalt
  exact issue_preserves (fun _ h _ _ => h.advance.ite h.issued.fail.reseed) h

/-! ### Machine/Order -/

theorem Canonical.spreadSeen (h : Canonical s) {t act sc} : Canonical (s.spreadSeen t act sc) := by
  unfold State.spreadSeen
  refine ((h.foldl fun _ _ h' => ?_).ite h).iteThen (·.foldl fun _ _ h' => ?_)
  · split
    exacts [h'.writeBackCore.ite h', h']
  · split
    exacts [h'.writeBackDie.ite h', h']

theorem execFence_preserves {g os} : Preserves (execFence g os) := by
  intro s h
  unfold execFence
  refine issue_preserves (fun _ h' _ _ => h'.advance.ite (h'.stall.ite (Canonical.advance ?_))) h
  split
  · refine (Canonical.spreadSeen ?_).acquireOf
    split
    exacts [h'.releaseOf, h']
  · split
    exacts [h'.releaseOf, h']

theorem execLtime_preserves {g d} : Preserves (execLtime g d) := by
  unfold execLtime
  exact issue_preserves fun _ h _ _ => h.stall.ite h.writeFibres

theorem Canonical.startWait (h : Canonical s) {team fib} : Canonical (s.startWait team fib) := by
  unfold State.startWait
  split
  · exact h
  · split
    · split
      exacts [(((h.modCoreBeside fun _ => by rfl).ite h).iteElse (·.startFetch)).modTeam _ _, (h.modTeam _ _).raise]
    · exact h

theorem execWait_preserves {g c k a d} : Preserves (execWait g c k a d) := by
  intro s h
  unfold execWait
  refine issue_preserves (fun _ h' _ _ => h'.stall.ite ((h'.blockSome.foldl fun _ _ h'' => ?_).iteThen (·.acquireOf))) h
  split
  exacts [h''.startWait.ite h'', h''.send, h'']

theorem Canonical.endWait (h : Canonical s) {t fib} : Canonical (s.endWait t fib) := h.acquireOf.release

theorem execWaitReload_preserves {team fib} : Preserves (execWaitReload team fib) := by
  intro s h
  unfold execWaitReload
  split
  · exact h.next
  · split
    · refine h.next.ite ?_
      split
      exacts [h.next.ite (h.useFetch.endWait.next.ite (h.useFetch.modTeam _ _).next), h.startWait.next.ite h.next]
    · exact h.next

theorem execPartyQuery_preserves {id} : Preserves (execPartyQuery id) := by
  intro s h
  unfold execPartyQuery
  refine h.onMsg fun _ _ h' => ?_
  split
  exacts [h'.send, h']

theorem Canonical.endQuery (h : Canonical s) {team fib c} : Canonical (s.endQuery team fib c) := by
  unfold State.endQuery
  split
  · exact h
  · split
    · dsimp only
      split
      · exact (h.modTeam _ _).raise
      · split
        exacts [(h.modTeam _ _).startWait, h.endWait.ite (h.modTeam _ _)]
    · exact h

theorem execPartyQueryAnswer_preserves {id} : Preserves (execPartyQueryAnswer id) := by
  intro s h
  unfold execPartyQueryAnswer
  refine h.onMsg fun _ _ h' => ?_
  split
  exacts [h'.endQuery, h']

theorem execPartyQueryTimeout_preserves {team fib} : Preserves (execPartyQueryTimeout team fib) := by
  intro s h
  unfold execPartyQueryTimeout
  split
  exacts [h.endQuery.next.ite h.next, h.next]

theorem Canonical.returnTokens (h : Canonical s) {c bs} : Canonical (s.returnTokens c bs) := by
  unfold State.returnTokens
  refine h.foldl fun _ _ h' => ?_
  dsimp only
  split
  · refine Canonical.evictTokens ?_
    split
    exacts [h'.withdraw, h']
  · split
    exacts [h'.withdraw, h']

theorem Canonical.openWindow (h : Canonical s) {t d e va pages} : Canonical (s.openWindow t d e va pages) := by
  refine (h.foldl fun _ _ h' => ?_).modCoreBeside fun _ => by rfl
  dsimp only
  split
  exacts [(h'.writeLocal _ _ _).finishWant, h']

theorem execLpub_preserves {g a d} : Preserves (execLpub g a d) := by
  intro s h
  unfold execLpub
  refine issue_preserves (fun _ h' _ _ => h'.advance.ite (Canonical.ite ?_ ?_)) h
  · split
    exacts [h'.unpublish.advance, h'.advance]
  · split
    exacts [h'.returnTokens.raise.ite ((h'.foldl fun _ _ h'' => h''.pullAt).stallBegun.ite ((h'.foldl fun _ _ h'' => h''.writeLeft).stallBegun.ite
        (h'.openWindow.advance.ite (h'.foldl fun _ _ h'' => h''.ask).stallBegun))),
      h'.advance]

/-! ### Machine/Local -/

theorem Canonical.setLocal (h : Canonical s) {t a w} : Canonical (s.setLocal t a w) := h.writeLocal _ _ _

theorem execLld_preserves {g imm a d} : Preserves (execLld g imm a d) := by
  unfold execLld
  exact issue_preserves fun _ h _ _ => h.stall.ite h.writeFibres

theorem execLst_preserves {g imm a d} : Preserves (execLst g imm a d) := by
  unfold execLst
  exact issue_preserves fun _ h _ _ => h.stall.ite (h.foldl fun _ _ h' => h'.setLocal).advance

theorem Canonical.latomAll {t op a d l} (h : Canonical s) : Canonical (s.latomAll t op a d l).1 := by
  induction l generalizing s with
  | nil => exact h
  | cons i is ih => exact ih h.setLocal

theorem latom_preserves {g op a d} : Preserves (latom g op a d) := by
  unfold latom
  exact issue_preserves fun _ h _ _ => h.stall.ite h.latomAll.writeFibres

theorem Canonical.raiseLt (h : Canonical s) {c w} : Canonical (s.raiseLt c w) := by
  unfold State.raiseLt
  split
  exacts [h.modCoreBeside fun _ => by rfl, h]

theorem Canonical.noteTime (h : Canonical s) {team obj w} : Canonical (s.noteTime team obj w) := by
  unfold State.noteTime
  split
  exacts [h, h.modTeam _ _]

theorem Canonical.turnTime (h : Canonical s) {team obj} : Canonical (s.turnTime team obj) := h.modTeam _ _
theorem Canonical.acquireObject (h : Canonical s) {t obj} : Canonical (s.acquireObject t obj) := h.acquireOf.raiseLt

theorem Canonical.wakeObject (h : Canonical s) {team obj} : Canonical (s.wakeObject team obj) := by
  unfold State.wakeObject
  split
  exacts [h, h.ite h.acquireObject.release]

theorem Canonical.fireArm (h : Canonical s) {t obj} : Canonical (s.fireArm t obj) := h.modCoreBeside fun _ => by rfl

theorem Canonical.arrive (h : Canonical s) {team obj n scope} : Canonical (s.arrive team obj n scope) := by
  unfold State.arrive
  refine h.ite ?_
  split
  exacts [h, h.progress.setObject.ite (h.progress.setObject.turnTime.iteThen (·.fireArm)).wakeObject]

theorem Canonical.arriveAfter (h : Canonical s) {team obj w posts} : Canonical (s.arriveAfter team obj w posts) := h.noteTime.arrive.ite h.same
theorem Canonical.settleArrivals (h : Canonical s) {post} : Canonical (s.settleArrivals post) := h.same.foldl fun _ _ h' => h'.arriveAfter

theorem execBar_preserves {g k} : Preserves (execBar g k) := by
  unfold execBar
  exact issue_preserves fun _ h _ _ => h.stall.ite h.blockSome.settle

theorem Canonical.boinitLane (h : Canonical s) {t obj o} : Canonical (s.boinitLane t obj o) := (h.dropArms.setObject.modTeam _ _).wakeObject

theorem execBoinit_preserves {g b a} : Preserves (execBoinit g b a) := by
  unfold execBoinit
  exact issue_preserves fun _ h _ _ => h.stall.ite (h.foldl fun _ _ h' => h'.boinitLane).advance

theorem execBoarr_preserves {g b a} : Preserves (execBoarr g b a) := by
  unfold execBoarr
  exact issue_preserves fun _ h _ _ => h.stall.ite (h.foldl fun _ _ h' => h'.arrive).advance

theorem execBowait_preserves {g k a d} : Preserves (execBowait g k a d) := by
  unfold execBowait
  exact issue_preserves fun _ h _ _ => h.stall.ite (h.foldl fun _ _ h' => h'.acquireObject).blockSome

theorem execBotest_preserves {g a p} : Preserves (execBotest g a p) := by
  unfold execBotest
  exact issue_preserves fun _ h _ _ => h.stall.ite (h.foldl fun _ _ h' => h'.acquireObject).writeFibres

theorem Canonical.setHandle (h : Canonical s) {t h' x} : Canonical (s.setHandle t h' x) := h.modTeam _ _

theorem Canonical.wakeHandle (h : Canonical s) {team h'} : Canonical (s.wakeHandle team h') := by
  unfold State.wakeHandle
  split
  exacts [h, h.ite h.release]

theorem Canonical.moveHandle (h : Canonical s) {t h' f} : Canonical (s.moveHandle t h' f) := (h.modTeam _ _).wakeHandle

theorem execHalloc_preserves {g a h} : Preserves (execHalloc g a h) := by
  unfold execHalloc
  exact issue_preserves fun _ h _ _ => h.advance.ite h.moveHandle.advance

theorem execHfree_preserves {g h} : Preserves (execHfree g h) := by
  unfold execHfree
  exact issue_preserves fun _ h _ _ => h.advance.ite (h.stall.ite h.setHandle.advance)

theorem execHbind_preserves {g n a h} : Preserves (execHbind g n a h) := by
  unfold execHbind
  exact issue_preserves fun _ h _ _ => h.advance.ite (h.stall.ite h.moveHandle.advance)

theorem execHstate_preserves {g a h} : Preserves (execHstate g a h) := by
  unfold execHstate
  exact issue_preserves fun _ h _ _ => h.writeFibres

theorem execHwptr_preserves {g a h} : Preserves (execHwptr g a h) := by
  unfold execHwptr
  exact issue_preserves fun _ h _ _ => h.writeFibres

theorem execHwait_preserves {g st k h} : Preserves (execHwait g st k h) := by
  unfold execHwait
  exact issue_preserves fun _ h _ _ => h.advance.ite h.blockSome

theorem Canonical.addCmd (h : Canonical s) {t act h' k epc implicit} : Canonical (s.addCmd t act h' k epc implicit) :=
  (h.modCoreBeside fun _ => by rfl).fresh.moveHandle

theorem copyOp_preserves {g uses n h elem out more kind} : Preserves (copyOp g uses n h elem out more kind) := by
  unfold copyOp
  exact issue_preserves fun _ h _ _ => h.advance.ite (h.stall.ite h.addCmd.advance)

theorem Canonical.endPush (h : Canonical s) {t m} : Canonical (s.endPush t m) := by
  unfold State.endPush
  split
  · refine h.ite ?_
    split
    exacts [h.send, h]
  · exact h

theorem Canonical.dropEngineRead (h : Canonical s) {c id} : Canonical (s.dropEngineRead c id) := h.abandon

theorem Canonical.cancelCmd (h : Canonical s) {t h'} : Canonical (s.cancelCmd t h') :=
  ((h.foldl fun _ _ h' => h'.endPush.dropEngineRead.ite h').modCoreBeside fun _ => by rfl).moveHandle

theorem execCpcancel_preserves {g h} : Preserves (execCpcancel g h) := by
  unfold execCpcancel
  exact issue_preserves fun _ h _ _ => h.advance.ite h.cancelCmd.advance

/-! ### Machine/Rows -/

theorem rowOp_preserves {g fn d} : Preserves (rowOp g fn d) := by
  intro s h
  unfold rowOp
  exact issue_preserves (fun _ h _ _ => h.advance.ite (h.stall.ite h.same.fresh.advance)) h

theorem Canonical.engineAsk (h : Canonical s) {e asid src dst} : Canonical (s.engineAsk e asid src dst) :=
  (h.foldl fun _ _ h' => h'.ask).ite (h.foldl fun _ _ h' => h'.ask)

theorem Canonical.engineDone (h : Canonical s) {e bs} : Canonical (s.engineDone e bs) := (h.foldl fun _ _ h' => h'.finishWant).same

theorem Canonical.putBlock (h : Canonical s) {b d poison} : Canonical (s.putBlock b d poison).1 := by
  unfold State.putBlock
  split
  · exact (h.writeBlock _ _ _).setPoison
  · dsimp only
    split
    exacts [(h.setMemBlock _ _).setMeta, (h.setMemBlock _ _).setMeta]

theorem Canonical.postBlock (h : Canonical s) {p b d poison holder} : Canonical (s.postBlock p b d poison holder) := h.fresh.same.send.markBad

theorem Canonical.putRow (h : Canonical s) {e p blks data poison} : Canonical (s.putRow e p blks data poison).1 := by
  refine Canonical.foldlBy Prod.fst h fun _ _ h' => ?_
  dsimp only
  split
  exacts [h'.postBlock, h'.putBlock]

theorem Canonical.rowStep (h : Canonical s) {r x} : Canonical (s.rowStep r x) := by
  unfold State.rowStep
  extract_lets dst src e val bad poison w u report
  have hr : ∀ v o, Canonical v → Canonical (report v o) := by
    intro v o hv
    simp only [report]
    split
    · split
      exacts [hv.reportFor, hv]
    · exact hv
  exact ((hr _ _ (hr _ _ h.putRow.engineDone)).modCoreBeside fun _ => by rfl).same.idleEngines.arriveAfter

theorem execRowOperation_preserves {core id} : Preserves (execRowOperation core id) := by
  intro s h
  unfold execRowOperation
  split
  exacts [h.next, h.next.ite (h.rowStep.next.ite h.engineAsk.next)]

theorem execRowSlotAcquire_preserves {core} : Preserves (execRowSlotAcquire core) := by
  intro s h
  unfold execRowSlotAcquire
  split
  exacts [h.same.next.ite h.next, h.next]

theorem Canonical.putUnit (h : Canonical s) {u'} : Canonical (s.putUnit u') := h
theorem Canonical.freeUnit (h : Canonical s) {st ch} : Canonical (s.freeUnit st ch) := h

theorem execNbload_preserves {g d} : Preserves (execNbload g d) := by
  intro s h
  unfold execNbload
  refine issue_preserves (fun _ h' _ _ => h'.advance.ite (h'.stall.ite ?_)) h
  split
  exacts [h'.writeFibres, h'.freeUnit.writeFibres.ite h'.putUnit.writeFibres]

theorem execNbrun_preserves {g d} : Preserves (execNbrun g d) := by
  intro s h
  unfold execNbrun
  refine issue_preserves (fun _ h' _ _ => h'.advance.ite ?_) h
  dsimp only
  split
  exacts [h'.advance, h'.putUnit.same.advance]

theorem execNbstat_preserves {g d} : Preserves (execNbstat g d) := by
  intro s h
  unfold execNbstat
  exact issue_preserves (fun _ h _ _ => h.advance.ite h.writeFibres) h

theorem Canonical.endRun (h : Canonical s) {u' ending} : Canonical (s.endRun u' ending) := h.putUnit.arriveAfter

theorem execNbcancel_preserves {g d} : Preserves (execNbcancel g d) := by
  intro s h
  unfold execNbcancel
  refine issue_preserves (fun _ h' _ _ => h'.advance.ite ?_) h
  dsimp only
  split
  exacts [h'.advance.ite (h'.ite h'.endRun).freeUnit.idleEngines.advance, h'.advance]

theorem Canonical.nbNext (h : Canonical s) {u' e} : Canonical (s.nbNext u' e) := h.endRun.ite (h.endRun.ite (h.drawn.putUnit.ite h.putUnit))

theorem Canonical.nbRow (h : Canonical s) {u' e row} : Canonical (s.nbRow u' e row) := by
  unfold State.nbRow
  refine h.putRow.engineDone.nbNext.idleEngines.ite ?_
  split
  exacts [h.reportFor.engineDone.endRun.idleEngines, h.engineDone.nbNext.idleEngines]

theorem execNearBankStep_preserves {stack channel} : Preserves (execNearBankStep stack channel) := by
  intro s h
  unfold execNearBankStep
  split
  · exact h.next
  · refine Keeps.ite ?_ h.nbNext.next
    split
    exacts [h.next, h.nbRow.next.ite h.engineAsk.next]

theorem execArbitrationWindow_preserves {stack channel} : Preserves (execArbitrationWindow stack channel) := by
  intro s h
  unfold execArbitrationWindow
  split
  exacts [h.putUnit.next.ite h.next, h.next]

/-! ### Machine/Perform -/

theorem Canonical.modReq (h : Canonical s) {c id f} : Canonical (s.modReq c id f) := h.modCoreBeside fun _ => by rfl

theorem Canonical.tell (h : Canonical s) {c r cause detail peer kind} : Canonical (s.tell c r cause detail peer kind) :=
  h.ite (h.reportFor.modCoreBeside fun _ => by rfl)

theorem Canonical.dropReq (h : Canonical s) {c id} : Canonical (s.dropReq c id) := h.modCoreBeside fun _ => by rfl
theorem Canonical.noteLane (h : Canonical s) {c r l} : Canonical (s.noteLane c r l) := h.noteSeen.ite h
theorem Canonical.noteRts (h : Canonical s) {c r rts byHome} : Canonical (s.noteRts c r rts byHome) := h.modReq.ite h

theorem Canonical.readEffect (h : Canonical s) {c r ls} : Canonical (s.readEffect c r ls) := by
  unfold State.readEffect
  extract_lets noted
  have hn : Canonical noted := h.foldl fun _ _ h' => h'.noteLane
  split
  · exact hn.foldl fun _ _ h' => h'.fetchSector
  · split
    · exact hn
    · split
      exacts [hn.noteRts.modCoreBeside fun _ => by rfl, hn]
  · exact hn

theorem Canonical.putPend (h : Canonical s) {team fib inst vals} : Canonical (s.putPend team fib inst vals) := h.modTeam _ _

theorem Canonical.laneDone (h : Canonical s) {c r l bs} : Canonical (s.laneDone c r l bs) := by
  unfold State.laneDone
  dsimp only
  split
  exacts [h.putPend, h.modReq]

theorem Canonical.performBlock (h : Canonical s) {c r blk} : Canonical (s.performBlock c r blk).1 := by
  unfold State.performBlock
  dsimp only
  split
  · exact h
  · exact h.readEffect.foldl fun _ _ h' => h'.laneDone

theorem Canonical.performBlocks (h : Canonical s) {c r blks} : Canonical (s.performBlocks c r blks).1 :=
  Canonical.foldlBy Prod.fst h fun _ _ h' => by exact h'.performBlock

theorem Canonical.wantsDone (h : Canonical s) {c blks} : Canonical (s.wantsDone c blks) := h.foldl fun _ _ h' => h'.finishWant

theorem Canonical.settleLoad (h : Canonical s) {core r rest bad} : Canonical (s.settleLoad core r rest bad) := by
  unfold State.settleLoad
  extract_lets _ told
  have ht : Canonical told := h.reportFor.modReq.ite h
  exact ht.dropReq.reqAcquire.ite ht.modReq

theorem Canonical.sendLoad (h : Canonical s) {c r} : Canonical (s.sendLoad c r) := h.sendRemote.ite (h.dropReq.ite h.modReq)

theorem Canonical.gatherRead (h : Canonical s) {c r} : Found id (s.gatherRead c r) :=
  h.some.ite (h.gatherAll.map fun _ h' => h'.modReq)

theorem Canonical.performLoad (h : Canonical s) {core r} : Canonical (s.performLoad core r) := by
  unfold State.performLoad
  extract_lets _ released
  have hr : Canonical released := h.reqRelease.ite h
  exact (hr.performBlocks.wantsDone.ite hr.performBlocks.homeDone).settleLoad

theorem execPerformLoad_preserves {core id} : Preserves (execPerformLoad core id) := by
  intro s h
  unfold execPerformLoad
  split
  exacts [h.next, h.next.ite ((h.getD h.fromIngress).next.ite (h.next.ite (h.sendLoad.next.ite (h.performLoad.getD h.gatherRead).next)))]

theorem Canonical.askHalf (h : Canonical s) {c r blk lack} : Canonical (s.askHalf c r blk lack) := h.hostAsk.ite (h.ite h.noteSent.send)
theorem Canonical.askRead (h : Canonical s) {c blk asid halves} : Canonical (s.askRead c blk asid halves) := h.askCore.modCoreBeside fun _ => by rfl

theorem execLineFill_preserves {core blk} : Preserves (execLineFill core blk) := by
  intro s h
  unfold execLineFill
  refine h.next.ite ?_
  split
  · dsimp only
    split
    exacts [h.lend.finishWant.next.ite h.next, h.next]
  · split
    exacts [h.askRead.next.ite (h.lend.next.ite h.askHalf.next), h.askRead.next]

theorem execPendingWriteComplete_preserves {team fib reg} : Preserves (execPendingWriteComplete team fib reg) := by
  intro s h
  unfold execPendingWriteComplete
  split
  · exact h.next
  · split
    exacts [h.next, (h.modTeam _ _).next]

theorem execOpenAccessFault_preserves {core id} : Preserves (execOpenAccessFault core id) := by
  intro s h
  unfold execOpenAccessFault
  split
  · exact h.next
  · split
    exacts [h.next, h.next.ite ((h.abandon.modCoreBeside fun _ => by rfl).modTeam _ _).raise.next]

theorem Canonical.uncachedWrite (h : Canonical s) {pa bs} : Canonical (s.uncachedWrite pa bs) :=
  h.regWrite.ite (h.writeHost.ite (h.writePa _ _))

theorem Canonical.modPost (h : Canonical s) {id f} : Canonical (s.modPost id f) := h
theorem Canonical.dropPost (h : Canonical s) {id} : Canonical (s.dropPost id) := h
theorem Canonical.lineNumber (h : Canonical s) {dev frame} : Canonical (s.lineNumber dev frame).2 := h
theorem Canonical.postReds (h : Canonical s) {c r op ls} : Canonical (s.postReds c r op ls) := h.foldl fun _ _ h' => h'.fresh.sendPost
theorem Canonical.postStores (h : Canonical s) {c r ls} : Canonical (s.postStores c r ls) := h.foldl fun _ _ h' => h'.fresh.sendPost

theorem Canonical.mapFlags (h : Canonical s) {inst f} : Canonical (s.mapFlags inst f) := by
  refine h.mapCores rfl (fun k => ?_) rfl rfl
  rfl

theorem Canonical.flagTold (h : Canonical s) {inst va} : Canonical (s.flagTold inst va) := h.mapFlags.same
theorem Canonical.voidFlags (h : Canonical s) {inst fibs} : Canonical (s.voidFlags inst fibs) := h.ite h.mapFlags

theorem Canonical.postLine (h : Canonical s) {c r} : Canonical (s.postLine c r) := by
  unfold State.postLine
  refine Canonical.ite ?_ ?_
  · split
    exacts [h.reportPost, h.reportPost.voidFlags, h.reportPost]
  · dsimp only
    split
    exacts [h.reqRelease.postReds, h.reqRelease.foldl fun _ _ h' => h'.fresh.sendPost,
      h.reqRelease.fresh.lineNumber.sendPost.ite (h.reqRelease.fresh.postStores.ite h.reqRelease.fresh.sendPost)]

theorem Canonical.startStoreLine (h : Canonical s) {c r} : Canonical (s.startStoreLine c r) :=
  h.fresh.reportPost.ite (h.fresh.same.foldl fun _ _ h' => h'.askCore)

theorem Canonical.mergeSector (h : Canonical s) {c pa asid bs} : Canonical (s.mergeSector c pa asid bs) := h.fetchSector.modCoreBeside fun _ => by rfl
theorem Canonical.viewAtom (h : Canonical s) {c op pa asid x y} : Canonical (s.viewAtom c op pa asid x y).2 := h.fetchSector.mergeSector

theorem Canonical.writeBackOwn (h : Canonical s) {c ord sectors} : Canonical (s.writeBackOwn c ord sectors) := by
  unfold State.writeBackOwn
  split
  · exact h
  · extract_lets up down
    have hu (u a) (h' : Canonical u) : Canonical (up u a) := by
      simp only [up]
      split
      exacts [h'.writeBackCore.ite h', h']
    have hd (u a) (h' : Canonical u) : Canonical (down u a) := by
      simp only [down]
      split
      exacts [h'.writeBackDie.ite h', h']
    split
    exacts [h.foldl hu, (h.foldl hu).foldl hd, (h.foldl hu).foldl hd, (h.foldl hu).foldl hd, h]

theorem Canonical.atomView (h : Canonical s) {c r op} : Canonical (s.atomView c r op) := by
  unfold State.atomView
  refine ((h.tell.ite h).reqRelease.foldl fun _ _ h' => ?_).writeBackOwn.dropReq.reqAcquire
  dsimp only
  split
  exacts [h'.viewAtom.putPend, h'.viewAtom]

theorem Canonical.markGood (h : Canonical s) {c r} : Canonical (s.markGood c r) := h.modCoreBeside fun _ => by rfl
theorem Canonical.markActed (h : Canonical s) {c r} : Canonical (s.markActed c r) := h.modCoreBeside fun _ => by rfl
theorem Canonical.voidAtom (h : Canonical s) {c r} : Canonical (s.voidAtom c r) := h.same.foldl fun _ _ h' => h'.modReq
theorem Canonical.probeLine (h : Canonical s) {c r} : Canonical (s.probeLine c r) := h.sendRemote.ite h.noteSent.send

theorem Canonical.atomTurn (h : Canonical s) {c r} : Found id (s.atomTurn c r) :=
  Found.ite (Found.ite .none h.modReq.some) (h.voidAtom.some.ite (h.modReq.some.ite (Found.ite .none (h.probeLine.some.ite (h.some.ite Found.none)))))

theorem Canonical.atomGo (h : Canonical s) {c r op} : Canonical (s.atomGo c r op) := by
  unfold State.atomGo
  dsimp only
  split
  exacts [h.markGood.markActed.atomView, h.markGood.reqRelease.noteSent.sendLanes, h.markGood.reqRelease.sendRemote, h.markGood]

theorem Canonical.markAsked (h : Canonical s) {c id next} : Canonical (s.markAsked c id next) := h.modCoreBeside fun _ => by rfl

theorem Canonical.gatherWrite (h : Canonical s) {c r} : Found id (s.gatherWrite c r) :=
  .ite (h.some.ite (h.gatherAll.map fun _ h' => h'.markAsked)) .none

theorem Canonical.uncachedStore (h : Canonical s) {c r} : Canonical (s.uncachedStore c r) := by
  unfold State.uncachedStore
  split
  exacts [h.tell.ite (h.reportFor.countOvf.ite (h.reportFor.countOvf.ite h.accept)), (h.reqRelease.foldl fun _ _ h' => h'.uncachedWrite).reqAcquire]

theorem Canonical.storePoison (h : Canonical s) {c r ls blk} : Canonical (s.storePoison c r ls blk) := h.ite (h.setPoison.ite h.tell)
theorem Canonical.uncachedPoison (h : Canonical s) {c r} : Canonical (s.uncachedPoison c r) := (h.foldl fun _ _ h' => h'.storePoison).ite h
theorem Canonical.gatherLine (h : Canonical s) {r} : Found id (s.gatherLine r) := h.gatherClass.ite Found.none

theorem Canonical.storeAway (h : Canonical s) {c r} : Canonical (s.storeAway c r) := by
  unfold State.storeAway
  split
  exacts [h.dropReq.startStoreLine, h.tell.dropReq.ite (h.dropReq.modCoreBeside fun _ => by rfl).sendLanes,
    h.dropReq.postLine.ite (h.dropReq.modCoreBeside fun _ => by rfl).postLine]

theorem Canonical.interceptedWrite (h : Canonical s) {c r} : Canonical (s.interceptedWrite c r) :=
  ((h.foldl fun _ _ h' => h'.putPend).iteThen (·.voidFlags)).tell.dropReq.reqAcquire

theorem execEnqueueStore_preserves {core id} : Preserves (execEnqueueStore core id) := by
  intro s h
  unfold execEnqueueStore
  split
  · exact h.next
  · next r hr =>
    have hw : ∀ {u}, Canonical u → Canonical ((s.gatherWrite core r).getD u) := fun hu => hu.getD h.gatherWrite
    have hq : Keeps (.next ((s.dropReq core id).modCore core fun k => { k with storeQ := k.storeQ ++ [r] })) := (h.dropReq.modCoreBeside
        fun _ => by rfl).next
    refine h.next.ite ?_
    dsimp only
    split
    · exact h.next
    · exact h.next
    · exact h.next
    · refine h.next.ite ?_
      split
      · exact (h.atomTurn _ ‹_›).next
      · exact h.next.ite (h.markActed.interceptedWrite.next.ite (hw h.atomGo.homeDone).next)
    · refine h.interceptedWrite.next.ite (h.storeAway.next.ite ?_)
      split
      · exact h.next.ite (hw h.atomView.homeDone).next
      · exact h.next.ite (h.dropReq.modCoreBeside fun _ => by rfl).sendLanes.next
      · exact hq
    · refine h.storeAway.next.ite (.ite (Canonical.next ?_) hq)
      have hu := h.uncachedPoison (c := core) (r := r) |>.dropReq (c := core) (id := id) |>.uncachedStore (c := core) (r := r) |>.homeDone
          (blks := r.blocks)
      cases hg : s.gatherLine r with
      | none => exact hw hu
      | some v => exact h.gatherLine _ hg
    · exact h.interceptedWrite.next.ite (h.storeAway.next.ite hq)

theorem Canonical.dropStore (h : Canonical s) {c id} : Canonical (s.dropStore c id) := h.modCoreBeside fun _ => by rfl

theorem Canonical.writeHeld (h : Canonical s) {c h' r ls} : Canonical (s.writeHeld c h' r ls) :=
  h.putHold.notePeer.storePoison.wakeWaits.wakeDrain.finishWant

theorem Canonical.writeWindow (h : Canonical s) {c r blk ls} : Canonical (s.writeWindow c r blk ls) :=
  (h.foldl fun _ _ h' => h'.writeBlock _ _ _).storePoison

theorem Canonical.sendFlag (h : Canonical s) {p f} : Canonical (s.sendFlag p f) := h.fresh.sendPost.ite h.reportPost.flagTold

theorem Canonical.sendFlags (h : Canonical s) {c r ls} : Canonical (s.sendFlags c r ls) := by
  unfold State.sendFlags
  refine Canonical.foldlBy Prod.fst h fun _ _ h' => ?_
  split
  exacts [h', h'.sendFlag]

theorem Canonical.flagsOf (h : Canonical s) {c r drained good} : Canonical (s.flagsOf c r drained good) := h.voidFlags.sendFlags

theorem Canonical.drainBlock (h : Canonical s) {c r blk} : Canonical (s.drainBlock c r blk).1 := by
  unfold State.drainBlock
  dsimp only
  split
  · exact h
  · split
    · exact h.writeWindow
    · split
      · split
        · exact h.writeHeld
        · exact h.askCore
      · exact h.askCore

theorem Canonical.drainToken (h : Canonical s) {c r} : Canonical (s.drainToken c r) := by
  unfold State.drainToken
  extract_lets s₁ x rest s₂
  have hx : Canonical x.1 := Canonical.foldlBy Prod.fst (h.reqRelease.ite h) fun _ _ h' => h'.drainBlock
  have h₂ : Canonical s₂ := hx.flagsOf.ite hx
  exact h₂.dropStore.ite (h₂.modCoreBeside fun _ => by rfl)

theorem Canonical.drainPrivate (h : Canonical s) {c r} : Canonical (s.drainPrivate c r) :=
  (((h.reqRelease.foldl fun _ _ h' => h'.storePoison.ite h').foldl fun _ _ h' => h'.mergeSector).writeBackOwn.iteThen (·.flagsOf)).dropStore

theorem execDrain_preserves {core id} : Preserves (execDrain core id) := by
  intro s h
  unfold execDrain
  split
  · exact h.next
  · refine h.next.ite ?_
    split
    exacts [(h.drainPrivate.homeDone.getD h.gatherWrite).next, h.drainToken.next, h.next]

theorem execWriteBack_preserves {view sector} : Preserves (execWriteBack view sector) := by
  intro s h
  unfold execWriteBack
  split
  · split
    exacts [h.writeBackCore.next.ite h.next, h.next]
  · split
    exacts [h.writeBackDie.next.ite h.next, h.next]

theorem execSectorDrop_preserves {view sector} : Preserves (execSectorDrop view sector) := by
  intro s h
  unfold execSectorDrop
  dsimp only
  split
  exacts [(h.modCoreBeside fun _ => by rfl).next, h.modDie.next]

theorem execPageWalk_preserves {core asid va} : Preserves (execPageWalk core asid va) := by
  intro s h
  unfold execPageWalk
  dsimp only
  split
  exacts [h.next, (h.modCoreBeside fun _ => by rfl).modDie.next]

theorem execGenerationSweep_preserves : Preserves execGenerationSweep := by
  intro s h
  refine Canonical.next ?_
  exact h.mapCores rfl (fun _ => rfl) rfl rfl

/-! ### Machine/Leases -/

theorem Canonical.setTimes (h : Canonical s) {blk w r} : Canonical (s.setTimes blk w r) := by
  unfold State.setTimes
  split
  exacts [h.setMeta, h]

theorem Canonical.leaseMiss (h : Canonical s) {c q blk w r} : Canonical (s.leaseMiss c q blk w r) := (h.setTimes.modCoreBeside fun _ => by rfl).modDie

theorem Canonical.leaseBlock (h : Canonical s) {c r blk} : Canonical (s.leaseBlock c r blk).1 := by
  unfold State.leaseBlock
  dsimp only
  split
  · exact h
  · split
    · exact h
    · split
      · exact h
      · exact (h.foldl fun _ _ h' => h'.noteLane).leaseMiss.noteRts.foldl fun _ _ h' => h'.laneDone

theorem execLeaseRead_preserves {core id} : Preserves (execLeaseRead core id) := by
  intro s h
  unfold execLeaseRead
  split
  exacts [h.next, h.next.ite (Canonical.foldlBy Prod.fst h fun _ _ h' => by exact h'.leaseBlock).settleLoad.next]

theorem Canonical.leasePut (h : Canonical s) {c blk off w bs} : Canonical (s.leasePut c blk off w bs) :=
  ((h.setMemBlock _ _).setTimes.modCoreBeside fun _ => by rfl).wakeDrain

theorem Canonical.leaseAtom (h : Canonical s) {c r op l} : Canonical (s.leaseAtom c r op l).1 := by
  unfold State.leaseAtom
  extract_lets blk off isAtom
  split
  · exact h
  · split
    · exact h.modReq
    · dsimp only
      split
      exacts [h.leasePut.markActed.putPend, h.leasePut.storePoison]

theorem Canonical.leaseStore (h : Canonical s) {c r blk} : Canonical (s.leaseStore c r blk).1 := by
  unfold State.leaseStore
  dsimp only
  split
  exacts [h, h.leasePut.storePoison]

theorem Canonical.leaseLanes (h : Canonical s) {c r} : Canonical (s.leaseLanes c r).1 := by
  unfold State.leaseLanes
  have ha : ∀ (x : State × List LaneReq) op l, Canonical x.1 → Canonical (x.1.leaseAtom c r op l).1 := fun _ _ _ h' => h'.leaseAtom
  dsimp only
  split
  · exact Canonical.foldlBy Prod.fst h fun x l => ha x _ l
  · exact Canonical.foldlBy Prod.fst h fun x l => ha x _ l
  · exact Canonical.foldlBy Prod.fst h fun _ _ h' => by exact h'.leaseStore

theorem Canonical.leaseRelease (h : Canonical s) {c r} : Canonical (s.leaseRelease c r) := h.reqRelease.ite h

theorem Canonical.leaseWrite (h : Canonical s) {core id} : Canonical (s.leaseWrite core id) := by
  unfold State.leaseWrite
  split
  · exact h.ite (h.leaseRelease.leaseLanes.dropReq.reqAcquire.ite h.leaseRelease.leaseLanes.modReq)
  · split
    exacts [h,
      h.ite ((h.leaseRelease.leaseLanes.iteThen (·.flagsOf)).dropStore.ite ((h.leaseRelease.leaseLanes.iteThen (·.flagsOf)).modCoreBeside
        fun _ => by rfl))]

theorem execLeaseWrite_preserves {core id} : Preserves (execLeaseWrite core id) := fun _ h => h.leaseWrite.next
theorem execLeaseWriteHeld_preserves {core id} : Preserves (execLeaseWriteHeld core id) := fun _ h => h.leaseWrite.next
theorem Canonical.convert (h : Canonical s) {blk} : Canonical (s.convert blk) := h.finishWant.setMeta.same

theorem Canonical.persistNow (h : Canonical s) {p blk} : Canonical (s.persistNow p blk) := by
  unfold State.persistNow
  split
  exacts [h.sendPersist.ite h, h]

theorem Canonical.convertForm (h : Canonical s) {blk toLease} : Canonical (s.convertForm blk toLease) :=
  h.ite (h.convert.ite ((h.ite h.same).iteThen (·.ask.persistNow)))

theorem execFormConversion_preserves {blk toLease} : Preserves (execFormConversion blk toLease) := fun _ h => h.convertForm.next

theorem Canonical.startPrefetch (h : Canonical s) {t g} : Canonical (s.startPrefetch t g) := by
  unfold State.startPrefetch
  split
  exacts [h, h.enqueue]

theorem execPf_preserves {g r i} : Preserves (execPf g r i) := by
  unfold execPf
  exact issue_preserves fun _ h _ _ => h.stall.ite (h.foldl fun _ _ h' => h'.startPrefetch).writeFibres

theorem execHomeLeaseSweep_preserves {blk} : Preserves (execHomeLeaseSweep blk) := by
  intro s h
  unfold execHomeLeaseSweep
  split
  exacts [h.setTimes.next.ite h.next, h.next]

theorem execCacheLeaseSweep_preserves {view} : Preserves (execCacheLeaseSweep view) := by
  intro s h
  unfold execCacheLeaseSweep
  dsimp only
  split
  exacts [(h.modCoreBeside fun _ => by rfl).next, h.modDie.next]

/-! ### Machine/TokenEvents -/

theorem Canonical.recall (h : Canonical s) {p blk kind n} : Found id (s.recall p blk kind n) := by
  unfold State.recall
  split
  exacts [Found.ite .none (h.foldl fun _ _ h' => h'.hostAsk).some, Found.none]

theorem Canonical.answerHold (h : Canonical s) {h' kind req tag} : Deals (s.answerHold h' kind req tag) := by
  unfold State.answerHold
  refine h.done.ite ?_
  split
  · exact (h.recall _ ‹_›).wait
  · split
    exacts [h.sendTokens.done.ite h.sendTokens.done, h.sendTokens.done, h.sendTokens.done]

theorem Canonical.hostGrants (h : Canonical s) {blk kind halves} : Found id (s.hostGrants blk kind halves) := by
  unfold State.hostGrants
  refine Found.ite .none (h.some.ite ?_)
  split
  exacts [Found.ite .none (h.foldl fun _ _ h' => h'.hostAsk).some, Found.ite .none (h.foldl fun _ _ h' => h'.hostAsk).some]

theorem Canonical.toTokens (h : Canonical s) {blk} : Canonical (s.toTokens blk) := h.ite h.same

theorem Canonical.homeWaits (h : Canonical s) {blk kind halves} : Found id (s.homeWaits blk kind halves) :=
  h.toTokens.some.ite (h.some.ite h.hostGrants)

theorem Canonical.answerHome (h : Canonical s) {blk kind req tag halves} : Deals (s.answerHome blk kind req tag halves) := by
  unfold State.answerHome
  refine h.done.ite (h.sendHalves.done.ite ?_)
  split
  · exact (h.homeWaits _ ‹_›).wait
  · dsimp only
    split
    exacts [h.send.done.ite (h.homeSend.done.ite (h.homeSend.done.ite h.homeSend.done)), h.send.done.ite h.homeSend.done,
      h.homeSend.done.ite h.send.done]

theorem Canonical.writeLeftOf (h : Canonical s) {blk} : Canonical (s.writeLeftOf blk) := by
  unfold State.writeLeftOf
  split
  exacts [h.writeLeft, h]

theorem Canonical.answerWindow (h : Canonical s) {p blk publish req tag} : Canonical (s.answerWindow p blk publish req tag) :=
  (h.send.ite h.writeLeftOf).ite h.send

theorem Canonical.answer (h : Canonical s) {p blk kind publish req tag halves} : Deals (s.answer p blk kind publish req tag halves) := by
  unfold State.answer
  refine h.wait.ite ?_
  split
  · exact h.answerHome.ite h.done
  · refine h.answerWindow.done.ite (h.done.ite ?_)
    split
    exacts [h.answerHold, h.done]

theorem execTryArrive_preserves {id} : Preserves (execTryArrive id) := by
  intro s h
  unfold execTryArrive
  refine h.deal fun _ => ?_
  split
  exacts [h.answer, h.wait]

theorem execPublishRequest_preserves {id} : Preserves (execPublishRequest id) := by
  intro s h
  unfold execPublishRequest
  refine h.deal fun _ => ?_
  split
  exacts [h.answer, h.wait]

theorem execTryTimeout_preserves {want} : Preserves (execTryTimeout want) := by
  intro s h
  unfold execTryTimeout
  split
  exacts [h.next, h.sendTry.next.ite h.next]

theorem execPersistentRequestIssue_preserves {want} : Preserves (execPersistentRequestIssue want) := by
  intro s h
  unfold execPersistentRequestIssue
  split
  exacts [h.next, h.sendPersist.next.ite h.next]

theorem execPersistentRetry_preserves {want} : Preserves (execPersistentRetry want) := by
  intro s h
  unfold execPersistentRetry
  split
  · exact h.next
  · split
    exacts [h.sendPersist.next.ite h.next, h.next]

theorem Canonical.homeServe (h : Canonical s) {e} : Canonical (s.homeServe e) := h.ite h.homeSend

theorem Canonical.startActive (h : Canonical s) {p blk key tag} : Canonical (s.startActive p blk key tag) := by
  unfold State.startActive
  split
  exacts [h.modWant, h.send]

theorem Canonical.activate (h : Canonical s) {e} : Canonical (s.activate e) := (h.same.sendAll.iteThen (·.startActive)).homeServe

theorem Canonical.nextWave (h : Canonical s) {blk} : Canonical (s.nextWave blk) := by
  unfold State.nextWave
  refine h.ite ?_
  dsimp only
  split
  exacts [(h.ite h.same).activate, h.ite h.same]

theorem execPersistentRequest_preserves {id} : Preserves (execPersistentRequest id) := by
  intro s h
  unfold execPersistentRequest
  refine h.deal fun _ => ?_
  split
  · refine h.done.ite ?_
    split
    exacts [((Found.ite .none h.homeWaits : Found (fun u => u) _) _ ‹_›).wait, h.wait.ite (h.send.done.ite h.same.nextWave.done)]
  · exact h.wait

theorem Canonical.giveActive (h : Canonical s) {p blk req tag} : Deals (s.giveActive p blk req tag) := by
  unfold State.giveActive
  refine h.done.ite (h.answerWindow.done.ite ?_)
  split
  · exact h.done
  · split
    exacts [(h.recall _ ‹_›).wait, h.sendTokens.done]

theorem execActivation_preserves {id} : Preserves (execActivation id) := by
  intro s h
  unfold execActivation
  refine h.deal fun _ => ?_
  split
  exacts [h.wait.ite ((h.ite h.same).iteThen (·.startActive)).giveActive, h.wait]

theorem Canonical.endPersist (h : Canonical s) {e} : Canonical (s.endPersist e) := h.same.sendAll.nextWave
theorem Canonical.endAct (h : Canonical s) {a} : Canonical (s.endAct a) := h

theorem Canonical.deactivated (h : Canonical s) {m} : Found id (s.deactivated m) := by
  unfold State.deactivated
  split
  · intro u hu
    obtain ⟨e, -, rfl⟩ := Option.map_eq_some_iff.1 hu
    exact h.endPersist
  · exact .ite h.endAct.some .none
  · exact .none

theorem execDeactivation_preserves {id} : Preserves (execDeactivation id) := by
  intro s h
  unfold execDeactivation
  split
  exacts [h.deal fun _ => (h.getD h.deactivated).done, h.next]

theorem Canonical.ackPole (h : Canonical s) {p blk src pole dirty} : Canonical (s.ackPole p blk src pole dirty) := h.send.ite h

theorem Canonical.acceptTokens (h : Canonical s) {p blk serial n pole dirty data halves} :
    Canonical (s.acceptTokens p blk serial n pole dirty data halves) := by
  unfold State.acceptTokens
  dsimp only
  split
  exacts [h.giveTokens.iteElse (·.sendTokens.getD h.giveTokens.recall), h.giveTokens]

theorem Canonical.learnSerial (h : Canonical s) {p blk serial} : Canonical (s.learnSerial p blk serial) := by
  unfold State.learnSerial
  split
  exacts [h, h.ite (h.modWant.foldl fun _ _ h' => h'.acceptTokens.ite h'.countStale)]

theorem Canonical.relearn (h : Canonical s) {p blk serial} : Canonical (s.relearn p blk serial) := by
  unfold State.relearn
  split
  exacts [h, (h.ite h.modWant).learnSerial]

theorem Canonical.homeTakes (h : Canonical s) {p m blk serial n pole dirty data} : Canonical (s.homeTakes p m blk serial n pole dirty data) := by
  unfold State.homeTakes
  refine h.countStale.ite ?_
  dsimp only
  split
  exacts [h.homeReceive.ackPole.homeServe, h.homeReceive.ackPole]

theorem Canonical.placeTakes (h : Canonical s) {p m blk serial n pole dirty data tag} :
    Canonical (s.placeTakes p m blk serial n pole dirty data tag) := by
  unfold State.placeTakes
  dsimp only
  split
  · refine (Canonical.acceptTokens ?_).ackPole.ite (Canonical.countStale ?_)
    · split
      exacts [h.notePredict.ite h, h]
    · split
      exacts [h.notePredict.ite h, h]
  · refine (Canonical.learnSerial ?_).acceptTokens.ackPole.ite (Canonical.modWant ?_).ackPole
    · split
      exacts [h.notePredict.ite h, h]
    · split
      exacts [h.notePredict.ite h, h]
  · split
    · refine (Canonical.giveTokens ?_).ackPole.evictTokens
      split
      exacts [h.notePredict.ite h, h]
    · refine (Canonical.giveTokens ?_).ackPole
      split
      exacts [h.notePredict.ite h, h]

theorem Canonical.windowLoad (h : Canonical s) {c r blk d bad} : Canonical (s.windowLoad c r blk d bad) :=
  h.ite (h.settleLoad.ite (h.foldl fun _ _ h' => h'.noteLane.laneDone).settleLoad)

theorem Canonical.windowLoads (h : Canonical s) {cores on w x bad} : Canonical (s.windowLoads cores on w x bad) :=
  h.foldl fun _ _ h' => h'.foldl fun _ _ h'' => h''.windowLoad

theorem Canonical.windowStores (h : Canonical s) {d blk holder} : Canonical (s.windowStores d blk holder) := h.foldl fun _ _ h' => h'.modPost.send
theorem Canonical.postAway (h : Canonical s) {c r ls x holder} : Canonical (s.postAway c r ls x holder) := h.fresh.same.send

theorem Canonical.cleanSector (h : Canonical s) {c a} : Canonical (s.cleanSector c a) := by
  unfold State.cleanSector
  split
  exacts [h, (h.modCoreBeside fun _ => by rfl).modDie]

theorem Canonical.sectorsAway (h : Canonical s) {c r ls blk holder} : Canonical (s.sectorsAway c r ls blk holder) := by
  unfold State.sectorsAway
  extract_lets sectorOf as cleaned image
  have hc : Canonical cleaned := h.foldl fun _ _ h' => h'.cleanSector
  exact hc.postAway.ite (hc.foldl fun _ _ h' => h'.postAway)

theorem Canonical.leaveLanes (h : Canonical s) {c r rest} : Canonical (s.leaveLanes c r rest) :=
  h.dropReq.dropStore.ite (h.modCoreBeside fun _ => by rfl)

theorem Canonical.divert (h : Canonical s) {c r blk holder} : Canonical (s.divert c r blk holder) := by
  unfold State.divert
  refine h.ite ?_
  dsimp only
  split
  exacts [h.reqRelease.ite (h.reqRelease.foldl fun _ _ h' => h'.mergeSector).sectorsAway.leaveLanes,
    (h.reqRelease.foldl fun _ _ h' => h'.postAway).leaveLanes, h.reqRelease.postAway.leaveLanes]

theorem Canonical.divertAtom (h : Canonical s) {c r op blk holder} : Canonical (s.divertAtom c r op blk holder) := by
  unfold State.divertAtom
  refine h.ite ((h.markGood.markActed.reqRelease.foldl fun _ _ h' => ?_).sectorsAway.leaveLanes.iteThen (·.reqAcquire))
  dsimp only
  split
  exacts [h'.viewAtom.putPend, h'.viewAtom]

theorem Canonical.windowDrains (h : Canonical s) {cores route blk holder} : Canonical (s.windowDrains cores route blk holder) := by
  unfold State.windowDrains
  refine h.ite (h.foldl fun _ _ h' => h'.foldl fun _ _ h'' => h''.ite ?_)
  split
  exacts [h''.divert.ite h'', h''.divert.ite h'', h''.divert.ite h'', h''.divert.ite h'', h''.divert, h''.divertAtom, h''.divertAtom.ite h'', h'']

theorem Canonical.windowSectors (h : Canonical s) {w d} : Canonical (s.windowSectors w d) :=
  h.foldl fun _ _ h' => h'.foldl fun _ _ h'' => h''.ite (h''.foldl fun _ _ h''' => h'''.enterSector)

theorem Canonical.windowWaiting (h : Canonical s) {blk holder} : Canonical (s.windowWaiting blk holder) := h

theorem Canonical.windowAnswer (h : Canonical s) {w d bad holder} : Canonical (s.windowAnswer w d bad holder) := by
  unfold State.windowAnswer
  refine Canonical.withdraw ?_
  split
  exacts [h.windowLoads.windowStores.windowDrains, (h.windowLoads.ite h.windowSectors).windowLoads.windowWaiting.windowDrains.windowDrains,
    h.sameHost, h.same, h]

theorem Canonical.takePoison (h : Canonical s) {m blk dirty} : Canonical (s.takePoison m blk dirty) := h.ite h.setPoison

theorem execTokenMessage_preserves {id} : Preserves (execTokenMessage id) := by
  intro s h
  unfold execTokenMessage
  refine h.deal fun _ => ?_
  dsimp only
  split
  · refine (h.takePoison.ite h).wait.ite (Deals.ite ?_ ?_)
    · split
      exacts [((h.takePoison.ite h).iteThen (·.windowAnswer)).done, (h.takePoison.ite h).done]
    · split
      exacts [(h.takePoison.ite h).homeTakes.done.ite (h.takePoison.ite h).done, (h.takePoison.ite h).homeTakes.done,
        (h.takePoison.ite h).placeTakes.done]
  · exact h.learnSerial.done.ite h.done
  · split
    exacts [h.modWant.done.ite h.done, h.done]
  · split
    exacts [h.modWant.done.ite h.done, h.done]
  · exact h.wait

theorem execPoleAck_preserves {id} : Preserves (execPoleAck id) := by
  intro s h
  unfold execPoleAck
  refine h.deal fun _ => ?_
  split
  exacts [h.same.done, h.wait]

theorem execEviction_preserves {place blk} : Preserves (execEviction place blk) := by
  intro s h
  unfold execEviction
  split
  exacts [h.evictTokens.next.ite h.next, h.next]

theorem execPeerProbe_preserves {core blk} : Preserves (execPeerProbe core blk) := by
  intro s h
  unfold execPeerProbe
  split
  · split
    exacts [h.next, h.next.ite (h.putHold.notePeer.next.ite h.next)]
  · exact h.next

theorem execTokenRecall_preserves {die blk} : Preserves (execTokenRecall die blk) := by
  intro s h
  unfold execTokenRecall
  split
  exacts [h.next.ite h.putHold.loseCopy.next, h.next]

theorem Canonical.putAudit (h : Canonical s) {a} : Canonical (s.putAudit a) := h
theorem Canonical.freeze (h : Canonical s) {p blk} : Canonical (s.freeze p blk) := h.ite h.same
theorem Canonical.thaw (h : Canonical s) {p blk} : Canonical (s.thaw p blk) := h

theorem execAuditStart_preserves {blk} : Preserves (execAuditStart blk) := by
  intro s h
  unfold execAuditStart
  split
  exacts [h.next.ite h.putAudit.freeze.sendAll.next, h.next]

theorem Canonical.invalidate (h : Canonical s) {p blk} : Canonical (s.invalidate p blk) := by
  unfold State.invalidate
  dsimp only
  split
  exacts [h.dropHold.loseCopy.same.modWant, h.dropHold.loseCopy.same]

theorem execAudit_preserves {id} : Preserves (execAudit id) := by
  intro s h
  unfold execAudit
  refine h.deal fun _ => ?_
  split
  · exact (h.foldl fun _ _ h' => h'.freeze).send.done
  · dsimp only
    split
    exacts [((h.recall.ite Found.none) _ ‹_›).wait, (h.foldl fun _ _ h' => h'.invalidate).send.done]
  · exact h.wait

theorem execAuditRepeat_preserves {blk party} : Preserves (execAuditRepeat blk party) := by
  intro s h
  unfold execAuditRepeat
  split
  exacts [h.putAudit.send.next.ite h.next, h.next]

theorem Canonical.renewActive (h : Canonical s) {blk} : Canonical (s.renewActive blk) := h

theorem Canonical.endAudit (h : Canonical s) {a} : Canonical (s.endAudit a) := by
  unfold State.endAudit
  dsimp only
  split
  exacts [h.same.thaw.renewActive.sendAll.homeServe, h.same.thaw.renewActive.sendAll]

theorem Canonical.recreate (h : Canonical s) {a} : Canonical (s.recreate a) := by
  unfold State.recreate
  refine (Canonical.putAudit ?_).sendAll
  split
  exacts [h.setMemBlock _ _, h.ite h.setMeta]

theorem execAuditReport_preserves {id} : Preserves (execAuditReport id) := by
  intro s h
  unfold execAuditReport
  refine h.deal fun _ => ?_
  split
  · split
    exacts [h.send.done, h.done.ite (h.putAudit.done.ite (h.endAudit.done.ite (h.putAudit.done.ite h.recreate.done)))]
  · exact h.wait

theorem execAuditHoldoffExpire_preserves {blk} : Preserves (execAuditHoldoffExpire blk) := by
  intro s h
  unfold execAuditHoldoffExpire
  split
  exacts [h.recreate.next.ite h.next, h.next]

theorem Canonical.renew (h : Canonical s) {blk} : Canonical (s.renew blk) := (h.setHomeTokens.ite h.setMeta).same

theorem execRecreationAck_preserves {id} : Preserves (execRecreationAck id) := by
  intro s h
  unfold execRecreationAck
  refine h.deal fun _ => ?_
  split
  · split
    exacts [h.done, h.done.ite (h.renew.endAudit.done.ite h.putAudit.done)]
  · exact h.wait

theorem execUnfreeze_preserves {id} : Preserves (execUnfreeze id) := by
  intro s h
  unfold execUnfreeze
  refine h.deal fun _ => ?_
  split
  exacts [(h.foldl fun _ _ h' => h'.thaw.relearn).done, h.wait]

theorem Canonical.doAtomic (h : Canonical s) {m blk pa op x y tag ep} : Canonical (s.doAtomic m blk pa op x y tag ep) := by
  unfold State.doAtomic
  refine (Canonical.ite ?_ (Canonical.writeBlock ?_ _ _ _)).finishWant.replyTo
  · split
    exacts [h.reqRelease.ite h.markActed.reqRelease, h]
  · split
    exacts [h.reqRelease.ite h.markActed.reqRelease, h]

theorem Canonical.homeAtomic (h : Canonical s) {m pa op x y tag ep} : Deals (s.homeAtomic m pa op x y tag ep) := by
  unfold State.homeAtomic
  refine h.wait.ite (h.replyTo.done.ite (h.replyTo.done.ite (h.uncachedWrite.replyTo.done.ite (h.wait.ite (h.doAtomic.done.ite (h.wait.ite ?_))))))
  split
  exacts [(h.homeWaits _ ‹_›).wait, h.doAtomic.done.ite h.ask.wait]

theorem execHomeAtomic_preserves {id} : Preserves (execHomeAtomic id) := by
  intro s h
  unfold execHomeAtomic
  refine h.deal fun _ => ?_
  split
  exacts [h.homeAtomic, h.wait]

theorem Canonical.freeTag (h : Canonical s) {c id} : Canonical (s.freeTag c id) := h.modCoreBeside fun _ => by rfl

theorem Canonical.nextLane (h : Canonical s) {c r lane rest} : Canonical (s.nextLane c r lane rest) := by
  unfold State.nextLane
  dsimp only
  split
  · split
    exacts [h.noteSent.sendLanes, h.noteSent.sendLanes]
  · split
    exacts [(h.modCoreBeside fun _ => by rfl).sendLanes, (h.modCoreBeside fun _ => by rfl).sendLanes]
  · exact h

theorem Canonical.endLane (h : Canonical s) {c r lane} : Canonical (s.endLane c r lane) :=
  h.dropReq.dropStore.freeTag.reqAcquire.ite ((h.modCoreBeside fun _ => by rfl).freeTag.ite (h.modCoreBeside fun _ => by rfl).nextLane)

theorem Canonical.failLane (h : Canonical s) {c r l code} : Canonical (s.failLane c r l code) := h.modReq.nextLane.ite h.modReq.freeTag

theorem Canonical.atomAnswer (h : Canonical s) {c r lane st old} : Canonical (s.atomAnswer c r lane st old) := by
  unfold State.atomAnswer
  split
  · exact h
  · split
    · refine Canonical.endLane ?_
      split
      exacts [h, h.tell, h.tell, h]
    · dsimp only
      split
      exacts [h.markActed.putPend.endLane, h.markActed.putPend.tell.endLane, h.failLane, h.failLane]

theorem execAtomicReply_preserves {id} : Preserves (execAtomicReply id) := by
  intro s h
  unfold execAtomicReply
  refine h.deal fun _ => ?_
  split
  · refine Deals.ite ?_ ?_
    · split
      exacts [h.atomAnswer.done, h.done]
    · split
      exacts [h.atomAnswer.done, h.countStale.done]
  · exact h.wait

theorem Canonical.writeMasked (h : Canonical s) {b0 mask d} : Canonical (s.writeMasked b0 mask d) := h.foldl fun _ _ h' => h'.changeBlock _ _

theorem Canonical.maskPoison (h : Canonical s) {b0 mask} : Canonical (s.maskPoison b0 mask).2 := by
  unfold State.maskPoison
  refine Canonical.foldlBy Prod.snd h fun _ _ h' => ?_
  split
  · exact h'
  · split
    · exact h'.setPoison
    · exact h'

theorem Canonical.answerWindowLoad (h : Canonical s) {m pa tag ep} : Canonical (s.answerWindowLoad m pa tag ep) :=
  (h.replyTo.ite h.replyTo.markBad).ite (h.replyTo.ite h.send)

theorem execPublishedAccess_preserves {id} : Preserves (execPublishedAccess id) := by
  intro s h
  unfold execPublishedAccess
  refine h.deal fun _ => ?_
  split
  exacts [h.answerWindowLoad.done, h.wait.ite ((h.maskPoison.writeMasked.foldl fun _ _ h' => h'.setPoison).replyTo.done.ite h.replyTo.done),
    h.wait.ite (h.doAtomic.done.ite h.send.done), h.wait]

theorem execWindowWriteback_preserves {core blk} : Preserves (execWindowWriteback core blk) := by
  intro s h
  unfold execWindowWriteback
  split
  exacts [h.writeLeft.next, h.next]

theorem execMigrationPull_preserves {entry block} : Preserves (execMigrationPull entry block) := fun _ h => h.pull.next

/-! ### Machine/Engines -/

theorem Canonical.modCmd (h : Canonical s) {c id f} : Canonical (s.modCmd c id f) := h.modCoreBeside fun _ => by rfl
theorem Canonical.dropCmd (h : Canonical s) {c id} : Canonical (s.dropCmd c id) := h.modCoreBeside fun _ => by rfl
theorem Canonical.endCmd (h : Canonical s) {c t m} : Canonical (s.endCmd c t m) := h.dropCmd.moveHandle

theorem execCopyCommandStart_preserves {core id} : Preserves (execCopyCommandStart core id) := by
  intro s h
  unfold execCopyCommandStart
  split
  exacts [h.next, h.next.ite h.modCmd.next]

theorem Canonical.engineFault (h : Canonical s) {t m c} : Canonical (s.engineFault t m c) := h.raise.ite h.dropCmd.moveHandle
theorem Canonical.startEngineRead (h : Canonical s) {t m z vas p} : Canonical (s.startEngineRead t m z vas p) := h.enqueue

theorem Canonical.coverLocal (h : Canonical s) {t a n} : Canonical (s.coverLocal t a n) :=
  h.foldl fun _ _ h' => h'.foldl fun _ _ h'' => h''.clearPoison _ _ _

theorem Canonical.deliverLine (h : Canonical s) {t m bs} : Canonical (s.deliverLine t m bs) :=
  ((h.progress.coverLocal.writeLocal _ _ _).modTeam _ _).modCmd

theorem Canonical.copyIn (h : Canonical s) {t m n elem} : Canonical (s.copyIn t m n elem) := by
  unfold State.copyIn
  dsimp only
  split
  · exact h.deliverLine
  · split
    · split
      exacts [h.useFetch.engineFault, h.useFetch.deliverLine.ite h]
    · split
      exacts [h.engineFault, h.ite (h.startEngineRead.ite h.engineFault)]

theorem Canonical.copyOut (h : Canonical s) {t m n elem} : Canonical (s.copyOut t m n elem) := by
  unfold State.copyOut
  dsimp only
  split
  · exact h.modCmd
  · split
    exacts [h.engineFault, h.ite (h.modCmd.modCoreBeside fun _ => by rfl).fresh]

theorem Canonical.failPush (h : Canonical s) {t m cause detail peer va} : Canonical (s.failPush t m cause detail peer va) := h.reportFor.endCmd
theorem Canonical.cutPush (h : Canonical s) {t m peer va} : Canonical (s.cutPush t m peer va) := h.same.failPush

theorem Canonical.pushOne (h : Canonical s) {t m va} : Canonical (s.pushOne t m va) := by
  unfold State.pushOne
  refine h.failPush.ite ?_
  split
  exacts [h.engineFault, h.cutPush.ite h.send.modCmd]

theorem Canonical.sendContribution (h : Canonical s) {t m va index} : Canonical (s.sendContribution t m va index) := by
  unfold State.sendContribution
  refine h.failPush.ite ?_
  split
  exacts [h.engineFault, h.cutPush.ite h.send.modCmd]

theorem Canonical.moveLine (h : Canonical s) {t m} : Canonical (s.moveLine t m) := by
  unfold State.moveLine
  split
  exacts [h.copyIn, h.copyOut, h.deliverLine, h.pushOne, h.sendContribution]

theorem execCopyLineTransfer_preserves {core id} : Preserves (execCopyLineTransfer core id) := by
  intro s h
  unfold execCopyLineTransfer
  split
  exacts [h.next, h.moveLine.next.ite h.next]

theorem execCopyCommandComplete_preserves {core id} : Preserves (execCopyCommandComplete core id) := by
  intro s h
  unfold execCopyCommandComplete
  split
  · exact h.next
  · refine h.next.ite ?_
    split
    exacts [h.cutPush.next.ite (h.failPush.next.ite h.next), h.cutPush.next.ite (h.failPush.next.ite h.next), h.next.ite h.endCmd.next, h.endCmd.next]

theorem Canonical.putWindow (h : Canonical s) {c e off bs} : Canonical (s.putWindow c e off bs) :=
  (h.foldl fun _ _ h' => h'.clearPoison _ _ _).writeLocal _ _ _

theorem Canonical.setPushedIn (h : Canonical s) {dev id n} : Canonical (s.setPushedIn dev id n) := h
theorem Canonical.windowArrive (h : Canonical s) {e n} : Canonical (s.windowArrive e n) := h.arrive
theorem Canonical.finishPush (h : Canonical s) {m e id n} : Canonical (s.finishPush m e id n) := h.setPushedIn.windowArrive.send

theorem execPushLineWrite_preserves {id} : Preserves (execPushLineWrite id) := by
  intro s h
  unfold execPushLineWrite
  refine h.deal fun _ => ?_
  split
  · refine h.wait.ite ?_
    split
    · exact h.send.done.ite h.setPushedIn.send.done
    · refine h.setPushedIn.send.done.ite (h.send.done.ite ?_)
      dsimp only
      split
      exacts [h.wait.ite (h.ite h.putWindow).finishPush.done, h.putWindow.setPushedIn.done]
  · exact h.wait

theorem Canonical.addWords (h : Canonical s) {c e off ws} : Canonical (s.addWords c e off ws) := by
  have hf : ∀ (f : Mem → Nat → Mem) (l : List Nat), (∀ m k, m.wf = true → (f m k).wf = true) →
      ∀ m : Mem, m.wf = true → (l.foldl f m).wf = true := by
    intro f l hf
    induction l with
    | nil => exact fun _ hm => hm
    | cons k l ih => exact fun m hm => ih _ (hf m k hm)
  exact h.modCore _ _ fun k hk => hf _ _ (fun _ _ hm => Mem.wf_write _ _ hm) _ hk

theorem Canonical.wakeSender (h : Canonical s) {dst c obj rnext} : Canonical (s.wakeSender dst c obj rnext) := by
  unfold State.wakeSender
  split
  exacts [h, (h.modCoreBeside fun _ => by rfl).send]

theorem execContributionArrival_preserves {id} : Preserves (execContributionArrival id) := by
  intro s h
  unfold execContributionArrival
  refine h.deal fun _ => ?_
  split
  · dsimp only
    split
    · exact h.send.done
    · refine h.send.done.ite (h.send.done.ite ?_)
      split
      exacts [h.send.done,
        h.send.done.ite (h.addWords.setObject.windowArrive.send.wakeSender.done.ite ((h.modCoreBeside fun _ => by rfl).send.done.ite h.send.done))]
  · exact h.wait

theorem Canonical.nextWindow (h : Canonical s) {t m dev} : Canonical (s.nextWindow t m dev) := h.ite (h.modCmd.ite h.failPush)

theorem execPushAck_preserves {id} : Preserves (execPushAck id) := by
  intro s h
  unfold execPushAck
  refine h.deal fun _ => ?_
  split
  · split
    · exact h.done
    · split
      · exact h.done
      · refine h.wait.ite ?_
        split
        exacts [h.endCmd.done, h.nextWindow.done, h.failPush.done, h.modCmd.done, h.modCmd.done, h.done]
  · exact h.wait

theorem execPushRetry_preserves {core id} : Preserves (execPushRetry core id) :=
  fun _ h => h.next.ite (h.modCmd.foldl fun _ _ h' => h'.dropMsg.send).next

theorem execContributionRetry_preserves {core id} : Preserves (execContributionRetry core id) := by
  intro s h
  unfold execContributionRetry
  split
  · exact h.same.next.ite h.next
  · split
    exacts [h.same.sendContribution.next.ite h.next, h.next]

/-! ### Machine/Admission -/

theorem Canonical.gatherLaunch (h : Canonical s) {l} : Found id (s.gatherLaunch l) := h.gatherOwn

theorem execLaunchTake_preserves {launch} : Preserves (execLaunchTake launch) := by
  intro s h
  unfold execLaunchTake
  split
  · exact h.next
  · refine h.next.ite (h.modQueue.modLaunch.next.ite ?_)
    split
    · exact ((h.gatherLaunch.ite Found.none) _ ‹_›).next
    · dsimp only
      split
      exacts [h.modQueue.modLaunch.dropOwn.markRetiring.next,
        h.modQueue.modLaunch.dropOwn.markRetiring.next.ite h.modQueue.modLaunch.dropOwn.modLaunch.next]

theorem Canonical.gatherRecords (h : Canonical s) {l k} : Found id (s.gatherRecords l k) := h.gatherOwn

theorem Canonical.takeAll {c l} (h : Canonical s) : Canonical (s.takeAll c l).1 := by
  induction l generalizing s with
  | nil => exact h
  | cons x l ih =>
    unfold State.takeAll
    split
    exacts [ih (h.takeBlocks _ ‹_›), ih h]

theorem Canonical.startBlocks (h : Canonical s) {c k} : Canonical (s.startBlocks c k).1 := by
  unfold State.startBlocks
  split
  · exact h.takeAll
  · exact h.takeAll

theorem Canonical.takeRange (h : Canonical s) {c size} : Canonical (s.takeRange c size).2 := by
  unfold State.takeRange
  split
  · exact h
  · split
    exacts [h.claimRange.clearLocal, h]

theorem Canonical.place (h : Canonical s) {l k c num cond} : Found id (s.place l k c num cond) := by
  unfold State.place
  dsimp only
  split
  · have hr : Canonical ((s.startBlocks c k).1.takeRange c k.localSize).2 := h.startBlocks.takeRange
    exact hr.putBack.some.ite hr.same.fresh.modLaunch.acquireViews.some
  · exact .none

theorem Canonical.startLaunch (h : Canonical s) {l} : Canonical (s.startLaunch l) := by
  unfold State.startLaunch
  split
  exacts [h.modLaunch.writeStatus, h]

theorem Canonical.keepPromise (h : Canonical s) {l} : Canonical (s.keepPromise l) := by
  refine h.mapCores rfl (fun k => ?_) rfl rfl
  split <;> rfl

theorem Canonical.placeGrid {l k n num} (h : Canonical s) : Found id (s.placeGrid l k n num) := by
  induction n generalizing s num with
  | zero => exact h.some
  | succ n ih =>
    unfold State.placeGrid
    split
    exacts [h.place.bind fun _ h' => ih h', .none]

theorem execTeamAdmit_preserves {launch core} : Preserves (execTeamAdmit launch core) := by
  intro s h
  unfold execTeamAdmit
  split
  · exact h.next
  · refine h.next.ite ?_
    split
    · exact (h.gatherRecords _ ‹_›).next
    · split
      exacts [(h.place _ ‹_›).dropOwn.startLaunch.keepPromise.same.next, h.fail.next]

theorem execGridWholeAdmit_preserves {launch} : Preserves (execGridWholeAdmit launch) := by
  intro s h
  unfold execGridWholeAdmit
  split
  · exact h.next
  · split
    · exact h.next
    · refine h.next.ite ?_
      split
      · exact ((h.gatherRecords.ite Found.none) _ ‹_›).next
      · refine h.fail.next.ite (h.next.ite ?_)
        split
        exacts [h.next, (h.placeGrid _ ‹_›).same.dropOwn.startLaunch.keepPromise.same.next]

theorem execQueueHeadStarve_preserves {q} : Preserves (execQueueHeadStarve q) := by
  intro s h
  unfold execQueueHeadStarve
  split
  exacts [h.modLaunch.next.ite h.next, h.next]

theorem execHostLaunchWrite_preserves {q r} : Preserves (execHostLaunchWrite q r) := fun _ h => h.offer.next.ite h.next

theorem Canonical.disarm (h : Canonical s) {t obj} : Canonical (s.disarm t obj) := by
  unfold State.disarm
  split
  · exact h.setObject
  · dsimp only
    split
    · split
      exacts [(h.writeVa _ ‹_›), h.fail]
    · exact h.fail

theorem execArmedLaunchEnqueue_preserves {core slot} : Preserves (execArmedLaunchEnqueue core slot) := by
  intro s h
  unfold execArmedLaunchEnqueue
  split
  · exact h.next
  · refine h.next.ite ?_
    split
    · next hg => exact (h.gatherClass _ hg).next
    · split
      · next hg =>
        obtain ⟨t, -, ht⟩ := Option.bind_eq_some_iff.1 hg
        split at ht
        · cases ht
        · exact (h.gatherOwn _ ht).next
      · dsimp only
        split
        exacts [(h.accept.modCoreBeside fun _ => by rfl).disarm.next, (h.accept.modCoreBeside fun _ => by rfl).next]

theorem Canonical.putFlow (h : Canonical s) {f} : Canonical (s.putFlow f) := h
theorem Canonical.countLine (h : Canonical s) {src pa num} : Canonical (s.countLine src pa num) := h.putFlow.ite h
theorem Canonical.offerLine (h : Canonical s) {q m id r} : Canonical (s.offerLine q m id r) := h.offer

theorem Canonical.drainFlow {n src q} (h : Canonical s) : Canonical (State.drainFlow n s src q) := by
  induction n generalizing s with
  | zero => exact h
  | succ n ih =>
    unfold State.drainFlow
    dsimp only
    split
    · exact h
    · split
      exacts [ih h.putFlow.offerLine, h.putFlow]

theorem Canonical.plainLine (h : Canonical s) {m id pa r} : Canonical (s.plainLine m id pa r) := h

theorem Canonical.takeLine (h : Canonical s) {q m pid num r} : Canonical (s.takeLine q m pid num r) :=
  h.ite (h.putFlow.offerLine.drainFlow.ite (h.putFlow.ite h.replyTo))

theorem execLaunchLine_preserves {id} : Preserves (execLaunchLine id) := by
  intro s h
  unfold execLaunchLine
  refine h.deal fun _ => ?_
  split
  · split
    exacts [h.countLine.plainLine.wait, h.takeLine.done]
  · exact h.wait

theorem execLaunchLinePassOver_preserves {src q} : Preserves (execLaunchLinePassOver src q) := fun _ h => h.next.ite h.putFlow.drainFlow.next

theorem execLaunchLineResend_preserves {id} : Preserves (execLaunchLineResend id) := by
  intro s h
  unfold execLaunchLineResend
  split
  exacts [h.modPost.send.next.ite h.next, h.next]

/-! ### Machine/Fetch -/

theorem Canonical.pick (h : Canonical s) : Found Prod.snd s.pick := by
  unfold State.pick
  split
  · exact .none
  · exact .some h
  · intro p hp
    obtain ⟨r, -, rfl⟩ := Option.map_eq_some_iff.1 hp
    exact h.drawn

/-- The state that the fetch of a unit leaves, unless it meets a cause. -/
def Unit16.state? : Unit16 → Option State
  | .bytes _ s => some s
  | .cause _ => none
  | .wait s => some s

/-- The state in which a fetched instruction runs, or that the fetch leaves. -/
def Fetched.state : Fetched → State
  | .run _ s => s
  | .done s => s

theorem Canonical.fetchUnit (h : Canonical s) {t va pc} : Found id (s.fetchUnit t va pc).state? := by
  unfold State.fetchUnit
  split
  · exact .none
  · next p _ =>
    have hg : Found id (if isRegs p.pa then none else s.gatherBlock (blkOf p.home p.pa) false) := .ite .none h.gatherBlock
    split
    · exact h.pullAt.some
    · split
      · split
        · exact h.some
        · split
          · exact .none
          · split
            · next hu => exact (hg _ hu).some
            · exact h.reqRelease.reqAcquire.some
      · split
        · exact .none
        · dsimp only
          split
          · split <;> exact h.some
          · split
            exacts [h.some, h.startFetch.some]

theorem Canonical.endFetch (h : Canonical s) {t va} : Canonical (s.endFetch t va) := by
  unfold State.endFetch
  split
  exacts [h.useFetch, h]

theorem Canonical.fetchCode (h : Canonical s) {t} : Found id (s.fetchCode t).state? := by
  unfold State.fetchCode
  dsimp only
  split
  · next hb =>
    have hu := h.fetchUnit _ (congrArg Unit16.state? hb)
    split
    · split
      · split
        · next hb' => exact (hu.fetchUnit _ (congrArg Unit16.state? hb')).endFetch.endFetch.some
        · exact hu.fetchUnit
      · exact hu.endFetch.some
    · exact hu.some
  · exact h.fetchUnit

theorem Canonical.fetchInstr (h : Canonical s) {t} : Canonical (s.fetchInstr t).state := by
  unfold State.fetchInstr
  split
  · exact h.raise
  · next hw => exact (h.fetchCode _ (congrArg Unit16.state? hw)).stall
  · next hb =>
    have hu := h.fetchCode _ (congrArg Unit16.state? hb)
    split
    · exact hu
    · exact hu.raise
    · dsimp only
      split
      exacts [hu.advance, hu.raise]
    · exact hu.stall

/-! ### Machine/Saving -/

theorem Canonical.vacate (h : Canonical s) {t points} : Canonical (s.vacate t points) := h.freeRegisters.same
theorem Canonical.suspend (h : Canonical s) {t} : Canonical (s.suspend t) := h.same.modCoreBeside fun _ => by rfl

theorem Canonical.finishSave (h : Canonical s) {s0 t why points} : Canonical (State.finishSave s0 s t why points) :=
  ((h.ite h.vacate).modTeam _ _).clearSaveReq.reseed

theorem Canonical.endSave (h : Canonical s) {t why points} : Canonical (s.endSave t why points) := by
  unfold State.endSave
  extract_lets dissolved released
  have hr : Canonical released := (h.dropLoads.dropGrants.modTeam _ _).suspend.idleEngines.releaseOf
  split
  · exact hr
  · refine hr.fail.ite ?_
    split
    · exact hr.fail
    · next hw =>
      have hu := hr.writeFrame _ hw
      exact (hu.modTeam _ _).ite hu.finishSave

theorem execTeamSaveComplete_preserves {team} : Preserves (execTeamSaveComplete team) := by
  intro s h
  unfold execTeamSaveComplete
  split
  · exact h.next
  · split
    exacts [h.fail.next.ite (h.next.ite h.endSave.next), h.fail.next.ite (h.next.ite h.finishSave.next), h.next]

theorem execRegisterDeadlockEvict_preserves {core} : Preserves (execRegisterDeadlockEvict core) := by
  intro s h
  unfold execRegisterDeadlockEvict
  refine h.next.ite ?_
  dsimp only
  split
  exacts [(h.modCoreBeside fun _ => by rfl).next, ((h.modCoreBeside fun _ => by rfl).modTeam _ _).next]

theorem execStarvationTimeout_preserves {team fib} : Preserves (execStarvationTimeout team fib) := by
  intro s h
  unfold execStarvationTimeout
  split
  exacts [h.next, h.next.ite (h.abandon.modTeam _ _).raise.next]

theorem execPreempt_preserves {q team} : Preserves (execPreempt q team) := by
  intro s h
  unfold execPreempt
  split
  · dsimp only
    split
    exacts [h.next, h.next.ite ((h.modTeam _ _).modCoreBeside fun _ => by rfl).next]
  · exact h.next

theorem execPreemptStopTimeout_preserves {team} : Preserves (execPreemptStopTimeout team) := by
  intro s h
  unfold execPreemptStopTimeout
  split
  · exact h.next
  · split
    exacts [h.next.ite (h.modTeam _ _).next, h.next]

theorem execSaveRequestWrite_preserves {core v} : Preserves (execSaveRequestWrite core v) := fun _ h => h.requestSave.next

theorem execErrorQueueOverflowTrap_preserves {team} : Preserves (execErrorQueueOverflowTrap team) := by
  intro s h
  unfold execErrorQueueOverflowTrap
  split
  · exact h.next
  · split
    exacts [(((h.modCoreBeside fun _ => by rfl).ite h).modTeam _ _).next.ite h.next, h.next]

theorem Canonical.startHandler (h : Canonical s) {h'} : Canonical (s.startHandler h') := by
  unfold State.startHandler
  split
  exacts [h, h.ite (h.fail.ite (h.ite (h.modTeam _ _).acquireViews))]

theorem execTrapHandlerEntry_preserves {core} : Preserves (execTrapHandlerEntry core) := by
  intro s h
  unfold execTrapHandlerEntry
  split
  · split
    exacts [h.startHandler.next, h.next]
  · extract_lets popped
    have hp : Canonical popped := h.modCoreBeside fun _ => by rfl
    split
    · exact hp.next
    · refine h.next.ite ?_
      dsimp only
      split
      · next hg => exact (h.gatherOwn _ hg).next
      · split
        · exact hp.fail.next
        · split
          · exact hp.fail.next
          · next hw =>
            have hu := hp.dropOwn.setMoving.writeFrameLocal _ hw
            exact (hu.same.fresh.modCoreBeside fun _ => by rfl).startHandler.next
  · exact h.next

theorem execPagingQueueWrite_preserves {team} : Preserves (execPagingQueueWrite team) := by
  intro s h
  unfold execPagingQueueWrite
  split
  · exact h.next
  · split
    · refine h.next.ite ?_
      split
      exacts [((h.gatherBlock.ite Found.none) _ ‹_›).next, ((h.drawn.writePa _ _).homeDone.sameHost.modTeam _ _).next]
    · exact h.next

theorem execPagingReadIndexWrite_preserves {rd} : Preserves (execPagingReadIndexWrite rd) := fun _ h => h.setPagingRd.next
theorem execResumeTicketWrite_preserves {ticket} : Preserves (execResumeTicketWrite ticket) := fun _ h => h.resumeTicket.next

theorem Canonical.moveTo (h : Canonical s) {t c} : Canonical (s.moveTo t c) := by
  unfold State.moveTo
  refine h.ite ((((Canonical.dropOwn ?_).modCoreBeside fun _ => by rfl).modCoreBeside fun _ => by rfl).modTeam _ _)
  split
  exacts [(h.foldl fun _ _ h' => h'.claim.addFree.ite h').claimLocal.dropArms, h.foldl fun _ _ h' => h'.claim.addFree.ite h']

theorem Canonical.windowBlocks (h : Canonical s) {c ling i n} : Canonical (s.windowBlocks c ling i n).2 := by
  unfold State.windowBlocks
  dsimp only
  split
  · next hb =>
    have hu := h.takeBlocks _ hb
    exact hu
  · exact h

theorem Canonical.allWindows {c ling y l} (h : Canonical s) : Canonical (s.allWindows c ling y l).2 := by
  induction l generalizing s with
  | nil => exact h
  | cons i is ih => exact ih h.windowBlocks

theorem Canonical.localBack (h : Canonical s) {t} : Found Prod.snd (s.localBack t) := by
  refine .ite (.some h) ?_
  have hr : Canonical (s.takeRange t.core t.kernel.localSize).2 := h.takeRange
  dsimp only
  split
  · exact Found.some (get := Prod.snd) (a := (_, _)) (hr.writeLocal _ _ _)
  · exact .none

theorem Canonical.reopenWindow (h : Canonical s) {c base e} : Canonical (s.reopenWindow c base e) := by
  refine (h.foldl fun _ _ h' => ?_).modCoreBeside fun _ => by rfl
  dsimp only
  split
  exacts [(h'.writeLocal _ _ _).finishWant, h']

theorem Canonical.runAgain (h : Canonical s) {y} : Canonical (s.runAgain y) := h.progressBack.dropOwn.fresh.resumeTeam

theorem Canonical.readmit (h : Canonical s) {t c} : Canonical (s.readmit t c) := by
  unfold State.readmit
  extract_lets moved
  have hm : Canonical moved := h.moveTo
  split
  · exact hm
  · split
    · next hg => exact hm.gatherFrame _ hg
    · split
      · exact hm.fail
      · refine h.ite ?_
        have hw {t c ling y l} : Canonical ((moved.modTeam t fun t => { t with linger := [] }).allWindows c ling y l).2 :=
          (hm.modTeam _ _).allWindows
        dsimp only
        split
        · exact hw.putBack.fail
        · next hl =>
          have hu := hw.localBack _ hl
          exact hu.putBack.ite (hu.foldl fun _ _ h' => h'.reopenWindow).runAgain

theorem execTeamReadmit_preserves {team core} : Preserves (execTeamReadmit team core) := by
  intro s h
  unfold execTeamReadmit
  split
  · exact h.next
  · refine h.next.ite (h.fail.next.ite ?_)
    split
    · exact (h.gatherFrame _ ‹_›).next
    · refine (h.dropOwn.returnTokens.ite h.dropOwn).next.ite (Keeps.ite ?_ (h.claimLocal.next.ite ?_))
      · split
        exacts [h.runAgain.next, h.fail.next]
      · split
        exacts [(h.returnTokens.modTeam _ _).next,
          (h.foldl fun _ _ h' => h'.writeLeft).next.ite (h.readmit.next.ite (h.foldl fun _ _ h' => h'.ask).next)]

theorem execGroupingStagePass_preserves {core} : Preserves (execGroupingStagePass core) := fun _ h => h.same.next

theorem execGatheringPoolClose_preserves {team target} : Preserves (execGatheringPoolClose team target) := by
  intro s h
  unfold execGatheringPoolClose
  split
  · exact h.next
  · split
    exacts [(h.modTeam _ _).next.ite h.next, h.next]

/-! ### Machine/Retiring -/

theorem execTeamEndFree_preserves {team} : Preserves (execTeamEndFree team) := by
  intro s h
  unfold execTeamEndFree
  split
  exacts [h.next, h.next.ite (h.freeRegisters.modTeam _ _).next]

theorem Canonical.retireTeam (h : Canonical s) {t} : Canonical (s.retireTeam t) := by
  unfold State.retireTeam
  exact h.releaseViews.unpublishAll.dropArms.same.modLaunch.reseed

theorem execTeamRetire_preserves {team} : Preserves (execTeamRetire team) := by
  intro s h
  unfold execTeamRetire
  split
  exacts [h.next, h.next.ite h.retireTeam.next]

theorem Canonical.settleGone (h : Canonical s) {l} : Canonical (s.settleGone l) := (h.foldl fun _ _ h' => h'.releaseViews).same

theorem Canonical.wakeParent (h : Canonical s) {team} : Canonical (s.wakeParent team) := by
  unfold State.wakeParent
  split
  exacts [h, h.ite h.acquireOf.release]

theorem execLaunchRetire_preserves {launch} : Preserves (execLaunchRetire launch) := by
  intro s h
  unfold execLaunchRetire
  split
  · exact h.next
  · split
    · exact h.next
    · next l _ _ r _ =>
      have hc : Canonical ((((s.settleGone launch).modLaunch launch fun l => { l with status := .retired r }).keepPromise
          launch).writeStatus l 3 r false) := h.settleGone.modLaunch.keepPromise.writeStatus
      dsimp only
      split
      exacts [(hc.complete.iteThen (·.modLaunch)).wakeParent.next, (hc.complete.iteThen (·.modLaunch)).next]

theorem execCompletionWriteFail_preserves {launch} : Preserves (execCompletionWriteFail launch) := by
  intro s h
  unfold execCompletionWriteFail
  split
  · exact h.next
  · split
    exacts [h.modLaunch.writeStatus.next.ite h.next, h.next]

/-! ### Machine/Fabric -/

theorem execFrameReplay_preserves {_d _e} : Preserves (execFrameReplay _d _e) := fun _ h => h.next
theorem Canonical.inject (h : Canonical s) {d ids} : Canonical (s.inject d ids) := h.modDie
theorem Canonical.loseLink (h : Canonical s) {d e} : Canonical (s.loseLink d e) := h.inject.inject.modDie.modDie
theorem execLinkDead_preserves {d e} : Preserves (execLinkDead d e) := fun _ h => h.next.ite h.loseLink.next
theorem Canonical.losePort (h : Canonical s) {p} : Canonical (s.losePort p) := h.same.inject
theorem execPortFailure_preserves {p} : Preserves (execPortFailure p) := fun _ h => h.next.ite h.losePort.next
theorem Canonical.mismatch (h : Canonical s) {p} : Canonical (s.mismatch p) := h
theorem Canonical.sendTo (h : Canonical s) {peer full n} : Canonical (s.sendTo peer full n) := h

theorem Canonical.portSlot (h : Canonical s) {xs p} : Canonical (s.portSlot xs p) := by
  unfold State.portSlot
  refine h.ite ?_
  split
  exacts [h.mismatch, h.same.sendTo]

theorem execRotorSlotStart_preserves {xs} : Preserves (execRotorSlotStart xs) := fun _ h => h.next.ite (h.foldl fun _ _ h' => h'.portSlot).same.next
theorem execOrbitStart_preserves : Preserves execOrbitStart := fun _ h => h.next.ite h.same.next
theorem execScheduleDigest_preserves {peer entries} : Preserves (execScheduleDigest peer entries) := fun _ h => h.same.next
theorem execDigestDiscard_preserves {peer} : Preserves (execDigestDiscard peer) := fun _ h => h.same.next
theorem execRelayForward_preserves {m} : Preserves (execRelayForward m) := fun _ h => h.next.ite h.same.fresh.next
theorem execMessageAgeDrop_preserves {id} : Preserves (execMessageAgeDrop id) := fun _ h => h.same.next
theorem Canonical.takeIn (h : Canonical s) {m p} : Canonical (s.takeIn m p) := h.same.fresh

theorem Canonical.answerLoad (h : Canonical s) {m pa mask tag ep} : Canonical (s.answerLoad m pa mask tag ep) :=
  h.replyTo.ite (h.replyTo.ite h.replyTo.markBad)

theorem Canonical.serveLoad (h : Canonical s) {m pa mask tag ep} : Deals (s.serveLoad m pa mask tag ep) := by
  unfold State.serveLoad
  split
  exacts [(h.gatherAll _ ‹_›).wait, h.answerLoad.homeDone.done]

theorem execHomeLoad_preserves {id} : Preserves (execHomeLoad id) := by
  intro s h
  unfold execHomeLoad
  refine h.deal fun _ => ?_
  split
  exacts [h.serveLoad, h.wait]

theorem execDeliver_preserves {m} : Preserves (execDeliver m) := by
  intro s h
  unfold execDeliver
  refine h.next.ite ?_
  extract_lets spread
  have hs : ∀ blk, Canonical (spread blk) := fun blk => h.foldl fun _ _ h' => h'.takeIn
  split
  · exact (hs _).next
  · exact (hs _).next
  · exact (hs _).next
  · exact (h.takeIn.ite (hs _)).next
  · refine h.takeIn.next.ite ?_
    split
    · next hd => exact (h.serveLoad _ (.inl hd)).next
    · next hd => exact (h.serveLoad _ (.inr hd)).takeIn.next
  · exact h.takeIn.next

theorem Canonical.dropPrefetch (h : Canonical s) {c id} : Canonical (s.dropPrefetch c id) := h.modCoreBeside fun _ => by rfl
theorem Canonical.failReq (h : Canonical s) {c id code} : Canonical (s.failReq c id code) := h.modReq.freeTag.dropPrefetch
theorem Canonical.retireTag (h : Canonical s) {c id} : Canonical (s.retireTag c id) := h.modCoreBeside fun _ => by rfl

theorem Canonical.withdrawAll (h : Canonical s) {c blks} : Canonical (s.withdrawAll c blks) := by
  unfold State.withdrawAll
  refine h.foldl fun _ _ h' => ?_
  split
  exacts [h'.withdraw, h']

theorem Canonical.reAsk (h : Canonical s) {c blks} : Canonical (s.reAsk c blks) := h.foldl fun _ _ h' => h'.foldl fun _ _ h'' => h''.askCore
theorem Canonical.giveUp (h : Canonical s) {c blks} : Canonical (s.giveUp c blks) := h.withdrawAll.reAsk
theorem Canonical.abandonLine (h : Canonical s) {c r code} : Canonical (s.abandonLine c r code) := (h.giveUp.ite h).same.retireTag.modReq.dropPrefetch

theorem execRemoteLoadTimeout_preserves {core id} : Preserves (execRemoteLoadTimeout core id) := by
  intro s h
  unfold execRemoteLoadTimeout
  split
  exacts [h.next, h.next.ite (h.abandonLine.next.ite (h.next.ite h.abandonLine.next))]

theorem Canonical.homeNeeds (h : Canonical s) {blk} : Found id (s.homeNeeds blk) := by
  unfold State.homeNeeds
  refine (h.some.ite Found.none).ite (h.some.ite (Found.ite .none ?_))
  split
  exacts [(h.hostGrants _ ‹_›).some, Found.ite .none h.ask.some]

theorem Canonical.homePut (h : Canonical s) {pa bs} : Canonical (s.homePut pa bs) := h.putBlock.finishWant

theorem Canonical.linePoison (h : Canonical s) {pa mask} : Canonical (s.linePoison pa mask).2 := by
  unfold State.linePoison
  split
  · exact h.maskPoison
  · exact h

theorem Canonical.applyPosted (h : Canonical s) {m id pa mask d} : Canonical (s.applyPosted m id pa mask d) := by
  unfold State.applyPosted
  refine h.replyTo.ite ?_
  split
  exacts [h.offerLine.ite h.replyTo, h.linePoison.writeMasked.replyTo.ite (h.linePoison.foldl fun _ _ h' => h'.uncachedWrite).replyTo]

theorem Canonical.applyRed (h : Canonical s) {m id pa op x} : Canonical (s.applyRed m id pa op x) :=
  h.replyTo.ite (h.replyTo.ite h.uncachedWrite.replyTo)

theorem Canonical.passedOn (h : Canonical s) {m pa back f} (hf : Canonical (f s)) : Deals (s.passedOn m pa back f) :=
  h.wait.ite (hf.done.ite h.send.done)

theorem Canonical.redAtWindow (h : Canonical s) {m id pa op x} : Deals (s.redAtWindow m id pa op x) :=
  h.passedOn (h.writeBlock _ _ _).replyTo

theorem Canonical.takeStored (h : Canonical s) {m b} : Canonical (s.takeStored m b) := by
  unfold State.takeStored
  refine h.countStale.ite ?_
  dsimp only
  split
  exacts [h.homeReceive.setPoison.homeServe, h.homeReceive.setPoison]

theorem execPostedWrite_preserves {id} : Preserves (execPostedWrite id) := by
  intro s h
  unfold execPostedWrite
  refine h.deal fun m => ?_
  split
  · dsimp only
    split
    · next hg => exact (h.gatherAll _ hg).wait
    · exact h.applyPosted.homeDone.done
  · refine h.redAtWindow.ite ?_
    dsimp only
    split
    · next hg => exact (h.gatherAll _ hg).wait
    · exact h.applyRed.homeDone.done
  · refine h.wait.ite (Canonical.done ?_)
    have hs : ∀ l : List (Nat × BitVec 8 × BlockData), Canonical (l.foldl (fun s b => s.takeStored m b) s) :=
      fun l => h.foldl fun _ _ h' => h'.takeStored
    refine (hs _).ite ?_
    split
    · refine Canonical.replyTo ((hs _).getD fun u hu => ?_)
      obtain ⟨n, -, rfl⟩ := Option.map_eq_some_iff.1 hu
      exact (hs _).countLine
    · split
      exacts [(hs _).takeLine, (hs _).replyTo]
  · exact h.wait

theorem Canonical.dropShadows (h : Canonical s) {p} : Canonical (s.dropShadows p) := h.ite h.same

theorem Canonical.dropAgain (h : Canonical s) {p} : Canonical (s.dropAgain p) := by
  unfold State.dropAgain
  refine h.ite (h.foldl fun _ _ h' => ?_)
  split
  exacts [h'.ite h'.withdraw, h']

theorem Canonical.flagsAfter (h : Canonical s) {p} : Canonical (s.flagsAfter p) := by
  unfold State.flagsAfter
  refine h.foldl fun _ _ h' => ?_
  split
  exacts [h'.ite h'.sendFlag, h']

theorem Canonical.nextTurn (h : Canonical s) {p} : Canonical (s.nextTurn p) := by
  unfold State.nextTurn
  dsimp only
  split
  · exact h
  · refine ((h.modCoreBeside fun _ => by rfl).iteThen (·.dropStore)).ite ((h.modCoreBeside fun _ => by rfl).tell.dropStore.ite ?_)
    split
    exacts [(h.modCoreBeside fun _ => by rfl).postReds, (h.modCoreBeside fun _ => by rfl).postStores]

theorem Canonical.endPost (h : Canonical s) {p} : Canonical (s.endPost p) := h.dropPost.nextTurn.settleArrivals.reqAcquire

theorem Canonical.failPost (h : Canonical s) {p cause detail} : Canonical (s.failPost p cause detail) :=
  h.endPost.reportPost.flagTold.ite ((h.endPost.reportPost.iteThen (·.voidFlags)).same.modCoreBeside fun _ => by rfl)

theorem Canonical.lineRefused (h : Canonical s) {w} : Canonical (s.lineRefused w) :=
  (h.withdraw.foldl fun _ _ h' => h'.foldl fun _ _ h'' => h''.abandonLine).foldl fun _ _ h' => h'.failPost.giveUp

theorem Canonical.otherAnswer (h : Canonical s) {id st d} : Canonical (s.otherAnswer id st d) := by
  unfold State.otherAnswer
  dsimp only
  split
  · exact h.hostAnswer.endSnoop
  · split
    exacts [h.lineRefused, h]
  · exact h

theorem Canonical.lineCame (h : Canonical s) {c r data} : Canonical (s.lineCame c r data) := h.modReq.freeTag

theorem execRemoteResponse_preserves {id} : Preserves (execRemoteResponse id) := by
  intro s h
  unfold execRemoteResponse
  refine h.deal fun _ => ?_
  split
  · split
    · exact (h.otherAnswer.ite h.countStale).done
    · split
      exacts [h.lineCame.done, h.lineCame.settleLoad.done.ite h.lineCame.modReq.done, h.failReq.done]
  · exact h.wait

theorem Canonical.recollect (h : Canonical s) {p} : Canonical (s.recollect p) := h.modPost.foldl fun _ _ h' => h'.askCore

theorem Canonical.postAnswer (h : Canonical s) {p st} : Canonical (s.postAnswer p st) := by
  unfold State.postAnswer
  split
  exacts [h.endPost.dropShadows.dropAgain.flagsAfter, h.modPost.ite (h.dropShadows.recollect.ite (h.send.ite h.recollect)), h.failPost,
    h.dropShadows.failPost, h.dropShadows.failPost, h.dropShadows.failPost, h.failPost]

theorem execPostedWriteAck_preserves {id} : Preserves (execPostedWriteAck id) := by
  intro s h
  unfold execPostedWriteAck
  refine h.deal fun _ => ?_
  split
  · split
    exacts [h.postAnswer.done, h.done]
  · split
    exacts [h.postAnswer.done, h.done]
  · exact h.wait

theorem execPostedWriteTimeout_preserves {post} : Preserves (execPostedWriteTimeout post) := by
  intro s h
  unfold execPostedWriteTimeout
  split
  · exact h.next.ite ((h.failPost.ite h).next.ite (h.same.failPost.next.ite (h.failPost.next.ite h.next)))
  · split
    · split
      exacts [h.next.ite (h.tell.same.dropReq.dropStore.next.ite (h.tell.dropReq.dropStore.next.ite h.next)), h.next]
    · exact h.next

theorem Canonical.postPoison (h : Canonical s) {p h'} : Canonical (s.postPoison p h') :=
  h.setPoison.ite (h.ite (h.setPoison.ite h.reportPost.modPost))

theorem Canonical.giveStored (h : Canonical s) {p h'} : Canonical (s.giveStored p h') :=
  h.reqRelease.postPoison.putHold.finishWant.dropHold.loseCopy.same

theorem Canonical.lineNum (h : Canonical s) {p} : Canonical (s.lineNum p).2 := by
  unfold State.lineNum
  split
  · exact h
  · split
    · exact h
    · exact h.lineNumber

theorem execStoreLinePost_preserves {post} : Preserves (execStoreLinePost post) := by
  intro s h
  unfold execStoreLinePost
  split
  · exact h.next
  · refine h.next.ite ?_
    split
    exacts [h.next, (h.foldl fun _ _ h' => h'.giveStored).lineNum.modPost.reAsk.send.next]

theorem execStoreLineTimeout_preserves {post} : Preserves (execStoreLineTimeout post) := by
  intro s h
  unfold execStoreLineTimeout
  split
  exacts [h.next, h.next.ite (h.failPost.giveUp.next.ite (h.next.ite h.failPost.giveUp.next))]

theorem Canonical.askAgain (h : Canonical s) {p b} : Canonical (s.askAgain p b) := by
  unfold State.askAgain
  dsimp only
  split
  · split
    exacts [h.sendPersist, h]
  · exact h.same.fresh.sendPersist

theorem execStoreAckTimeout_preserves {post} : Preserves (execStoreAckTimeout post) := by
  intro s h
  unfold execStoreAckTimeout
  split
  · exact h.next
  · refine h.next.ite (h.same.dropShadows.failPost.next.ite (h.next.ite (h.dropShadows.failPost.next.ite ?_)))
    split
    exacts [(h.foldl fun _ _ h' => h'.finishWant).dropShadows.endPost.next, (h.foldl fun _ _ h' => h'.askAgain).next]

theorem Canonical.applyFlagged (h : Canonical s) {m id pa w flag} : Deals (s.applyFlagged m id pa w flag) := by
  unfold State.applyFlagged
  refine h.replyTo.done.ite (h.replyTo.done.ite ?_)
  split
  · exact (h.homeNeeds _ ‹_›).wait
  · refine h.homePut.replyTo.done.ite ?_
    split
    exacts [h.homePut.send.done, h.homePut.replyTo.done]

theorem Canonical.flaggedAtWindow (h : Canonical s) {m id pa w flag} : Deals (s.flaggedAtWindow m id pa w flag) := by
  refine h.passedOn (Canonical.ite (h.writeBlock _ _ _).replyTo ?_)
  split
  exacts [(h.writeBlock _ _ _).send, (h.writeBlock _ _ _).replyTo]

theorem execFlaggedData_preserves {id} : Preserves (execFlaggedData id) := by
  intro s h
  unfold execFlaggedData
  refine h.deal fun _ => ?_
  split
  exacts [h.applyFlagged.ite h.flaggedAtWindow, h.wait]

theorem Canonical.applyFlag (h : Canonical s) {m id pa} : Deals (s.applyFlag m id pa) := by
  unfold State.applyFlag
  refine h.replyTo.done.ite (h.replyTo.done.ite (h.pullAt.wait.ite ?_))
  split
  · exact (h.homeNeeds _ ‹_›).wait
  · split
    exacts [h.windowArrive.replyTo.done, h.homePut.replyTo.done]

theorem Canonical.flagAtWindow (h : Canonical s) {m id pa} : Deals (s.flagAtWindow m id pa) := by
  refine h.passedOn ?_
  dsimp only
  split
  exacts [h.windowArrive.replyTo, (h.writeBlock _ _ _).replyTo]

theorem execFlagUpdate_preserves {id} : Preserves (execFlagUpdate id) := by
  intro s h
  unfold execFlagUpdate
  refine h.deal fun _ => ?_
  split
  exacts [h.applyFlag.ite h.flagAtWindow, h.wait]

/-! ### Machine/Bridge -/

theorem Canonical.setGrant (h : Canonical s) {line g} : Canonical (s.setGrant line g) := h.sameHost
theorem Canonical.startSnoop (h : Canonical s) {line k} : Canonical (s.startSnoop line k) := h.ite h.sameHost
theorem Canonical.answerSnoop (h : Canonical s) {line g} : Canonical (s.answerSnoop line g) := h.hostAnswer.endSnoop.setGrant.finishWant
theorem Canonical.asBridge (h : Canonical s) {blk} : Canonical (s.asBridge blk) := h

theorem execHostSnpInv_preserves {line} : Preserves (execHostSnpInv line) := by
  intro s h
  unfold execHostSnpInv
  refine h.answerSnoop.next.ite ?_
  dsimp only
  split
  · split
    exacts [h.startSnoop.ask.asBridge.sendPersist.next, h.startSnoop.ask.asBridge.next]
  · exact h.startSnoop.ask.asBridge.next

theorem execHostSnpData_preserves {line} : Preserves (execHostSnpData line) :=
  fun _ h => h.answerSnoop.next.ite (h.answerSnoop.next.ite h.startSnoop.ask.next)

theorem Canonical.askCurrent (h : Canonical s) {line} : Canonical (s.askCurrent line) := h.endSnoop.same.sameHost.sendAll
theorem execHostSnpCur_preserves {line} : Preserves (execHostSnpCur line) := fun _ h => h.hostAnswer.endSnoop.next.ite (h.next.ite h.askCurrent.next)

theorem Canonical.halfLoad (h : Canonical s) {core req line d} : Canonical (s.halfLoad core req line d) := by
  unfold State.halfLoad
  dsimp only
  split
  exacts [h, h.ite (h.settleLoad.ite (h.foldl fun _ _ h' => h'.laneDone).settleLoad)]

theorem Canonical.endHostWait (h : Canonical s) {line back} : Canonical (s.endHostWait line back) := h.sameHost
theorem Canonical.putHostLine (h : Canonical s) {line d} : Canonical (s.putHostLine line d) := h.writeHost
theorem Canonical.fillHalf (h : Canonical s) {line d} : Canonical (s.fillHalf line d) := h.ite h.same

theorem execHostLineGrant_preserves {line grant data} : Preserves (execHostLineGrant line grant data) := by
  intro s h
  unfold execHostLineGrant
  split
  · exact h.next
  · dsimp only
    split
    exacts [h.sameHost.putHostLine.halfLoad.next, h.sameHost.putHostLine.fillHalf.setGrant.next.ite h.next,
      h.next.ite h.sameHost.putHostLine.fillHalf.setGrant.next]

theorem Canonical.setHeld (h : Canonical s) {line g} : Canonical (s.setHeld line g) := h.sameHost

theorem Canonical.bridgeTakes (h : Canonical s) {line d} : Canonical (s.bridgeTakes line d) := by
  unfold State.bridgeTakes
  split
  exacts [h.putHold, h]

theorem execBackInvalidate_preserves {line inv data} : Preserves (execBackInvalidate line inv data) :=
  fun _ h => h.next.ite (h.bridgeTakes.ite h).endHostWait.setHeld.next

theorem execBiConflict_preserves {line} : Preserves (execBiConflict line) := fun _ h => h.sameHost.next
theorem Canonical.hostServed (h : Canonical s) {line} : Canonical (s.hostServed line) := h.sameHost
theorem Canonical.answerHeld (h : Canonical s) {line h'} : Canonical (s.answerHeld line h') := h.hostAnswer.finishWant
theorem Canonical.answerOwn (h : Canonical s) {line h'} : Canonical (s.answerOwn line h') := h.answerHeld

theorem execHostUncachedRead_preserves {pa} : Preserves (execHostUncachedRead pa) := by
  intro s h
  unfold execHostUncachedRead
  refine h.next.ite (h.hostAnswer.next.ite (h.hostAnswer.next.ite (h.hostAnswer.next.ite ?_)))
  split
  exacts [h.answerHeld.next.ite h.ask.next, h.ask.next]

theorem Canonical.clearIfWhole (h : Canonical s) {blk n} : Canonical (s.clearIfWhole blk n) := h.setMeta.ite h

theorem execHostUncachedWrite_preserves {pa bytes} : Preserves (execHostUncachedWrite pa bytes) := by
  intro s h
  unfold execHostUncachedWrite
  refine h.next.ite (h.uncachedWrite.next.ite (h.next.ite ((h.writeBlock _ _ _).next.ite (h.putBlock.next.ite ?_))))
  split
  exacts [h.putHold.clearIfWhole.finishWant.next.ite h.ask.next, h.ask.next]

theorem execHostCachedMemRequest_preserves {line req data} : Preserves (execHostCachedMemRequest line req data) := by
  intro s h
  unfold execHostCachedMemRequest
  refine h.next.ite (Keeps.ite ?_ ?_)
  · split
    exacts [execHostUncachedWrite_preserves h, execHostUncachedRead_preserves h]
  · split
    · exact (h.bridgeTakes.ite h).setHeld.hostServed.next
    · split
      exacts [h.spill.answerOwn.setHeld.hostServed.next.ite h.ask.next, h.ask.next]
    · split
      exacts [h.spill.answerOwn.setHeld.hostServed.next.ite h.ask.next, h.ask.next]

/-! ### Machine/Health -/

theorem coresFrom_lmem {n dead k d c} (hc : c ∈ coresFrom n dead k d) : c.lmem = [] := by
  induction k generalizing d with
  | zero => cases hc
  | succ k ih =>
    rcases List.mem_append.1 hc with hc | hc
    · rw [List.eq_of_mem_replicate hc]
      rfl
    · exact ih hc

/-- RESET leaves host memory as it is, and every other memory is empty after it. -/
theorem execReset_preserves {part} : Preserves (execReset part) := by
  intro s h
  unfold execReset
  extract_lets r dead stage host health fresh
  have hr : Canonical fresh := ⟨rfl, h.2.1, fun k hk => by rw [coresFrom_lmem hk, Mem.wf_nil]⟩
  exact hr.same.next.ite hr.next

theorem execHostLinkTrain_preserves {rate} : Preserves (execHostLinkTrain rate) := fun _ h => h.sameHost.next
theorem execGoWrite_preserves {v} : Preserves (execGoWrite v) := fun _ h => h.setGo.next
theorem execFeatureAcceptWrite_preserves {v} : Preserves (execFeatureAcceptWrite v) := fun _ h => h.setAccept.next
theorem execLinkRetrainWrite_preserves {die bits} : Preserves (execLinkRetrainWrite die bits) := fun _ h => h.requestRetrain.next
theorem execLinkRetrainDone_preserves {die e ok} : Preserves (execLinkRetrainDone die e ok) := fun _ h => h.next.ite h.modDie.modDie.next
theorem execUmissClear_preserves {core v} : Preserves (execUmissClear core v) := fun _ h => h.clearUmiss.next
theorem execStaleCounterClear_preserves {die v} : Preserves (execStaleCounterClear die v) := fun _ h => h.clearStale.next
theorem execSeedWrite_preserves {core v} : Preserves (execSeedWrite core v) := fun _ h => h.setSeed.next
theorem execMismatchCounterClear_preserves {port v} : Preserves (execMismatchCounterClear port v) := fun _ h => h.clearMismatch.next
theorem execQueueOvfClear_preserves {q v} : Preserves (execQueueOvfClear q v) := fun _ h => h.clearOvf.next
theorem execRegisterWrite_preserves {off bytes v} : Preserves (execRegisterWrite off bytes v) := fun _ h => h.regWrite.next
theorem Canonical.logRetirement (h : Canonical s) {l count} : Canonical (s.logRetirement l count) := h.sameHost

theorem Canonical.retireLocation (h : Canonical s) {l} : Canonical (s.retireLocation l) := by
  unfold State.retireLocation
  split
  exacts [h, (h.modCoreBeside fun _ => by rfl).reseed, ((h.foldl fun _ _ h' => h'.writeBackDie).foldl fun _ _ h' => h'.evictTokens).modDie,
    h.losePort.ite h, (h.loseLink.ite h).modDie.modDie]

theorem execCorrectedError_preserves {loc} : Preserves (execCorrectedError loc) := fun _ h => h.same.next.ite h.same.logRetirement.retireLocation.next
theorem execWearRefresh_preserves {values eols} : Preserves (execWearRefresh values eols) := fun _ h => h.same.next
theorem execThermalStep_preserves {die up} : Preserves (execThermalStep die up) := fun _ h => h.modDie.next
theorem execThermalStop_preserves {die} : Preserves (execThermalStop die) := fun _ h => h.modDie.next

theorem execSignRequest_preserves {use flashOk} : Preserves (execSignRequest use flashOk) := by
  intro s h
  unfold execSignRequest
  exact h.same.next.ite h.same.next

/-- A tick leaves the cores' local memories as they are. -/
theorem tickCores_lmem {now c l} : (tickCores s now c l).map Core.lmem = l.map Core.lmem := by
  induction l generalizing c with
  | nil => rfl
  | cons k ks ih => exact congrArg (k.lmem :: ·) ih

theorem Canonical.endIdle (h : Canonical s) : Canonical s.endIdle := h.same.foldl fun _ _ h' => h'.finishWant

theorem execMeridianTick_preserves : Preserves execMeridianTick := by
  intro s h
  unfold execMeridianTick
  refine Canonical.next ?_
  exact h.endIdle.sameLocals tickCores_lmem rfl rfl

/-! ### Machine/Collective -/

theorem collective_preserves {g uses f} : Preserves (collective g uses f) := by
  unfold collective
  exact issue_preserves fun _ h _ _ => h.writeFibres

theorem shuffle_preserves {g b a d src} : Preserves (shuffle g b a d src) := fun _ h => collective_preserves h
theorem gred_preserves {g a d f} : Preserves (gred g a d f) := fun _ h => collective_preserves h

/-! ### Machine/Matrix -/

theorem Canonical.latch (h : Canonical s) {t act ab reuse} : Canonical (s.latch t act ab reuse) := h.modCoreBeside fun _ => by rfl

theorem Canonical.multiply (h : Canonical s) {t act sl reuse half ab db img} : Canonical (s.multiply t act sl reuse half ab db img) := by
  unfold State.multiply
  split
  exacts [h.advance, h.latch.writeFibres]

theorem execQmmaHandle_preserves {g reuse half sl h ab db} : Preserves (execQmmaHandle g reuse half sl h ab db) := by
  unfold execQmmaHandle
  exact issue_preserves fun _ h _ _ => h.advance.ite (h.stall.ite ((h.stall.ite h.addCmd.stall).ite (h.stall.ite h.multiply)))

theorem execQmmaReg_preserves {g reuse half sl bb ab db} : Preserves (execQmmaReg g reuse half sl bb ab db) := by
  unfold execQmmaReg
  exact issue_preserves fun _ h _ _ => h.multiply

theorem execQpro_preserves {g b a db} : Preserves (execQpro g b a db) := by
  unfold execQpro
  exact issue_preserves fun _ h _ _ => h.writeFibres

/-! ### Machine/Dispatch -/

/-- Every instruction and every event keeps every memory canonical: the instructions by family, then those and the events that have a lemma of
their own. -/
theorem exec_preserves (i : Instr) : Preserves (exec i) := by
  intro s h
  unfold exec
  cases i
  case movC16 | popc | clz | brev | abs | mov | addi | andi | ori | xori | shli | shri | sari | frcp | frsq | fsqrt | fexp2 | flog2 | fclass
      | cvtI2fS32 | cvtI2fN32 | cvtF2iS32 | cvtF2iN32 | cvtF2hF16 | cvtF2hBf16 | cvtH2fF16 | cvtH2fBf16 | movx =>
    exact op2_preserves h
  case moviC16 | addiC16 | movi | imhi =>
    exact op1_preserves h
  case addC16 | subC16 | mulLoC16 | andC16 | orC16 | xorC16 | shlC16 | shrC16 | minS32C16 | maxS32C16 | faddC16 | fmulC16 | fmaxC16 | add |
      addc | sub | subb | mulLo | mulHiS32 | mulHiN32 | mad | and | or | xor | andn | minS32 | maxS32 | minN32 | maxN32 | shl | shr | sar |
      rot | bfxS32 | bfxN32 | bfi | fadd | fsub | fmul | ffma | fmin | fmax | fdiv | hadd2F16 | hmul2F16 | hfma2F16 | hmax2F16 | hadd2Bf16 |
      hmul2Bf16 | hfma2Bf16 | hmax2Bf16 | fscale =>
    exact op3_preserves h
  case movIndirectSrc | movIndirectDst | sel | qzero | smx | qsr | qsw =>
    exact laneOp_preserves h
  case cmpS32 | cmpN32 | fcmpF32 =>
    exact cmp2_preserves h
  case cmpiS32 | cmpiN32 =>
    exact cmp1_preserves h
  case cvtfNar | cvtfWid | pk4 | upk4 | smxCvt =>
    exact slotOp_preserves h
  case pand | por | pxor | pnot | pmov =>
    exact pred2_preserves h
  case voteAll | voteAny | voteBallot | matchLanes =>
    exact collective_preserves h
  case shflIdx | shflUp | shflDown | shflXor =>
    exact shuffle_preserves h
  case gredAddS32 | gredAddF32 | gredMinS32 | gredMaxS32 | gredMinF32 | gredMaxF32 | gredAnd | gredOr =>
    exact gred_preserves h
  case ld | ldNarrowWide | ldAcq =>
    exact loadOp_preserves h
  case st | stNarrowWide | stRel =>
    exact storeOp_preserves h
  case atomAddS32 | atomAddF32 | atomMinS32 | atomMaxS32 | atomMinN32 | atomMaxN32 | atomAnd | atomOr | atomXor | atomExch | atomCas =>
    exact atomOp_preserves h
  case atomOrdAddS32 | atomOrdAddF32 | atomOrdMinS32 | atomOrdMaxS32 | atomOrdAnd | atomOrdOr | atomOrdExch | atomOrdCas =>
    exact atomOrdOp_preserves h
  case redAddS32 | redAddF32 | redMinS32 | redMaxS32 | redMinN32 | redMaxN32 | redAnd | redOr | redXor =>
    exact redOp_preserves h
  case latomAddS32 | latomAddF32 | latomMinS32 | latomMaxS32 | latomAnd | latomOr | latomExch | latomCas =>
    exact latom_preserves h
  case cpin | cpout | cppush | cpred | cpfill =>
    exact copyOp_preserves h
  case rcopy | rfill | rand | ror | rxor | rnot =>
    exact rowOp_preserves h
  case movKconst => exact execMovKconst_preserves h
  case rgen => exact execRgen_preserves h
  case br => exact execBr_preserves h
  case brRgp => exact execBrRgp_preserves h
  case call => exact execCall_preserves h
  case fork => exact execFork_preserves h
  case brx => exact execBrx_preserves h
  case brxRgp => exact execBrxRgp_preserves h
  case callx => exact execCallx_preserves h
  case ret => exact execRet_preserves h
  case exit => exact execExit_preserves h
  case fend => exact execFend_preserves h
  case home => exact execHome_preserves h
  case nop => exact execNop_preserves h
  case trap => exact execTrap_preserves h
  case brk => exact execBrk_preserves h
  case rgrow => exact execRgrow_preserves h
  case rshrink => exact execRshrink_preserves h
  case rwin => exact execRwin_preserves h
  case pf => exact execPf_preserves h
  case fence => exact execFence_preserves h
  case wait => exact execWait_preserves h
  case ltime => exact execLtime_preserves h
  case lpub => exact execLpub_preserves h
  case stf => exact execStf_preserves h
  case lld => exact execLld_preserves h
  case lst => exact execLst_preserves h
  case bar => exact execBar_preserves h
  case boinit => exact execBoinit_preserves h
  case boarr => exact execBoarr_preserves h
  case bowait => exact execBowait_preserves h
  case botest => exact execBotest_preserves h
  case halloc => exact execHalloc_preserves h
  case hfree => exact execHfree_preserves h
  case hbind => exact execHbind_preserves h
  case hstate => exact execHstate_preserves h
  case hwptr => exact execHwptr_preserves h
  case hwait => exact execHwait_preserves h
  case cpcancel => exact execCpcancel_preserves h
  case qmmaHandle => exact execQmmaHandle_preserves h
  case qmmaReg => exact execQmmaReg_preserves h
  case qpro => exact execQpro_preserves h
  case nbload => exact execNbload_preserves h
  case nbrun => exact execNbrun_preserves h
  case nbstat => exact execNbstat_preserves h
  case nbcancel => exact execNbcancel_preserves h
  case launch => exact execLaunch_preserves h
  case wchild => exact execWchild_preserves h
  case srd => exact execSrd_preserves h
  case swr => exact execSwr_preserves h
  case tret => exact execTret_preserves h
  case errq => exact execErrq_preserves h
  case asgen => exact execAsgen_preserves h
  case sflush => exact execSflush_preserves h
  case halt => exact execHalt_preserves h
  case groupingStagePass => exact execGroupingStagePass_preserves h
  case gatheringPoolClose => exact execGatheringPoolClose_preserves h
  case pendingWriteComplete => exact execPendingWriteComplete_preserves h
  case grantRequestGranted => exact execGrantRequestGranted_preserves h
  case registerDeadlockEvict => exact execRegisterDeadlockEvict_preserves h
  case starvationTimeout => exact execStarvationTimeout_preserves h
  case armedLaunchEnqueue => exact execArmedLaunchEnqueue_preserves h
  case copyCommandStart => exact execCopyCommandStart_preserves h
  case copyLineTransfer => exact execCopyLineTransfer_preserves h
  case copyCommandComplete => exact execCopyCommandComplete_preserves h
  case pushLineWrite => exact execPushLineWrite_preserves h
  case pushAck => exact execPushAck_preserves h
  case pushRetry => exact execPushRetry_preserves h
  case contributionArrival => exact execContributionArrival_preserves h
  case contributionRetry => exact execContributionRetry_preserves h
  case publishedAccess => exact execPublishedAccess_preserves h
  case publishRequest => exact execPublishRequest_preserves h
  case windowWriteback => exact execWindowWriteback_preserves h
  case pageWalk => exact execPageWalk_preserves h
  case lineFill => exact execLineFill_preserves h
  case openAccessFault => exact execOpenAccessFault_preserves h
  case performLoad => exact execPerformLoad_preserves h
  case enqueueStore => exact execEnqueueStore_preserves h
  case drain => exact execDrain_preserves h
  case writeBack => exact execWriteBack_preserves h
  case sectorDrop => exact execSectorDrop_preserves h
  case deliver => exact execDeliver_preserves h
  case generationSweep => exact execGenerationSweep_preserves h
  case migrationPull => exact execMigrationPull_preserves h
  case errorQueueOverflowTrap => exact execErrorQueueOverflowTrap_preserves h
  case pagingQueueWrite => exact execPagingQueueWrite_preserves h
  case pagingReadIndexWrite => exact execPagingReadIndexWrite_preserves h
  case resumeTicketWrite => exact execResumeTicketWrite_preserves h
  case hostLaunchWrite => exact execHostLaunchWrite_preserves h
  case launchLine => exact execLaunchLine_preserves h
  case launchLinePassOver => exact execLaunchLinePassOver_preserves h
  case launchTake => exact execLaunchTake_preserves h
  case teamAdmit => exact execTeamAdmit_preserves h
  case gridWholeAdmit => exact execGridWholeAdmit_preserves h
  case queueHeadStarve => exact execQueueHeadStarve_preserves h
  case teamReadmit => exact execTeamReadmit_preserves h
  case teamEndFree => exact execTeamEndFree_preserves h
  case teamRetire => exact execTeamRetire_preserves h
  case launchRetire => exact execLaunchRetire_preserves h
  case completionWriteFail => exact execCompletionWriteFail_preserves h
  case preempt => exact execPreempt_preserves h
  case preemptStopTimeout => exact execPreemptStopTimeout_preserves h
  case saveRequestWrite => exact execSaveRequestWrite_preserves h
  case teamSaveComplete => exact execTeamSaveComplete_preserves h
  case trapHandlerEntry => exact execTrapHandlerEntry_preserves h
  case tryArrive => exact execTryArrive_preserves h
  case tryTimeout => exact execTryTimeout_preserves h
  case persistentRequestIssue => exact execPersistentRequestIssue_preserves h
  case persistentRequest => exact execPersistentRequest_preserves h
  case persistentRetry => exact execPersistentRetry_preserves h
  case activation => exact execActivation_preserves h
  case deactivation => exact execDeactivation_preserves h
  case tokenMessage => exact execTokenMessage_preserves h
  case eviction => exact execEviction_preserves h
  case poleAck => exact execPoleAck_preserves h
  case peerProbe => exact execPeerProbe_preserves h
  case tokenRecall => exact execTokenRecall_preserves h
  case auditStart => exact execAuditStart_preserves h
  case audit => exact execAudit_preserves h
  case auditRepeat => exact execAuditRepeat_preserves h
  case auditReport => exact execAuditReport_preserves h
  case recreationAck => exact execRecreationAck_preserves h
  case auditHoldoffExpire => exact execAuditHoldoffExpire_preserves h
  case unfreeze => exact execUnfreeze_preserves h
  case formConversion => exact execFormConversion_preserves h
  case homeAtomic => exact execHomeAtomic_preserves h
  case atomicReply => exact execAtomicReply_preserves h
  case leaseRead => exact execLeaseRead_preserves h
  case leaseWrite => exact execLeaseWrite_preserves h
  case leaseWriteHeld => exact execLeaseWriteHeld_preserves h
  case meridianTick => exact execMeridianTick_preserves h
  case homeLeaseSweep => exact execHomeLeaseSweep_preserves h
  case cacheLeaseSweep => exact execCacheLeaseSweep_preserves h
  case waitReload => exact execWaitReload_preserves h
  case partyQuery => exact execPartyQuery_preserves h
  case hostSnpInv => exact execHostSnpInv_preserves h
  case hostSnpData => exact execHostSnpData_preserves h
  case hostSnpCur => exact execHostSnpCur_preserves h
  case hostLineGrant => exact execHostLineGrant_preserves h
  case backInvalidate => exact execBackInvalidate_preserves h
  case biConflict => exact execBiConflict_preserves h
  case hostUncachedRead => exact execHostUncachedRead_preserves h
  case hostUncachedWrite => exact execHostUncachedWrite_preserves h
  case frameReplay => exact execFrameReplay_preserves h
  case linkDead => exact execLinkDead_preserves h
  case rotorSlotStart => exact execRotorSlotStart_preserves h
  case orbitStart => exact execOrbitStart_preserves h
  case scheduleDigest => exact execScheduleDigest_preserves h
  case digestDiscard => exact execDigestDiscard_preserves h
  case relayForward => exact execRelayForward_preserves h
  case messageAgeDrop => exact execMessageAgeDrop_preserves h
  case portFailure => exact execPortFailure_preserves h
  case remoteLoadTimeout => exact execRemoteLoadTimeout_preserves h
  case remoteResponse => exact execRemoteResponse_preserves h
  case postedWrite => exact execPostedWrite_preserves h
  case postedWriteAck => exact execPostedWriteAck_preserves h
  case postedWriteTimeout => exact execPostedWriteTimeout_preserves h
  case storeLinePost => exact execStoreLinePost_preserves h
  case storeLineTimeout => exact execStoreLineTimeout_preserves h
  case storeAckTimeout => exact execStoreAckTimeout_preserves h
  case flaggedData => exact execFlaggedData_preserves h
  case flagUpdate => exact execFlagUpdate_preserves h
  case rowOperation => exact execRowOperation_preserves h
  case rowSlotAcquire => exact execRowSlotAcquire_preserves h
  case nearBankStep => exact execNearBankStep_preserves h
  case arbitrationWindow => exact execArbitrationWindow_preserves h
  case reset => exact execReset_preserves h
  case hostLinkTrain => exact execHostLinkTrain_preserves h
  case goWrite => exact execGoWrite_preserves h
  case featureAcceptWrite => exact execFeatureAcceptWrite_preserves h
  case linkRetrainWrite => exact execLinkRetrainWrite_preserves h
  case linkRetrainDone => exact execLinkRetrainDone_preserves h
  case umissClear => exact execUmissClear_preserves h
  case staleCounterClear => exact execStaleCounterClear_preserves h
  case seedWrite => exact execSeedWrite_preserves h
  case mismatchCounterClear => exact execMismatchCounterClear_preserves h
  case queueOvfClear => exact execQueueOvfClear_preserves h
  case registerWrite => exact execRegisterWrite_preserves h
  case correctedError => exact execCorrectedError_preserves h
  case wearRefresh => exact execWearRefresh_preserves h
  case thermalStep => exact execThermalStep_preserves h
  case thermalStop => exact execThermalStop_preserves h
  case signRequest => exact execSignRequest_preserves h
  case hostCachedMemRequest => exact execHostCachedMemRequest_preserves h
  case partyQueryAnswer => exact execPartyQueryAnswer_preserves h
  case partyQueryTimeout => exact execPartyQueryTimeout_preserves h
  case launchLineResend => exact execLaunchLineResend_preserves h

/-! ### The events that are due -/

/-- Every event of a list keeps every memory canonical. -/
def AllPreserve (l : List Try) : Prop := ∀ e ∈ l, Preserves e

section Lists
variable {α : Type} {l : List α} {es es' : List Try} {e : Try}

theorem AllPreserve.nil : AllPreserve [] := nofun

theorem AllPreserve.cons (h : Preserves e) (hes : AllPreserve es) : AllPreserve (e :: es) := by
  simpa [AllPreserve] using ⟨h, hes⟩

theorem AllPreserve.one (h : Preserves e) : AllPreserve [e] := .cons h .nil

theorem AllPreserve.append (h : AllPreserve es) (h' : AllPreserve es') : AllPreserve (es ++ es') := by
  intro e he
  exact (List.mem_append.1 he).elim (h e) (h' e)

theorem AllPreserve.ite {c : Prop} {_ : Decidable c} (h : AllPreserve es) (h' : AllPreserve es') : AllPreserve (if c then es else es') := by
  split <;> assumption

theorem AllPreserve.map {f : α → Try} (hf : ∀ a, Preserves (f a)) : AllPreserve (l.map f) := by
  intro e he
  obtain ⟨a, -, rfl⟩ := List.mem_map.1 he
  exact hf a

theorem AllPreserve.flatMap {f : α → List Try} (hf : ∀ a, AllPreserve (f a)) : AllPreserve (l.flatMap f) := by
  intro e he
  obtain ⟨a, -, ha⟩ := List.mem_flatMap.1 he
  exact hf a e ha

theorem AllPreserve.option {o : Option α} {f : α → Try} (hf : ∀ a, Preserves (f a)) : AllPreserve (o.map f).toList := by
  cases o with
  | none => exact .nil
  | some a => exact .one (hf a)

theorem AllPreserve.filterMap {f : α → Option Try} (hf : ∀ a, AllPreserve (f a).toList) : AllPreserve (l.filterMap f) := by
  intro e he
  obtain ⟨a, -, ha⟩ := List.mem_filterMap.1 he
  exact hf a e (by simp [ha])

end Lists

theorem event_preserves (m : Msg) : Preserves (Msg.event m) := by
  unfold Msg.event
  split
  exacts [execTryArrive_preserves, execTokenMessage_preserves, execTokenMessage_preserves, execPersistentRequest_preserves,
    execTokenMessage_preserves, execActivation_preserves, execDeactivation_preserves, execAudit_preserves, execAuditReport_preserves,
    execAudit_preserves, execRecreationAck_preserves, execUnfreeze_preserves, execPoleAck_preserves, execPublishRequest_preserves,
    execTokenMessage_preserves, execHomeLoad_preserves, execRemoteResponse_preserves, execHomeAtomic_preserves, execAtomicReply_preserves,
    execPostedWrite_preserves, execPostedWrite_preserves, execPostedWriteAck_preserves, execPostedWrite_preserves, execFlaggedData_preserves,
    execFlagUpdate_preserves, execPostedWriteAck_preserves, execPushLineWrite_preserves, execPushAck_preserves,
    execContributionArrival_preserves, execContributionRetry_preserves, execLaunchLine_preserves, execPartyQuery_preserves,
    execPartyQueryAnswer_preserves, execPublishedAccess_preserves, execPublishedAccess_preserves, execPublishedAccess_preserves]

theorem State.returnEvents_preserve : AllPreserve s.returnEvents := by
  refine .filterMap fun m => ?_
  split
  · split
    exacts [.option fun _ => execPushRetry_preserves, .nil]
  · exact .nil

theorem State.msgEvents_preserve : AllPreserve s.msgEvents :=
  .append (.map event_preserves) (.map fun _ => execMessageAgeDrop_preserves)

theorem State.pullsOf_preserve {r} : AllPreserve (s.pullsOf r) :=
  .ite .nil (.filterMap fun _ => .option fun _ => execMigrationPull_preserves)

theorem State.pullEvents_preserve : AllPreserve s.pullEvents := by
  refine .flatMap fun w => ?_
  split
  exacts [.flatMap fun _ => .map fun _ => execMigrationPull_preserves, .nil]

theorem returnLent_preserves {c x} : Preserves (returnLent c x) := fun _ h => h.putHold.next

theorem sectorOut_preserves {v x} : Preserves (sectorOut v x) := by
  unfold sectorOut
  split
  exacts [execWriteBack_preserves, execSectorDrop_preserves]

theorem State.cacheEvents_preserve : AllPreserve s.cacheEvents :=
  .append
    (.flatMap fun _ => .ite .nil (.append (.append (.map fun _ => sectorOut_preserves) (.map fun _ _ h => (h.modCoreBeside fun _ => by rfl).next))
      (.map fun _ => returnLent_preserves)))
    (.flatMap fun _ => .ite .nil (.append (.append (.map fun _ => sectorOut_preserves) (.map fun _ _ h => h.modDie.next))
      (.map fun _ => execEviction_preserves)))

theorem State.reqEvents_preserve {c r} : AllPreserve (s.reqEvents c r) :=
  .append (.append (.append (.append
    (.cons execOpenAccessFault_preserves (.one execPerformLoad_preserves))
    (.ite (.map fun _ => execFormConversion_preserves) .nil))
    (.cons execLeaseRead_preserves (.cons execLeaseWrite_preserves (.cons execEnqueueStore_preserves
      (.cons execRemoteLoadTimeout_preserves (.one execPostedWriteTimeout_preserves))))))
    (.ite (.flatMap fun _ => .cons execPeerProbe_preserves (.one execLineFill_preserves)) .nil))
    pullsOf_preserve

theorem State.storeEvents_preserve {c r} : AllPreserve (s.storeEvents c r) :=
  .append (.append (.ite (.map fun _ => execFormConversion_preserves) .nil)
    (.cons execDrain_preserves (.cons execLeaseWrite_preserves (.one execPostedWriteTimeout_preserves)))) pullsOf_preserve

theorem cmdEvents_preserve {c m} : AllPreserve (cmdEvents c m) :=
  .cons execCopyCommandStart_preserves (.cons execCopyLineTransfer_preserves
    (.cons execContributionRetry_preserves (.one execCopyCommandComplete_preserves)))

theorem State.coreEvents_preserve {c k} : AllPreserve (s.coreEvents c k) :=
  .append (.append (.append (.append (.append (.append (.append
    (.flatMap fun _ => reqEvents_preserve) (.flatMap fun _ => storeEvents_preserve)) (.flatMap fun _ => cmdEvents_preserve))
    (.map fun _ => execWindowWriteback_preserves)) (.map fun _ => execArmedLaunchEnqueue_preserves))
    (.map fun _ => execGrantRequestGranted_preserves)) (.ite .nil (.one execTrapHandlerEntry_preserves)))
    (.ite (.one execRegisterDeadlockEvict_preserves) .nil)

theorem State.coresFrom_preserve {c l} : AllPreserve (s.coresFrom c l) := by
  induction l generalizing c with
  | nil => exact .nil
  | cons k ks ih => exact .append coreEvents_preserve ih

theorem Coherence.events_preserve {k : Coherence} : AllPreserve k.events := by
  refine .append (.append (.append (.flatMap fun w => ?_) (.map fun _ => execAuditStart_preserves))
    (.flatMap fun _ => .cons execAuditHoldoffExpire_preserves (.map fun _ => execAuditRepeat_preserves)))
    (.map fun _ => execFormConversion_preserves)
  split
  exacts [.cons execTryTimeout_preserves (.one execPersistentRequestIssue_preserves), .one execPersistentRetry_preserves, .nil]

theorem State.idleEvents_preserve : AllPreserve s.idleEvents := by
  refine .flatMap fun w => ?_
  split
  exacts [.map fun _ => execLineFill_preserves, .nil]

theorem Team.fibreEvents_preserve {t : Team} {i} : AllPreserve (t.fibreEvents i) := by
  unfold Team.fibreEvents
  have hp : AllPreserve ((t.fibre i).pend.map fun p => execPendingWriteComplete t.id i p.reg) := .map fun _ => execPendingWriteComplete_preserves
  dsimp only
  split
  · exact hp
  · refine .append (.append hp ?_) (.ite (.one execStarvationTimeout_preserves) .nil)
    split
    exacts [.one execWaitReload_preserves, .one execPartyQueryTimeout_preserves, .nil]

theorem State.teamEvents_preserve {t} : AllPreserve (s.teamEvents t) := by
  unfold State.teamEvents
  have hf : AllPreserve (t.busyFibres.flatMap t.fibreEvents) := .flatMap fun _ => Team.fibreEvents_preserve
  have hp : AllPreserve (t.pools.map fun p => execGatheringPoolClose t.id p.target) := .map fun _ => execGatheringPoolClose_preserves
  split
  · exact .append (.append (.append hf (.ite (.one execErrorQueueOverflowTrap_preserves) .nil)) hp)
      (.ite (.one execTeamEndFree_preserves) .nil)
  · exact .append (.append hf hp) (.cons execPreemptStopTimeout_preserves (.one execTeamSaveComplete_preserves))
  · exact .cons execPagingQueueWrite_preserves (.ite (.map fun _ => execTeamReadmit_preserves) .nil)
  · exact .one execTeamSaveComplete_preserves
  · exact .nil
  · exact .one execTeamRetire_preserves
  · exact .nil

theorem State.launchEvents_preserve {l} : AllPreserve (s.launchEvents l) := by
  have hp : AllPreserve (s.preemptEvents l.q) := .map fun _ => execPreempt_preserves
  refine .append (.ite .nil (.one execLaunchTake_preserves)) ?_
  split
  · exact .ite (.one execCompletionWriteFail_preserves) .nil
  · exact .one execLaunchRetire_preserves
  · exact .append (.cons execLaunchRetire_preserves (.map fun _ => execTeamAdmit_preserves)) hp
  · split
    · exact .nil
    · exact .append (.ite (.cons execGridWholeAdmit_preserves (.one execQueueHeadStarve_preserves))
        (.map fun _ => execTeamAdmit_preserves)) hp

theorem State.fabricEvents_preserve : AllPreserve s.fabricEvents := by
  refine .append (.append (.append (.flatMap fun p => ?_) (.filterMap fun _ => .option fun _ => execLaunchLinePassOver_preserves))
    (.ite (.one execOrbitStart_preserves) .nil)) (.map fun _ => execDigestDiscard_preserves)
  split
  exacts [.cons execStoreLinePost_preserves (.cons execStoreLineTimeout_preserves (.one execStoreAckTimeout_preserves)),
    .cons execLaunchLineResend_preserves (.one execPostedWriteTimeout_preserves), .one execPostedWriteTimeout_preserves]

theorem State.slotEvents_preserve : AllPreserve s.slotEvents := .ite .nil (.one execRotorSlotStart_preserves)

theorem State.waitEvents_preserve {x} : AllPreserve (s.waitEvents x) := by
  unfold State.waitEvents
  split
  · exact .map event_preserves
  · exact .append (.flatMap fun _ => reqEvents_preserve) (.flatMap fun _ => storeEvents_preserve)
  · exact .one execWriteBack_preserves
  · exact .flatMap fun _ => .option fun _ => execRowOperation_preserves
  · exact .one execMigrationPull_preserves

theorem State.unitEvents_preserve {x} : AllPreserve (s.unitEvents x) :=
  .ite .nil (.ite (.ite .nil (.one fun _ h => h.putUnit.next)) (.flatMap fun _ => waitEvents_preserve))

theorem State.rowEvents_preserve : AllPreserve s.rowEvents := by
  refine .flatMap fun r => ?_
  split
  exacts [.one execRowOperation_preserves, .option fun _ => execRowSlotAcquire_preserves]

theorem HostSide.events_preserve {x : HostSide} : AllPreserve x.events := by
  refine .map fun p => ?_
  split
  exacts [execHostSnpInv_preserves, execHostSnpCur_preserves, execHostSnpData_preserves]

theorem State.bridgeEvents_preserve : AllPreserve s.bridgeEvents := by
  refine .map fun a u h => ?_
  split
  · next hd => exact (h.giveActive _ (.inl hd)).next
  · next hd => exact (h.giveActive _ (.inr hd)).next

theorem State.patchEvents_preserve : AllPreserve s.patchEvents := .map fun _ _ h => (h.dropPatches.homeDone.getD h.gatherBlock).next

theorem State.candidates_preserve : AllPreserve s.candidates :=
  .append (.append (.append (.append (.append (.append (.append (.append (.append (.append (.append (.append (.append (.append (.append (.append
    (.flatMap fun _ => unitEvents_preserve) msgEvents_preserve) returnEvents_preserve) coresFrom_preserve) pullEvents_preserve)
    idleEvents_preserve) cacheEvents_preserve) Coherence.events_preserve) fabricEvents_preserve) slotEvents_preserve)
    HostSide.events_preserve) bridgeEvents_preserve) patchEvents_preserve) rowEvents_preserve)
    (.flatMap fun _ => teamEvents_preserve)) (.map fun _ _ h => h.pursue.next)) (.flatMap fun _ => launchEvents_preserve)

theorem Canonical.firstOf (h : Canonical s) {es} (hes : AllPreserve es) : Found id (s.firstOf es) := by
  induction es with
  | nil => exact .none
  | cons e es ih =>
    have ih' := ih fun e he => hes e (List.mem_cons_of_mem _ he)
    unfold State.firstOf
    split
    · next hu => exact .ite ih' (hes e List.mem_cons_self h _ hu).some
    · exact ih'

theorem Canonical.due (h : Canonical s) : Found id s.due := h.firstOf State.candidates_preserve

theorem staleCores_preserve {now c l} : AllPreserve (staleCores now c l) := by
  induction l generalizing c with
  | nil => exact .nil
  | cons k ks ih => exact .append (.ite (.one execCacheLeaseSweep_preserves) .nil) ih

theorem State.tickEvents_preserve : AllPreserve s.tickEvents :=
  .append (.append (.append (.append (.append
    (.ite (.map fun _ => execArbitrationWindow_preserves) .nil) (.map fun _ => execNearBankStep_preserves))
    (.ite .nil (.one execGenerationSweep_preserves))) (.map fun _ => execHomeLeaseSweep_preserves)) staleCores_preserve)
    (.flatMap fun _ => .ite (.one execCacheLeaseSweep_preserves) .nil)

theorem Canonical.attempt (h : Canonical s) {e} (he : Preserves e) : Canonical (s.attempt e) := by
  unfold State.attempt
  split
  exacts [he h _ ‹_›, h]

theorem Canonical.attempts {es} (h : Canonical s) (hes : AllPreserve es) : Canonical (es.foldl State.attempt s) := by
  induction es generalizing s with
  | nil => exact h
  | cons e es ih => exact ih (h.attempt (hes e List.mem_cons_self)) fun e he => hes e (List.mem_cons_of_mem _ he)

/-! ### One step -/

theorem Canonical.groupPass (h : Canonical s) {p} : Canonical (s.groupPass p) :=
  h.foldl fun _ _ h' => h'.attempt execGroupingStagePass_preserves

theorem Canonical.nextCycle (h : Canonical s) : Canonical s.nextCycle := h.groupPass.mapCores rfl (fun _ => rfl) rfl rfl

theorem execTick_preserves : Preserves execTick := by
  intro s h
  unfold execTick
  split
  · next ht => exact ((execMeridianTick_preserves h.groupPass _ ht).attempts State.tickEvents_preserve).next
  · exact execMeridianTick_preserves h.groupPass

theorem Canonical.scored (h : Canonical u) {t i} : Canonical (s.scored u t i) := h.ite ((h.modCoreBeside fun _ => by rfl).modTeam _ _)

theorem Canonical.runInstr (h : Canonical s) {t i} : Keeps (s.runInstr t i) := by
  unfold State.runInstr
  refine h.stall.next.ite ?_
  split
  · next hu => exact (exec_preserves i h _ hu).scored.next
  · exact exec_preserves i h

theorem runBundle_preserves {r} : Preserves (runBundle r) := by
  intro s h
  have hs : Canonical { s with cur := ⟨r.team, r.bundle.fibs, r.core⟩ } := h
  unfold runBundle
  dsimp only
  split
  · exact hs.next
  · next t _ =>
    have hf := hs.fetchInstr (t := t)
    split
    · next hi =>
      rw [hi] at hf
      exact Canonical.runInstr hf
    · next hd =>
      rw [hd] at hf
      exact Canonical.next hf

theorem Keeps.afterEvent {r : Result} (h : Keeps r) : Keeps (afterEvent r) := by
  unfold Machine.afterEvent
  split
  · exact (h _ rfl).same.next
  · exact h

theorem Canonical.stopped (h : Canonical s) : Keeps s.stopped := by
  unfold State.stopped
  split
  · exact exec_preserves _ h.same
  · exact (exec_preserves _ h.same).ite nofun
  · exact nofun

theorem step_preserves : Preserves step := by
  intro s h
  unfold step
  refine h.stopped.ite ?_
  split
  · exact (exec_preserves _ h.same).afterEvent
  · split
    · next hu => exact (h.due _ hu).next.afterEvent
    · split
      · next hp => exact runBundle_preserves (h.pick _ hp)
      · exact h.nextCycle.next.ite (execTick_preserves h).afterEvent

/-- Settles O59: every step that goes on is an event, an instruction or the passing of time, and each of them keeps every memory canonical. -/
theorem canonicalStep : Obligations.CanonicalStep := by
  unfold Obligations.CanonicalStep
  exact fun _ u hs hu => step_preserves hs u hu

end Sys2Proof.Machine

namespace Sys2Proof.Machine

/-! ## Bytes and fibres through the shared operations -/

theorem sameBytes.refl (s : State) : sameBytes s s := ⟨fun _ => rfl, fun _ _ => rfl, fun _ => rfl⟩

theorem sameBytes.trans {s v u : State} (h : sameBytes s v) (h' : sameBytes v u) : sameBytes s u := by
  obtain ⟨hp, hl, hh⟩ := h
  obtain ⟨hp', hl', hh'⟩ := h'
  exact ⟨fun a => (hp' a).trans (hp a), fun c a => (hl' c a).trans (hl c a), fun a => (hh' a).trans (hh a)⟩

theorem sameBytes_modTeam {s : State} {n : Nat} {f : Team → Team} (hi : ∀ t, (f t).id = t.id) (hl : ∀ t, (f t).lbase = t.lbase) :
    sameBytes s (s.modTeam n f) :=
  ⟨fun pa => State.readPa_congr (s := s) (u := s.modTeam n f) rfl rfl rfl rfl rfl rfl rfl rfl (State.localBase_congr hi hl) pa 1,
    fun _ _ => rfl, fun _ => rfl⟩

theorem sameBytes_issued (s : State) : sameBytes s s.issued :=
  ⟨fun pa => State.readPa_congr rfl rfl rfl rfl rfl rfl rfl rfl (fun _ => rfl) pa 1, fun _ _ => rfl, fun _ => rfl⟩

theorem sameBytes_fresh (s : State) : sameBytes s s.fresh :=
  ⟨fun pa => State.readPa_congr rfl rfl rfl rfl rfl rfl rfl rfl (fun _ => rfl) pa 1, fun _ _ => rfl, fun _ => rfl⟩

theorem findWindow_modify {f : Core → Core} (hf : ∀ k, (f k).pubs = k.pubs) (blk c n : Nat) (ks : List Core) :
    findWindow blk (ks.modify c f) n = findWindow blk ks n := by
  induction ks generalizing c n with
  | nil => cases c <;> rfl
  | cons k ks ih => cases c <;> simp [List.modify_succ_cons, findWindow, hf, ih]

theorem findLeft_modify {f : Core → Core} (hf : ∀ k, (f k).unpub = k.unpub) (blk c n : Nat) (ks : List Core) :
    findLeft blk (ks.modify c f) n = findLeft blk ks n := by
  induction ks generalizing c n with
  | nil => cases c <;> rfl
  | cons k ks ih => cases c <;> simp [List.modify_succ_cons, findLeft, hf, ih]

theorem State.modCore_lmem {s : State} {c : Nat} {f : Core → Core} (hm : ∀ k, (f k).lmem = k.lmem) (d : Nat) :
    ((s.modCore c f).core d).lmem = (s.core d).lmem := by
  simp only [State.core, State.modCore, List.getD_eq_getElem?_getD, List.getElem?_modify]
  cases s.cores[d]? with
  | none => rfl
  | some k => by_cases h : c = d <;> simp [h, hm]

/-- A core changes beside its local memory and its windows: every block keeps its value. -/
theorem State.current_modCore {s : State} {c : Nat} {f : Core → Core} (hm : ∀ k, (f k).lmem = k.lmem) (hp : ∀ k, (f k).pubs = k.pubs)
    (hu : ∀ k, (f k).unpub = k.unpub) (blk : Nat) : (s.modCore c f).current blk = s.current blk := by
  have hw : (s.modCore c f).localCopy blk = s.localCopy blk := by
    simp only [State.localCopy, State.published, State.leftover, State.modCore, findWindow_modify hp, findLeft_modify hu]
    rfl
  simp only [State.current, hw, State.modCore_lmem hm]
  rfl

theorem State.readPa_of_current {s u : State} (hc : ∀ blk, u.current blk = s.current blk) (hf : u.fab = s.fab) (pa n : Nat) :
    u.readPa pa n = s.readPa pa n := by
  simp only [State.readPa]
  generalize n / 128 + 2 = k
  induction k generalizing pa n with
  | zero => rfl
  | succ k ih => simp only [State.readBlocks, hc, ih, State.dev, hf]

theorem sameBytes_modCore {s : State} {c : Nat} {f : Core → Core} (hm : ∀ k, (f k).lmem = k.lmem) (hp : ∀ k, (f k).pubs = k.pubs)
    (hu : ∀ k, (f k).unpub = k.unpub) : sameBytes s (s.modCore c f) :=
  ⟨fun pa => State.readPa_of_current (s := s) (u := s.modCore c f) (State.current_modCore hm hp hu) rfl pa 1,
    fun d a => by rw [State.modCore_lmem hm], fun _ => rfl⟩

/-! ## Bundles beside fibres -/

theorem Team.foldl_bundle (t : Team) (gs : List (List Nat)) (stamp : Nat) :
    ∃ bs, gs.foldl (fun t g => t.bundle g stamp) t = { t with bundles := bs } := by
  induction gs generalizing t with
  | nil => exact ⟨t.bundles, rfl⟩
  | cons g gs ih =>
    obtain ⟨bs, h⟩ := ih (t.bundle g stamp)
    refine ⟨bs, h.trans ?_⟩
    unfold Team.bundle
    split <;> rfl

theorem Team.rebundle_bundles (t : Team) (is : List Nat) (stamp : Nat) : ∃ bs, t.rebundle is stamp = { t with bundles := bs } :=
  Team.foldl_bundle (t.unbundle is) (t.byPc is) stamp

@[simp] theorem Team.rebundle_id (t : Team) (is : List Nat) (stamp : Nat) : (t.rebundle is stamp).id = t.id := by
  obtain ⟨bs, h⟩ := t.rebundle_bundles is stamp
  rw [h]

@[simp] theorem Team.rebundle_lbase (t : Team) (is : List Nat) (stamp : Nat) : (t.rebundle is stamp).lbase = t.lbase := by
  obtain ⟨bs, h⟩ := t.rebundle_bundles is stamp
  rw [h]

@[simp] theorem Team.rebundle_fibre (t : Team) (is : List Nat) (stamp i : Nat) : (t.rebundle is stamp).fibre i = t.fibre i := by
  obtain ⟨bs, h⟩ := t.rebundle_bundles is stamp
  rw [h]
  rfl

@[simp] theorem Team.modFibres_lbase (t : Team) (is : List Nat) (f : Nat → Fibre → Fibre) : (t.modFibres is f).lbase = t.lbase := rfl
@[simp] theorem Team.unbundle_fibre (t : Team) (is : List Nat) (i : Nat) : (t.unbundle is).fibre i = t.fibre i := rfl

@[simp] theorem Team.modFibres_nil (t : Team) (f : Nat → Fibre → Fibre) : t.modFibres [] f = t := by
  simp [Team.modFibres, List.zipIdx_map_fst]

theorem State.modTeam_self {s : State} {n : Nat} {f : Team → Team} (hf : ∀ t, f t = t) : s.modTeam n f = s := by
  simp [State.modTeam, hf]

/-- An instruction that changes no fibre only moves the bundle on. -/
@[simp] theorem State.writeFibres_nil (s : State) (len : Nat) (f : Nat → Fibre → Fibre) : s.writeFibres [] len f = s.advance len := by
  rw [State.writeFibres, State.modTeam_self fun t => t.modFibres_nil f]

/-! ## Fibres that do not wait are left alone by a release -/

/-- From `s` to `u` no byte changes, and the fibres `is` of team `n` stand as before. -/
structure Spares (s u : State) (n : Nat) (is : List Nat) : Prop where
  bytes : sameBytes s u
  fibres : ∀ x, s.team? n = some x → ∃ y, u.team? n = some y ∧ ∀ k ∈ is, y.fibre k = x.fibre k

theorem Spares.refl (s : State) (n : Nat) (is : List Nat) : Spares s s n is := ⟨sameBytes.refl s, fun x hx => ⟨x, hx, fun _ _ => rfl⟩⟩

theorem Spares.trans {s v u : State} {n : Nat} {is : List Nat} (h : Spares s v n is) (h' : Spares v u n is) : Spares s u n is where
  bytes := h.bytes.trans h'.bytes
  fibres := by
    intro x hx
    obtain ⟨y, hy, hf⟩ := h.fibres x hx
    obtain ⟨z, hz, hf'⟩ := h'.fibres y hy
    exact ⟨z, hz, fun k hk => (hf' k hk).trans (hf k hk)⟩

theorem Spares.modTeam {s : State} {n : Nat} {is : List Nat} {f : Team → Team} (hi : ∀ t, (f t).id = t.id) (hl : ∀ t, (f t).lbase = t.lbase)
    (hf : ∀ t, ∀ k ∈ is, (f t).fibre k = t.fibre k) : Spares s (s.modTeam n f) n is where
  bytes := sameBytes_modTeam hi hl
  fibres := fun x hx => ⟨f x, by rw [State.modTeam_same hi, hx]; rfl, hf x⟩

theorem Spares.progress (s : State) (n : Nat) (is : List Nat) : Spares s (s.progress n) n is := by
  unfold State.progress
  split
  · split
    · exact ⟨sameBytes_modCore (fun _ => rfl) (fun _ => rfl) (fun _ => rfl), fun x hx => ⟨x, hx, fun _ _ => rfl⟩⟩
    · exact .refl s n is
  · exact .refl s n is

@[simp] theorem Team.unpark_id (t : Team) (is : List Nat) : (t.unpark is).id = t.id := rfl
@[simp] theorem Team.unpark_lbase (t : Team) (is : List Nat) : (t.unpark is).lbase = t.lbase := rfl

theorem Team.unpark_other {t : Team} {is : List Nat} {k : Nat} (h : k ∉ is) : (t.unpark is).fibre k = t.fibre k := by
  refine (Team.modFibres_fibre _ is _ k).trans ?_
  rw [if_neg fun hk => h hk.1]
  rfl

/-- The fibres `gone` leave their waits, in new bundles: every other fibre stands as before. -/
theorem Spares.leave (s : State) (n stamp : Nat) (groups : Team → List (List Nat)) {gone is : List Nat} (h : ∀ k ∈ is, k ∉ gone) :
    Spares s ((s.progress n).modTeam n fun t => (groups t).foldl (fun t g => t.bundle g stamp) (t.unpark gone)) n is := by
  refine (Spares.progress s n is).trans (.modTeam (fun t => ?_) (fun t => ?_) fun t k hk => ?_)
  all_goals obtain ⟨bs, e⟩ := (t.unpark gone).foldl_bundle (groups t) stamp
  · rw [e]; rfl
  · rw [e]; rfl
  · rw [e]; exact Team.unpark_other (h k hk)

theorem Spares.release (s : State) (n : Nat) {gone is : List Nat} (h : ∀ k ∈ is, k ∉ gone) : Spares s (s.release n gone) n is :=
  .leave s n s.stamp (fun t => t.leaving gone) h

theorem Spares.releaseWhole (s : State) (n : Nat) {gone is : List Nat} (h : ∀ k ∈ is, k ∉ gone) : Spares s (s.releaseWhole n gone) n is :=
  .leave s n s.stamp (fun _ => [gone]) h

/-- The members of a home group that leave together all wait at a `home`. -/
theorem Team.homeReady_waits {t : Team} {g : Nat} {ms : List Nat} (h : t.homeReady g = some ms) {k : Nat} (hk : k ∈ ms) :
    (t.fibre k).wait = some .home := by
  unfold Team.homeReady at h
  dsimp only at h
  split at h
  · cases h
  · split at h
    · next ha =>
      cases h
      have hw := List.all_eq_true.1 ha k hk
      simp only [Bool.and_eq_true, beq_iff_eq] at hw
      exact hw.1
    · cases h

theorem Spares.foldl {α : Type} {n : Nat} {is : List Nat} {f : State → α → State} (hf : ∀ u a, Spares u (f u a) n is) (l : List α) (s : State) :
    Spares s (l.foldl f s) n is := by
  induction l generalizing s with
  | nil => exact .refl s n is
  | cons a l ih => exact (hf s a).trans (ih _)

section
variable {s : State} {t : Team} {n : Nat} {is : List Nat}

theorem Spares.releaseHomes (ht : s.team? n = some t) (h : ∀ k ∈ is, (t.fibre k).wait = none) : Spares s (s.releaseHomes n) n is := by
  unfold State.releaseHomes
  rw [ht]
  refine .foldl (fun u g => ?_) _ s
  split
  · next ms hms =>
    refine .releaseWhole u n fun k hk hin => ?_
    cases (h k hk).symm.trans (Team.homeReady_waits hms hin)
  · exact .refl u n is

theorem Spares.releaseBar (ht : s.team? n = some t) (h : ∀ k ∈ is, (t.fibre k).wait = none) : Spares s (s.releaseBar n) n is := by
  unfold State.releaseBar
  rw [ht]
  dsimp only
  split
  · next hall =>
    refine .release s n fun k hk hin => ?_
    have hw := List.all_eq_true.1 (Bool.and_eq_true_iff.1 hall).2 k hin
    rw [h k hk] at hw
    cases hw
  · exact .refl s n is

/-- Barriers that are met release only fibres that wait. -/
theorem Spares.settle (ht : s.team? n = some t) (h : ∀ k ∈ is, (t.fibre k).wait = none) : Spares s (s.settle n) n is := by
  have hh := Spares.releaseHomes ht h
  obtain ⟨y, hy, hf⟩ := hh.fibres t ht
  exact hh.trans (.releaseBar hy fun k hk => by rw [hf k hk, h k hk])

end

/-! ## Moving on -/

/-- The bundle that issues in `s`, of team `t`, has only moved on in `u`: no byte changes, and each of its fibres is at pc + 4 with everything
else as before. -/
structure MovesOn (s u : State) (t : Team) : Prop where
  bytes : sameBytes s u
  fibres : ∃ x, u.team? t.id = some x ∧ ∀ k ∈ s.cur.fibs, x.fibre k = { t.fibre k with pc := (t.fibre k).pc + 4 }

theorem MovesOn.fibreNow {s u : State} {t : Team} (h : MovesOn s u t) {k : Nat} (hk : k ∈ s.cur.fibs) :
    u.fibreNow t k = { t.fibre k with pc := (t.fibre k).pc + 4 } := by
  obtain ⟨x, hx, hf⟩ := h.fibres
  rw [State.fibreNow, hx, Option.getD_some, hf k hk]

/-- From `s` to `v` neither a byte, nor a team, nor the bundle that issues changes. -/
structure Aside (s v : State) : Prop where
  bytes : sameBytes s v
  teams : v.teams = s.teams
  cur : v.cur = s.cur

theorem Aside.refl (s : State) : Aside s s := ⟨.refl s, rfl, rfl⟩

theorem Aside.fresh (s : State) : Aside s s.fresh := ⟨sameBytes_fresh s, rfl, rfl⟩

theorem Aside.modCore {s : State} {c : Nat} {f : Core → Core} (hm : ∀ k, (f k).lmem = k.lmem) (hp : ∀ k, (f k).pubs = k.pubs)
    (hu : ∀ k, (f k).unpub = k.unpub) : Aside s (s.modCore c f) := ⟨sameBytes_modCore hm hp hu, rfl, rfl⟩

theorem Aside.countMiss (s : State) (c : Nat) (uni : Bool) (nexts : List Word) : Aside s (s.countMiss c uni nexts) := by
  unfold State.countMiss
  split
  · exact .modCore (fun _ => rfl) (fun _ => rfl) fun _ => rfl
  · exact .refl s

/-- Before it moves on, the bundle's issue may change what is neither a byte nor a team. -/
theorem MovesOn.after {s v u : State} {t : Team} (ha : Aside s v) (h : MovesOn v u t) : MovesOn s u t :=
  ⟨ha.bytes.trans h.bytes, ha.cur ▸ h.fibres⟩

/-- After it has moved on, other fibres may go on. -/
theorem MovesOn.before {s v u : State} {t : Team} (h : MovesOn s v t) (hs : Spares v u t.id s.cur.fibs) : MovesOn s u t := by
  obtain ⟨x, hx, hf⟩ := h.fibres
  obtain ⟨y, hy, hf'⟩ := hs.fibres x hx
  exact ⟨h.bytes.trans hs.bytes, y, hy, fun k hk => (hf' k hk).trans (hf k hk)⟩

/-- The instruction goes on, and its bundle only moves on. -/
def OnlyMovesOn (r : Result) (s : State) (t : Team) : Prop := ∃ u, r = .next u ∧ MovesOn s u t

/-- The bundle that issues is one of team `t`, and its fibres run. -/
structure BundleRuns (s : State) (t : Team) : Prop where
  team : s.curTeam = some t
  running : ∀ k ∈ s.cur.fibs, (t.fibre k).running = true

/-- The bundle of team `t` can issue, and guard `g` holds in none of its fibres. -/
structure GuardFalse (s : State) (t : Team) (g : Guard) : Prop extends BundleRuns s t where
  quiet : Quiet s t
  guard : g ≠ .neg 7
  idle : s.active t g = []

section
variable {s : State} {t : Team} {g : Guard}

theorem Fibre.running_inRange {k : Nat} (h : (t.fibre k).running = true) : k < t.fibres.length := by
  by_contra hk
  rw [Team.fibre, List.getD_eq_default _ _ (Nat.le_of_not_lt hk)] at h
  cases h

theorem Fibre.running_wait {f : Fibre} (h : f.running = true) : f.wait = none :=
  Option.isNone_iff_eq_none.1 (Bool.and_eq_true_iff.1 h).2

theorem GuardFalse.holds (h : GuardFalse s t g) {k : Nat} (hk : k ∈ s.cur.fibs) : guardHolds g (t.fibre k) = false := by
  by_contra hg
  have : k ∈ s.active t g := List.mem_filter.2 ⟨hk, eq_true_of_ne_false hg⟩
  rw [h.idle] at this
  cases this

/-- No register of a quiet bundle is pending (R89). -/
theorem Quiet.pendingUse (h : Quiet s t) (uses : Fibre → List Nat) : pendingUse t s.cur.fibs uses = false := by
  simp only [Sys2Proof.Machine.pendingUse, List.any_eq_false]
  intro k hk
  simp [h.ready k hk]

/-- A quiet bundle has no open access, and so no interlock of R353 holds it up. -/
theorem Quiet.settles (h : Quiet s t) (load : Bool) (writes : List Nat) :
    (if load then s.hasAcquire t s.cur.fibs || s.readPending t s.cur.fibs writes else s.hasOpen t s.cur.fibs) = false := by
  have ho : ∀ r ∈ (s.core t.core).reqs, r.isOpen = true → r.team ≠ t.id := fun r hr ho he => by
    rw [h.settled r hr he] at ho
    cases ho
  have hacq : s.hasAcquire t s.cur.fibs = false := by
    simp only [State.hasAcquire, List.any_eq_false, Req.ofFibres, Bool.and_eq_true, beq_iff_eq]
    exact fun r hr ⟨⟨ha, _⟩, hb, _⟩ => ho r hr ha hb
  have hread : s.readPending t s.cur.fibs writes = false := by
    simp only [State.readPending, List.any_eq_false, Bool.and_eq_true, beq_iff_eq]
    exact fun r hr ⟨⟨ha, hb⟩, _⟩ => ho r hr ha hb
  have hopen : s.hasOpen t s.cur.fibs = false := by
    simp only [State.hasOpen, List.any_eq_false, Req.ofFibres, Bool.and_eq_true, beq_iff_eq]
    exact fun r hr ⟨ha, hb, _⟩ => ho r hr ha hb
  cases load <;> simp [hacq, hread, hopen]

/-- An instruction whose guard holds nowhere has its effect on no fibre: no check is made. -/
theorem issue_onlyMovesOn {fm : Form} {own : State → Team → List Nat → List Check} {eff : State → Team → List Nat → State}
    (h : GuardFalse s t fm.guard) (he : MovesOn s (eff s t []) t) : OnlyMovesOn (issue fm own eff s) s t := by
  refine ⟨_, ?_, he⟩
  have hn : ∀ cs, recorded t [] cs = none := fun cs => (recorded_none t [] cs).2 nofun
  rw [issue_checked h.quiet.team (h.quiet.pendingUse _) (h.quiet.settles _ _) h.guard, h.idle, hn]

/-- One change of the issuing team, in which its fibres take the next instruction. -/
theorem MovesOn.modTeam (h : BundleRuns s t) {f : Team → Team} (hi : ∀ x, (f x).id = x.id) (hl : ∀ x, (f x).lbase = x.lbase)
    (hf : ∀ k ∈ s.cur.fibs, k < t.fibres.length → (f t).fibre k = { t.fibre k with pc := (t.fibre k).pc + 4 }) :
    MovesOn s (s.modTeam s.cur.team f).issued t where
  bytes := (sameBytes_modTeam hi hl).trans (sameBytes_issued _)
  fibres := by
    have ht : s.team? s.cur.team = some t := h.team
    refine ⟨f t, ?_, fun k hk => hf k hk (Fibre.running_inRange (h.running k hk))⟩
    rw [State.team?_id ht, State.issued_team?, State.modTeam_same hi, ht]
    rfl

theorem MovesOn.advance (h : BundleRuns s t) : MovesOn s (s.advance 4) t := by
  refine .modTeam h (fun _ => rfl) (fun _ => rfl) fun k hk hl => ?_
  show (t.modFibres s.cur.fibs fun _ f => { f with pc := f.pc + 4 }).fibre k = _
  rw [Team.modFibres_fibre, if_pos ⟨hk, hl⟩]

/-- Every fibre's next program counter is that of the next instruction (R53). -/
theorem MovesOn.split (h : BundleRuns s t) {next : Nat → Fibre → Word} (hn : ∀ k ∈ s.cur.fibs, next k (t.fibre k) = (t.fibre k).pc + 4) :
    MovesOn s (s.split next) t := by
  refine .modTeam h (fun x => by simp) (fun x => by simp) fun k hk hl => ?_
  rw [Team.rebundle_fibre, Team.modFibres_fibre, if_pos ⟨hk, hl⟩, hn k hk]

/-- No fibre blocks. -/
theorem MovesOn.blockSome (h : BundleRuns s t) {wait : Nat → Fibre → Option Wait} (hw : ∀ k ∈ s.cur.fibs, wait k (t.fibre k) = none) :
    MovesOn s (s.blockSome wait fun _ f => f) t := by
  refine .modTeam h (fun x => ?_) (fun x => ?_) fun k hk hl => ?_
  · dsimp only; split <;> simp [Team.unbundle]
  · dsimp only; split <;> simp [Team.unbundle]
  · have hb : (s.cur.fibs.filter fun i => (wait i (t.fibre i)).isSome) = [] := List.filter_eq_nil_iff.2 fun i hi => by simp [hw i hi]
    simp only [hb, List.isEmpty_nil, if_true, Team.rebundle_fibre, Team.unbundle_fibre, Team.modFibres_fibre, hk, hl, and_self, hw k hk]

/-- A bundle that has moved on waits at no barrier, and those that are met leave it alone. -/
theorem MovesOn.settle (h : BundleRuns s t) {u : State} (hu : MovesOn s u t) : MovesOn s (u.settle t.id) t := by
  obtain ⟨x, hx, hf⟩ := hu.fibres
  refine hu.before (.settle hx fun k hk => ?_)
  rw [hf k hk]
  exact Fibre.running_wait (h.running k hk)

theorem BundleRuns.after (h : BundleRuns s t) {v : State} (ha : Aside s v) : BundleRuns v t := by
  refine ⟨?_, ha.cur ▸ h.running⟩
  rw [State.curTeam, State.team?, ha.teams, ha.cur]
  exact h.team

/-! ## Accesses of no fibre -/

@[simp] theorem lineGroups_nil : lineGroups [] = [] := rfl

@[simp] theorem State.addReqs_nil (bundle : List Nat) (epc : Word) (inst : Nat) (kind : ReqKind) (ord : OrdScope) :
    s.addReqs t bundle epc inst kind ord [] = s := rfl

@[simp] theorem State.accessStalls_nil (act : List Nat) (opens : Bool) : s.accessStalls t act opens [] = false := by
  simp [State.accessStalls]

@[simp] theorem State.pendingReqs_nil : s.pendingReqs t [] = [] := by
  simp [State.pendingReqs, Req.ofFibres]

@[simp] theorem State.pendingPosts_nil : s.pendingPosts t [] = [] := by
  simp [State.pendingPosts]

/-- At team scope a release makes no write-back that could wait (R249). -/
@[simp] theorem State.performedAt_nil : s.performedAt t [] .team = true := by
  simp [State.performedAt, State.flushShut, Scope.widePkg, Scope.wideDom]

/-! ## Branches and calls that nothing takes (R57 to R62) -/

theorem brNext_false {f : Fibre} (h : guardHolds g f = false) (off : BitVec 20) (i : Nat) : brNext g off i f = f.pc + 4 := by
  simp [brNext, h]

theorem brxNext_false {f : Fibre} (h : guardHolds g f = false) (a i : Nat) : brxNext g a i f = f.pc + 4 := by
  simp [brxNext, h]

section
variable {next : Nat → Fibre → Word} (hn : ∀ k ∈ s.cur.fibs, next k (t.fibre k) = (t.fibre k).pc + 4)
include hn

theorem MovesOn.jump (h : BundleRuns s t) (uni : Bool) : MovesOn s (s.jump t uni next) t := by
  have ha := Aside.countMiss s t.core uni (s.cur.fibs.map fun i => next i (t.fibre i))
  exact .after ha (.split (h.after ha) fun k hk => hn k (ha.cur ▸ hk))

/-- No fibre enters a pool (R59). -/
theorem MovesOn.regroup (h : BundleRuns s t) (uni : Bool) : MovesOn s (s.regroup t [] uni next) t :=
  (MovesOn.jump hn h uni).before (.modTeam (fun _ => rfl) (fun _ => rfl) fun _ _ _ => rfl)

/-- No link is written (R61). -/
theorem MovesOn.callEffect (h : BundleRuns s t) (uni : Bool) : MovesOn s (s.callEffect t [] uni next) t := by
  have ha := Aside.fresh s
  have hc : s.callEffect t [] uni next = s.fresh.jump t uni next := by
    simp only [State.callEffect, List.filterMap_nil, lineGroups_nil, State.accessStalls_nil, Bool.false_eq_true, if_false, State.addReqs_nil,
      Team.modFibres_nil, State.modTeam_self fun _ => rfl]
  rw [hc]
  exact .after ha (.jump (s := s.fresh) hn (h.after ha) uni)

end

/-! ## The effects on no fibre -/

theorem MovesOn.globalEffect (h : BundleRuns s t) (x : GAccess) : MovesOn s (s.globalEffect t [] x) t := by
  have ha := Aside.fresh s
  have he : s.globalEffect t [] x = s.fresh.advance 4 := by
    simp only [State.globalEffect, State.itemsOf, List.filterMap_nil, lineGroups_nil, State.accessStalls_nil, Bool.false_eq_true, if_false,
      List.any_nil, Option.any_none, State.addReqs_nil, State.writeFibres_nil]
  rw [he]
  exact .after ha (.advance (h.after ha))

theorem MovesOn.endFibres (h : BundleRuns s t) (c : FCond) : MovesOn s (s.endFibres t [] c) t := by
  have hr : (s.cur.fibs.filter fun i => !([] : List Nat).contains i) = s.cur.fibs := List.filter_eq_self.2 fun _ _ => rfl
  have hid : t.id = s.cur.team := State.team?_id h.team
  refine .settle h ?_
  simp only [List.foldl_nil, hr, Team.modFibres_nil, hid]
  refine .modTeam h (fun x => by simp [Team.unbundle]) (fun x => by simp [Team.unbundle]) fun k hk hl => ?_
  rw [Team.rebundle_fibre, Team.modFibres_fibre, if_pos ⟨hk, hl⟩]
  rfl

theorem MovesOn.multiply (h : BundleRuns s t) (sl : Slot) (reuse half : Bool) (ab db : BitVec 4) (img : Nat → Nat) :
    MovesOn s (s.multiply t [] sl reuse half ab db img) t := by
  unfold State.multiply
  split
  · exact .advance h
  · have ha : Aside s (s.latch t [] ab reuse) := .modCore (fun _ => rfl) (fun _ => rfl) fun _ => rfl
    rw [State.writeFibres_nil]
    exact .after ha (.advance (h.after ha))

end

/-! ## Instructions whose guard holds nowhere (R16, R28) -/

section
variable {s : State} {t : Team} {g : Guard}

/-- The effect on no fibre is to move on. -/
theorem issue_advances {fm : Form} {own : State → Team → List Nat → List Check} {eff : State → Team → List Nat → State}
    (h : GuardFalse s t fm.guard) (he : eff s t [] = s.advance 4) : OnlyMovesOn (issue fm own eff s) s t :=
  issue_onlyMovesOn h (he ▸ .advance h.toBundleRuns)

/-- The effect is to write registers or predicates, and to move on. -/
theorem issue_writes {fm : Form} {own : State → Team → List Nat → List Check} {eff : State → Team → List Nat → State}
    {f : Nat → Fibre → Fibre} (h : GuardFalse s t fm.guard) (he : eff s t [] = s.writeFibres [] 4 f) :
    OnlyMovesOn (issue fm own eff s) s t :=
  issue_advances h (he.trans (s.writeFibres_nil 4 f))

theorem laneOp_false {uses : Fibre → List Nat} {f : Nat → Fibre → Fibre} (h : GuardFalse s t g) : OnlyMovesOn (laneOp g 4 uses f s) s t :=
  issue_writes (fm := { guard := g, uses := uses }) h rfl

theorem collective_false {uses : List Nat} {f : Team → List Nat → Nat → Fibre → Fibre} (h : GuardFalse s t g) :
    OnlyMovesOn (collective g uses f s) s t := issue_writes (fm := { guard := g, uses := fun _ => uses }) h rfl

theorem shuffle_false {b a d : Reg} {src : Nat → Nat → Option Nat} (h : GuardFalse s t g) : OnlyMovesOn (shuffle g b a d src s) s t := by
  unfold shuffle
  exact collective_false h

theorem gred_false {a d : Reg} {f : Word → Word → Word} (h : GuardFalse s t g) : OnlyMovesOn (gred g a d f s) s t := by
  unfold gred
  exact collective_false h

/-- No value is drawn (R117). -/
theorem slotOp_false {n : Slot} {uses : Fibre → List Nat} {ok : SlotVal → Bool} {draws : SlotVal → Nat}
    {f : SlotVal → Word → Nat → Fibre → Fibre} (h : GuardFalse s t g) : OnlyMovesOn (slotOp g n uses ok draws f s) s t := by
  refine issue_advances (fm := { guard := g, uses := uses }) h ?_
  dsimp only
  split
  · rfl
  · exact s.writeFibres_nil 4 _

theorem globalOp_false {x : GAccess} {load : Bool} (h : GuardFalse s t x.guard) : OnlyMovesOn (globalOp x load s) s t := by
  unfold globalOp
  exact issue_onlyMovesOn h (.globalEffect h.toBundleRuns x)

theorem redOp_false {op : AtomOp} {r : Rec} {i d : Reg} (h : GuardFalse s t g) : OnlyMovesOn (redOp g op r i d s) s t := by
  unfold redOp
  exact issue_onlyMovesOn h (.globalEffect h.toBundleRuns _)

theorem latom_false {op : AtomOp} {a d : Reg} (h : GuardFalse s t g) : OnlyMovesOn (latom g op a d s) s t := by
  unfold latom
  exact issue_writes h rfl

/-- An instruction that does nothing where no fibre executes it. -/
theorem issue_unlessIdle {fm : Form} {own : State → Team → List Nat → List Check} {eff : State → Team → List Nat → State}
    (h : GuardFalse s t fm.guard) :
    OnlyMovesOn (issue fm own (fun s t act => if act.isEmpty then s.advance 4 else eff s t act) s) s t := issue_advances h rfl

theorem copyOp_false {uses : List Nat} {n : Option Nat} {hd : Nat} {elem : Fibre → Nat} {out : Bool} {more : Team → List Nat → List Check}
    {kind : Team → Fibre → CmdKind} (h : GuardFalse s t g) : OnlyMovesOn (copyOp g uses n hd elem out more kind s) s t := by
  unfold copyOp
  exact issue_unlessIdle h

theorem rowOp_false {fn : Word → RowFn} {d : Nat} (h : GuardFalse s t g) : OnlyMovesOn (rowOp g fn d s) s t := by
  unfold rowOp
  exact issue_unlessIdle h

/-! ### Control -/

theorem GuardFalse.brNext (h : GuardFalse s t g) (off : BitVec 20) : ∀ k ∈ s.cur.fibs, brNext g off k (t.fibre k) = (t.fibre k).pc + 4 :=
  fun k hk => brNext_false (h.holds hk) off k

theorem GuardFalse.brxNext (h : GuardFalse s t g) (a : Nat) : ∀ k ∈ s.cur.fibs, brxNext g a k (t.fibre k) = (t.fibre k).pc + 4 :=
  fun k hk => brxNext_false (h.holds hk) a k

theorem execBr_false {off : BitVec 20} {uni : Bool} (h : GuardFalse s t g) : OnlyMovesOn (execBr g off uni s) s t := by
  unfold execBr
  exact issue_onlyMovesOn h (.jump (h.brNext off) h.toBundleRuns uni)

theorem execBrRgp_false {off : BitVec 20} {uni : Bool} (h : GuardFalse s t g) : OnlyMovesOn (execBrRgp g off uni s) s t := by
  unfold execBrRgp
  exact issue_onlyMovesOn h (.regroup (h.brNext off) h.toBundleRuns uni)

theorem execCall_false {off : BitVec 20} {uni : Bool} (h : GuardFalse s t g) : OnlyMovesOn (execCall g off uni s) s t := by
  unfold execCall
  exact issue_onlyMovesOn h (.callEffect (h.brNext off) h.toBundleRuns uni)

theorem execBrx_false {uni : Bool} {a : Reg} (h : GuardFalse s t g) : OnlyMovesOn (execBrx g uni a s) s t := by
  unfold execBrx
  exact issue_onlyMovesOn h (.jump (h.brxNext a.toNat) h.toBundleRuns uni)

theorem execBrxRgp_false {uni : Bool} {a : Reg} (h : GuardFalse s t g) : OnlyMovesOn (execBrxRgp g uni a s) s t := by
  unfold execBrxRgp
  exact issue_onlyMovesOn h (.regroup (h.brxNext a.toNat) h.toBundleRuns uni)

theorem execCallx_false {uni : Bool} {a : Reg} (h : GuardFalse s t g) : OnlyMovesOn (execCallx g uni a s) s t := by
  unfold execCallx
  exact issue_onlyMovesOn h (.callEffect (h.brxNext a.toNat) h.toBundleRuns uni)

/-- No link is read, and no depth changes (R62). -/
theorem execRet_false {uni : Bool} (h : GuardFalse s t g) : OnlyMovesOn (execRet g uni s) s t := by
  unfold execRet
  refine issue_onlyMovesOn h ?_
  have ha : Aside s (s.endLinks t []) := .modCore (fun _ => rfl) (fun _ => rfl) fun _ => rfl
  simp only [List.any_nil, List.filter_nil, List.isEmpty_nil, Bool.false_eq_true, if_false, if_true, Team.modFibres_nil,
    State.modTeam_self fun _ => rfl]
  refine .after ha (.jump (fun k hk => ?_) (h.toBundleRuns.after ha) uni)
  rw [h.holds (ha.cur ▸ hk)]
  rfl

theorem execExit_false (h : GuardFalse s t g) : OnlyMovesOn (execExit g s) s t := by
  unfold execExit
  exact issue_onlyMovesOn h (.endFibres h.toBundleRuns .ended)

theorem execFend_false (h : GuardFalse s t g) : OnlyMovesOn (execFend g s) s t := by
  unfold execFend
  exact issue_onlyMovesOn h (.endFibres h.toBundleRuns .dormant)

/-- A barrier blocks no fibre whose guard is false. -/
theorem GuardFalse.barrier (h : GuardFalse s t g) (w : Wait) :
    MovesOn s ((s.blockSome (fun _ f => if guardHolds g f then some w else none) fun _ f => f).settle t.id) t :=
  .settle h.toBundleRuns (.blockSome h.toBundleRuns fun k hk => by simp [h.holds hk])

theorem execHome_false (h : GuardFalse s t g) : OnlyMovesOn (execHome g s) s t := by
  unfold execHome
  exact issue_onlyMovesOn h (h.barrier .home)

theorem execBar_false {k : Class} (h : GuardFalse s t g) : OnlyMovesOn (execBar g k s) s t := by
  unfold execBar
  refine issue_onlyMovesOn h ?_
  simp only [State.performedAt_nil, Bool.not_true, Bool.false_eq_true, if_false]
  exact h.barrier .bar

theorem execFork_false {off : BitVec 20} (h : GuardFalse s t g) : OnlyMovesOn (execFork g off s) s t := by
  unfold execFork
  refine issue_onlyMovesOn h ?_
  simp only [State.performedAt_nil, Bool.not_true, Bool.false_eq_true, if_false]
  exact .blockSome h.toBundleRuns fun _ _ => rfl

theorem execRgrow_false {n : BitVec 6} (h : GuardFalse s t g) : OnlyMovesOn (execRgrow g n s) s t := by
  unfold execRgrow
  exact issue_onlyMovesOn h (.blockSome h.toBundleRuns fun _ _ => rfl)

/-! ### Global memory -/

theorem execStf_false {b a d : Reg} (h : GuardFalse s t g) : OnlyMovesOn (execStf g b a d s) s t := by
  unfold execStf
  refine issue_onlyMovesOn h ?_
  simp only [List.filter_nil, List.filterMap_nil, lineGroups_nil, State.accessStalls_nil, Bool.false_eq_true, if_false, State.addReqs_nil,
    State.writeFibres_nil]
  exact .after (.fresh s) (.advance (h.toBundleRuns.after (.fresh s)))

theorem execPf_false {r : Rec} {i : Reg} (h : GuardFalse s t g) : OnlyMovesOn (execPf g r i s) s t := by
  unfold execPf
  refine issue_advances h ?_
  simp only [State.pfItems, List.filterMap_nil, lineGroups_nil, State.accessStalls_nil, Bool.false_eq_true, if_false, List.foldl_nil,
    State.writeFibres_nil]

theorem execLtime_false {d : Reg} (h : GuardFalse s t g) : OnlyMovesOn (execLtime g d s) s t := by
  unfold execLtime
  refine issue_advances h ?_
  simp only [State.pendingReqs_nil, State.pendingPosts_nil, List.any_nil, Bool.or_self, Bool.false_eq_true, if_false, State.writeFibres_nil]

theorem execWait_false {c : WaitCond} {k : Class} {a d : Reg} (h : GuardFalse s t g) : OnlyMovesOn (execWait g c k a d s) s t := by
  unfold execWait
  refine issue_onlyMovesOn h ?_
  simp only [State.waitItems, List.filterMap_nil, lineGroups_nil, State.accessStalls_nil, List.any_nil, List.foldl_nil, Bool.false_eq_true,
    if_false]
  exact .blockSome h.toBundleRuns fun _ _ => rfl

/-! ### Barrier objects, handles and quarters -/

theorem execBoarr_false {b a : Reg} (h : GuardFalse s t g) : OnlyMovesOn (execBoarr g b a s) s t := by
  unfold execBoarr
  refine issue_advances h ?_
  simp only [List.any_nil, State.performedAt_nil, Bool.not_true, Bool.or_self, Bool.false_eq_true, if_false, List.foldl_nil]

theorem execBowait_false {k : Class} {a d : Reg} (h : GuardFalse s t g) : OnlyMovesOn (execBowait g k a d s) s t := by
  unfold execBowait
  refine issue_onlyMovesOn h ?_
  simp only [List.any_nil, List.filter_nil, List.foldl_nil, Bool.false_eq_true, if_false]
  exact .blockSome h.toBundleRuns fun _ _ => rfl

theorem execHwait_false {st : HState} {k : Class} {hd : Handle} (h : GuardFalse s t g) : OnlyMovesOn (execHwait g st k hd s) s t := by
  unfold execHwait
  refine issue_onlyMovesOn h ?_
  split
  · exact .advance h.toBundleRuns
  · exact .blockSome h.toBundleRuns fun _ _ => rfl

theorem execQmmaReg_false {reuse half : Bool} {sl : Slot} {bb ab db : BitVec 4} (h : GuardFalse s t g) :
    OnlyMovesOn (execQmmaReg g reuse half sl bb ab db s) s t := by
  unfold execQmmaReg
  exact issue_onlyMovesOn h (.multiply h.toBundleRuns sl reuse half ab db _)

/-! ### Every instruction -/

/-- Every instruction with a guard, by family: a bundle in which it holds nowhere only moves on. -/
theorem exec_onlyMovesOn {i : Instr} (hi : guardOf i = some g) (h : GuardFalse s t g) : OnlyMovesOn (exec i s) s t := by
  unfold exec
  cases i <;> cases hi
  case add | addc | sub | subb | mulLo | mulHiS32 | mulHiN32 | mad | and | or | xor | andn | minS32 | maxS32 | minN32 | maxN32 | shl | shr | sar
      | rot | popc | clz | brev | abs | bfxS32 | bfxN32 | bfi | mov | movIndirectSrc | movIndirectDst | sel | cmpS32 | cmpN32 | movi | imhi | addi
      | andi | ori | xori | shli | shri | sari | cmpiS32 | cmpiN32 | fadd | fsub | fmul | ffma | fmin | fmax | fdiv | frcp | frsq | fsqrt | fexp2
      | flog2 | fclass | fcmpF32 | hadd2F16 | hmul2F16 | hfma2F16 | hmax2F16 | hadd2Bf16 | hmul2Bf16 | hfma2Bf16 | hmax2Bf16 | cvtI2fS32
      | cvtI2fN32 | cvtF2iS32 | cvtF2iN32 | cvtF2hF16 | cvtF2hBf16 | cvtH2fF16 | cvtH2fBf16 | fscale | pand | por | pxor | pnot | pmov | movx
      | qzero | smx | qsr | qsw =>
    exact laneOp_false h
  case cvtfNar | cvtfWid | pk4 | upk4 | smxCvt =>
    exact slotOp_false h
  case voteAll | voteAny | voteBallot | matchLanes =>
    exact collective_false h
  case shflIdx | shflUp | shflDown | shflXor =>
    exact shuffle_false h
  case gredAddS32 | gredAddF32 | gredMinS32 | gredMaxS32 | gredMinF32 | gredMaxF32 | gredAnd | gredOr =>
    exact gred_false h
  case ld | st | ldNarrowWide | stNarrowWide | ldAcq | stRel | atomAddS32 | atomAddF32 | atomMinS32 | atomMaxS32 | atomMinN32 | atomMaxN32
      | atomAnd | atomOr | atomXor | atomExch | atomCas | atomOrdAddS32 | atomOrdAddF32 | atomOrdMinS32 | atomOrdMaxS32 | atomOrdAnd | atomOrdOr
      | atomOrdExch | atomOrdCas =>
    exact globalOp_false h
  case redAddS32 | redAddF32 | redMinS32 | redMaxS32 | redMinN32 | redMaxN32 | redAnd | redOr | redXor =>
    exact redOp_false h
  case latomAddS32 | latomAddF32 | latomMinS32 | latomMaxS32 | latomAnd | latomOr | latomExch | latomCas =>
    exact latom_false h
  case cpin | cpout | cppush | cpred | cpfill =>
    exact copyOp_false h
  case rcopy | rfill | rand | ror | rxor | rnot =>
    exact rowOp_false h
  -- Those that write registers or predicates.
  case movKconst => unfold execMovKconst; exact issue_writes h rfl
  case rgen => unfold execRgen; exact issue_writes h rfl
  case rwin => unfold execRwin; exact issue_writes h rfl
  case rshrink => unfold execRshrink; exact issue_writes h rfl
  case srd => unfold execSrd; exact issue_writes h rfl
  case lld => unfold execLld; exact issue_writes h rfl
  case botest => unfold execBotest; exact issue_writes h rfl
  case hstate => unfold execHstate; exact issue_writes h rfl
  case hwptr => unfold execHwptr; exact issue_writes h rfl
  case qpro => unfold execQpro; exact issue_writes h rfl
  -- Those whose effect is a fold over the fibres, or none.
  case nop => unfold execNop; exact issue_advances h rfl
  case trap => unfold execTrap; exact issue_advances h rfl
  case brk => unfold execBrk; exact issue_advances h rfl
  case swr => unfold execSwr; exact issue_advances h rfl
  case lst => unfold execLst; exact issue_advances h rfl
  case boinit => unfold execBoinit; exact issue_advances h rfl
  -- Those of the acting lane, where there is one.
  case fence => unfold execFence; exact issue_unlessIdle h
  case lpub => unfold execLpub; exact issue_unlessIdle h
  case halloc => unfold execHalloc; exact issue_unlessIdle h
  case hfree => unfold execHfree; exact issue_unlessIdle h
  case hbind => unfold execHbind; exact issue_unlessIdle h
  case cpcancel => unfold execCpcancel; exact issue_unlessIdle h
  case qmmaHandle => unfold execQmmaHandle; exact issue_unlessIdle h
  case nbload => unfold execNbload; exact issue_unlessIdle h
  case nbrun => unfold execNbrun; exact issue_unlessIdle h
  case nbstat => unfold execNbstat; exact issue_unlessIdle h
  case nbcancel => unfold execNbcancel; exact issue_unlessIdle h
  case launch => unfold execLaunch; exact issue_unlessIdle h
  case wchild => unfold execWchild; exact issue_unlessIdle h
  case errq => unfold execErrq; exact issue_unlessIdle h
  case asgen => unfold execAsgen; exact issue_unlessIdle h
  case sflush => unfold execSflush; exact issue_unlessIdle h
  case tret => unfold execTret; exact issue_unlessIdle h
  case halt => unfold execHalt; exact issue_unlessIdle h
  -- Those with a lemma of their own.
  case br => exact execBr_false h
  case brRgp => exact execBrRgp_false h
  case call => exact execCall_false h
  case fork => exact execFork_false h
  case brx => exact execBrx_false h
  case brxRgp => exact execBrxRgp_false h
  case callx => exact execCallx_false h
  case ret => exact execRet_false h
  case exit => exact execExit_false h
  case fend => exact execFend_false h
  case home => exact execHome_false h
  case rgrow => exact execRgrow_false h
  case pf => exact execPf_false h
  case wait => exact execWait_false h
  case ltime => exact execLtime_false h
  case stf => exact execStf_false h
  case bar => exact execBar_false h
  case boarr => exact execBoarr_false h
  case bowait => exact execBowait_false h
  case hwait => exact execHwait_false h
  case qmmaReg => exact execQmmaReg_false h

end

/-- Settles O39: every instruction issues through the checks, which no fibre fails, and its effect on no fibre moves the bundle on; barriers that
are met then release only fibres that wait. -/
theorem falseGuard : Obligations.FalseGuard := by
  unfold Obligations.FalseGuard
  intro i g s t hi hg hq hnone hrun
  obtain ⟨u, hu, hm⟩ := exec_onlyMovesOn hi { team := hq.team, running := hrun, quiet := hq, guard := hg, idle := hnone }
  exact ⟨u, hu, hm.bytes, fun k hk _ => hm.fibreNow hk⟩

end Sys2Proof.Machine

namespace Sys2Proof

open BitVec (extractLsb'_append_eq_of_le extractLsb'_append_eq_of_add_le extractLsb'_eq_self)

/-! ## The operand fields of instruction words (R28, R30, R32, R38) -/

/-- Every guard but the reserved one has a code of its own. -/
theorem guardOfBits_guardBits {g : Guard} (h : g.wf = true) : guardOfBits (guardBits g) = some g := by
  cases g with
  | pos p => revert p; decide
  | neg p => revert p; decide

@[simp] theorem condOfBits_condBits (c : Cond) : condOfBits (condBits c) = some c := by cases c <;> rfl

@[simp] theorem waitCondOfBits_waitCondBits (c : WaitCond) : waitCondOfBits (waitCondBits c) = some c := by cases c <;> rfl

@[simp] theorem classOfBits_classBits (k : Class) : classOfBits (classBits k) = some k := by cases k <;> rfl

@[simp] theorem scopeOfBits_scopeBits (sc : Scope) : scopeOfBits (scopeBits sc) = some sc := by cases sc <;> rfl

@[simp] theorem ordScopeOfBits_ordScopeBits (os : OrdScope) : ordScopeOfBits (ordScopeBits os) = some os := by
  cases os with
  | rlx => rfl
  | acq sc | rel sc | ar sc => cases sc <;> rfl

@[simp] theorem hstateOfBits_hstateBits (st : HState) : hstateOfBits (hstateBits st) = some st := by cases st <;> rfl

@[simp] theorem widthOfBits_widthBits (w : Width) : widthOfBits (widthBits w) = some w := by cases w <;> rfl

@[simp] theorem specialRegOfBits_specialRegBits (sr : SpecialReg) : specialRegOfBits (specialRegBits sr) = some sr := by
  cases sr <;> rfl

@[simp] theorem ofBool_beq_one (b : Bool) : (BitVec.ofBool b == 1#1) = b := by cases b <;> rfl

/-- The decoder asks for bit 0 of a register field that names a pair or a pointer (R30). -/
theorem evenReg_iff (r : Reg) : evenReg r = true ↔ r.extractLsb' 0 1 = 0#1 := by revert r; decide

/-! ## The fields of a whole word (R25, R27) -/

section
variable (f : BitVec 21) (g : Guard) (m : BitVec 6)

@[simp] theorem word32_major : (word32 f g m).extractLsb' 1 6 = m := by
  simp (disch := decide) only [word32, extractLsb'_append_eq_of_le, extractLsb'_append_eq_of_add_le, extractLsb'_eq_self, Nat.reduceSub]

@[simp] theorem word32_guard : (word32 f g m).extractLsb' 7 4 = guardBits g := by
  simp (disch := decide) only [word32, extractLsb'_append_eq_of_le, extractLsb'_append_eq_of_add_le, extractLsb'_eq_self, Nat.reduceSub]

@[simp] theorem word32_operands : (word32 f g m).extractLsb' 11 21 = f := by
  simp (disch := decide) only [word32, extractLsb'_append_eq_of_le, extractLsb'_eq_self, Nat.reduceSub]

end

section
variable (b : BitVec 5) (d : Reg) (op : BitVec 4)

@[simp] theorem unit16_opcode : (unit16 b d op).extractLsb' 1 4 = op := by
  simp (disch := decide) only [unit16, extractLsb'_append_eq_of_le, extractLsb'_append_eq_of_add_le, extractLsb'_eq_self, Nat.reduceSub]

@[simp] theorem unit16_reg : (unit16 b d op).extractLsb' 5 6 = d := by
  simp (disch := decide) only [unit16, extractLsb'_append_eq_of_le, extractLsb'_append_eq_of_add_le, extractLsb'_eq_self, Nat.reduceSub]

@[simp] theorem unit16_operand : (unit16 b d op).extractLsb' 11 5 = b := by
  simp (disch := decide) only [unit16, extractLsb'_append_eq_of_le, extractLsb'_eq_self, Nat.reduceSub]

end

/-! ## Decoding what the encoder writes -/

/-- A word decodes to what its operand field says under its guard and major opcode. -/
theorem decodeWord_word32 {f : BitVec 21} {g : Guard} {m : BitVec 6} {i : Instr} (hg : g.wf = true) (hd : decodeMajor m g f = some i) :
    decodeWord (word32 f g m) = .ok i := by
  simp only [decodeWord, word32_guard, word32_major, word32_operands, guardOfBits_guardBits hg, hd]

/-- A well-formed instruction does not have the reserved guard (R28). -/
theorem guard_wf {i : Instr} {g : Guard} (hw : wf i = true) (hg : Machine.guardOf i = some g) : g.wf = true := by
  cases i <;> cases hg
  case atomCas | atomOrdAddS32 | atomOrdAddF32 | atomOrdMinS32 | atomOrdMaxS32 | atomOrdAnd | atomOrdOr | atomOrdExch | latomCas | boinit |
      cppush | cpred | rcopy | rfill | rand | ror | rxor | rnot | nbload | nbrun | nbstat | nbcancel | launch | rgrow | rshrink |
      ldNarrowWide | stNarrowWide | fence | swr =>
    exact (Bool.and_eq_true_iff.1 hw).1
  case atomOrdCas | wait | lpub | stf =>
    exact (Bool.and_eq_true_iff.1 (Bool.and_eq_true_iff.1 hw).1).1
  all_goals exact hw

/-- R27 to R38: the word of a well-formed instruction decodes to it. A major opcode has one row; or rows that a minor opcode tells apart (R32), the
first field of the word; or, in three places, rows that are tried in turn. Each row reads its operands where the encoder has put them. -/
theorem decodeWord_encode {i : Instr} {w : BitVec 32} (hw : wf i = true) (hc : encode i = some (.word w)) : decodeWord w = .ok i := by
  cases i <;> cases hc <;> refine decodeWord_word32 (guard_wf hw rfl) ?_
  -- Nothing but the guard to read.
  case exit | fend | home | nop | brk | tret | halt =>
    rfl
  -- Majors of one row: it takes every word, or it asks for a reserved field or a condition code.
  case sel | movi | imhi | addi | andi | ori | xori | br | brRgp | call | ld | st | lld | lst | qmmaHandle =>
    change some _ = _
    simp (disch := decide) only [extractLsb'_append_eq_of_le, extractLsb'_append_eq_of_add_le, extractLsb'_eq_self, Nat.reduceSub,
      ofBool_beq_one]
  case cmpS32 | cmpN32 | fcmpF32 | fork | cpfill =>
    change ite _ _ _ = _
    simp (disch := decide) only [extractLsb'_append_eq_of_le, extractLsb'_append_eq_of_add_le, extractLsb'_eq_self, Nat.reduceSub, and_self,
      if_true, condOfBits_condBits, Option.bind_some]
  case cmpiS32 | cmpiN32 =>
    change Option.bind _ _ = _
    simp (disch := decide) only [extractLsb'_append_eq_of_le, extractLsb'_append_eq_of_add_le, extractLsb'_eq_self, Nat.reduceSub,
      condOfBits_condBits, Option.bind_some]
  -- Rows that are tried in turn.
  case shli | shri | sari =>
    change (rowShli _ _ <|> rowShri _ _ <|> rowSari _ _) = _
    simp (disch := decide) only [extractLsb'_append_eq_of_le, extractLsb'_append_eq_of_add_le, extractLsb'_eq_self, Nat.reduceSub, and_self,
      and_false, if_true, if_false, BitVec.reduceEq, Option.orElse_eq_orElse, Option.orElse_some, Option.orElse_none, rowShli, rowShri,
      rowSari]
  case cvtfNar | cvtfWid =>
    change (rowCvtfNar _ _ <|> rowCvtfWid _ _) = _
    simp (disch := decide) only [extractLsb'_append_eq_of_le, extractLsb'_append_eq_of_add_le, extractLsb'_eq_self, Nat.reduceSub, and_self,
      and_false, if_true, if_false, BitVec.reduceEq, Option.orElse_eq_orElse, Option.orElse_some, Option.orElse_none, rowCvtfNar,
      rowCvtfWid]
  -- Majors with a minor opcode: it selects the row.
  all_goals
    conv => lhs; whnf
    simp (disch := decide) only [extractLsb'_append_eq_of_le, extractLsb'_eq_self, Nat.reduceSub, BitVec.reduceToNat]
  case smx | smxCvt =>
    simp (disch := decide) only [extractLsb'_append_eq_of_le, extractLsb'_append_eq_of_add_le, extractLsb'_eq_self, Nat.reduceSub, and_self,
      and_false, false_and, if_true, if_false, BitVec.reduceEq, Option.orElse_eq_orElse, Option.orElse_some, Option.orElse_none, rowSmx,
      rowSmxCvt]
  -- Where a row asks for even registers, they are (R30).
  case' atomCas | atomOrdAddS32 | atomOrdAddF32 | atomOrdMinS32 | atomOrdMaxS32 | atomOrdAnd | atomOrdOr | atomOrdExch | latomCas | boinit |
      cppush | cpred | rcopy | rfill | rand | ror | rxor | rnot | nbload | nbrun | nbstat | nbcancel | launch =>
    have he := (evenReg_iff _).1 (Bool.and_eq_true_iff.1 hw).2
  case' atomOrdCas | wait | lpub | stf =>
    obtain ⟨hgb, he⟩ := Bool.and_eq_true_iff.1 hw
    have hb := (evenReg_iff _).1 (Bool.and_eq_true_iff.1 hgb).2
    rw [evenReg_iff] at he
  all_goals
    change ite _ _ _ = _
    simp (disch := decide) only [extractLsb'_append_eq_of_le, extractLsb'_append_eq_of_add_le, extractLsb'_eq_self, Nat.reduceSub, and_self,
      if_true, ofBool_beq_one, waitCondOfBits_waitCondBits, classOfBits_classBits, scopeOfBits_scopeBits, ordScopeOfBits_ordScopeBits,
      hstateOfBits_hstateBits, widthOfBits_widthBits, specialRegOfBits_specialRegBits, Option.bind_some, *]

/-- R25, R26: the unit of a compact instruction decodes to it. -/
theorem decodeCompact_encode {i : Instr} {u : BitVec 16} (hc : encode i = some (.unit u)) : decodeCompact u = i := by
  cases i <;> cases hc <;> simp only [decodeCompact, unit16_opcode, unit16_reg, unit16_operand, BitVec.ofNat_eq_ofNat, BitVec.reduceToNat]

/-- Settles O57: a compact instruction by its opcode, a 32-bit one by its major and minor opcode; an event has no code. -/
theorem encodeDecode : Obligations.EncodeDecode := by
  unfold Obligations.EncodeDecode
  intro i c hw hc
  cases c with
  | unit u => rw [decodeCode, decodeCompact_encode hc]
  | word w => exact decodeWord_encode hw hc

/-- Settles O56: each instruction is well formed, and the word is its code. -/
theorem decodeWords : Obligations.DecodeWords := by
  unfold Obligations.DecodeWords
  refine ⟨?_, ?_, ?_, ?_, ?_, ?_, ?_, ?_, ?_, ?_⟩ <;> exact encodeDecode _ _ (by decide) (by decide)

end Sys2Proof

namespace Sys2Proof

/-! ## The fates of words (R28, R32, R39) -/

/-- The guard that a code other than 1111 stands for: from 8 on, a negated predicate (R28). -/
def guardOfCode (n : Nat) : Guard := if n < 8 then .pos (BitVec.ofNat 3 n) else .neg (BitVec.ofNat 3 (n - 8))

theorem guardOfBits_eq (b : BitVec 4) : guardOfBits b = if b.toNat = 15 then none else some (guardOfCode b.toNat) := by
  revert b
  decide

/-- The guard code 1111 (R39, check 3). -/
theorem decodeWord_reserved {v : BitVec 32} (h : (v.extractLsb' 7 4).toNat = 15) : decodeWord v = .error .reservedGuard := by
  simp only [decodeWord, guardOfBits_eq, h, if_true]

/-- A word of no row, under another guard (R39, check 4). -/
theorem decodeWord_illegal {v : BitVec 32} (hg : (v.extractLsb' 7 4).toNat ≠ 15)
    (hd : ∀ g, decodeMajor (v.extractLsb' 1 6) g (v.extractLsb' 11 21) = none) :
    decodeWord v = .error (.illegal (guardOfCode (v.extractLsb' 7 4).toNat)) := by
  simp only [decodeWord, guardOfBits_eq, hg, if_false, hd]

/-- The bytes of a word, put together again (R7). -/
theorem append_bytes (v : BitVec 32) : v.extractLsb' 24 8 ++ v.extractLsb' 16 8 ++ (v.extractLsb' 8 8 ++ v.extractLsb' 0 8) = v := by
  rw [BitVec.extractLsb'_append_extractLsb'_eq_extractLsb' (by rfl), BitVec.extractLsb'_append_extractLsb'_eq_extractLsb' (by rfl),
    BitVec.extractLsb'_append_extractLsb'_eq_extractLsb' (by rfl)]
  exact BitVec.extractLsb'_eq_self

/-- Bytes whose first has bit 0 set are a word (R23), with the word's fate. -/
theorem decode_word_error {v : BitVec 32} {e : DecodeError} (hv : v.getLsbD 0 = true) (he : decodeWord v = .error e) :
    decode (Code.word v).bytes = .error e := by
  have hc : isCompact (v.extractLsb' 8 8 ++ v.extractLsb' 0 8) = false := by
    rw [isCompact, BitVec.getLsbD_append, if_pos (by decide), BitVec.getLsbD_extractLsb', hv]
    rfl
  simp only [Code.bytes, decode, hc, Bool.false_eq_true, if_false, append_bytes, he]

/-- The majors that R32 leaves unassigned. -/
def unassignedMajors : List Nat := [0x14, 0x15, 0x16, 0x17, 0x1B, 0x1D, 0x1E, 0x1F, 0x26, 0x27]

/-- The minors that R32 leaves unassigned in a major that a minor opcode of three bits divides. -/
def unassignedMinors : List (Nat × Nat) :=
  [(0x03, 7), (0x10, 7), (0x11, 6), (0x11, 7), (0x1A, 4), (0x1A, 5), (0x1A, 6), (0x1A, 7), (0x1C, 5), (0x1C, 6), (0x1C, 7), (0x28, 3), (0x28, 4),
    (0x28, 5), (0x28, 6), (0x28, 7), (0x29, 4), (0x29, 5), (0x29, 6), (0x29, 7), (0x2B, 5), (0x2B, 6), (0x2B, 7), (0x33, 5), (0x33, 6), (0x33, 7),
    (0x37, 5), (0x37, 6), (0x37, 7), (0x3D, 6), (0x3D, 7)]

/-- The majors whose first field is a condition code (R96). -/
def compareMajors : List Nat := [0x05, 0x06, 0x12]

theorem condOfBits_none {b : BitVec 3} (h : 6 ≤ b.toNat) : condOfBits b = none := by
  revert b
  decide

section
variable {m : BitVec 6} {f : BitVec 21} (g : Guard)

theorem decodeMajor_unassignedMajor (h : m.toNat ∈ unassignedMajors) : decodeMajor m g f = none := by
  unfold decodeMajor
  generalize m.toNat = k at h
  unfold unassignedMajors at h
  fin_cases h <;> rfl

theorem decodeMajor_unassignedMinor (h : (m.toNat, (f.extractLsb' 18 3).toNat) ∈ unassignedMinors) : decodeMajor m g f = none := by
  unfold decodeMajor
  generalize m.toNat = k, (f.extractLsb' 18 3).toNat = n at h
  unfold unassignedMinors at h
  fin_cases h <;> rfl

/-- No compare has the condition codes 6 and 7. -/
theorem decodeMajor_noCondition (h : m.toNat ∈ compareMajors) (hn : 6 ≤ (f.extractLsb' 18 3).toNat) : decodeMajor m g f = none := by
  have hc := condOfBits_none hn
  unfold decodeMajor
  generalize m.toNat = k at h
  unfold compareMajors at h
  fin_cases h
  · show rowCmpS32 g f = none
    simp only [rowCmpS32, hc, Option.bind_none, ite_self]
  · show rowCmpN32 g f = none
    simp only [rowCmpN32, hc, Option.bind_none, ite_self]
  · show rowFcmpF32 g f = none
    simp only [rowFcmpF32, hc, Option.bind_none, ite_self]

end

/-- The minor opcode of three bits in the word and in its operand field (R27). -/
theorem extract_minor (v : BitVec 32) : (v.extractLsb' 11 21).extractLsb' 18 3 = v.extractLsb' 29 3 := by
  ext i hi
  have : 18 + i < 21 := by omega
  simp only [BitVec.getElem_extractLsb', BitVec.getLsbD_extractLsb', ← Nat.add_assoc, this, decide_true, Bool.true_and]

namespace Machine

theorem guardHolds_guardOfCode (n : Nat) (f : Fibre) :
    guardHolds (guardOfCode n) f = if n < 8 then f.pred (BitVec.ofNat 3 n) else !f.pred (BitVec.ofNat 3 (n - 8)) := by
  unfold guardOfCode
  split <;> rfl

section
variable {s c : State} {t : Team}

/-- The code of a compact instruction is one unit (R23). -/
theorem Issues.fetchCode_unit {x y : Byte} (h : Issues s c t) (hx : x.getLsbD 0 = false)
    (hf : Fetches c t (t.kernel.code + (c.curPc t).toNat) [x, y]) : c.fetchCode t = .bytes [x, y] c := by
  simp only [State.fetchCode, hf.unit, hx, h.endFetch, Bool.false_eq_true, if_false]

/-- The code of a 32-bit instruction is two units (R23). -/
theorem Issues.fetchCode_word {x y z w : Byte} (h : Issues s c t) (hx : x.getLsbD 0 = true)
    (hlo : Fetches c t (t.kernel.code + (c.curPc t).toNat) [x, y])
    (hhi : Fetches c t (t.kernel.code + (c.curPc t).toNat + 2) [z, w]) : c.fetchCode t = .bytes [x, y, z, w] c := by
  simp only [State.fetchCode, hlo.unit, hhi.unit, hx, h.endFetch, if_true, List.cons_append, List.nil_append]

/-- A step runs what its bundle's code decodes to. -/
theorem Issues.step_decoded {bs rest : List Byte} {i : Instr} (h : Issues s c t) (hf : c.fetchCode t = .bytes bs c) (hd : decode bs = .ok (i, rest)) :
    step s = c.runInstr t i := by
  rw [step_issues h]
  simp only [State.fetchInstr, hf, hd]

/-- A step whose bundle fetches the reserved guard (R39, check 3). -/
theorem Issues.step_reserved {bs : List Byte} (h : Issues s c t) (hf : c.fetchCode t = .bytes bs c) (hd : decode bs = .error .reservedGuard) :
    step s = .next (c.raise t { code := 0x02 } c.cur.fibs c.cur.fibs (c.curPc t)) := by
  rw [step_issues h]
  simp only [State.fetchInstr, hf, hd]

/-- A step whose bundle fetches an illegal word (R39, check 4). -/
theorem Issues.step_illegal {bs : List Byte} {g : Guard} (h : Issues s c t) (hf : c.fetchCode t = .bytes bs c)
    (hd : decode bs = .error (.illegal g)) :
    step s = .next (if (c.active t g).isEmpty then c.advance 4 else c.raise t { code := 0x01 } (c.active t g) c.cur.fibs (c.curPc t)) := by
  rw [step_issues h]
  simp only [State.fetchInstr, hf, hd]
  cases (c.active t g).isEmpty <;> rfl

end

/-- Settles O55: the fetched bytes decode to the instruction, and the scoreboard holds it up or lets it run. -/
theorem stepRunsDecoded : Obligations.StepRunsDecoded := by
  unfold Obligations.StepRunsDecoded
  intro s c t i x y rest h va runs hlo
  have key (hs : step s = c.runInstr t i) : runs :=
    ⟨fun hw => hs.trans (State.runInstr_stalls hw), fun hw u hu => hs.trans (State.runInstr_runs hw hu)⟩
  exact ⟨fun hx hd => key (h.step_decoded (h.fetchCode_unit hx hlo) hd),
    fun z w hx hhi hd => key (h.step_decoded (h.fetchCode_word hx hlo hhi) hd)⟩

/-- Settles O38: the word's fate is that of its guard, or, since its major and minor name no row, that of an illegal word. -/
theorem reservedGuardAndIllegalWords : Obligations.ReservedGuardAndIllegalWords := by
  unfold Obligations.ReservedGuardAndIllegalWords
  intro s c t v h hv va hlo hhi guard major minor act
  have hx : (v.extractLsb' 0 8).getLsbD 0 = true := by rw [BitVec.getLsbD_extractLsb', hv]; rfl
  have hf : c.fetchCode t = .bytes (Code.word v).bytes c := h.fetchCode_word hx hlo hhi
  refine ⟨fun hg => h.step_reserved hf (decode_word_error hv (decodeWord_reserved hg)), fun hg hu => ?_⟩
  have hd (g : Guard) : decodeMajor (v.extractLsb' 1 6) g (v.extractLsb' 11 21) = none := by
    rcases hu with hm | hmn
    · exact decodeMajor_unassignedMajor g hm
    · have hsplit := (by decide : ∀ p ∈ _, p ∈ unassignedMinors ∨ p.1 ∈ compareMajors ∧ 6 ≤ p.2) _ hmn
      simp only [minor, ← extract_minor v] at hsplit
      rcases hsplit with hm | ⟨hm, hn⟩
      · exact decodeMajor_unassignedMinor g hm
      · exact decodeMajor_noCondition g hm hn
  have hstep := h.step_illegal hf (decode_word_error hv (decodeWord_illegal hg hd))
  have hact : c.active t (guardOfCode guard) = act := by
    simp only [State.active, guardHolds_guardOfCode]
    rfl
  rw [hact] at hstep
  exact ⟨fun ha => by rw [hstep, if_neg (by simpa using ha)], fun ha => by rw [hstep, ha]; rfl⟩

end Machine
end Sys2Proof

namespace Sys2Proof.Machine

/-! ## Lane instructions that write one register -/

/-- A bundle that can issue an instruction can issue one that names no other register. -/
theorem CanIssue.mono {s : State} {t : Team} {g : Guard} {uses uses' : Fibre → List Nat} (h : CanIssue s t g uses)
    (hu : ∀ x, uses' x ⊆ uses x) : CanIssue s t g uses' where
  team := h.team
  ready := by
    have hr := h.ready
    simp only [pendingUse, List.any_eq_false, List.any_eq_true, List.contains_iff_mem, not_exists, not_and] at hr ⊢
    exact fun i hi p hp hm => hr i hi p hp (hu _ hm)
  settled := h.settled
  guard := h.guard
  window := fun i hi n hn => h.window i hi n (hu _ hn)

/-- A lane instruction that writes register `d` of each guard-true fibre gives what it writes there. -/
theorem gives_of_laneOp {i : Instr} {s : State} {t : Team} {g : Guard} {len d : Nat} {uses : Fibre → List Nat} {v : Nat → Fibre → Word}
    (h : CanIssue s t g uses) (hd : ∀ x, d ∈ uses x) (hi : exec i s = laneOp g len uses (fun k x => x.setReg d (v k x)) s) :
    Gives i s t g len d v :=
  ⟨_, hi.trans (laneOp_runs h), State.setReg_lands h.team (fun _ => State.active_sub) len d fun k hk => h.window k hk d (hd _)⟩

/-! ## Results (R99) -/

theorem add_eq (x y : Word) : x + y = BitVec.ofNat 32 (nat x + nat y) := by
  rw [BitVec.ofNat_add]; simp

theorem sub_eq (x y : Word) : x - y = BitVec.ofInt 32 ((nat x : Int) - nat y) := by
  rw [Int.sub_eq_add_neg, BitVec.ofInt_add, BitVec.ofInt_neg, BitVec.sub_eq_add_neg]; simp

theorem mul_eq (x y : Word) : x * y = BitVec.ofNat 32 (nat x * nat y) := by
  rw [BitVec.ofNat_mul]; simp

theorem shl_eq (x y : Word) : shl x y.toNat = BitVec.ofNat 32 (nat x * 2 ^ nat y) := by
  unfold shl
  apply BitVec.eq_of_toNat_eq
  split
  · next h =>
    have : 2 ^ 32 ∣ nat x * 2 ^ nat y := Dvd.dvd.mul_left (Nat.pow_dvd_pow 2 h) _
    rw [BitVec.toNat_ofNat, Nat.mod_eq_zero_of_dvd this]
    rfl
  · rw [BitVec.toNat_shiftLeft, BitVec.toNat_ofNat, Nat.shiftLeft_eq]

theorem shr_eq (x y : Word) : shr x y.toNat = BitVec.ofNat 32 (nat x / 2 ^ nat y) := by
  unfold shr
  apply BitVec.eq_of_toNat_eq
  rw [BitVec.toNat_ofNat, Nat.mod_eq_of_lt ((Nat.div_le_self _ _).trans_lt x.isLt)]
  split
  · next h => rw [Nat.div_eq_of_lt (x.isLt.trans_le (Nat.pow_le_pow_right (by decide) h))]; rfl
  · rw [BitVec.toNat_ushiftRight, Nat.shiftRight_eq_div_pow]

theorem minS32_eq (x y : Word) : minS32 x y = if sgn x ≤ sgn y then x else y := by
  simp only [minS32, ← Int.not_le, ite_not]

theorem maxS32_eq (x y : Word) : maxS32 x y = if sgn x ≤ sgn y then y else x := by
  unfold maxS32
  rcases lt_trichotomy (sgn x) (sgn y) with h | h | h
  · rw [if_pos h, if_pos h.le]
  · rw [BitVec.eq_of_toInt_eq h]; simp
  · rw [if_neg h.le.not_gt, if_neg h.not_ge]

/-- Settles O1: each compact form is a lane operation on the operands of its 32-bit form, with `d` as the first source. -/
theorem compactForms : Obligations.CompactForms := by
  unfold Obligations.CompactForms
  intro s t b imm d
  constructor
  · intro h two
    have h3 : CanIssue s t (.pos 7) fun _ => [d.toNat, b.toNat, d.toNat] := h.mono fun _ => by simp
    have key (i : Instr) (f' : Word → Word → Word) {f : Word → Word → Word}
        (hi : exec i s = op3 always 2 d.toNat b.toNat d.toNat (fun x y _ => f' x y) s)
        (hf : ∀ x y, f' x y = f x y) : two i f := by
      obtain rfl : f' = f := funext fun x => funext (hf x)
      exact gives_of_laneOp h3 (fun _ => by simp) hi
    exact ⟨gives_of_laneOp h (fun _ => by simp) rfl,
      key (.addC16 b d) (· + ·) rfl add_eq,
      key (.subC16 b d) (· - ·) rfl sub_eq,
      key (.mulLoC16 b d) (· * ·) rfl mul_eq,
      key (.andC16 b d) (· &&& ·) rfl fun _ _ => rfl,
      key (.orC16 b d) (· ||| ·) rfl fun _ _ => rfl,
      key (.xorC16 b d) (· ^^^ ·) rfl fun _ _ => rfl,
      key (.shlC16 b d) (fun x y => shl x y.toNat) rfl shl_eq,
      key (.shrC16 b d) (fun x y => shr x y.toNat) rfl shr_eq,
      key (.minS32C16 b d) minS32 rfl minS32_eq,
      key (.maxS32C16 b d) maxS32 rfl maxS32_eq,
      key (.faddC16 b d) fadd rfl fun _ _ => rfl,
      key (.fmulC16 b d) fmul rfl fun _ _ => rfl,
      key (.fmaxC16 b d) fmax rfl fun _ _ => rfl⟩
  · intro h
    refine ⟨gives_of_laneOp h (fun _ => by simp) rfl, ?_⟩
    have he (x : Word) : BitVec.ofInt 32 (nat x + imm.toInt) = x + imm.signExtend 32 := by
      rw [BitVec.ofInt_add]; simp [BitVec.signExtend]
    simp only [he]
    exact gives_of_laneOp h (fun _ => by simp) rfl

end Sys2Proof.Machine

namespace Sys2Proof.Machine

/-! ## Instructions that raise a cause (R39) -/

/-- The failure recorded is one of those that occurred. -/
theorem earliest_mem {l : List (Nat × Nat × Cause)} {y : Nat × Nat × Cause} (h : earliest l = some y) : y ∈ l := by
  induction l generalizing y with
  | nil => cases h
  | cons x xs ih =>
    simp only [earliest] at h
    split at h
    · cases h
      exact List.mem_cons_self
    · next z hz =>
      split at h <;> cases h
      · exact List.mem_cons_of_mem _ (ih hz)
      · exact List.mem_cons_self

/-- The first failure is the recorded one where no later one is of an earlier check. -/
theorem earliest_head {x : Nat × Nat × Cause} {xs : List (Nat × Nat × Cause)} (h : ∀ y ∈ xs, x.1 ≤ y.1) :
    earliest (x :: xs) = some x := by
  simp only [earliest]
  split
  · rfl
  · next y hy => rw [if_neg (h y (earliest_mem hy)).not_gt]

/-- The failures of the fibres in which the first check fails, when all checks pass in the others. -/
theorem failures_first {t : Team} {act : List Nat} {c : Check} {cs : List Check} {e : Cause} {p : Nat → Bool}
    (hp : ∀ i ∈ act, p i = true → c i (t.fibre i) = some e) (hn : ∀ i ∈ act, p i = false → ∀ d ∈ c :: cs, d i (t.fibre i) = none) :
    failures t act (c :: cs) = (act.filter p).map fun i => (0, i, e) := by
  induction act with
  | nil => rfl
  | cons i is ih =>
    have ih := ih (fun j hj => hp j (List.mem_cons_of_mem _ hj)) fun j hj => hn j (List.mem_cons_of_mem _ hj)
    unfold failures at ih ⊢
    cases hi : p i with
    | true =>
      have hf : firstFail i (t.fibre i) (c :: cs) 0 = some (0, e) := by simp only [firstFail, hp i List.mem_cons_self hi]
      simp [ih, hi, hf]
    | false => simp [ih, hi, (firstFail_none i _ _ 0).2 (hn i List.mem_cons_self hi)]

/-- The recorded cause is that of the first check, in the fibres that fail it. -/
theorem recorded_first {t : Team} {act : List Nat} {c : Check} {cs : List Check} {e : Cause} {p : Nat → Bool}
    (hp : ∀ i ∈ act, p i = true → c i (t.fibre i) = some e) (hn : ∀ i ∈ act, p i = false → ∀ d ∈ c :: cs, d i (t.fibre i) = none)
    (hb : act.filter p ≠ []) : recorded t act (c :: cs) = some (e, act.filter p) := by
  simp only [recorded, failures_first hp hn]
  generalize act.filter p = bad at hb
  cases bad with
  | nil => exact absurd rfl hb
  | cons i is =>
    have he : earliest ((0, i, e) :: is.map fun j => (0, j, e)) = some (0, i, e) := earliest_head fun _ _ => Nat.zero_le _
    simp [he, Function.comp_def, List.filter_map]

section
variable {s : State} {t : Team} {g : Guard}

/-- A quiet bundle raises the cause that its checks record. -/
theorem Quiet.raises {fm : Form} {own : State → Team → List Nat → List Check} {eff : State → Team → List Nat → State} {e : Cause} {bad : List Nat}
    (h : Quiet s t) (hg : fm.guard ≠ .neg 7)
    (hr : recorded t (s.active t fm.guard) (fm.early ++ [checkWindow fm.uses] ++ own s t (s.active t fm.guard)) = some (e, bad)) :
    issue fm own eff s = .next (s.raise t e bad s.cur.fibs (s.curPc t)) := by
  rw [issue_checked h.team (h.pendingUse _) (h.settles _ _) hg, hr]

/-- A privileged instruction outside the handler: check 5 comes before check 6, and fails in every fibre. -/
theorem Quiet.unprivileged {uses : Fibre → List Nat} {own : State → Team → List Nat → List Check} {eff : State → Team → List Nat → State}
    (h : Quiet s t) (hg : g ≠ .neg 7) (hh : t.handlerFor = none) (ha : s.active t g ≠ []) :
    issue { guard := g, uses := uses, early := [fun i f => s.curTeam.bind fun t => checkPriv t i f] } own eff s =
      .next (s.raise t { code := 0x03 } (s.active t g) s.cur.fibs (s.curPc t)) := by
  refine h.raises hg ?_
  rw [← List.filter_true (s.active t g)] at ha
  refine (recorded_first (e := { code := 0x03 }) (p := fun _ => true) (fun i _ _ => ?_) nofun ha).trans (by rw [List.filter_true])
  simp [h.team, checkPriv, Team.privileged, hh]

/-- Some register that is named lies beyond the window (R81). -/
def Fibre.beyond (uses : Fibre → List Nat) (f : Fibre) : Bool := (uses f).any fun n => f.regs.length ≤ n

/-- A lane instruction that names a register beyond the window of some fibres raises cause 0x12 in those. -/
theorem Quiet.beyondWindow {len : Nat} {uses : Fibre → List Nat} {f : Nat → Fibre → Fibre} (h : Quiet s t) (hg : g ≠ .neg 7)
    (hb : (s.active t g).filter (fun k => (t.fibre k).beyond uses) ≠ []) :
    laneOp g len uses f s =
      .next (s.raise t { code := 0x12 } ((s.active t g).filter fun k => (t.fibre k).beyond uses) s.cur.fibs (s.curPc t)) := by
  refine h.raises (fm := { guard := g, uses := uses }) hg (recorded_first (fun i _ hi => if_pos hi) (fun i _ hi d hd => ?_) hb)
  obtain rfl := List.mem_singleton.1 hd
  exact if_neg (ne_true_of_eq_false hi)

end

/-- Settles O40: the recorded cause is that of check 5 or of check 6, in the fibres that fail it. -/
theorem privilegeAndWindowCauses : Obligations.PrivilegeAndWindowCauses := by
  unfold Obligations.PrivilegeAndWindowCauses
  constructor
  · intro s t g d h hg hh ha i hi
    simp only [List.mem_cons, List.not_mem_nil, or_false] at hi
    rcases hi with rfl | rfl | rfl | rfl
    · unfold exec execTret; exact h.unprivileged hg hh ha
    · unfold exec execHalt; exact h.unprivileged hg hh ha
    · unfold exec execAsgen; exact h.unprivileged hg hh ha
    · unfold exec execSflush; exact h.unprivileged hg hh ha
  · intro s t g imm c b a d h hg beyond
    have key (i : Instr) (g : Guard) (uses : Fibre → List Nat) {len : Nat} {named : Fibre → List Nat} {f : Nat → Fibre → Fibre}
        (hg : g ≠ .neg 7) (hi : exec i s = laneOp g len named f s) (hu : ∀ x n, n ∈ uses x ↔ n ∈ named x) : beyond i g uses := by
      have hb (x : Fibre) : ((uses x).any fun n => x.regs.length ≤ n) = x.beyond named := by
        rw [Fibre.beyond, Bool.eq_iff_iff, List.any_eq_true, List.any_eq_true]
        simp only [hu]
      simp only [beyond, hb, hi]
      exact h.beyondWindow hg
    refine ⟨key (.add g b a d) g _ hg rfl fun _ _ => Iff.rfl, key (.mov g a d) g _ hg rfl fun _ _ => Iff.rfl,
      key (.movIndirectSrc g imm a d) g _ hg rfl fun _ _ => Iff.rfl, key (.movIndirectDst g imm a d) g _ hg rfl fun _ _ => Iff.rfl,
      key (.addC16 c d) (.pos 7) (fun _ => [d.toNat, c.toNat]) (by decide) rfl fun _ n => ?_⟩
    simp only [List.mem_cons, List.not_mem_nil, or_false]
    tauto

end Sys2Proof.Machine

namespace Sys2Proof.Machine

/-! ## Instructions that pass their checks (R39) -/

section
variable {s : State} {t : Team} {g : Guard}

theorem NoCause.nil : NoCause s t g [] := fun _ _ _ => nofun

theorem NoCause.cons {c : Check} {cs : List Check} (hc : ∀ i ∈ s.active t g, c i (t.fibre i) = none) (h : NoCause s t g cs) :
    NoCause s t g (c :: cs) := fun i hi => List.forall_mem_cons.2 ⟨hc i hi, h i hi⟩

/-- An instruction whose own checks find no cause, and that has none before check 6, has its effect. -/
theorem CanIssue.runs {own : State → Team → List Nat → List Check} {eff : State → Team → List Nat → State} {uses : Fibre → List Nat}
    (h : CanIssue s t g uses) (ho : NoCause s t g (own s t (s.active t g))) :
    issue { guard := g, uses := uses } own eff s = .next (eff s t (s.active t g)) :=
  issue_runs (fm := { guard := g, uses := uses }) h rfl .nil ho

end

/-! ## Instructions that only move on, and those that every fibre fails (R39, R76) -/

@[simp] theorem Team.modFibres_self (t : Team) (is : List Nat) : t.modFibres is (fun _ x => x) = t := by
  simp [Team.modFibres, List.zipIdx_map_fst]

/-- The bundle moves on, and nothing is written. -/
theorem State.advance_lands {s : State} {t : Team} (ht : s.curTeam = some t) (g : Guard) (len : Nat) :
    Lands s (s.advance len) t (s.active t g) len (fun _ _ => []) fun _ _ => [] := by
  have hs : s.writeFibres (s.active t g) len (fun _ x => x) = s.advance len := by
    rw [State.writeFibres, State.modTeam_self fun t => t.modFibres_self _]
  rw [← hs]
  exact State.writeFibres_lands ht (fun _ => State.active_sub) len (fun _ _ => ⟨rfl, rfl, fun _ _ => rfl, fun _ _ => rfl⟩) (fun _ _ => rfl)
    (fun _ _ => nofun) fun _ _ => nofun

/-- All fibres fail the same check with the same cause: it is recorded, and they all raised it. -/
theorem recorded_same {t : Team} {act : List Nat} {cs : List Check} {k : Nat} {e : Cause}
    (h : ∀ i ∈ act, firstFail i (t.fibre i) cs 0 = some (k, e)) (ha : act ≠ []) : recorded t act cs = some (e, act) := by
  have hf : failures t act cs = act.map fun i => (k, i, e) := by
    rw [failures, ← List.filterMap_eq_map]
    exact List.filterMap_congr fun i hi => by rw [h i hi]; rfl
  cases act with
  | nil => exact absurd rfl ha
  | cons i is =>
    have he : earliest ((k, i, e) :: is.map fun j => (k, j, e)) = some (k, i, e) := by
      refine earliest_head fun y hy => ?_
      obtain ⟨j, _, rfl⟩ := List.mem_map.1 hy
      exact le_rfl
    simp [recorded, hf, he, List.filter_map, Function.comp_def]

section
variable {s : State} {t : Team} {g : Guard} {c : Cause}

/-- A trap instruction that some fibre executes raises its cause in all of them. -/
theorem CanIssue.traps (h : CanIssue s t g fun _ => []) (ha : s.active t g ≠ []) :
    issue { guard := g } (fun _ _ _ => [checkAll (some c)]) (fun s _ _ => s.advance 4) s =
      .next (s.raise t c (s.active t g) s.cur.fibs (s.curPc t)) := by
  rw [issue_checked (fm := { guard := g }) h.team h.ready (by simp [h.settled]) h.guard, recorded_same (k := 1) (fun _ _ => rfl) ha]

/-- One that no fibre executes moves on. -/
theorem CanIssue.advances (h : CanIssue s t g fun _ => []) (ha : s.active t g = []) :
    issue { guard := g } (fun _ _ _ => [checkAll (some c)]) (fun s _ _ => s.advance 4) s = .next (s.advance 4) :=
  h.runs fun i hi => by simp [ha] at hi

end

/-- Settles O16: the one check of a trap fails in every fibre that executes it. -/
theorem traps : Obligations.Traps := by
  unfold Obligations.Traps
  intro s t g code h act
  refine ⟨fun ha => ?_, fun ha => ?_⟩
  · unfold exec execTrap execBrk
    exact ⟨h.traps ha, h.traps ha⟩
  · unfold Runs exec execTrap execBrk
    exact ⟨⟨_, h.advances ha, State.advance_lands h.team g 4⟩, _, h.advances ha, State.advance_lands h.team g 4⟩

end Sys2Proof.Machine

namespace Sys2Proof.Machine

/-! ## The machine after reset (R344) -/

theorem coresFrom_reset {n : Nat} {dead : List Nat} {k d : Nat} {c : Core} (h : c ∈ coresFrom n dead k d) : ∃ e, c = Core.reset e := by
  induction k generalizing d with
  | zero => cases h
  | succ k ih =>
    rcases List.mem_append.1 h with h | h
    · exact ⟨d, List.eq_of_mem_replicate h⟩
    · exact ih h

theorem State.reset_core (c : Nat) : ∃ d, State.reset.core c = Core.reset d := by
  unfold State.core
  by_cases h : c < State.reset.cores.length
  · rw [List.getD_eq_getElem _ _ h]
    exact coresFrom_reset (List.getElem_mem h)
  · rw [List.getD_eq_default _ _ (Nat.le_of_not_lt h)]
    exact ⟨0, rfl⟩

theorem findWindow_none {blk c : Nat} {ks : List Core} (h : ∀ k ∈ ks, k.pubs = []) : findWindow blk ks c = none := by
  induction ks generalizing c with
  | nil => rfl
  | cons k ks ih =>
    rw [findWindow, h k List.mem_cons_self]
    exact ih fun x hx => h x (List.mem_cons_of_mem _ hx)

theorem findLeft_none {blk c : Nat} {ks : List Core} (h : ∀ k ∈ ks, k.unpub = []) : findLeft blk ks c = none := by
  induction ks generalizing c with
  | nil => rfl
  | cons k ks ih =>
    rw [findLeft, h k List.mem_cons_self]
    exact ih fun x hx => h x (List.mem_cons_of_mem _ hx)

/-- No window is published after reset (R131). -/
theorem State.reset_localCopy (blk : Nat) : State.reset.localCopy blk = none := by
  have hk (k : Core) (h : k ∈ State.reset.cores) : k.pubs = [] ∧ k.unpub = [] := by
    obtain ⟨d, rfl⟩ := coresFrom_reset h
    exact ⟨rfl, rfl⟩
  simp only [State.localCopy, State.published, State.leftover, findWindow_none fun k h => (hk k h).1, findLeft_none fun k h => (hk k h).2,
    Option.map_none]

theorem bytesNat_zeros (n : Nat) : bytesNat (List.replicate n 0) = 0 := by
  induction n with
  | zero => rfl
  | succ n ih => rw [List.replicate_succ, bytesNat, ih]; rfl

/-- A block of device memory is 0 after reset: its home holds its tokens, and no cell is listed (R2, R272). -/
theorem State.reset_current {blk : Nat} (h : isHost (blkPa blk) = false) : State.reset.current blk = 0 := by
  have hc : State.reset.current blk = State.reset.memBlock blk := by
    rw [State.current, State.reset_localCopy]
    rfl
  have hd : State.reset.dramBlock (blkPa blk) = 0 := by
    have hz : dramBytes State.reset.dram (blkPa blk) 128 = List.replicate _ 0 := List.map_const'
    rw [State.dramBlock, hz, bytesNat_zeros]
    rfl
  simp only [hc, State.memBlock, h, hd, Bool.false_eq_true, if_false, ite_self]

/-- The block of a DRAM address lies in device memory. -/
theorem isHost_blkOf {home pa : Nat} (h : isDram pa = true) : isHost (blkPa (blkOf home pa)) = false := by
  simp only [isDram, isHost, bitsOf, blkPa, blkOf, beq_iff_eq, beq_eq_false_iff_ne] at h ⊢
  omega

theorem State.reset_readPa {pa : Nat} (h : isDram pa = true) : State.reset.readPa pa 1 = [0] := by
  have hk : min 1 (128 - pa % 128) = 1 := by omega
  show State.reset.readBlocks 2 pa 1 = [0]
  simp only [State.readBlocks, State.reset_current (isHost_blkOf h), hk]
  simp [blockSlice]

/-- Settles O54: each value is one that the reset state is built with. -/
theorem resetState : Obligations.ResetState := by
  unfold Obligations.ResetState
  refine ⟨fun _ => rfl, fun _ => State.reset_readPa, rfl, rfl, rfl, fun c _ => ?_, by decide, by decide, fun _ => rfl, rfl, rfl, rfl,
    fun _ => rfl, fun _ => rfl, rfl, rfl⟩
  obtain ⟨d, hd⟩ := State.reset_core c
  rw [hd]
  exact ⟨rfl, rfl, rfl, rfl, rfl, rfl⟩

end Sys2Proof.Machine

namespace Sys2Proof.Machine

/-! ## Collectives (R69 to R75) -/

theorem laneBit (i : Nat) {l : Nat} (hl : l < 32) : (1#32 <<< laneOf i).getLsbD l = (laneOf i == l) := by
  rw [BitVec.getLsbD_shiftLeft, BitVec.getLsbD_one, Bool.eq_iff_iff]
  simp only [Bool.and_eq_true, decide_eq_true_eq, Bool.not_eq_true', decide_eq_false_iff_not, beq_iff_eq]
  omega

/-- A lane's bit in a mask: some fibre of it is listed. -/
theorem laneMask_getLsbD (is : List Nat) {l : Nat} (hl : l < 32) : (laneMask is).getLsbD l = is.any fun i => laneOf i == l := by
  have key (m : Word) : (is.foldl (fun m i => m ||| (1#32 <<< laneOf i)) m).getLsbD l = (m.getLsbD l || is.any fun i => laneOf i == l) := by
    induction is generalizing m with
    | nil => simp
    | cons i is ih => rw [List.foldl_cons, ih, BitVec.getLsbD_or, laneBit i hl, List.any_cons, Bool.or_assoc]
  exact (key 0).trans (by simp)

section
variable {s : State} {t : Team} {g : Guard} {uses : List Nat}

/-- A collective of a whole bundle has its effect on the fibres whose guard holds. -/
theorem collective_runs {f : Team → List Nat → Nat → Fibre → Fibre} (h : CanIssue s t g fun _ => uses) (hw : t.whole s.cur.fibs = true) :
    collective g uses f s = .next (s.writeFibres (s.active t g) 4 (f t (s.active t g))) :=
  h.runs (.cons (fun _ _ => by rw [checkAll, hw]; rfl) .nil)

theorem gives_of_collective {i : Instr} {d : Nat} {v : Team → List Nat → Nat → Fibre → Word} (h : CanIssue s t g fun _ => uses)
    (hw : t.whole s.cur.fibs = true) (hd : d ∈ uses) (hi : exec i s = collective g uses (fun t act k x => x.setReg d (v t act k x)) s) :
    Gives i s t g 4 d (v t (s.active t g)) :=
  ⟨_, hi.trans (collective_runs h hw), State.setReg_lands h.team (fun _ => State.active_sub) 4 d fun k hk => h.window k hk d hd⟩

theorem decides_of_collective {i : Instr} {q : Pred} {v : Team → List Nat → Bool} (h : CanIssue s t g fun _ => uses)
    (hw : t.whole s.cur.fibs = true) (hi : exec i s = collective g uses (fun t act _ x => x.setPred q (v t act)) s) :
    Decides i s t g q fun _ => v t (s.active t g) :=
  ⟨_, hi.trans (collective_runs h hw), State.setPred_lands h.team (fun _ => State.active_sub) 4 q⟩

/-- A shuffle gives the source lane's register where that lane is active, and else the fibre's own (R73). -/
theorem gives_of_shuffle {i : Instr} {b a d : Reg} {src : Nat → Nat → Option Nat} (h : CanIssue s t g fun _ => [a.toNat, b.toNat, d.toNat])
    (hw : t.whole s.cur.fibs = true) (hi : exec i s = shuffle g b a d src s) :
    Gives i s t g 4 d.toNat fun k x =>
      (((src (laneOf k) (nat (x.reg b.toNat))).bind fun l => (s.active t g).find? fun j => laneOf j == l).map
        fun j => (t.fibre j).reg a.toNat).getD (x.reg a.toNat) := by
  refine gives_of_collective (v := fun t act k x => (((src (laneOf k) (nat (x.reg b.toNat))).bind fun l => act.find? fun j => laneOf j == l).map
    fun j => (t.fibre j).reg a.toNat).getD (x.reg a.toNat)) h hw (by simp) (hi.trans ?_)
  unfold shuffle
  congr 1
  funext t act k x
  cases (src (laneOf k) (nat (x.reg b.toNat))).bind fun l => act.find? fun j => laneOf j == l <;> rfl

/-- A group reduction gives every active fibre the root of the tree (R74). -/
theorem gives_of_gred {i : Instr} {a d : Reg} {f : Word → Word → Word} (h : CanIssue s t g fun _ => [a.toNat, d.toNat])
    (hw : t.whole s.cur.fibs = true) (hi : exec i s = gred g a d f s) :
    Gives i s t g 4 d.toNat fun _ _ => groupReduce f t (s.active t g) a.toNat :=
  gives_of_collective (v := fun t act _ _ => groupReduce f t act a.toNat) h hw (by simp) hi

end

/-- Settles O11: in a whole bundle each collective writes a function of its active fibres; the mask of a ballot or a `match` has the bits of the
lanes that it selects. -/
theorem collectives : Obligations.Collectives := by
  unfold Obligations.Collectives
  intro s t g p q b a d hw act src reg tree
  refine ⟨fun h => ⟨decides_of_collective (v := fun t act => act.all fun i => (t.fibre i).pred p) h hw rfl,
    decides_of_collective (v := fun t act => act.any fun i => (t.fibre i).pred p) h hw rfl⟩, fun h => ?_, fun h => ?_, fun h => ?_⟩
  · refine ⟨_, gives_of_collective (v := fun t act _ _ => laneMask (act.filter fun i => (t.fibre i).pred p)) h hw (by simp) rfl, fun l hl => ?_⟩
    rw [laneMask_getLsbD _ hl, List.any_filter]
    exact List.any_congr rfl fun i => Bool.and_comm _ _
  · intro from?
    have key (i : Instr) (f' : Nat → Nat → Option Nat) {f : Nat → Nat → Option Nat} (hi : exec i s = shuffle g b a d f' s)
        (hf : ∀ l n, f' l n = f l n) : from? i f := by
      obtain rfl : f' = f := funext fun l => funext (hf l)
      exact gives_of_shuffle h hw hi
    clear_value from?
    exact ⟨key (.shflIdx g b a d) (fun _ n => some (n % 32)) rfl fun _ _ => rfl,
      key (.shflUp g b a d) (fun l n => if n > l then none else some (l - n)) rfl fun l n => by simp only [gt_iff_lt, ← Nat.not_le, ite_not],
      key (.shflDown g b a d) (fun l n => if l + n > 31 then none else some (l + n)) rfl fun l n => by
        simp only [gt_iff_lt, ← Nat.not_le, ite_not],
      key (.shflXor g b a d) (fun l n => some (l ^^^ (n % 32))) rfl fun _ _ => rfl⟩
  · intro all
    have key (i : Instr) {f : Word → Word → Word} (f' : Word → Word → Word) (hi : exec i s = gred g a d f' s) (hf : ∀ x y, f' x y = f x y) :
        all i f := by
      obtain rfl : f' = f := funext fun x => funext (hf x)
      exact gives_of_gred h hw hi
    refine ⟨key (.gredAddS32 g a d) (· + ·) rfl add_eq, key (.gredAddF32 g a d) fadd rfl fun _ _ => rfl,
      key (.gredMinS32 g a d) minS32 rfl minS32_eq, key (.gredMaxS32 g a d) maxS32 rfl maxS32_eq,
      key (.gredMinF32 g a d) fmin rfl fun _ _ => rfl, key (.gredMaxF32 g a d) fmax rfl fun _ _ => rfl,
      key (.gredAnd g a d) (· &&& ·) rfl fun _ _ => rfl, key (.gredOr g a d) (· ||| ·) rfl fun _ _ => rfl, _,
      gives_of_collective (v := fun t act _ x => laneMask (act.filter fun j => (t.fibre j).reg a.toNat == x.reg a.toNat)) h hw (by simp) rfl,
      fun x l hl => ?_⟩
    rw [laneMask_getLsbD _ hl, List.any_filter]
    exact List.any_congr rfl fun i => Bool.and_comm _ _

end Sys2Proof.Machine

namespace Sys2Proof.Machine

/-! ## Bundles by program counter (R53) -/

theorem mem_insertLane {i x : Nat} {l : List Nat} : x ∈ insertLane i l ↔ x = i ∨ x ∈ l := by
  induction l with
  | nil => simp [insertLane]
  | cons j js ih =>
    unfold insertLane
    split
    · rw [List.mem_cons]
    · rw [List.mem_cons, ih, List.mem_cons]
      tauto

@[simp] theorem mem_sortLanes {x : Nat} {is : List Nat} : x ∈ sortLanes is ↔ x ∈ is := by
  have key (l : List Nat) : x ∈ is.foldl (fun l i => insertLane i l) l ↔ x ∈ is ∨ x ∈ l := by
    induction is generalizing l with
    | nil => simp
    | cons i is ih => rw [List.foldl_cons, ih, mem_insertLane, List.mem_cons]; tauto
  exact (key []).trans (by simp)

@[simp] theorem mem_distinct {α : Type} [BEq α] [LawfulBEq α] {x : α} {l : List α} : x ∈ distinct l ↔ x ∈ l := by
  induction l with
  | nil => rfl
  | cons y ys ih =>
    rw [distinct, List.mem_cons, List.mem_filter, ih, List.mem_cons]
    by_cases h : x = y <;> simp [h]

/-- A bundle of a team to which one has been added. -/
theorem Team.mem_bundle {t : Team} {is : List Nat} {stamp : Nat} {b : Bundle} :
    b ∈ (t.bundle is stamp).bundles ↔ b ∈ t.bundles ∨ is ≠ [] ∧ b = ⟨sortLanes is, stamp, false, false⟩ := by
  unfold Team.bundle
  cases is <;> simp

theorem Team.mem_foldl_bundle {t : Team} {gs : List (List Nat)} {stamp : Nat} {b : Bundle} :
    b ∈ (gs.foldl (fun t g => t.bundle g stamp) t).bundles ↔ b ∈ t.bundles ∨ ∃ g ∈ gs, g ≠ [] ∧ b = ⟨sortLanes g, stamp, false, false⟩ := by
  induction gs generalizing t with
  | nil => simp
  | cons g gs ih => simp only [List.foldl_cons, ih, Team.mem_bundle, List.exists_mem_cons_iff, or_assoc]

/-- A bundle that fibres have left holds none of them. -/
theorem Team.mem_unbundle {t : Team} {is : List Nat} {b : Bundle} :
    b ∈ (t.unbundle is).bundles ↔
      (∃ c ∈ t.bundles, { c with fibs := c.fibs.filter fun i => !is.contains i } = b) ∧ b.fibs ≠ [] := by
  simp [Team.unbundle]

theorem Team.unbundle_gone {t : Team} {is : List Nat} {b : Bundle} (h : b ∈ (t.unbundle is).bundles) {i : Nat} (hi : i ∈ is) : i ∉ b.fibs := by
  obtain ⟨⟨c, _, rfl⟩, _⟩ := Team.mem_unbundle.1 h
  simp [hi]

/-- Fibres that stay are together as before. -/
theorem Team.unbundle_together {t : Team} {is : List Nat} {i j : Nat} (hi : i ∉ is) (hj : j ∉ is) :
    (∃ b ∈ (t.unbundle is).bundles, i ∈ b.fibs ∧ j ∈ b.fibs) ↔ ∃ b ∈ t.bundles, i ∈ b.fibs ∧ j ∈ b.fibs := by
  constructor
  · rintro ⟨b, hb, hib, hjb⟩
    obtain ⟨⟨c, hc, rfl⟩, _⟩ := Team.mem_unbundle.1 hb
    exact ⟨c, hc, (List.mem_filter.1 hib).1, (List.mem_filter.1 hjb).1⟩
  · rintro ⟨c, hc, hic, hjc⟩
    have hm {k : Nat} (hk : k ∉ is) (hkc : k ∈ c.fibs) : k ∈ c.fibs.filter fun i => !is.contains i := List.mem_filter.2 ⟨hkc, by simpa using hk⟩
    exact ⟨_, Team.mem_unbundle.2 ⟨⟨c, hc, rfl⟩, List.ne_nil_of_mem (hm hi hic)⟩, hm hi hic, hm hj hjc⟩

theorem Team.mem_byPc {t : Team} {is g : List Nat} :
    g ∈ t.byPc is ↔ ∃ k ∈ is, is.filter (fun i => (t.fibre i).pc == (t.fibre k).pc) = g := by
  simp [Team.byPc]

/-- Bundled anew, fibres are together exactly where their program counters agree (R53). -/
theorem Team.rebundle_together {t : Team} {is : List Nat} {stamp i j : Nat} (hi : i ∈ is) (hj : j ∈ is) :
    (∃ b ∈ (t.rebundle is stamp).bundles, i ∈ b.fibs ∧ j ∈ b.fibs) ↔ (t.fibre i).pc = (t.fibre j).pc := by
  simp only [Team.rebundle, Team.mem_foldl_bundle, Team.mem_byPc]
  constructor
  · rintro ⟨b, hb | ⟨g, ⟨k, _, rfl⟩, _, rfl⟩, hib, hjb⟩
    · exact absurd hib (Team.unbundle_gone hb hi)
    · simp only [mem_sortLanes, List.mem_filter, beq_iff_eq] at hib hjb
      exact hib.2.trans hjb.2.symm
  · intro h
    have hm {k : Nat} (hk : k ∈ is) (hp : (t.fibre k).pc = (t.fibre i).pc) : k ∈ is.filter fun k => (t.fibre k).pc == (t.fibre i).pc :=
      List.mem_filter.2 ⟨hk, beq_iff_eq.2 hp⟩
    exact ⟨_, .inr ⟨_, ⟨i, hi, rfl⟩, List.ne_nil_of_mem (hm hi rfl), rfl⟩, mem_sortLanes.2 (hm hi rfl), mem_sortLanes.2 (hm hj h.symm)⟩

/-! ## Gathering pools (R59) -/

/-- Fibre `i` enters the pool of its program counter. -/
def Team.enter (stamp : Nat) (t : Team) (i : Nat) : Team :=
  let p := (t.fibre i).pc
  if t.pools.any fun x => x.target == p then
    { t with pools := t.pools.map fun x => if x.target == p then { x with fibs := x.fibs ++ [(i, stamp)] } else x }
  else { t with pools := t.pools ++ [{ target := p, fibs := [(i, stamp)], age := 0 }] }

theorem Team.pool_eq (t : Team) (is : List Nat) (stamp : Nat) : t.pool is stamp = is.foldl (Team.enter stamp) (t.unbundle is) := rfl

theorem Team.enter_pools (stamp : Nat) (t : Team) (i : Nat) : ∃ ps, t.enter stamp i = { t with pools := ps } := by
  unfold Team.enter
  dsimp only
  split <;> exact ⟨_, rfl⟩

theorem Team.foldl_enter_pools (stamp : Nat) (t : Team) (is : List Nat) : ∃ ps, is.foldl (Team.enter stamp) t = { t with pools := ps } := by
  induction is generalizing t with
  | nil => exact ⟨t.pools, rfl⟩
  | cons i is ih =>
    obtain ⟨ps, h⟩ := t.enter_pools stamp i
    rw [List.foldl_cons, h]
    exact ih _

/-- Fibre `i` stands in the pool of target `p`. -/
def Team.pooled (t : Team) (i : Nat) (p : Word) : Prop := ∃ x ∈ t.pools, x.target = p ∧ i ∈ x.fibs.map fun y => y.1

theorem Team.enter_pooled (stamp : Nat) (t : Team) (i : Nat) : (t.enter stamp i).pooled i (t.fibre i).pc := by
  unfold Team.enter
  dsimp only
  split
  · next h =>
    obtain ⟨x, hx, hp⟩ := List.any_eq_true.1 h
    exact ⟨_, List.mem_map.2 ⟨x, hx, rfl⟩, by rw [if_pos hp]; exact beq_iff_eq.1 hp, by simp [hp]⟩
  · exact ⟨_, List.mem_append_right _ (List.mem_singleton.2 rfl), rfl, by simp⟩

/-- A fibre in a pool stays there when another one enters. -/
theorem Team.pooled.enter {stamp : Nat} {t : Team} {i j : Nat} {p : Word} (h : t.pooled i p) : (t.enter stamp j).pooled i p := by
  obtain ⟨x, hx, hp, hi⟩ := h
  unfold Team.enter
  dsimp only
  split
  · refine ⟨_, List.mem_map.2 ⟨x, hx, rfl⟩, ?_, ?_⟩ <;> split
    exacts [hp, hp, by simpa using Or.inl (by simpa using hi), hi]
  · exact ⟨x, List.mem_append_left _ hx, hp, hi⟩

theorem Team.foldl_enter_pooled {stamp : Nat} {t : Team} {is : List Nat} {i : Nat} (h : i ∈ is ∨ t.pooled i (t.fibre i).pc) :
    (is.foldl (Team.enter stamp) t).pooled i (t.fibre i).pc := by
  induction is generalizing t with
  | nil => exact h.resolve_left nofun
  | cons j is ih =>
    have hf : ((t.enter stamp j).fibre i).pc = (t.fibre i).pc := by
      obtain ⟨ps, hp⟩ := t.enter_pools stamp j
      rw [hp]
      rfl
    rw [List.foldl_cons, ← hf]
    refine ih ?_
    rw [hf]
    rcases h with h | h
    · rcases List.mem_cons.1 h with rfl | h
      · exact .inr (t.enter_pooled stamp i)
      · exact .inl h
    · exact .inr h.enter

/-- Fibres that enter pools leave their bundles, and nothing else of the team changes. -/
theorem Team.pool_pools (t : Team) (is : List Nat) (stamp : Nat) : ∃ ps, t.pool is stamp = { t.unbundle is with pools := ps } :=
  (t.unbundle is).foldl_enter_pools stamp is

theorem Team.pool_pooled {t : Team} {is : List Nat} {stamp i : Nat} (h : i ∈ is) : (t.pool is stamp).pooled i (t.fibre i).pc :=
  Team.foldl_enter_pooled (t := t.unbundle is) (.inl h)

/-! ## Moving to program counters of their own (R53, R57, R58) -/

theorem alike_iff {ws : List Word} : alike ws = true ↔ ∀ x ∈ ws, ∀ y ∈ ws, x = y := by
  cases ws with
  | nil => simp [alike]
  | cons w ws =>
    simp only [alike, List.all_eq_true, beq_iff_eq]
    constructor
    · intro h
      have hw : ∀ x ∈ w :: ws, x = w := List.forall_mem_cons.2 ⟨rfl, h⟩
      exact fun x hx y hy => (hw x hx).trans (hw y hy).symm
    · exact fun h x hx => h x (List.mem_cons_of_mem _ hx) w List.mem_cons_self

/-- The miss counter stops at its greatest value (R58). -/
theorem miss_saturates (x : Word) : (if x = 0xFFFFFFFF then x else x + 1) = BitVec.ofNat 32 (min (nat x + 1) (2 ^ 32 - 1)) := by
  apply BitVec.eq_of_toNat_eq
  split
  · next h => subst h; rfl
  · next h =>
    have hne : x.toNat ≠ 4294967295 := fun e => h (BitVec.eq_of_toNat_eq e)
    have hlt := x.isLt
    simp only [BitVec.toNat_add, BitVec.toNat_ofNat]
    change (x.toNat + 1) % 2 ^ 32 = min (x.toNat + 1) (2 ^ 32 - 1) % 2 ^ 32
    omega

section
variable {s : State} {c : Nat} {uni : Bool} {nexts : List Word}

theorem State.countMiss_hit (h : uni = false ∨ alike nexts = true) : s.countMiss c uni nexts = s := by
  unfold State.countMiss
  rw [if_neg]
  rcases h with h | h <;> simp [h]

theorem State.countMiss_miss (hu : uni = true) (h : alike nexts = false) :
    (s.countMiss c uni nexts).cores = s.cores.modify c fun k => { k with umiss := BitVec.ofNat 32 (min (nat k.umiss + 1) (2 ^ 32 - 1)) } := by
  unfold State.countMiss
  rw [if_pos (by simp [hu, h])]
  show s.cores.modify c _ = _
  congr 1
  funext k
  rw [miss_saturates]

theorem State.countMiss_cores : ∃ ks, s.countMiss c uni nexts = { s with cores := ks } := by
  unfold State.countMiss
  split
  · exact ⟨_, rfl⟩
  · exact ⟨s.cores, rfl⟩

end

/-- Changes of one team, one after the other. -/
theorem State.modTeam_modTeam {s : State} {n : Nat} {f g : Team → Team} (hf : ∀ t, (f t).id = t.id) :
    (s.modTeam n f).modTeam n g = s.modTeam n fun t => g (f t) := by
  simp only [State.modTeam, List.map_map]
  congr 1
  refine List.map_congr_left fun t _ => ?_
  simp only [Function.comp]
  by_cases h : t.id = n <;> simp [h, hf]

/-- What a control instruction makes of its team: the fibres become `f` of themselves, those `pooled` are in the pools of their targets, and the
others are bundled by program counter. -/
structure Team.Turned (t x : Team) (is : List Nat) (f : Nat → Fibre → Fibre) (pooled : List Nat) : Prop where
  same : x = { t with fibres := x.fibres, bundles := x.bundles, pools := x.pools }
  length : x.fibres.length = t.fibres.length
  fibres : ∀ i, x.fibre i = if i ∈ is ∧ i < t.fibres.length then f i (t.fibre i) else t.fibre i
  together : ∀ i ∈ is, i < t.fibres.length → i ∉ pooled → ∀ j ∈ is, j < t.fibres.length → j ∉ pooled →
    ((∃ b ∈ x.bundles, i ∈ b.fibs ∧ j ∈ b.fibs) ↔ (f i (t.fibre i)).pc = (f j (t.fibre j)).pc)
  apart : ∀ i ∈ pooled, i < t.fibres.length → (∀ b ∈ x.bundles, i ∉ b.fibs) ∧ x.pooled i (f i (t.fibre i)).pc

section
variable {s : State} {t : Team} {uni : Bool} {next : Nat → Fibre → Word} {f : Nat → Fibre → Fibre} {pooled : List Nat}

/-- A miss that counts and a change of the team make up a control instruction. -/
theorem turns_of_modTeam {nexts : List Word} {F : Team → Team} (ht : s.curTeam = some t)
    (hn : nexts = s.cur.fibs.map fun i => (f i (t.fibre i)).pc) (hid : ∀ x, (F x).id = x.id) (hl : ∀ x, (F x).lbase = x.lbase)
    (hF : t.Turned (F t) s.cur.fibs f pooled) : Turns s ((s.countMiss t.core uni nexts).modTeam t.id F).issued t uni f pooled := by
  have hal : alike nexts = true ↔ ∀ i ∈ s.cur.fibs, ∀ j ∈ s.cur.fibs, (f i (t.fibre i)).pc = (f j (t.fibre j)).pc := by
    simp only [hn, alike_iff, List.forall_mem_map]
  have hmiss := Aside.countMiss s t.core uni nexts
  have hteam (n : Nat) : (s.countMiss t.core uni nexts).team? n = s.team? n := by rw [State.team?, hmiss.teams]; rfl
  have hu : ((s.countMiss t.core uni nexts).modTeam t.id F).issued.team? t.id = some (F t) := by
    rw [State.issued_team?, State.modTeam_same hid, hteam, State.team?_id ht]
    exact congrArg (Option.map F) ht
  refine { rest := ?_, bytes := ?_, alike := fun h => ?_, missed := ?_, others := fun id h => ?_, fibres := fun i => ?_, own := ?_ }
  · obtain ⟨ks, hks⟩ := State.countMiss_cores (s := s) (c := t.core) (uni := uni) (nexts := nexts)
    rw [hks]
    rfl
  · exact hmiss.bytes.trans ((sameBytes_modTeam hid hl).trans (sameBytes_issued _))
  · rw [State.countMiss_hit (h.imp_right hal.2)]
    rfl
  · rintro h ⟨i, hi, j, hj, hne⟩
    exact State.countMiss_miss h (eq_false_of_ne_true fun ha => hne (hal.1 ha i hi j hj))
  · rw [State.issued_team?, State.modTeam_other hid h, hteam]
  · rw [State.fibreNow, hu]
    exact hF.fibres i
  · exact ⟨F t, hu, hF.same, hF.length, hF.together, hF.apart⟩

/-- The team after a jump. -/
def Team.jumped (is : List Nat) (next : Nat → Fibre → Word) (stamp : Nat) (t : Team) : Team :=
  (t.modFibres is fun i f => { f with pc := next i f }).rebundle is stamp

@[simp] theorem Team.jumped_id {is : List Nat} {stamp : Nat} : (t.jumped is next stamp).id = t.id := by simp [Team.jumped]
@[simp] theorem Team.jumped_lbase {is : List Nat} {stamp : Nat} : (t.jumped is next stamp).lbase = t.lbase := by simp [Team.jumped]

theorem Team.jumped_turned (is : List Nat) (stamp : Nat) :
    t.Turned (t.jumped is next stamp) is (fun i f => { f with pc := next i f }) [] := by
  obtain ⟨bs, hbs⟩ := (t.modFibres is fun i f => { f with pc := next i f }).rebundle_bundles is stamp
  refine { same := ?_, length := ?_, fibres := ?_, together := ?_, apart := nofun }
  · rw [Team.jumped, hbs]
    rfl
  · rw [Team.jumped, hbs]
    exact Team.modFibres_length t is fun i f => { f with pc := next i f }
  · intro i
    rw [Team.jumped, Team.rebundle_fibre, Team.modFibres_fibre]
  · intro i hi hil _ j hj hjl _
    rw [Team.jumped, Team.rebundle_together hi hj, Team.modFibres_fibre, Team.modFibres_fibre, if_pos ⟨hi, hil⟩, if_pos ⟨hj, hjl⟩]

theorem State.jump_eq (ht : s.curTeam = some t) :
    s.jump t uni next =
      ((s.countMiss t.core uni (s.cur.fibs.map fun i => next i (t.fibre i))).modTeam t.id (Team.jumped s.cur.fibs next s.stamp)).issued := by
  obtain ⟨ks, hks⟩ := State.countMiss_cores (s := s) (c := t.core) (uni := uni) (nexts := s.cur.fibs.map fun i => next i (t.fibre i))
  rw [State.jump, State.split, hks, State.team?_id ht]
  rfl

/-- A jump and a later change of the team. -/
theorem State.jump_modTeam (ht : s.curTeam = some t) (F : Team → Team) :
    (s.jump t uni next).modTeam t.id F =
      ((s.countMiss t.core uni (s.cur.fibs.map fun i => next i (t.fibre i))).modTeam t.id
        fun x => F (x.jumped s.cur.fibs next s.stamp)).issued := by
  rw [State.jump_eq ht, ← State.modTeam_modTeam fun x => Team.jumped_id]
  rfl

/-- A branch (R57). -/
theorem State.jump_turns (ht : s.curTeam = some t) : Turns s (s.jump t uni next) t uni (fun i f => { f with pc := next i f }) [] := by
  rw [State.jump_eq ht]
  exact turns_of_modTeam ht rfl (fun _ => Team.jumped_id) (fun _ => Team.jumped_lbase) (Team.jumped_turned _ _)

/-- Fibres that take a branch with a regroup mark leave the bundles of those that do not (R59). -/
theorem Team.Turned.pool {x : Team} {is : List Nat} (h : t.Turned x is f []) {act : List Nat} (ha : ∀ i ∈ act, i ∈ is) (stamp : Nat) :
    t.Turned (x.pool act stamp) is f act := by
  obtain ⟨hsame, hlen, hfib, htog, -⟩ := h
  have hin (i : Nat) (hi : i ∈ act) (hil : i < t.fibres.length) : x.fibre i = f i (t.fibre i) := by rw [hfib, if_pos ⟨ha i hi, hil⟩]
  have hp {i : Nat} (hi : i ∈ act) : (x.pool act stamp).pooled i (x.fibre i).pc := Team.pool_pooled hi
  obtain ⟨ps, hps⟩ := x.pool_pools act stamp
  rw [hps] at hp ⊢
  refine { same := ?_, length := hlen, fibres := hfib, together := ?_, apart := ?_ }
  · exact (congrArg (fun x : Team => { x.unbundle act with pools := ps }) hsame).trans rfl
  · intro i hi hil hia j hj hjl hja
    exact (Team.unbundle_together hia hja).trans (htog i hi hil nofun j hj hjl nofun)
  · intro i hi hil
    refine ⟨fun b hb => Team.unbundle_gone hb hi, ?_⟩
    rw [← hin i hi hil]
    exact hp hi

/-- A branch with a regroup mark (R59). -/
theorem State.regroup_turns (ht : s.curTeam = some t) {act : List Nat} (ha : ∀ i ∈ act, i ∈ s.cur.fibs) :
    Turns s (s.regroup t act uni next) t uni (fun i f => { f with pc := next i f }) act := by
  have hpool (x : Team) (stamp : Nat) : (x.pool act stamp).id = x.id ∧ (x.pool act stamp).lbase = x.lbase := by
    obtain ⟨ps, h⟩ := x.pool_pools act stamp
    rw [h]
    exact ⟨rfl, rfl⟩
  rw [State.regroup, State.jump_modTeam ht]
  exact turns_of_modTeam ht rfl (fun x => (hpool _ _).1.trans Team.jumped_id) (fun x => (hpool _ _).2.trans Team.jumped_lbase)
    ((Team.jumped_turned _ _).pool ha _)

end

/-! ## Branches (R57 to R59, R63) -/

/-- A target is its offset in units of 2 bytes from the branch (R56). -/
theorem target_eq (pc : Word) (off : BitVec 20) : target pc off = pc + BitVec.ofInt 32 (2 * off.toInt) := by
  rw [target, BitVec.signExtend, Int.mul_comm, BitVec.ofInt_mul]
  rfl

/-- A target that its site lists passes its check (R43). -/
theorem checkTarget_none {t : Team} {a i : Nat} {f : Fibre}
    (h : ∃ l, assoc t.kernel.targets (nat f.pc) = some l ∧ nat (f.reg a) ∈ l) : checkTarget t a i f = none := by
  obtain ⟨l, hl, hm⟩ := h
  have hl : assoc t.kernel.targets f.pc.toNat = some l := hl
  simp only [checkTarget, hl]
  rw [if_pos (by simpa using hm)]

/-- Settles O13: a branch is a jump to the target where the guard holds; with a mark, those that it takes there enter pools. -/
theorem branches : Obligations.Branches := by
  unfold Obligations.Branches
  intro s t g off uni a pcTo direct listed
  have hbr : (fun i f => { f with pc := brNext g off i f }) = pcTo direct := by
    funext i f
    simp only [brNext, target_eq]
    rfl
  have hsub : ∀ i ∈ s.active t g, i ∈ s.cur.fibs := fun _ => State.active_sub
  refine ⟨fun h => ?_, fun h hl => ?_⟩
  · unfold exec execBr execBrRgp
    rw [← hbr]
    exact ⟨⟨_, h.runs .nil, State.jump_turns h.team⟩, _, h.runs .nil, State.regroup_turns h.team hsub⟩
  · have hc : NoCause s t g [checkTarget t a.toNat] := .cons (fun i hi => checkTarget_none (hl i hi)) .nil
    unfold exec execBrx execBrxRgp
    exact ⟨⟨_, h.runs hc, State.jump_turns h.team⟩, _, h.runs hc, State.regroup_turns h.team hsub⟩

end Sys2Proof.Machine

namespace Sys2Proof.Machine

/-! ## Accesses leave the teams and the bundle that issues alone -/

/-- The teams, and the bundle that issues. -/
def State.issuing (s : State) : List Team × Cur := (s.teams, s.cur)

theorem State.curTeam_of_issuing {s u : State} (h : u.issuing = s.issuing) : u.curTeam = s.curTeam := by
  obtain ⟨ht, hc⟩ := Prod.ext_iff.1 h
  have ht : u.teams = s.teams := ht
  have hc : u.cur = s.cur := hc
  simp only [State.curTeam, State.team?, ht, hc]

theorem State.cur_of_issuing {s u : State} (h : u.issuing = s.issuing) : u.cur = s.cur := (Prod.ext_iff.1 h).2

theorem ite_keeps {β : Type} (φ : State → β) {c : Prop} {_ : Decidable c} {u v : State} {x : β} (h : φ u = x) (h' : φ v = x) :
    φ (if c then u else v) = x := by
  split <;> assumption

/-- What every step of a fold keeps, the fold keeps. -/
theorem foldl_keeps {α β : Type} {φ : State → β} {f : State → α → State} (h : ∀ s a, φ (f s a) = φ s) (l : List α) (s : State) :
    φ (l.foldl f s) = φ s := by
  induction l generalizing s with
  | nil => rfl
  | cons a l ih => rw [List.foldl_cons, ih, h]

section
variable (s : State)

@[simp] theorem State.modCore_issuing (c : Nat) (f : Core → Core) : (s.modCore c f).issuing = s.issuing := rfl
@[simp] theorem State.modDie_issuing (d : Nat) (f : Die → Die) : (s.modDie d f).issuing = s.issuing := rfl
@[simp] theorem State.fresh_issuing : s.fresh.issuing = s.issuing := rfl
@[simp] theorem State.setMeta_issuing (blk : Nat) (m : Meta) : (s.setMeta blk m).issuing = s.issuing := rfl
@[simp] theorem State.sendHalves_issuing (src dst : Party) (b : Body) (hs : BitVec 2) (about : Option Nat) :
    (s.sendHalves src dst b hs about).issuing = s.issuing := rfl
@[simp] theorem State.send_issuing (src dst : Party) (b : Body) : (s.send src dst b).issuing = s.issuing := rfl
@[simp] theorem State.noteSent_issuing (c id : Nat) : (s.noteSent c id).issuing = s.issuing := rfl
@[simp] theorem State.writeBackCore_issuing (c : Nat) (x : Sector) : (s.writeBackCore c x).issuing = s.issuing := rfl

@[simp] theorem State.setPoison_issuing (blk : Nat) (p : Bool) : (s.setPoison blk p).issuing = s.issuing := by
  unfold State.setPoison
  split <;> rfl

@[simp] theorem State.clearPoison_issuing (blk off n : Nat) : (s.clearPoison blk off n).issuing = s.issuing := by
  unfold State.clearPoison
  split
  · exact s.setPoison_issuing blk false
  · rfl

@[simp] theorem State.setMemBlock_issuing (blk : Nat) (d : BlockData) : (s.setMemBlock blk d).issuing = s.issuing := by
  unfold State.setMemBlock
  dsimp only
  split
  · rfl
  · split <;> rfl

@[simp] theorem State.changeBlock_issuing (blk : Nat) (f : BlockData → BlockData) : (s.changeBlock blk f).issuing = s.issuing := by
  unfold State.changeBlock
  split
  · rfl
  · exact s.setMemBlock_issuing blk (f (s.memBlock blk))

@[simp] theorem State.writeBlock_issuing (blk off : Nat) (bs : List Byte) : (s.writeBlock blk off bs).issuing = s.issuing := by
  unfold State.writeBlock
  have h := ((s.clearPoison blk off bs.length).changeBlock_issuing blk fun d => patchBlock d off bs).trans (s.clearPoison_issuing _ _ _)
  dsimp only
  split <;> exact h

@[simp] theorem State.writeBlocks_issuing (n pa : Nat) (bs : List Byte) : (State.writeBlocks n s pa bs).issuing = s.issuing := by
  induction n generalizing s pa bs with
  | zero => rfl
  | succ n ih =>
    simp only [State.writeBlocks]
    split <;> simp [ih]

@[simp] theorem State.writePa_issuing (pa : Nat) (bs : List Byte) : (s.writePa pa bs).issuing = s.issuing := by
  unfold State.writePa
  split
  · rfl
  · exact s.writeBlocks_issuing _ pa bs

@[simp] theorem State.writeBackDie_issuing (d : Nat) (x : Sector) : (s.writeBackDie d x).issuing = s.issuing :=
  s.writePa_issuing (x.addr * 64) (natBytes 64 x.data.toNat)

@[simp] theorem State.releaseViews_issuing (c : Nat) (sc : Scope) : (s.releaseViews c sc).issuing = s.issuing := by
  unfold State.releaseViews
  extract_lets flushCore d flushDie
  have hc : (flushCore s).issuing = s.issuing := foldl_keeps (fun u x => u.writeBackCore_issuing c x) _ s
  have hd : (flushDie (flushCore s)).issuing = s.issuing := (foldl_keeps (fun u x => u.writeBackDie_issuing d x) _ _).trans hc
  split
  exacts [hc, hd, hd, hd, rfl]

@[simp] theorem State.reqRelease_issuing (c : Nat) (ord : OrdScope) : (s.reqRelease c ord).issuing = s.issuing := by
  unfold State.reqRelease
  split <;> simp

@[simp] theorem State.sendLanes_issuing (c : Nat) (r : Req) (op : AtomOp) (tag : Nat) (ep : BitVec 4) :
    (s.sendLanes c r op tag ep).issuing = s.issuing := by
  unfold State.sendLanes
  exact foldl_keeps (fun u l => u.send_issuing _ _ _) _ s

@[simp] theorem State.sendRemote_issuing (c : Nat) (r : Req) : (s.sendRemote c r).issuing = s.issuing := by
  unfold State.sendRemote
  split
  · rfl
  · dsimp only
    split
    · simp
    · split <;> simp

@[simp] theorem State.enqueue_issuing (c : Nat) (r : Req) : (s.enqueue c r).issuing = s.issuing := by
  exact ite_keeps State.issuing (State.sendRemote_issuing _ c _) rfl

@[simp] theorem State.addReqs_issuing (t : Team) (bundle : List Nat) (epc : Word) (inst : Nat) (kind : ReqKind) (ord : OrdScope)
    (groups : List (Nat × List Item)) : (s.addReqs t bundle epc inst kind ord groups).issuing = s.issuing := by
  unfold State.addReqs
  refine foldl_keeps (fun u p => ?_) _ s
  split
  · rfl
  · exact u.enqueue_issuing t.core _

end

/-! ## Jumps that change more than the program counter -/

section
variable {s : State} {t : Team} {uni : Bool} {next : Nat → Fibre → Word} {f k : Nat → Fibre → Fibre} {act : List Nat}

theorem Team.Turned.modFibres {x : Team} {is : List Nat} {f' : Nat → Fibre → Fibre} (h : t.Turned x is f' []) (ha : ∀ i ∈ act, i ∈ is)
    (hk : ∀ i y, (k i y).pc = y.pc) (hf : ∀ i ∈ is, f i (t.fibre i) = if i ∈ act then k i (f' i (t.fibre i)) else f' i (t.fibre i)) :
    t.Turned (x.modFibres act k) is f [] := by
  obtain ⟨hsame, hlen, hfib, htog, -⟩ := h
  have hpc (i : Nat) (hi : i ∈ is) : (f i (t.fibre i)).pc = (f' i (t.fibre i)).pc := by
    rw [hf i hi]
    split
    · exact hk i _
    · rfl
  refine { same := ?_, length := (Team.modFibres_length x act k).trans hlen, fibres := fun i => ?_, together := ?_, apart := nofun }
  · exact (congrArg (fun x : Team => x.modFibres act k) hsame).trans rfl
  · rw [Team.modFibres_fibre, hlen, hfib]
    by_cases hi : i ∈ is
    · by_cases hl : i < t.fibres.length <;> simp [hi, hl, hf]
    · have : i ∉ act := fun h => hi (ha i h)
      simp [hi, this]
  · intro i hi hil _ j hj hjl _
    rw [hpc i hi, hpc j hj]
    exact htog i hi hil nofun j hj hjl nofun

theorem State.jump_modFibres_turns (ht : s.curTeam = some t) (ha : ∀ i ∈ act, i ∈ s.cur.fibs) (hk : ∀ i y, (k i y).pc = y.pc)
    (hf : ∀ i ∈ s.cur.fibs, f i (t.fibre i) =
      if i ∈ act then k i { t.fibre i with pc := next i (t.fibre i) } else { t.fibre i with pc := next i (t.fibre i) }) :
    Turns s ((s.jump t uni next).modTeam t.id fun x => x.modFibres act k) t uni f [] := by
  rw [State.jump_modTeam ht]
  refine turns_of_modTeam ht (List.map_congr_left fun i hi => ?_) (fun _ => Team.jumped_id) (fun _ => Team.jumped_lbase)
    ((Team.jumped_turned s.cur.fibs s.stamp).modFibres ha hk hf)
  rw [hf i hi]
  split
  · exact (hk i { t.fibre i with pc := next i (t.fibre i) }).symm
  · rfl

end

/-! ## Calls and returns (R60 to R62) -/

/-- The stores of the links that lie in spill memory. -/
def State.spillItems (s : State) (t : Team) (act : List Nat) : List Item :=
  act.filterMap fun i =>
    if (t.fibre i).cd < 8 then none else s.item t .store i (linkPlace t i (t.fibre i).cd) 4 [] [] ((t.fibre i).pc + 4) 0

/-- The state in which those stores are queued. -/
def State.spilled (s : State) (t : Team) (act : List Nat) : State :=
  s.fresh.addReqs t s.cur.fibs (s.curPc t) s.nextId .store .rlx (lineGroups (s.spillItems t act))

/-- A fibre with a return address as its new link. -/
def Fibre.link (ra : Word) (f : Fibre) : Fibre := { f with links := if f.cd < 8 then f.links.set f.cd ra else f.links, cd := f.cd + 1 }

/-- A fibre without its last link. -/
def Fibre.unlink (f : Fibre) : Fibre := { f with cd := f.cd - 1 }

section
variable {s : State} {t : Team} {g : Guard} {uni : Bool} {next : Nat → Fibre → Word}

theorem State.spilled_issuing (act : List Nat) : (s.spilled t act).issuing = s.issuing := State.addReqs_issuing _ t _ _ _ _ _ _

theorem State.callEffect_eq {act : List Nat} (h : s.accessStalls t act false (lineGroups (s.spillItems t act)) = false) :
    s.callEffect t act uni next =
      ((s.spilled t act).jump t uni next).modTeam t.id fun x => x.modFibres act fun i => Fibre.link ((t.fibre i).pc + 4) := by
  simp only [State.spillItems] at h
  simp only [State.callEffect, h, Bool.false_eq_true, if_false]
  rfl

theorem mem_active {i : Nat} (hi : i ∈ s.cur.fibs) : i ∈ s.active t g ↔ guardHolds g (t.fibre i) = true :=
  List.mem_filter.trans (and_iff_right hi)

/-- A call leaves a link in the fibres that go to its target; `p` gives the target (R61). -/
theorem State.callEffect_turns (ht : s.curTeam = some t)
    (hs : s.accessStalls t (s.active t g) false (lineGroups (s.spillItems t (s.active t g))) = false) (p : Fibre → Word)
    (hn : ∀ i f, next i f = if guardHolds g f then p f else f.pc + 4) :
    Turns (s.spilled t (s.active t g)) (s.callEffect t (s.active t g) uni next) t uni
      (fun i x => if i ∈ s.active t g then
        { x with pc := p x, links := if x.cd < 8 then x.links.set x.cd (x.pc + 4) else x.links, cd := x.cd + 1 }
        else { x with pc := x.pc + 4 }) [] := by
  have hi := State.spilled_issuing (s := s) (t := t) (s.active t g)
  have hc := State.cur_of_issuing hi
  rw [State.callEffect_eq hs]
  refine State.jump_modFibres_turns ((State.curTeam_of_issuing hi).trans ht) (fun i h => hc ▸ State.active_sub h) (fun _ _ => rfl) fun i h => ?_
  have hm := mem_active (t := t) (g := g) (hc ▸ h)
  dsimp only
  split
  · next hact => rw [hn, if_pos (hm.1 hact)]; rfl
  · next hact => rw [hn, if_neg fun hg => hact (hm.2 hg)]

theorem checkDepth_none {i : Nat} {f : Fibre} (h : f.cd ≠ 255) : checkDepth i f = none := if_neg h

/-- A return whose links are known, even, and in the code (R62). -/
theorem State.ret_turns (h : CanIssue s t g fun _ => []) (hc : NoCause s t g (s.linkChecks t .load fun x => x.cd - 1)) {w : Nat → Word}
    (hw : ∀ i ∈ s.active t g, (t.fibre i).cd ≠ 0 ∧ s.linkWord t i = some (w i) ∧ nat (w i) % 2 = 0 ∧ nat (w i) < t.kernel.codeBytes) :
    ∃ u, exec (.ret g uni) s = .next u ∧ Turns (s.endLinks t (s.active t g)) u t uni
      (fun i x => if i ∈ s.active t g then { x with pc := w i, cd := x.cd - 1 } else { x with pc := x.pc + 4 }) [] := by
  have hword (i : Nat) (hi : i ∈ s.active t g) : (s.linkWord t i).getD 0 = w i := by rw [(hw i hi).2.1]; rfl
  have hknown : ((s.active t g).any fun i => (s.linkWord t i).isNone) = false :=
    List.any_eq_false.2 fun i hi => by rw [(hw i hi).2.1]; exact Bool.false_ne_true
  have hgood : ((s.active t g).filter fun i =>
      ((s.linkWord t i).getD 0).toNat % 2 == 1 || decide (t.kernel.codeBytes ≤ ((s.linkWord t i).getD 0).toNat)) = [] := by
    refine List.filter_eq_nil_iff.2 fun i hi => ?_
    obtain ⟨-, -, heven, hin⟩ := hw i hi
    simp only [hword i hi, heven, Nat.not_le.2 hin, Bool.or_eq_true, beq_iff_eq, decide_eq_true_eq, zero_ne_one, or_self, not_false_eq_true]
  unfold exec execRet
  refine ⟨_, h.runs (.cons (fun i hi => if_neg (hw i hi).1) hc), ?_⟩
  simp only [hknown, hgood, Bool.false_eq_true, if_false, List.isEmpty_nil, if_true]
  refine State.jump_modFibres_turns (s := s.endLinks t (s.active t g)) (k := fun _ => Fibre.unlink) h.team (fun _ => State.active_sub)
    (fun _ _ => rfl) fun i hi => ?_
  have hm := mem_active (t := t) (g := g) (s := s) hi
  split
  · next hact => rw [if_pos (hm.1 hact), hword i hact]; rfl
  · next hact => rw [if_neg fun hg => hact (hm.2 hg)]

end

/-- Settles O14: a call is a jump after which the fibres that take it hold one more link, and a return one after which they hold one less. -/
theorem callsAndReturns : Obligations.CallsAndReturns := by
  unfold Obligations.CallsAndReturns
  intro s t g off uni a act spill stored called returned linked listed
  have hdepth (hd : ∀ i ∈ act, (t.fibre i).cd ≠ 255) (hc : NoCause s t g (s.linkChecks t .store fun x => x.cd)) :
      NoCause s t g (checkDepth :: s.linkChecks t .store fun x => x.cd) := .cons (fun i hi => checkDepth_none (hd i hi)) hc
  refine ⟨fun h ⟨hc, hd, hs⟩ => ?_, fun h hl ⟨hc, hd, hs⟩ => ?_, fun w h hc hw => State.ret_turns h hc hw⟩
  · unfold exec execCall
    exact ⟨_, h.runs (hdepth hd hc), State.callEffect_turns h.team hs _ fun _ _ => by rw [brNext, target_eq]⟩
  · unfold exec execCallx
    exact ⟨_, h.runs (.cons (fun i hi => checkTarget_none (hl i hi)) (hdepth hd hc)),
      State.callEffect_turns h.team hs _ fun _ _ => rfl⟩

end Sys2Proof.Machine

namespace Sys2Proof.Machine

/-! ## A grant leaves the bundle that issues alone (R86, R92)

A grant may claim the registers of a saved team, whose frame is then written; where that fails, the team is removed with its launch. -/

section
variable (s : State)

@[simp] theorem State.abandon_cur (c : Nat) (p : Req → Bool) : (s.abandon c p).cur = s.cur := rfl
@[simp] theorem State.setErrq_cur (asid : Nat) (e : ErrQueue) : (s.setErrq asid e).cur = s.cur := rfl
@[simp] theorem State.send_cur (src dst : Party) (b : Body) : (s.send src dst b).cur = s.cur := rfl
@[simp] theorem State.setFree_cur (c lane : Nat) (bs : List Nat) : (s.setFree c lane bs).cur = s.cur := rfl
@[simp] theorem State.writePa_cur (pa : Nat) (bs : List Byte) : (s.writePa pa bs).cur = s.cur := State.cur_of_issuing (s.writePa_issuing pa bs)
@[simp] theorem State.enqueue_cur (c : Nat) (r : Req) : (s.enqueue c r).cur = s.cur := State.cur_of_issuing (s.enqueue_issuing c r)
@[simp] theorem State.ownStore_cur (c who va : Nat) (p : Page) (bs : List Byte) : (s.ownStore c who va p bs).cur = s.cur :=
  State.enqueue_cur _ c _

/-! ### Frames and reports -/

theorem State.vaWrite_cur {s u : State} {c who : Nat} {asid : BitVec 10} {priv : Bool} {n va : Nat} {bs : List Byte}
    (h : s.vaWrite c who asid priv n va bs = .ok u) : u.cur = s.cur := by
  induction n generalizing s va bs with
  | zero => cases h; rfl
  | succ n ih =>
    unfold State.vaWrite at h
    split at h
    · cases h; rfl
    · split at h
      · cases h
      · dsimp only at h
        split at h
        · split at h
          · exact (ih h).trans (s.ownStore_cur ..)
          · cases h
        · split at h
          · cases h
          · split at h
            · exact (ih h).trans (s.ownStore_cur ..)
            · exact (ih h).trans (s.writePa_cur ..)

@[simp] theorem State.report_cur (r : Report) : (s.report r).cur = s.cur :=
  ite_keeps State.cur (s.writePa_cur ..) rfl

@[simp] theorem State.reportFor_cur (team cause detail peer kind fib : Nat) (epc : Word) (addr lanes : Nat) :
    (s.reportFor team cause detail peer kind fib epc addr lanes).cur = s.cur := by
  unfold State.reportFor
  split
  · rfl
  · exact ite_keeps State.cur rfl (s.report_cur _)

@[simp] theorem State.reportPost_cur (p : Post) (cause detail : Nat) : (s.reportPost p cause detail).cur = s.cur :=
  ite_keeps State.cur rfl (ite_keeps State.cur rfl (s.reportFor_cur ..))

@[simp] theorem State.sendPost_cur (p : Post) (body : Body) : (s.sendPost p body).cur = s.cur :=
  ite_keeps State.cur (s.reportPost_cur ..) rfl

@[simp] theorem State.postCompletion_cur (p : Page) (va who : Nat) (bs : List Byte) : (s.postCompletion p va who bs).cur = s.cur :=
  State.sendPost_cur _ _ _

@[simp] theorem State.complete_cur (c : Nat) (r : LineData) (result : Nat) (launch : Option Nat) (who : Nat) :
    (s.complete c r result launch who).1.cur = s.cur := by
  unfold State.complete
  split
  · rfl
  · split
    · rfl
    · dsimp only
      split
      · rfl
      · split
        · exact s.postCompletion_cur ..
        · split
          · next h => exact State.vaWrite_cur h
          · rfl

/-! ### Teams that are removed -/

@[simp] theorem State.dropArms_cur (c : Nat) (p : Arm → Bool) : (s.dropArms c p).cur = s.cur := by
  unfold State.dropArms
  exact foldl_keeps (fun u _ => u.fresh.complete_cur ..) _ _

@[simp] theorem State.unpublish_cur (c slot : Nat) : (s.unpublish c slot).cur = s.cur := by
  unfold State.unpublish
  split
  · rfl
  · exact foldl_keeps (fun u _ => u.send_cur ..) _ _

@[simp] theorem State.unpublishAll_cur (t : Team) : (s.unpublishAll t).cur = s.cur := foldl_keeps (fun u _ => u.unpublish_cur ..) _ _

@[simp] theorem State.addFree_cur (c lane : Nat) (bs : List Nat) : (s.addFree c lane bs).cur = s.cur := ite_keeps State.cur rfl rfl

@[simp] theorem State.putBack_cur (c : Nat) (byFibre byLane : List (List Nat)) : (s.putBack c byFibre byLane).cur = s.cur :=
  (foldl_keeps (fun u _ => u.addFree_cur ..) _ _).trans (foldl_keeps (fun u _ => u.addFree_cur ..) _ _)

@[simp] theorem State.freeRegisters_cur (t : Team) : (s.freeRegisters t).cur = s.cur :=
  ite_keeps State.cur rfl ((foldl_keeps (fun u _ => u.addFree_cur ..) _ _).trans (s.putBack_cur ..))

@[simp] theorem State.endWant_cur (w : Want) : (s.endWant w).cur = s.cur := by
  unfold State.endWant
  split <;> rfl

@[simp] theorem State.sendEarly_cur (w : Want) (e : Early) : (s.sendEarly w e).cur = s.cur := by
  unfold State.sendEarly
  exact ite_keeps State.cur rfl rfl

@[simp] theorem State.evictTokens_cur (h : Hold) : (s.evictTokens h).cur = s.cur := by
  unfold State.evictTokens State.loseCopy
  dsimp only
  split <;> exact ite_keeps State.cur rfl rfl

@[simp] theorem State.withdraw_cur (w : Want) : (s.withdraw w).cur = s.cur := by
  unfold State.withdraw
  have he : (w.early.foldl (fun s e => s.sendEarly w e) ((s.dropWant w.id).endWant w)).cur = s.cur :=
    (foldl_keeps (fun u _ => u.sendEarly_cur ..) _ _).trans ((s.dropWant w.id).endWant_cur w)
  dsimp only
  split
  · exact (State.evictTokens_cur _ _).trans he
  · exact he

@[simp] theorem State.idleEngines_cur : s.idleEngines.cur = s.cur := by
  unfold State.idleEngines
  exact foldl_keeps (φ := State.cur) (fun u w => u.withdraw_cur w) _ s

@[simp] theorem State.clearSaveReq_cur (c : Nat) : (s.clearSaveReq c).cur = s.cur := by
  unfold State.clearSaveReq
  exact ite_keeps State.cur rfl rfl

@[simp] theorem State.reseed_cur (before : State) (c : Nat) : (s.reseed before c).cur = s.cur := by
  unfold State.reseed
  have h : (if s.coreEmpty c && !before.coreEmpty c then s.modCore c fun k => { k with gen := k.seed } else s).cur = s.cur :=
    ite_keeps State.cur rfl rfl
  exact ite_keeps State.cur h h

@[simp] theorem State.removeTeam_cur (t : Team) : (s.removeTeam t).cur = s.cur := by
  unfold State.removeTeam
  extract_lets leave s1 s2 s3 s4 s5 s6
  have h1 : s1.cur = s.cur := foldl_keeps (f := fun u x => (u.dropLoads x).dropGrants x) (fun _ _ => rfl) leave (s.noteGone leave)
  have h6 : s6.cur = s.cur := by
    show ((s1.unpublishAll t).dropArms t.core _ |>.freeRegisters t).cur = s.cur
    simp [h1]
  exact (State.reseed_cur _ _ _).trans ((State.clearSaveReq_cur _ _).trans ((State.idleEngines_cur _).trans h6))

theorem State.failLaunch_cur (n l result : Nat) : (State.failLaunch n s l result).cur = s.cur := by
  induction n generalizing s l result with
  | zero => rfl
  | succ n ih =>
    unfold State.failLaunch
    refine (foldl_keeps (fun u x => ih u x 7) _ _).trans ?_
    exact foldl_keeps (φ := State.cur) (fun u t => u.removeTeam_cur t) _ s

@[simp] theorem State.fail_cur (l result : Nat) : (s.fail l result).cur = s.cur := s.failLaunch_cur 12 l result

/-! ### Grants -/

@[simp] theorem State.claim_cur (team blk fib first : Nat) : (s.claim team blk fib first).cur = s.cur := by
  unfold State.claim
  split
  · rfl
  · dsimp only
    split
    · next h => exact (State.vaWrite_cur h).trans rfl
    · exact State.fail_cur _ _ _

theorem State.takeLingering_cur {s : State} {c lane : Nat} {p : Nat × State} (h : s.takeLingering c lane = some p) : p.2.cur = s.cur := by
  unfold State.takeLingering at h
  split at h <;> cases h
  · rfl
  · exact s.claim_cur ..

@[simp] theorem State.takeEach_cur (n c lane : Nat) : (State.takeEach n s c lane).2.cur = s.cur := by
  induction n generalizing s with
  | zero => rfl
  | succ n ih =>
    unfold State.takeEach
    split
    · next h => exact (ih _).trans (State.takeLingering_cur h)
    · rfl

theorem State.takeBlocks_cur {s : State} {c lane need : Nat} {p : List Nat × State} (h : s.takeBlocks c lane need = some p) :
    p.2.cur = s.cur := by
  unfold State.takeBlocks at h
  dsimp only at h
  split at h
  · cases h; rfl
  · split at h <;> cases h
    exact State.takeEach_cur _ _ _ _

theorem State.takeFor_cur {s : State} {team c lane need : Nat} {p : List Nat × State} (h : s.takeFor team c lane need = some p) :
    p.2.cur = s.cur := by
  obtain ⟨q, hq, rfl⟩ := Option.map_eq_some_iff.1 h
  have hc := State.takeBlocks_cur hq
  split
  · exact hc
  · exact (State.addFree_cur _ _ _ _).trans hc

/-- Blocks that a request is given at once. -/
theorem State.grantNow_cur {s : State} {t : Team} {fib lane need : Nat} {p : List Nat × State} (h : s.grantNow t fib lane need = some p) :
    p.2.cur = s.cur := by
  unfold State.grantNow at h
  split at h
  · cases h; rfl
  · split at h
    · cases h; rfl
    · split at h
      · exact State.takeFor_cur h
      · cases h

end

/-! ## Blocking (R53) -/

/-- What a fibre becomes that blocks, or goes on. -/
def Fibre.blockOr (go : Fibre → Fibre) (w : Option Wait) (f : Fibre) : Fibre :=
  match w with
  | some w => { f with wait := some w, timer := 0 }
  | none => { go f with pc := f.pc + 4 }

/-- The fibres of the issuing bundle block or go on; the others of the team stand as before. -/
theorem State.blockSome_fibre {s : State} {x : Team} (hx : s.team? s.cur.team = some x) (wait : Nat → Fibre → Option Wait)
    (go : Nat → Fibre → Fibre) :
    ∃ y, (s.blockSome wait go).team? s.cur.team = some y ∧ ∀ i, y.fibre i =
      if i ∈ s.cur.fibs ∧ i < x.fibres.length then (x.fibre i).blockOr (go i) (wait i (x.fibre i)) else x.fibre i := by
  unfold State.blockSome
  rw [State.issued_team?, State.modTeam_same, hx]
  · refine ⟨_, rfl, fun i => ?_⟩
    dsimp only
    have hf := Team.modFibres_fibre x s.cur.fibs (fun i f => f.blockOr (go i) (wait i f)) i
    rw [← hf]
    split <;> exact Team.rebundle_fibre _ _ _ i
  · intro t
    dsimp only
    split <;> exact Team.rebundle_id _ _ _

/-! ## Creating fibres (R64) -/

/-- A child has the first registers of its parent. -/
theorem Fibre.child_reg_low {p : Fibre} {counts : List (Nat × Nat)} {pc : Word} {size : Nat} {bs : List Nat} {n : Nat} (h : n < 8) :
    (p.child counts pc size bs).reg n = p.reg n := by
  simp only [Fibre.reg, Fibre.child, Fibre.regsFrom]
  rw [List.getD_append _ _ _ _ (by simpa using h)]
  simp [List.getD_eq_getElem?_getD, h]

/-- Its other registers are 0. -/
theorem Fibre.child_reg_high {p : Fibre} {counts : List (Nat × Nat)} {pc : Word} {size : Nat} {bs : List Nat} {n : Nat} (h : 8 ≤ n) :
    (p.child counts pc size bs).reg n = 0 := by
  simp only [Fibre.reg, Fibre.child, Fibre.regsFrom]
  rw [List.getD_append_right _ _ _ _ (by simpa using h)]
  simp only [List.getD_eq_getElem?_getD, List.getElem?_replicate]
  split <;> rfl

@[simp] theorem Team.bundle_fibre (t : Team) (is : List Nat) (stamp i : Nat) : (t.bundle is stamp).fibre i = t.fibre i := by
  unfold Team.bundle
  split <;> rfl

@[simp] theorem Team.bundle_id (t : Team) (is : List Nat) (stamp : Nat) : (t.bundle is stamp).id = t.id := by
  unfold Team.bundle
  split <;> rfl

@[simp] theorem Team.bundle_length (t : Team) (is : List Nat) (stamp : Nat) : (t.bundle is stamp).fibres.length = t.fibres.length := by
  unfold Team.bundle
  split <;> rfl

theorem Team.modFibre_same {t : Team} {i : Nat} {f : Fibre → Fibre} (h : i < t.fibres.length) : (t.modFibre i f).fibre i = f (t.fibre i) := by
  simp [Team.modFibre, Team.fibre, List.getD_eq_getElem?_getD, h]

theorem Team.modFibre_other {t : Team} {i j : Nat} {f : Fibre → Fibre} (h : j ≠ i) : (t.modFibre i f).fibre j = t.fibre j := by
  simp [Team.modFibre, Team.fibre, List.getD_eq_getElem?_getD, h.symm]

/-- The team with a child in slot `c`. -/
theorem State.makeChild_team {s : State} {n p c : Nat} {pc : Word} {bs : List Nat} {t : Team} (ht : s.team? n = some t)
    (hc : c < t.fibres.length) :
    ∃ x, (s.makeChild n p c pc bs).team? n = some x ∧ x.fibres.length = t.fibres.length ∧
      x.fibre c = (t.fibre p).child (t.fibre c).counts pc (8 * bs.length) bs ∧ ∀ i, i ≠ c → x.fibre i = t.fibre i := by
  have hid (x : Team) : ((x.modFibre c fun f => (x.fibre p).child f.counts pc (8 * bs.length) bs).bundle [c] s.stamp).id = x.id :=
    Team.bundle_id _ _ _
  refine ⟨_, (State.modTeam_same hid).trans (congrArg _ ht), ?_, ?_, fun i hi => ?_⟩
  · exact (Team.bundle_length _ _ _).trans (List.length_modify ..)
  · exact (Team.bundle_fibre _ _ _ _).trans (Team.modFibre_same hc)
  · exact (Team.bundle_fibre _ _ _ _).trans (Team.modFibre_other hi)

/-- A fibre of the first list that the second one does not have. -/
theorem contains_only {as bs : List Nat} {i : Nat} : (as.contains i && !bs.contains i) = true ↔ i ∈ as ∧ i ∉ bs := by simp

theorem Team.mem_dormant {t : Team} {i : Nat} : i ∈ t.dormant ↔ i < t.fibres.length ∧ (t.fibre i).cond = .dormant := by
  simp [Team.dormant]

section
variable {s : State} {t : Team} {g : Guard} {off : BitVec 20}

/-- The fibres that fork and are not granted their child wait for it. -/
theorem State.execFork_runs (h : CanIssue s t g fun _ => []) (hd : (s.active t g).length ≤ t.dormant.length)
    (hp : s.performedAt t (s.active t g) .team = true) :
    let r := s.forkAll t off (sortNats (s.active t g)) t.dormant false
    exec (.fork g off) s = .next (r.1.blockSome (fun i x => if i ∈ s.active t g ∧ i ∉ r.2 then
      some (.fork (x.pc + BitVec.ofInt 32 (2 * off.toInt))) else none) fun _ x => x) := by
  intro r
  have hc : NoCause s t g [checkAll (if t.dormant.length < (s.active t g).length then some { code := 0x16 } else none)] :=
    .cons (fun _ _ => if_neg (Nat.not_lt.2 hd)) .nil
  unfold exec execFork
  refine (h.runs hc).trans ?_
  simp only [hp, Bool.not_true, Bool.false_eq_true, if_false, target_eq, contains_only]
  rfl

/-- One fibre whose child is granted at once. -/
theorem State.forkAll_granted {p c : Nat} {cs bs : List Nat} {s' : State} (h : s.grantNow t p (laneOf c) t.kernel.winInit = some (bs, s')) :
    s.forkAll t off [p] (c :: cs) false = (s'.makeChild t.id p c (target (t.fibre p).pc off) bs, [p]) := by
  simp only [State.forkAll, List.headD_cons, Bool.false_eq_true, if_false, h]

/-- The child of one fibre that is granted its registers, and its parent after the fork (R64). -/
theorem State.execFork_child {p c : Nat} {bs : List Nat} {s' : State} {t' : Team} (h : CanIssue s t g fun _ => [])
    (ha : s.active t g = [p]) (hp : s.performedAt t [p] .team = true) (hpl : p < t.fibres.length) {cs : List Nat} (hd : t.dormant = c :: cs)
    (hcs : c ∉ s.cur.fibs) (hg : s.grantNow t p (laneOf c) t.kernel.winInit = some (bs, s')) (ht' : s'.team? t.id = some t')
    (hf : t'.fibres = t.fibres) :
    ∃ u, exec (.fork g off) s = .next u ∧
      u.fibreNow t c = (t.fibre p).child (t.fibre c).counts ((t.fibre p).pc + BitVec.ofInt 32 (2 * off.toInt)) (8 * bs.length) bs ∧
      (u.fibreNow t p).pc = (t.fibre p).pc + 4 := by
  have hpc : p ∈ s.cur.fibs := State.active_sub (g := g) (t := t) (ha ▸ List.mem_singleton_self p)
  have hcl : c < t.fibres.length := (Team.mem_dormant.1 (hd ▸ List.mem_cons_self)).1
  have hrun := State.execFork_runs (off := off) h (by simp [ha, hd]) (ha ▸ hp)
  have hsort : sortNats [p] = [p] := rfl
  simp only [ha, hsort, hd, State.forkAll_granted hg] at hrun
  have hcur : (s'.makeChild t.id p c (target (t.fibre p).pc off) bs).cur = s.cur := (State.grantNow_cur hg :)
  have hid : t.id = s.cur.team := State.team?_id h.team
  have hfib (i : Nat) : t'.fibre i = t.fibre i := by rw [Team.fibre, hf, Team.fibre]
  obtain ⟨x, hx, hxl, hxc, hxo⟩ := State.makeChild_team (p := p) (pc := target (t.fibre p).pc off) (bs := bs) ht' (hf ▸ hcl)
  generalize s'.makeChild t.id p c (target (t.fibre p).pc off) bs = v at hrun hcur hx
  obtain ⟨y, hy, hyf⟩ := State.blockSome_fibre (s := v) (x := x) (by rw [hcur, ← hid, hx])
    (fun i x => if i ∈ [p] ∧ i ∉ [p] then some (.fork (x.pc + BitVec.ofInt 32 (2 * off.toInt))) else none) fun _ x => x
  have hnow (i : Nat) : (v.blockSome (fun i x => if i ∈ [p] ∧ i ∉ [p] then
      some (.fork (x.pc + BitVec.ofInt 32 (2 * off.toInt))) else none) fun _ x => x).fibreNow t i = y.fibre i := by
    rw [State.fibreNow, hid, ← hcur, hy, Option.getD_some]
  refine ⟨_, hrun, ?_, ?_⟩
  · rw [hnow, hyf, hcur, if_neg fun hi => hcs hi.1, hxc, hfib, hfib, target_eq]
  · have hne : p ≠ c := fun e => hcs (e ▸ hpc)
    rw [hnow, hyf, hcur, if_pos ⟨hpc, hxl.symm ▸ hf.symm ▸ hpl⟩, hxo p hne, hfib, if_neg fun hi => hi.2 hi.1]
    rfl

/-! ## Windows (R84 to R87) -/

/-- The fibres that grow and are not granted their blocks wait for them. -/
theorem State.execRgrow_runs {n : BitVec 6} (h : CanIssue s t g fun _ => []) (h1 : 1 ≤ n.toNat) (h32 : n.toNat ≤ 32)
    (hm : ∀ i ∈ s.active t g, (t.fibre i).regs.length + 8 * n.toNat ≤ 8 * t.kernel.winMax) :
    let r := s.growAll t n.toNat (sortNats (s.active t g))
    exec (.rgrow g n) s = .next (r.1.blockSome (fun i _ => if i ∈ s.active t g ∧ i ∉ r.2 then some (.grow n.toNat) else none) fun _ x => x) := by
  intro r
  have hl : NoCause s t g [checkLegal (growLegal n)] := .cons (fun _ _ => if_pos (by simp [growLegal, h1, h32])) .nil
  unfold exec execRgrow
  refine (issue_runs (fm := { guard := g, early := [checkLegal (growLegal n)] }) h rfl hl (.cons (fun i hi => if_neg ?_) .nil)).trans ?_
  · have := hm i hi
    omega
  simp only [contains_only]
  rfl

/-- The fibres that shrink give back their last blocks, none of whose registers is pending (R87). -/
theorem State.execRshrink_runs {n : BitVec 6} (h : CanIssue s t g fun _ => []) (h1 : 1 ≤ n.toNat) (h32 : n.toNat ≤ 32)
    (hl : ∀ i ∈ s.active t g, 8 * n.toNat + 8 ≤ (t.fibre i).regs.length)
    (hp : ∀ i ∈ s.active t g, ∀ p ∈ (t.fibre i).pend, p.reg < (t.fibre i).regs.length - 8 * n.toNat) :
    exec (.rshrink g n) s = .next (((s.active t g).foldl
      (fun s i => s.giveBack t (laneOf i) ((t.fibre i).blocks.drop ((t.fibre i).blocks.length - n.toNat))) s).writeFibres (s.active t g) 4
        fun _ x => { x with
          blocks := x.blocks.take (x.blocks.length - n.toNat), regs := x.regs.take (x.regs.length - 8 * n.toNat) }) := by
  have hg : NoCause s t g [checkLegal (growLegal n)] := .cons (fun _ _ => if_pos (by simp [growLegal, h1, h32])) .nil
  have hpend : ((s.active t g).any fun i => (t.fibre i).pend.any fun p => (t.fibre i).regs.length - 8 * n.toNat ≤ p.reg) = false := by
    simp only [List.any_eq_false, List.any_eq_true, decide_eq_true_eq, not_exists, not_and, Nat.not_le]
    exact hp
  unfold exec execRshrink
  refine (issue_runs (fm := { guard := g, early := [checkLegal (growLegal n)] }) h rfl hg
    (.cons (fun i hi => if_neg (Nat.not_lt.2 (hl i hi))) .nil)).trans ?_
  simp only [hpend, Bool.false_eq_true, if_false]

end

/-- Settles O15: each instruction has its effect on the fibres whose guard holds; a child that is granted is in place when its parent goes on. -/
theorem fibresAndWindows : Obligations.FibresAndWindows := by
  unfold Obligations.FibresAndWindows
  constructor
  · intro s t g off n h act
    refine ⟨State.execFork_runs h, ?_, ?_, ?_, ?_, State.execRgrow_runs h, State.execRshrink_runs h⟩
    · unfold exec execExit
      exact h.runs .nil
    · unfold exec execFend
      exact h.runs .nil
    · unfold exec execHome
      exact h.runs .nil
    · unfold Runs exec execNop
      exact ⟨_, h.runs .nil, State.advance_lands h.team g 4⟩
  · intro s t g off p bs s' h ha hp hpl hd hcs hg ⟨t', ht', hf⟩
    obtain ⟨c, cs, hdc⟩ := List.exists_cons_of_ne_nil hd
    simp only [hdc, List.headD_cons] at hcs hg ⊢
    obtain ⟨u, hu, hchild, hparent⟩ := State.execFork_child h ha hp hpl hdc hcs hg ht' hf
    refine ⟨u, hu, ?_⟩
    rw [hchild]
    exact ⟨rfl, rfl, rfl, rfl, rfl, fun n hn => Fibre.child_reg_low hn, fun n hn => Fibre.child_reg_high hn, rfl, hparent⟩

end Sys2Proof.Machine

namespace Sys2Proof.Machine

/-! ## The grouping stage (R52) -/

/-- Fibre `i` stands in one of these bundles. -/
def bundled (bs : List Bundle) (i : Nat) : Prop := ∃ b ∈ bs, i ∈ b.fibs

theorem mem_insertBundle {b x : Bundle} {l : List Bundle} : x ∈ insertBundle b l ↔ x = b ∨ x ∈ l := by
  induction l with
  | nil => simp [insertBundle]
  | cons y ys ih =>
    unfold insertBundle
    split
    · rw [List.mem_cons]
    · rw [List.mem_cons, ih, List.mem_cons]
      tauto

theorem bundled_insertBundle {b : Bundle} {l : List Bundle} {i : Nat} : bundled (insertBundle b l) i ↔ i ∈ b.fibs ∨ bundled l i := by
  simp [bundled, mem_insertBundle]

theorem Bundle.mem_merge {a b : Bundle} {i : Nat} : i ∈ (a.merge b).fibs ↔ i ∈ a.fibs ∨ i ∈ b.fibs := by
  simp [Bundle.merge]

/-- A bundle joins another one or stands alone: its fibres are bundled, and the others are as before. -/
theorem bundled_addBundle {near : Bundle → Bundle → Bool} {acc : List Bundle} {b : Bundle} {i : Nat} :
    bundled (addBundle near acc b) i ↔ i ∈ b.fibs ∨ bundled acc i := by
  unfold addBundle
  split
  · next x hx =>
    have hmem : x ∈ acc := List.mem_of_find?_eq_some hx
    have hin (y : Bundle) : i ∈ (if y = x then y.merge b else y).fibs ↔ i ∈ y.fibs ∨ y = x ∧ i ∈ b.fibs := by
      split
      · next h => rw [Bundle.mem_merge, and_iff_right h]
      · next h => simp [h]
    simp only [bundled, List.mem_map, exists_exists_and_eq_and, hin]
    constructor
    · rintro ⟨y, hy, hi | ⟨_, hi⟩⟩
      exacts [.inr ⟨y, hy, hi⟩, .inl hi]
    · rintro (hi | ⟨y, hy, hi⟩)
      exacts [⟨x, hmem, .inr ⟨rfl, hi⟩⟩, ⟨y, hy, .inl hi⟩]
  · simp [bundled, or_and_right, exists_or, or_comm]

/-- A fold that puts one bundle after another into a list. -/
theorem bundled_foldl {f : List Bundle → Bundle → List Bundle} {i : Nat} (hf : ∀ acc b, bundled (f acc b) i ↔ i ∈ b.fibs ∨ bundled acc i)
    (bs acc : List Bundle) : bundled (bs.foldl f acc) i ↔ bundled bs i ∨ bundled acc i := by
  induction bs generalizing acc with
  | nil => simp [bundled]
  | cons b bs ih =>
    rw [List.foldl_cons, ih, hf]
    simp only [bundled, List.exists_mem_cons_iff, or_left_comm, or_assoc]

/-- A pass keeps the fibres in bundles that are in one. -/
theorem Team.bundled_grouped {t : Team} {busy : Bundle → Bool} {i : Nat} : bundled (t.grouped busy).bundles i ↔ bundled t.bundles i := by
  have hnil : ¬ bundled [] i := by simp [bundled]
  simp only [Team.grouped, bundled_foldl (fun _ _ => bundled_addBundle), bundled_foldl (f := fun l b => insertBundle b l)
    (fun _ _ => bundled_insertBundle), hnil, or_false]

/-- A change of every team. -/
theorem State.mapTeams_team? {s : State} {F : Team → Team} (hF : ∀ x, (F x).id = x.id) (n : Nat) :
    ({ s with teams := s.teams.map F } : State).team? n = (s.team? n).map F := by
  simp only [State.team?, List.find?_map]
  congr 2
  funext x
  rw [Function.comp, hF]

/-- A pass changes the bundles of the teams that run on its core, and no fibre leaves them (R52). -/
theorem execGroupingStagePass_groups (s : State) (core : Nat) :
    ∃ u, exec (.groupingStagePass core) s = .next u ∧ u = { s with teams := u.teams } ∧
      ∀ id x, s.team? id = some x → ∃ y, u.team? id = some y ∧ y = { x with bundles := y.bundles } ∧
        (x.core ≠ core ∨ x.runs = false → y = x) ∧ ∀ i, bundled y.bundles i ↔ bundled x.bundles i := by
  unfold exec execGroupingStagePass
  have hid (x : Team) : (if x.core = core ∧ x.runs then x.grouped (s.inFlight x) else x).id = x.id := by split <;> rfl
  refine ⟨_, rfl, rfl, fun id x hx => ⟨_, (State.mapTeams_team? hid id).trans (congrArg _ hx), ?_⟩⟩
  by_cases hp : x.core = core ∧ x.runs = true
  · simp only [if_pos hp]
    refine ⟨rfl, fun h => ?_, fun i => Team.bundled_grouped⟩
    rcases h with h | h
    · exact absurd hp.1 h
    · exact absurd hp.2 (ne_true_of_eq_false h)
  · simp only [if_neg hp]
    exact ⟨trivial, fun _ => trivial, fun _ => trivial⟩

/-! ## Gathering pools that close (R59) -/

theorem firstOfLane_mem {l : Nat} {y : Nat × Nat} {fs : List (Nat × Nat)} (h : firstOfLane l fs = some y) : y ∈ fs := by
  induction fs generalizing y with
  | nil => cases h
  | cons z zs ih =>
    unfold firstOfLane at h
    split at h
    · split at h <;> cases h
      exact List.mem_cons_self
    · next hz =>
      split at h <;> cases h
      exacts [List.mem_cons_self, List.mem_cons_of_mem _ (ih hz)]

/-- A lane with a fibre has an earliest one. -/
theorem firstOfLane_some {x : Nat × Nat} {fs : List (Nat × Nat)} (h : x ∈ fs) : ∃ y, firstOfLane (laneOf x.1) fs = some y := by
  induction fs with
  | nil => cases h
  | cons z zs ih =>
    unfold firstOfLane
    split
    · next hn =>
      rcases List.mem_cons.1 h with rfl | hz
      · exact ⟨x, if_pos rfl⟩
      · obtain ⟨y, hy⟩ := ih hz
        cases hn.symm.trans hy
    · split <;> exact ⟨_, rfl⟩

/-- The fibres of the next bundle that is packed: the earliest of each lane. -/
def packNext (fs : List (Nat × Nat)) : List (Nat × Nat) := (List.range 32).filterMap fun l => firstOfLane l fs

/-- There is one as long as a fibre is left. -/
theorem packNext_mem {x : Nat × Nat} {fs : List (Nat × Nat)} (h : x ∈ fs) : ∃ y ∈ fs, y ∈ packNext fs := by
  obtain ⟨y, hy⟩ := firstOfLane_some h
  exact ⟨y, firstOfLane_mem hy, List.mem_filterMap.2 ⟨laneOf x.1, List.mem_range.2 (Nat.mod_lt _ (by decide)), hy⟩⟩

theorem Team.pack_succ (n : Nat) (t : Team) (fs : List (Nat × Nat)) (stamp : Nat) :
    Team.pack (n + 1) t fs stamp = if fs.isEmpty then t else
      Team.pack n (t.bundle ((packNext fs).map fun x => x.1) stamp) (fs.filter fun x => !(packNext fs).contains x) stamp := rfl

/-- Packing adds bundles. -/
theorem Team.pack_bundles (n : Nat) (t : Team) (fs : List (Nat × Nat)) (stamp : Nat) :
    ∃ bs, Team.pack n t fs stamp = { t with bundles := t.bundles ++ bs } := by
  induction n generalizing t fs with
  | zero => exact ⟨[], by rw [List.append_nil]; rfl⟩
  | succ n ih =>
    rw [Team.pack_succ]
    split
    · exact ⟨[], by rw [List.append_nil]⟩
    · obtain ⟨bs, hbs⟩ := ih (t.bundle ((packNext fs).map fun x => x.1) stamp) (fs.filter fun x => !(packNext fs).contains x)
      rw [hbs, Team.bundle]
      split
      · exact ⟨bs, rfl⟩
      · exact ⟨_, by rw [List.append_assoc]⟩

/-- With fuel for every fibre, each of them is bundled. -/
theorem Team.pack_bundled {n : Nat} {t : Team} {fs : List (Nat × Nat)} {stamp : Nat} (hn : fs.length ≤ n) {x : Nat × Nat} (hx : x ∈ fs) :
    bundled (Team.pack n t fs stamp).bundles x.1 := by
  induction n generalizing t fs with
  | zero =>
    rw [List.eq_nil_of_length_eq_zero (Nat.le_zero.1 hn)] at hx
    cases hx
  | succ n ih =>
    rw [Team.pack_succ, if_neg (by simpa using List.ne_nil_of_mem hx)]
    by_cases ho : x ∈ packNext fs
    · have hx1 : x.1 ∈ (packNext fs).map fun x => x.1 := List.mem_map_of_mem ho
      obtain ⟨bs, hbs⟩ := Team.pack_bundles n (t.bundle ((packNext fs).map fun x => x.1) stamp) (fs.filter fun x => !(packNext fs).contains x) stamp
      rw [hbs]
      exact ⟨_, List.mem_append_left _ (Team.mem_bundle.2 (.inr ⟨List.ne_nil_of_mem hx1, rfl⟩)), mem_sortLanes.2 hx1⟩
    · obtain ⟨y, hy, hyo⟩ := packNext_mem hx
      have hlt : (fs.filter fun x => !(packNext fs).contains x).length < fs.length :=
        List.length_filter_lt_length_iff_exists.2 ⟨y, hy, by simpa using hyo⟩
      exact ih (by omega) (List.mem_filter.2 ⟨hx, by simpa using ho⟩)

/-- Pools that close, one after the other, are gone; bundles are added. -/
theorem Team.foldl_closePool (shut : List Pool) (t : Team) (stamp : Nat) :
    ∃ bs, shut.foldl (fun x q => x.closePool q stamp) t =
      { t with bundles := t.bundles ++ bs, pools := t.pools.filter fun q => !shut.contains q } := by
  induction shut generalizing t with
  | nil => exact ⟨[], by simp⟩
  | cons p ps ih =>
    obtain ⟨bs, hbs⟩ := Team.pack_bundles 1024 { t with pools := t.pools.filter fun q => q != p } p.fibs stamp
    obtain ⟨cs, hcs⟩ := ih (t.closePool p stamp)
    refine ⟨bs ++ cs, ?_⟩
    rw [List.foldl_cons, hcs, Team.closePool, hbs, List.append_assoc]
    simp only [List.filter_filter, List.contains_cons, Bool.not_or, bne, Bool.and_comm]

/-- The fibres of a pool that has closed are bundled, where one pass had fuel for them. -/
theorem Team.foldl_closePool_bundled {shut : List Pool} {t : Team} {stamp : Nat} (hl : ∀ q ∈ shut, q.fibs.length ≤ 1024) {q : Pool}
    (hq : q ∈ shut) {x : Nat × Nat} (hx : x ∈ q.fibs) : bundled (shut.foldl (fun x q => x.closePool q stamp) t).bundles x.1 := by
  induction shut generalizing t with
  | nil => cases hq
  | cons p ps ih =>
    rw [List.foldl_cons]
    rcases List.mem_cons.1 hq with rfl | hq
    · obtain ⟨b, hb, hin⟩ := Team.pack_bundled (t := { t with pools := t.pools.filter fun p => p != q }) (stamp := stamp) (hl q List.mem_cons_self) hx
      obtain ⟨bs, hbs⟩ := Team.foldl_closePool ps (t.closePool q stamp) stamp
      rw [hbs]
      exact ⟨b, List.mem_append_left _ hb, hin⟩
    · exact ih (fun q hq => hl q (List.mem_cons_of_mem _ hq)) hq

/-- The pools that close with pool `p`. -/
def Team.shutWith (t : Team) (p : Pool) : List Pool := if t.allPooled then t.pools else [p]

theorem Team.closePools_eq (t : Team) (p : Pool) (stamp : Nat) :
    t.closePools p stamp = (t.shutWith p).foldl (fun x q => x.closePool q stamp) t := by
  unfold Team.closePools Team.shutWith
  split <;> rfl

theorem Team.allPooled_iff {t : Team} :
    t.allPooled = true ↔ ∀ i ∈ t.live, (t.fibre i).wait ≠ none ∨ ∃ q ∈ t.pools, ∃ x ∈ q.fibs, x.1 = i := by
  simp [Team.allPooled, Option.isSome_iff_ne_none]

/-- A pool closes, and those that close with it. -/
theorem execGatheringPoolClose_closes {s : State} {t : Team} {p : Pool} (ht : s.team? t.id = some t) (hr : t.runs = true)
    (hp : (t.pools.find? fun q => q.target == p.target) = some p) (hd : t.poolDone p = true)
    (hl : ∀ q ∈ t.shutWith p, q.fibs.length ≤ 1024) :
    ∃ u y, exec (.gatheringPoolClose t.id p.target) s = .next u ∧ u = { s with teams := u.teams } ∧ u.team? t.id = some y ∧
      y = { t with bundles := y.bundles, pools := t.pools.filter fun q => !(t.shutWith p).contains q } ∧
      ∀ q ∈ t.shutWith p, ∀ x ∈ q.fibs, bundled y.bundles x.1 := by
  have hid (x : Team) : (x.closePools p s.stamp).id = x.id := by
    obtain ⟨bs, hbs⟩ := Team.foldl_closePool (x.shutWith p) x s.stamp
    rw [Team.closePools_eq, hbs]
  have hex : exec (.gatheringPoolClose t.id p.target) s = .next (s.modTeam t.id fun t => t.closePools p s.stamp) := by
    unfold exec execGatheringPoolClose
    simp only [ht, hp, hr, hd, and_self, if_true]
  refine ⟨_, _, hex, rfl, (State.modTeam_same hid).trans (congrArg _ ht), ?_, fun q hq x hx => ?_⟩
  · obtain ⟨bs, hbs⟩ := Team.foldl_closePool (t.shutWith p) t s.stamp
    show t.closePools p s.stamp = { t with bundles := (t.closePools p s.stamp).bundles, pools := _ }
    rw [Team.closePools_eq, hbs]
  · show bundled (t.closePools p s.stamp).bundles x.1
    rw [Team.closePools_eq]
    exact Team.foldl_closePool_bundled hl hq hx

/-! ## Late results and grants (R85, R86, R89) -/

/-- Past its last fibre a team reads as if that slot had ended. -/
theorem Team.fibre_inRange {t : Team} {i : Nat} (h : t.fibre i ≠ .empty .ended) : i < t.fibres.length := by
  by_contra hi
  exact h (List.getD_eq_default _ _ (Nat.le_of_not_lt hi))

theorem State.modFibre_team {s : State} {n i : Nat} {t : Team} {f : Fibre → Fibre} (ht : s.team? n = some t) :
    (s.modTeam n fun x => x.modFibre i f).team? n = some (t.modFibre i f) :=
  (State.modTeam_same (f := fun x => x.modFibre i f) fun _ => rfl).trans (congrArg _ ht)

/-- A late result is written, and its mark goes (R89). -/
theorem execPendingWriteComplete_writes {s : State} {t : Team} {i reg : Nat} {p : Pend} {w : Word} (ht : s.team? t.id = some t)
    (hp : ((t.fibre i).pend.find? fun q => q.reg == reg) = some p) (hv : p.value = some w)
    (hr : ∀ r ∈ (s.core t.core).reqs ++ (s.core t.core).storeQ, r.inst = p.req → r.team ≠ t.id) :
    ∃ u, exec (.pendingWriteComplete t.id i reg) s = .next u ∧ u = { s with teams := u.teams } ∧
      u.fibreNow t i = { t.fibre i with
        regs := (t.fibre i).regs.set reg w
        pend := (t.fibre i).pend.filter fun q => q.reg != reg
        counts := countWrite (t.fibre i).counts reg } := by
  have hi : i < t.fibres.length := Team.fibre_inRange fun e => by rw [e] at hp; cases hp
  have hn : (((s.core t.core).reqs ++ (s.core t.core).storeQ).any fun r => r.inst == p.req && r.team == t.id) = false := by
    simp only [List.any_eq_false, Bool.and_eq_true, beq_iff_eq]
    exact fun r hm ⟨hi, ht⟩ => hr r hm hi ht
  have hready : s.pendReady t i reg = some w := by
    simp only [State.pendReady, hp, hn, hv, Bool.false_eq_true, if_false]
  unfold exec execPendingWriteComplete
  simp only [ht, hready]
  refine ⟨_, rfl, rfl, ?_⟩
  rw [State.fibreNow, State.modFibre_team ht]
  exact Team.modFibre_same hi

section
variable {s s' : State} {core lane : Nat} {r : GrantReq} {bs : List Nat}

/-- The request at the head of a column's queue leaves it. -/
def State.granted (s : State) (core lane : Nat) : State :=
  s.modCore core fun k => { k with grants := assocSet k.grants lane (((assoc k.grants lane).getD []).drop 1) }

/-- A fibre that grows has its blocks, and goes on (R86). -/
theorem execGrantRequestGranted_grows (h : s.grantHead core lane = some (r, bs, s')) (ht : s'.team? r.team ≠ none) (hc : r.child = none) :
    exec (.grantRequestGranted core lane) s =
      .next (((s'.granted core lane).modTeam r.team fun x => x.modFibre r.fib fun f => f.grow bs).release r.team [r.fib]) := by
  unfold exec execGrantRequestGranted
  simp only [h, Option.isNone_iff_eq_none, ht, if_false, hc]
  rfl

/-- A fibre that forks has its child, and goes on (R64). -/
theorem execGrantRequestGranted_forks (h : s.grantHead core lane = some (r, bs, s')) {c : Nat} {x : Team} {pc : Word}
    (hc : r.child = some c) (ht : s'.team? r.team = some x) (hd : (x.fibre c).cond = .dormant) (hw : (x.fibre r.fib).wait = some (.fork pc)) :
    exec (.grantRequestGranted core lane) s = .next (((s'.granted core lane).makeChild r.team r.fib c pc bs).release r.team [r.fib]) := by
  unfold exec execGrantRequestGranted
  simp only [h, ht, Option.isNone_some, Bool.false_eq_true, if_false, hc, State.modCore_team?, hd, if_true, hw]
  rfl

end

/-! ## The ends of waits (R226 to R228) -/

section
variable {s : State} {t : Team} {i : Nat}

/-- The team that an exception saves (R233). -/
theorem State.raise_team {t' : Team} {c : Cause} {fibs bundle : List Nat} {epc : Word} (ht : s.team? t.id = some t') :
    (s.raise t c fibs bundle epc).team? t.id = some (t'.faulted c (if c.present then laneMask bundle else laneMask fibs) epc bundle) := by
  unfold State.raise
  have ht : (if t.goesToHandler c.code then s.modCore t.core fun k => k.trap t else s).team? t.id = some t' := by split <;> exact ht
  exact (State.modTeam_same (f := fun x => x.faulted c _ epc bundle) fun _ => rfl).trans (congrArg _ ht)

theorem laneMask_singleton (i : Nat) : laneMask [i] = 1#32 <<< laneOf i := BitVec.zero_or

/-- A fibre that has waited too long leaves its wait, and raises cause 0x21 (R228). -/
theorem execStarvationTimeout_raises (ht : s.team? t.id = some t) (hc : t.cond = .resident) (hl : (t.fibre i).cond = .live)
    (hw : (t.fibre i).wait ≠ none) (htm : 2 ^ t.starve * 10 ≤ (t.fibre i).timer) :
    ∃ u x q, exec (.starvationTimeout t.id i) s = .next u ∧ u.team? t.id = some x ∧ x.cond = .saving .trap false 0 ∧
      x.faultRec = some q ∧ nat q.cause = 0x21 ∧ q.epc = (t.fibre i).pc ∧ q.fmask = 1#32 <<< laneOf i ∧ (x.fibre i).wait = none := by
  have hi : i < t.fibres.length := Team.fibre_inRange fun e => by rw [e] at hl; cases hl
  have hruns : t.runs = true := by rw [Team.runs, hc]
  unfold exec execStarvationTimeout
  simp only [ht, hruns, hl, hw, Nat.not_lt.2 htm, Bool.not_true, Bool.false_eq_true, ne_eq, not_true_eq_false, Option.isNone_iff_eq_none,
    or_self, if_false]
  refine ⟨_, _, _, rfl, State.raise_team (State.modFibre_team ht), rfl, rfl, rfl, rfl, laneMask_singleton i, ?_⟩
  exact congrArg Fibre.wait (Team.modFibre_same hi)

/-! ### `wait` on a word (R227) -/

/-- A waiting fibre whose load has settled: it goes on where its condition holds, and else waits for the next load. -/
theorem execWaitReload_settled {w : WaitWord} {r : Req} (ht : s.team? t.id = some t) (hc : t.cond = .resident)
    (hw : (t.fibre i).wait = some (.word w)) (hf : s.fetched t i w.va = some r) (hl : r.lanes = []) (hb : r.bad = []) :
    exec (.waitReload t.id i) s = .next (
      if waitHolds w.cc (BitVec.ofNat 32 (bytesNat (r.bytesAt w.va 4))) w.value then
        ((s.useFetch t.core r).acquireViews t.core .sys).release t.id [i]
      else (s.useFetch t.core r).modTeam t.id fun y => y.modFibre i fun f =>
        { f with wait := some (.word { w with
            blk := blkOf r.page.home (r.page.pa + w.va % 256), rts := r.rts.map fun x => x.1
            again := w.again || r.rts.any fun x => x.2 && !timeLe ((s.useFetch t.core r).core t.core).lt x.1 }) }) := by
  have hs : (!r.settled || r.failed.isSome) = false := by simp [Req.settled, Req.failed, hl, hb]
  unfold exec execWaitReload
  simp only [ht, hw, hc, hf, hs, ne_eq, not_true_eq_false, Bool.false_eq_true, if_false]
  split <;> rfl

/-- A waiting fibre that has no load under way starts one when it is due. -/
theorem execWaitReload_due {w : WaitWord} (ht : s.team? t.id = some t) (hc : t.cond = .resident)
    (hw : (t.fibre i).wait = some (.word w)) (hf : s.fetched t i w.va = none) (hd : s.reloadDue t w = true) :
    exec (.waitReload t.id i) s = .next (s.startWait t.id i) := by
  unfold exec execWaitReload
  simp only [ht, hw, hc, hf, hd, ne_eq, not_true_eq_false, if_false, if_true]

/-! ### Questions to other devices (R226, R227) -/

/-- A message that is dealt with leaves. -/
theorem State.onMsg_deals {id : Nat} {m : Msg} (hm : s.msg? id = some m) (hd : s.deals m) (f : Msg → State → State) :
    s.onMsg id f = .next (f m (s.dropMsg id)) := by
  simp only [State.onMsg, hm, hd.1, Bool.false_eq_true, if_false]

section
variable {w : WaitWord} {p : BitVec 64} {d n age : Nat} {k : Class} (ht : s.team? t.id = some t) (hc : t.cond = .resident)
  (hw : (t.fibre i).wait = some (.query w p d n k age))
include ht hc hw

/-- The end of a fibre's question raises a cause: that of the answer, or that of the load that would come next. -/
theorem State.endQuery_raises {c : Option Cause} {e : Cause} (he : (c.orElse fun _ => s.placedError t .load false (pointerAddr t p 4)) = some e) :
    s.endQuery t.id i c = (s.modTeam t.id fun y => y.modFibre i fun f => { f with wait := none }).raise t e [i] [i] (t.fibre i).pc := by
  unfold State.endQuery
  simp only [ht, hc, hw, he, if_true]

/-- No answer has come in time (R227). -/
theorem execPartyQueryTimeout_raises (hto : s.rtoTicks ≤ age) :
    exec (.partyQueryTimeout t.id i) s = .next
      ((s.modTeam t.id fun y => y.modFibre i fun f => { f with wait := none }).raise t { code := 0x41 } [i] [i] (t.fibre i).pc) := by
  unfold exec execPartyQueryTimeout
  simp only [ht, hw, Option.bind_some, hto, if_true, State.endQuery_raises ht hc hw (c := some { code := 0x41 }) rfl]

variable (he : s.placedError t .load false (pointerAddr t p 4) = none)
include he

/-- Or the wait loads. -/
theorem State.endQuery_loads {va : Nat} (hp : pointerAddr t p 4 = .ok (some va)) :
    s.endQuery t.id i none =
      (s.modTeam t.id fun y => y.modFibre i fun f => { f with wait := some (.word { w with va := va }) }).startWait t.id i := by
  rw [hp] at he
  unfold State.endQuery
  simp only [ht, hc, hw, hp, he, Option.orElse_none, if_true]

/-- Or the load is dropped, and reads 0. -/
theorem State.endQuery_drops (hp : pointerAddr t p 4 = .ok none) :
    s.endQuery t.id i none =
      if waitHolds w.cc 0 w.value then (s.acquireViews t.core .sys).release t.id [i]
      else s.modTeam t.id fun y => y.modFibre i fun f => { f with wait := some (.word { w with again := false, dropped := true }) } := by
  rw [hp] at he
  unfold State.endQuery
  simp only [ht, hc, hw, hp, he, Option.orElse_none, if_true]
  rfl

end

/-- An answer ends the question of its fibre. -/
theorem execPartyQueryAnswer_ends {id n : Nat} {m : Msg} {ok : Bool} (hm : s.msg? id = some m) (hd : s.deals m) (hb : m.body = .partyAns n i ok) :
    exec (.partyQueryAnswer id) s = .next ((s.dropMsg id).endQuery n i (if ok then none else some { code := 0x20 })) := by
  unfold exec execPartyQueryAnswer
  refine (State.onMsg_deals hm hd _).trans ?_
  simp only [hb]

/-- A question is answered to where it came from (R227). -/
theorem execPartyQuery_answers {id n fib team : Nat} {k : Class} {m : Msg} (hm : s.msg? id = some m) (hd : s.deals m)
    (hb : m.body = .partyAsk n k team fib) :
    exec (.partyQuery id) s = .next ((s.dropMsg id).send (s.here .home) m.src (.partyAns team fib (legalWait k (s.numbered n)))) := by
  unfold exec execPartyQuery
  refine (State.onMsg_deals hm hd _).trans ?_
  simp only [hb]
  rfl

end

/-- Settles O42: clause by clause, each event in a state in which it is enabled. -/
theorem fibreEvents : Obligations.FibreEvents := by
  unfold Obligations.FibreEvents
  intro s t ht
  refine ⟨execGroupingStagePass_groups s, fun p hr hp => ?_, fun i reg p w => execPendingWriteComplete_writes ht,
    fun core lane r bs s' h hs' => ⟨execGrantRequestGranted_grows h hs', fun c x pc hc hx hd hw => execGrantRequestGranted_forks h hc hx hd hw⟩,
    fun i => execStarvationTimeout_raises ht, fun i w r hc hw hf hl hb => ?_, fun i w hc hw hf hd => execWaitReload_due ht hc hw hf hd,
    fun id m n k team fib => execPartyQuery_answers, fun id m i w p d n k age hm hd hc hw => ?_,
    fun i w p d n k age hc hw => execPartyQueryTimeout_raises ht hc hw⟩
  · intro all closes
    have key (hd : t.poolDone p = true) : closes (t.shutWith p) := execGatheringPoolClose_closes ht hr hp hd
    have hall : t.allPooled = true ↔ all := Team.allPooled_iff
    refine ⟨fun hn hd => ?_, fun ha => ?_⟩
    · have hshut : t.shutWith p = [p] := if_neg fun h => hn (hall.1 h)
      rw [← hshut]
      refine key ?_
      rcases hd with hd | hd
      · simp [Team.poolDone, hd]
      · have : ((List.range 32).all fun l => p.fibs.any fun x => laneOf x.1 == l) = true := by simpa using hd
        simp [Team.poolDone, this]
    · have hshut : t.shutWith p = t.pools := if_pos (hall.2 ha)
      rw [← hshut]
      exact key (by simp [Team.poolDone, hall.2 ha])
  · intro x holds b blk stale
    have hh : waitHolds w.cc x w.value = true ↔ holds := by
      simp only [holds, waitHolds]
      cases w.cc <;> simp
    rw [execWaitReload_settled ht hc hw hf hl hb]
    exact ⟨fun h => by rw [if_pos (hh.2 h)], fun h => by rw [if_neg fun hx => h (hh.1 hx)]⟩
  · intro b put place error
    refine ⟨fun hb => ?_, fun hb => ?_⟩
    · rw [execPartyQueryAnswer_ends hm hd hb]
      refine ⟨fun va he hp => ?_, fun he hp hh => ?_, fun he hp hh => ?_, fun c he => ?_⟩
      · exact congrArg _ (State.endQuery_loads (s := b) ht hc hw he hp)
      · exact congrArg _ ((State.endQuery_drops (s := b) ht hc hw he hp).trans (if_pos hh))
      · exact congrArg _ ((State.endQuery_drops (s := b) ht hc hw he hp).trans (if_neg (ne_true_of_eq_false hh)))
      · exact congrArg _ (State.endQuery_raises (s := b) ht hc hw he)
    · rw [execPartyQueryAnswer_ends hm hd hb]
      exact congrArg _ (State.endQuery_raises (s := b) ht hc hw rfl)

end Sys2Proof.Machine

namespace Sys2Proof.Machine

/-! ## The shapes of the lane instructions (R95 to R108) -/

section
variable {i : Instr} {s : State} {t : Team} {g : Guard} {b a d : Reg}

/-- vD := f(vA, vB, vD), whatever the instruction computes `f` by. -/
theorem gives_of_op3 {f f' : Word → Word → Word → Word} (h : CanIssue s t g fun _ => [a.toNat, b.toNat, d.toNat])
    (hi : exec i s = op3 g 4 a.toNat b.toNat d.toNat f' s) (hf : ∀ x y z, f' x y z = f x y z) :
    Gives i s t g 4 d.toNat fun _ x => f (x.reg a.toNat) (x.reg b.toNat) (x.reg d.toNat) := by
  obtain rfl : f' = f := funext fun x => funext fun y => funext (hf x y)
  exact gives_of_laneOp h (fun _ => by simp) hi

/-- vD := f(vA). -/
theorem gives_of_op2 {f f' : Word → Word} (h : CanIssue s t g fun _ => [a.toNat, d.toNat])
    (hi : exec i s = op2 g 4 a.toNat d.toNat (fun x _ => f' x) s) (hf : ∀ x, f' x = f x) :
    Gives i s t g 4 d.toNat fun _ x => f (x.reg a.toNat) := by
  obtain rfl : f' = f := funext hf
  exact gives_of_laneOp h (fun _ => by simp) hi

/-- An instruction that is no load, and has no check of its own, gives what it writes to a register that it names. -/
theorem gives_of_issue {n : Nat} {uses : Fibre → List Nat} {v : State → Team → Nat → Fibre → Word} (h : CanIssue s t g uses)
    (hn : ∀ x, n ∈ uses x)
    (hi : exec i s = issue { guard := g, uses := uses } (fun _ _ _ => [])
      (fun s t act => s.writeFibres act 4 fun k x => x.setReg n (v s t k x)) s) : Gives i s t g 4 n (v s t) :=
  ⟨_, hi.trans (h.runs .nil), State.setReg_lands h.team (fun _ => State.active_sub) 4 n fun k hk => h.window k hk n (hn _)⟩

/-- A lane instruction that writes one predicate decides it. -/
theorem decides_of_laneOp {p : Pred} {uses : Fibre → List Nat} {v : Fibre → Bool} (h : CanIssue s t g uses)
    (hi : exec i s = laneOp g 4 uses (fun _ x => x.setPred p (v x)) s) : Decides i s t g p v :=
  ⟨_, hi.trans (laneOp_runs h), State.setPred_lands h.team (fun _ => State.active_sub) 4 p⟩

end

end Sys2Proof.Machine

namespace Sys2Proof.Machine

/-! ## Integer results (R99) -/

theorem minN32_eq (x y : Word) : minN32 x y = if nat x ≤ nat y then x else y := by
  simp only [minN32, ← Nat.not_le, ite_not]

theorem maxN32_eq (x y : Word) : maxN32 x y = if nat x ≤ nat y then y else x := by
  unfold maxN32
  rcases lt_trichotomy (nat x) (nat y) with h | h | h
  · rw [if_pos h, if_pos h.le]
  · rw [BitVec.eq_of_toNat_eq h]; simp
  · rw [if_neg h.le.not_gt, if_neg h.not_ge]

/-- The high word of a product held in 64 bits. -/
theorem extractHigh_ofNat (n : Nat) : (BitVec.ofNat 64 n).extractLsb' 32 32 = BitVec.ofNat 32 (n / 2 ^ 32) := by
  apply BitVec.eq_of_toNat_eq
  simp only [BitVec.extractLsb'_toNat, BitVec.toNat_ofNat, Nat.shiftRight_eq_div_pow]
  omega

theorem extractHigh_ofInt (i : Int) : (BitVec.ofInt 64 i).extractLsb' 32 32 = BitVec.ofInt 32 (i / 2 ^ 32) := by
  apply BitVec.eq_of_toNat_eq
  simp only [BitVec.extractLsb'_toNat, BitVec.toNat_ofInt, Nat.shiftRight_eq_div_pow]
  omega

theorem sshiftRight_eq (x : Word) (n : Nat) : x.sshiftRight n = BitVec.ofInt 32 (sgn x / 2 ^ n) := by
  rw [← BitVec.ofInt_toInt (x := x.sshiftRight n), BitVec.toInt_sshiftRight, Int.shiftRight_eq_div_pow]
  norm_cast

/-- A shift by 31 or more leaves only the sign. -/
theorem sgn_div_pow (x : Word) {n : Nat} (hn : 31 ≤ n) : sgn x / 2 ^ n = if sgn x < 0 then -1 else 0 := by
  have hp : (2 : Int) ^ 31 ≤ 2 ^ n := pow_le_pow_right₀ (by decide) hn
  have hlo : -2 ^ 31 ≤ sgn x := BitVec.le_toInt x
  have hhi : sgn x < 2 ^ 31 := BitVec.toInt_lt
  split
  · next h => exact Int.ediv_eq_neg_one_of_neg_of_le h (by omega)
  · next h => exact Int.ediv_eq_zero_of_lt (by omega) (by omega)

theorem sar_eq (x y : Word) : sar x y.toNat = BitVec.ofInt 32 (sgn x / 2 ^ nat y) := by
  unfold sar
  rw [sshiftRight_eq]
  rcases Nat.le_total y.toNat 31 with h | h
  · rw [Nat.min_eq_left h]
  · rw [Nat.min_eq_right h, sgn_div_pow x le_rfl, sgn_div_pow x h]

theorem rot_getLsbD (x y : Word) {i : Nat} (hi : i < 32) : (rot x y.toNat).getLsbD ((i + nat y) % 32) = x.getLsbD i := by
  unfold rot
  rw [BitVec.getLsbD_rotateLeft]
  unfold nat
  by_cases h : (i + y.toNat) % 32 < y.toNat % 32
  · have : 32 - y.toNat % 32 + (i + y.toNat) % 32 = i := by omega
    simp [h, this]
  · have : (i + y.toNat) % 32 - y.toNat % 32 = i := by omega
    have hl : (i + y.toNat) % 32 < 32 := by omega
    simp [h, hl, this]

theorem mulAdd_eq (x y z : Word) : x * y + z = BitVec.ofNat 32 (nat x * nat y + nat z) := by
  rw [BitVec.ofNat_add, ← mul_eq]; simp

/-- Settles O2: each instruction is a lane operation, and its result is that of the rule. -/
theorem integerOperations : Obligations.IntegerOperations := by
  unfold Obligations.IntegerOperations
  constructor
  · intro s t g b a d h three
    have key (i : Instr) (f' : Word → Word → Word → Word) {f : Word → Word → Word → Word}
        (hi : exec i s = op3 g 4 a.toNat b.toNat d.toNat f' s) (hf : ∀ x y z, f' x y z = f x y z) : three i f := gives_of_op3 h hi hf
    exact ⟨key (.add g b a d) (fun x y _ => x + y) rfl fun x y _ => add_eq x y,
      key (.addc g b a d) (fun x y _ => carry x y) rfl fun _ _ _ => rfl,
      key (.sub g b a d) (fun x y _ => x - y) rfl fun x y _ => sub_eq x y,
      key (.subb g b a d) (fun x y _ => borrow x y) rfl fun _ _ _ => rfl,
      key (.mulLo g b a d) (fun x y _ => x * y) rfl fun x y _ => mul_eq x y,
      key (.mulHiS32 g b a d) (fun x y _ => mulHiS32 x y) rfl fun _ _ _ => (extractHigh_ofInt _).symm,
      key (.mulHiN32 g b a d) (fun x y _ => mulHiN32 x y) rfl fun _ _ _ => (extractHigh_ofNat _).symm,
      key (.mad g b a d) (fun x y z => x * y + z) rfl mulAdd_eq⟩
  · intro s t g b a d h two
    have key (i : Instr) (f' : Word → Word → Word) {f : Word → Word → Word}
        (hi : exec i s = op3 g 4 a.toNat b.toNat d.toNat (fun x y _ => f' x y) s) (hf : ∀ x y, f' x y = f x y) : two i f :=
      gives_of_op3 h hi fun x y _ => hf x y
    exact ⟨key (.and g b a d) (· &&& ·) rfl fun _ _ => rfl,
      key (.or g b a d) (· ||| ·) rfl fun _ _ => rfl,
      key (.xor g b a d) (· ^^^ ·) rfl fun _ _ => rfl,
      key (.andn g b a d) (fun x y => x &&& ~~~y) rfl fun _ _ => rfl,
      key (.minS32 g b a d) minS32 rfl minS32_eq,
      key (.maxS32 g b a d) maxS32 rfl maxS32_eq,
      key (.minN32 g b a d) minN32 rfl minN32_eq,
      key (.maxN32 g b a d) maxN32 rfl maxN32_eq,
      key (.shl g b a d) (fun x y => shl x y.toNat) rfl shl_eq,
      key (.shr g b a d) (fun x y => shr x y.toNat) rfl shr_eq,
      key (.sar g b a d) (fun x y => sar x y.toNat) rfl sar_eq,
      _, key (.rot g b a d) (fun x y => rot x y.toNat) rfl fun _ _ => rfl, fun x y _ => rot_getLsbD x y⟩

end Sys2Proof.Machine

namespace Sys2Proof.Machine

/-! ## Bit counts and bit fields (R99, R100) -/

theorem countP_range_le (b n : Nat) : (List.range n).countP (fun i => b ≤ i) = n - b := by
  induction n with
  | zero => simp
  | succ n ih =>
    rw [List.range_succ, List.countP_append, ih]
    by_cases h : b ≤ n <;> simp [h] <;> omega

/-- The leading zeros: the places from the highest 1 up. -/
theorem clz_eq (x : Word) : clz x = BitVec.ofNat 32 ((List.range 32).countP fun i => nat x < 2 ^ i) := by
  unfold clz
  split
  · next h => subst h; decide
  · next h =>
    have h0 : nat x ≠ 0 := fun e => h (BitVec.eq_of_toNat_eq e)
    have hc (i : Nat) : nat x < 2 ^ i ↔ Nat.log2 (nat x) + 1 ≤ i := (Nat.log2_lt h0).symm
    simp only [hc, countP_range_le]
    rw [Nat.sub_add_eq, Nat.sub_right_comm]

theorem absW_eq (x : Word) : absW x = BitVec.ofNat 32 (sgn x).natAbs := by
  unfold absW
  rw [← BitVec.ofInt_natCast]
  split
  · next h =>
    rw [Int.ofNat_natAbs_of_nonpos h.le, BitVec.ofInt_neg, BitVec.ofInt_toInt]
    exact BitVec.zero_sub x
  · next h => rw [Int.natAbs_of_nonneg (Int.not_lt.1 h), BitVec.ofInt_toInt]

theorem brev_getLsbD (x : Word) {i : Nat} (hi : i < 32) : (brev x).getLsbD i = x.getLsbD (31 - i) := by
  rw [brev, BitVec.getLsbD_reverse, BitVec.getMsbD_eq_getLsbD]
  simp [hi]

theorem fieldPos_eq (y : Word) : fieldPos y = nat y % 2 ^ 5 := by
  simp [fieldPos, BitVec.extractLsb'_toNat]

theorem fieldWidth_eq (y : Word) : fieldWidth y = min (nat y / 2 ^ 8 % 2 ^ 6) (32 - nat y % 2 ^ 5) := by
  simp [fieldWidth, fieldPos_eq, BitVec.extractLsb'_toNat, Nat.shiftRight_eq_div_pow]

theorem fieldWidth_le (y : Word) : fieldPos y + fieldWidth y ≤ 32 := by
  rw [fieldWidth_eq, fieldPos_eq]; omega

/-- The mask of a field has the bits below its width. -/
theorem fieldMask_getLsbD {w i : Nat} (hw : w ≤ 32) (hi : i < 32) : (fieldMask w).getLsbD i = decide (i < w) := by
  have h : fieldMask w = BitVec.ofNat 32 (2 ^ w - 1) := by
    interval_cases w <;> rfl
  rw [h, BitVec.getLsbD_ofNat, Nat.testBit_two_pow_sub_one]
  simp [hi]

theorem bfxN32_getLsbD (x y : Word) {i : Nat} (hi : i < 32) :
    (bfxN32 x y).getLsbD i = (decide (i < fieldWidth y) && x.getLsbD (fieldPos y + i)) := by
  unfold bfxN32
  split
  · next h => simp [h]
  · rw [BitVec.getLsbD_and, BitVec.getLsbD_ushiftRight, fieldMask_getLsbD ((Nat.le_add_left ..).trans (fieldWidth_le y)) hi, Bool.and_comm]

theorem bfxN32_eq (x y : Word) : bfxN32 x y = BitVec.ofNat 32 (nat x / 2 ^ fieldPos y % 2 ^ fieldWidth y) := by
  refine BitVec.eq_of_getLsbD_eq fun i hi => ?_
  rw [bfxN32_getLsbD x y hi, BitVec.getLsbD_ofNat, Nat.testBit_mod_two_pow, Nat.testBit_div_two_pow, BitVec.testBit_toNat]
  simp [hi, Nat.add_comm]

/-- The bits of a field that is extended with its sign, the highest bit of the field. -/
theorem bfxS32_getLsbD (x y : Word) {i : Nat} (hi : i < 32) : (bfxS32 x y).getLsbD i =
    if i < fieldWidth y then (bfxN32 x y).getLsbD i else (bfxN32 x y).getLsbD (fieldWidth y - 1) := by
  have hw := (Nat.le_add_left ..).trans (fieldWidth_le y)
  by_cases h0 : fieldWidth y = 0
  · simp [bfxS32, bfxN32, h0]
  · unfold bfxS32
    rw [if_neg h0]
    simp only [apply_ite (BitVec.getLsbD · i), BitVec.getLsbD_or, BitVec.getLsbD_not, fieldMask_getLsbD hw hi, bfxN32_getLsbD x y hi]
    by_cases h : i < fieldWidth y <;> simp [h, hi]

theorem bfxS32_eq (x y : Word) : bfxS32 x y = (BitVec.ofNat (fieldWidth y) (nat x / 2 ^ fieldPos y)).signExtend 32 := by
  refine BitVec.eq_of_getLsbD_eq fun i hi => ?_
  have hw := (Nat.le_add_left ..).trans (fieldWidth_le y)
  have hb (j : Nat) (hj : j < 32) : (bfxN32 x y).getLsbD j = (BitVec.ofNat (fieldWidth y) (nat x / 2 ^ fieldPos y)).getLsbD j := by
    rw [bfxN32_getLsbD x y hj, BitVec.getLsbD_ofNat, Nat.testBit_div_two_pow, BitVec.testBit_toNat, Nat.add_comm]
  rw [bfxS32_getLsbD x y hi, BitVec.getLsbD_signExtend, BitVec.msb_eq_getLsbD_last, hb i hi, hb _ (by omega)]
  simp [hi]

theorem bfi_getLsbD (x y z : Word) {i : Nat} (hi : i < 32) : (bfi x y z).getLsbD i =
    if fieldPos y ≤ i ∧ i < fieldPos y + fieldWidth y then x.getLsbD (i - fieldPos y) else z.getLsbD i := by
  have hw := (Nat.le_add_left ..).trans (fieldWidth_le y)
  simp only [bfi, BitVec.getLsbD_or, BitVec.getLsbD_and, BitVec.getLsbD_not, BitVec.getLsbD_shiftLeft, hi]
  rw [fieldMask_getLsbD hw (by omega)]
  by_cases h1 : fieldPos y ≤ i
  · by_cases h2 : i < fieldPos y + fieldWidth y
    · have : i - fieldPos y < fieldWidth y := by omega
      simp [h1, h2, this, Nat.not_lt.2 h1]
    · have : ¬ i - fieldPos y < fieldWidth y := by omega
      simp [h1, h2, this]
  · simp [h1, Nat.lt_of_not_le h1]

/-- Settles O3: each instruction is a lane operation; the fields' results are compared bit by bit. -/
theorem bitFields : Obligations.BitFields := by
  unfold Obligations.BitFields
  intro s t g b a d pos width
  have hpos (y : Word) : fieldPos y = pos y := fieldPos_eq y
  have hwidth (y : Word) : fieldWidth y = width y := fieldWidth_eq y
  constructor
  · intro h one
    have key (i : Instr) (f' : Word → Word) {f : Word → Word} (hi : exec i s = op2 g 4 a.toNat d.toNat (fun x _ => f' x) s)
        (hf : ∀ x, f' x = f x) : one i f := gives_of_op2 h hi hf
    exact ⟨key (.popc g a d) popc rfl fun _ => rfl,
      key (.clz g a d) clz rfl clz_eq,
      key (.abs g a d) absW rfl absW_eq,
      _, key (.brev g a d) brev rfl fun _ => rfl, fun x _ => brev_getLsbD x⟩
  · intro h three
    have key (i : Instr) (f' : Word → Word → Word → Word) {f : Word → Word → Word → Word}
        (hi : exec i s = op3 g 4 a.toNat b.toNat d.toNat f' s) (hf : ∀ x y z, f' x y z = f x y z) : three i f := gives_of_op3 h hi hf
    exact ⟨key (.bfxN32 g b a d) (fun x y _ => bfxN32 x y) rfl fun x y _ => by rw [bfxN32_eq, hpos, hwidth],
      key (.bfxS32 g b a d) (fun x y _ => bfxS32 x y) rfl fun x y _ => by rw [bfxS32_eq, hpos, hwidth],
      _, key (.bfi g b a d) bfi rfl fun _ _ _ => rfl, fun x y z i hi => by rw [bfi_getLsbD x y z hi, hpos, hwidth]⟩

end Sys2Proof.Machine

namespace Sys2Proof.Machine

/-! ## Moves (R82, R83, R88) -/

/-- A lane instruction that writes a register which each fibre names for itself. -/
theorem runs_of_laneOp {i : Instr} {s : State} {t : Team} {g : Guard} {uses : Fibre → List Nat} {n : Fibre → Nat} {v : Fibre → Word}
    (h : CanIssue s t g uses) (hn : ∀ x, n x ∈ uses x) (hi : exec i s = laneOp g 4 uses (fun _ x => x.setReg (n x) (v x)) s) :
    Runs i s t g 4 (fun _ x => [(n x, v x)]) fun _ _ => [] := by
  refine ⟨_, hi.trans (laneOp_runs h), State.writeFibres_lands h.team (fun _ => State.active_sub) 4 ?_ ?_ ?_ ?_⟩
  · exact fun k _ => Fibre.setReg_keeps _ _ _
  · exact fun k _ => rfl
  · intro k hk p hp
    rw [List.mem_singleton.1 hp]
    exact Fibre.setReg_same (h.window k hk _ (hn _))
  · exact fun k _ p hp => absurd hp List.not_mem_nil

/-- Settles O4: each move is a lane operation, or one that reads the team beside the fibre. -/
theorem moves : Obligations.Moves := by
  unfold Obligations.Moves
  intro s t g k imm a d la ld
  refine ⟨fun h => gives_of_laneOp h (fun _ => by simp) rfl, fun h => gives_of_laneOp h (fun _ => by simp) rfl, fun h => ⟨?_, ?_⟩,
    fun h => gives_of_laneOp h (fun _ => by simp) rfl, fun h => runs_of_laneOp h (fun _ => by simp) rfl⟩
  · exact gives_of_issue (v := fun _ t _ _ => t.consts.getD k.toNat 0) h (fun _ => by simp) rfl
  · simp only [Nat.mul_comm 8]
    exact gives_of_issue (v := fun _ t _ x => BitVec.ofNat 32 (t.kernel.winMax * 8 * 2 ^ 16 + x.regs.length)) h (fun _ => by simp) rfl

end Sys2Proof.Machine

namespace Sys2Proof.Machine

/-! ## Select and compares (R96 to R98) -/

/-- Settles O5: a compare decides its condition on the order that its operands are read in. -/
theorem selectAndCompares : Obligations.SelectAndCompares := by
  unfold Obligations.SelectAndCompares
  intro s t g c n p imm b a d holds
  have hc {l e : Bool} {lt eq : Prop} (hl : l = true ↔ lt) (he : e = true ↔ eq) : condOn l e c = true ↔ holds lt eq := by
    rw [← hl, ← he]
    cases c <;> simp [condOn, holds]
  refine ⟨fun h => gives_of_laneOp h (fun _ => by simp) rfl, fun h => ?_, fun h => ?_⟩
  · refine ⟨⟨condS32 c, decides_of_laneOp h rfl, fun x y => hc decide_eq_true_iff beq_iff_eq⟩,
      ⟨condN32 c, decides_of_laneOp h rfl, fun x y => hc decide_eq_true_iff beq_iff_eq⟩,
      ⟨condF32 c, decides_of_laneOp h rfl, fun x y => ?_⟩⟩
    by_cases hn : isNan fp32 (nat x) = true ∨ isNan fp32 (nat y) = true
    · simp only [condF32, Bool.or_eq_true, hn, if_true, beq_iff_eq]
    · simp only [condF32, Bool.or_eq_true, hn, if_false]
      exact hc decide_eq_true_iff beq_iff_eq
  · refine ⟨⟨fun x => condS32 c x (imm.signExtend 32), decides_of_laneOp h rfl, fun x => hc ?_ ?_⟩,
      ⟨fun x => condN32 c x (imm.setWidth 32), decides_of_laneOp h rfl, fun x => hc ?_ ?_⟩⟩
    · rw [decide_eq_true_iff, BitVec.toInt_signExtend_of_le (by decide)]
    · rw [beq_iff_eq, ← BitVec.toInt_inj, BitVec.toInt_signExtend_of_le (by decide)]
    · rw [decide_eq_true_iff, BitVec.toNat_setWidth_of_le (by decide)]
    · rw [beq_iff_eq, ← BitVec.toNat_inj, BitVec.toNat_setWidth_of_le (by decide)]

end Sys2Proof.Machine

namespace Sys2Proof.Machine

/-! ## Immediates (R101, R102) -/

theorem imhi_eq (imm : BitVec 15) (x : Word) : imhi imm x = BitVec.ofNat 32 (imm.toNat * 2 ^ 17 + nat x % 2 ^ 17) := by
  apply BitVec.eq_of_toNat_eq
  rw [imhi, BitVec.toNat_append, BitVec.extractLsb'_toNat, Nat.shiftRight_zero, BitVec.toNat_ofNat,
    ← Nat.shiftLeft_add_eq_or_of_lt (Nat.mod_lt _ (by decide)), Nat.shiftLeft_eq]
  unfold nat
  omega

theorem signExtend_eq {w : Nat} (imm : BitVec w) : imm.signExtend 32 = BitVec.ofInt 32 imm.toInt := rfl

theorem addImmediate_eq {w : Nat} (x : Word) (imm : BitVec w) : x + imm.signExtend 32 = BitVec.ofInt 32 (nat x + imm.toInt) := by
  rw [BitVec.ofInt_add, signExtend_eq]; simp

section
variable (x : Word) (cnt : BitVec 5)

/-- A count in an instruction shifts as the same count in a register does. -/
theorem shiftCount : (cnt.setWidth 32).toNat = cnt.toNat := BitVec.toNat_setWidth_of_le (by decide)

theorem shli_eq : shl x cnt.toNat = BitVec.ofNat 32 (nat x * 2 ^ cnt.toNat) := shiftCount cnt ▸ shl_eq x (cnt.setWidth 32)
theorem shri_eq : shr x cnt.toNat = BitVec.ofNat 32 (nat x / 2 ^ cnt.toNat) := shiftCount cnt ▸ shr_eq x (cnt.setWidth 32)
theorem sari_eq : sar x cnt.toNat = BitVec.ofInt 32 (sgn x / 2 ^ cnt.toNat) := shiftCount cnt ▸ sar_eq x (cnt.setWidth 32)

end

/-- Settles O6: each immediate is read as R31 says, and the operation is that on two registers. -/
theorem immediates : Obligations.Immediates := by
  unfold Obligations.Immediates
  intro s t g long imm cnt a d
  constructor
  · intro h
    simp only [← imhi_eq]
    exact ⟨gives_of_laneOp h (fun _ => by simp) rfl, gives_of_laneOp h (fun _ => by simp) rfl⟩
  · intro h one
    have key (i : Instr) (f' : Word → Word) {f : Word → Word} (hi : exec i s = op2 g 4 a.toNat d.toNat (fun x _ => f' x) s)
        (hf : ∀ x, f' x = f x) : one i f := gives_of_op2 h hi hf
    exact ⟨key (.addi g imm a d) (· + imm.signExtend 32) rfl fun x => addImmediate_eq x imm,
      key (.andi g imm a d) (· &&& imm.signExtend 32) rfl fun _ => rfl,
      key (.ori g imm a d) (· ||| imm.signExtend 32) rfl fun _ => rfl,
      key (.xori g imm a d) (· ^^^ imm.signExtend 32) rfl fun _ => rfl,
      key (.shli g cnt a d) (shl · cnt.toNat) rfl fun x => shli_eq x cnt,
      key (.shri g cnt a d) (shr · cnt.toNat) rfl fun x => shri_eq x cnt,
      key (.sari g cnt a d) (sar · cnt.toNat) rfl fun x => sari_eq x cnt⟩

end Sys2Proof.Machine

namespace Sys2Proof.Machine

/-! ## Rounding an approximation (R103, R104)

The model divides to a fixed place below the operands' own, and keeps a last bit for the remainder. `frcp` divides the significand 1, where
the statement takes the FP32 number 1.0, with its significand of 24 bits: the two quotients end at different places, and round to the same
number. -/

/-- A value without its bits below place `k + 1`, and a last bit at place `k` that says whether some of them are set. -/
def stickyBits (m k : Nat) : Nat := 2 * (m / 2 ^ (k + 1)) + if m % 2 ^ (k + 1) = 0 then 0 else 1

theorem roundUnits_nearest {m d : Nat} {e q : Int} (draw : Word) (hq : q = e + d) (hd : 0 < d) :
    roundUnits .nearest draw m e q =
      m / 2 ^ d + if 2 ^ d < 2 * (m % 2 ^ d) ∨ 2 * (m % 2 ^ d) = 2 ^ d ∧ m / 2 ^ d % 2 = 1 then 1 else 0 := by
  have h : (q - e).toNat = d := by omega
  unfold roundUnits
  rw [if_neg (show ¬ q ≤ e by omega), h]
  simp only [gt_iff_lt, Bool.or_eq_true, decide_eq_true_eq, Bool.and_eq_true, beq_iff_eq]
  split <;> rfl

/-- Rounding to nearest counts the same units where two or more of the bits kept lie below the unit: the last one makes no tie and breaks one. -/
theorem roundUnits_stickyBits {m k : Nat} {e q : Int} (draw : Word) (hq : e + k + 2 ≤ q) :
    roundUnits .nearest draw (stickyBits m k) (e + k) q = roundUnits .nearest draw m e q := by
  obtain ⟨d, rfl⟩ : ∃ d : Nat, q = e + k + (d + 2 : Nat) := ⟨(q - e - k - 2).toNat, by omega⟩
  rw [roundUnits_nearest draw rfl (by omega), roundUnits_nearest (e := e) (d := k + 1 + (d + 1)) draw (by push_cast; ring) (by omega)]
  unfold stickyBits
  rw [pow_add 2 (k + 1), pow_succ' 2 (d + 1), pow_succ' 2 d]
  have hK : 0 < 2 ^ (k + 1) := Nat.two_pow_pos _
  have hv : m % 2 ^ (k + 1) < 2 ^ (k + 1) := Nat.mod_lt _ hK
  simp only [← Nat.div_div_eq_div_mul m, Nat.mod_mul (x := m)]
  generalize 2 ^ (k + 1) = K at *
  generalize 2 ^ d = E at *
  generalize m / K = u at *
  generalize m % K = v at *
  obtain ⟨s, hs, hsv⟩ : ∃ s, (if v = 0 then 0 else 1) = s ∧ (s = 0 ∧ v = 0 ∨ s = 1 ∧ 0 < v) := by
    split <;> exact ⟨_, rfl, by omega⟩
  have ht : (2 * u + s) / 2 = u := by omega
  have hr : (2 * u + s) % 2 = s := by omega
  rw [hs, ← Nat.div_div_eq_div_mul (2 * u + s), Nat.mod_mul, ht, hr]
  generalize u % (2 * E) = r
  generalize u / (2 * E) = t
  -- The rest of the division by the unit against its half, `E` places of the kept bits.
  have less (h : r < E) : K * r + K ≤ K * E := Nat.mul_le_mul_left K h
  have more (h : E < r) : K * E + K ≤ K * r := Nat.mul_le_mul_left K h
  have same (h : r = E) : K * r = K * E := congrArg _ h
  rw [Nat.mul_left_comm K 2 E]
  generalize K * r = a at *
  generalize K * E = b at *
  have hlt : 2 * (2 * E) < 2 * (s + 2 * r) ↔ 2 * b < 2 * (v + a) := by omega
  have htie : 2 * (s + 2 * r) = 2 * (2 * E) ↔ 2 * (v + a) = 2 * b := by omega
  simp only [hlt, htie]

theorem stickyBits_div_two (m k : Nat) : stickyBits m k / 2 = m / 2 ^ (k + 1) := by
  unfold stickyBits; split <;> omega

/-- The highest 1 keeps its place. -/
theorem log2_stickyBits {m k : Nat} (h : k + 1 ≤ Nat.log2 m) : Nat.log2 (stickyBits m k) + k = Nat.log2 m := by
  have hm : m ≠ 0 := by rintro rfl; simp at h
  have hu : 0 < m / 2 ^ (k + 1) := Nat.div_pos ((Nat.le_log2 hm).1 h) (Nat.two_pow_pos _)
  have h1 : 0 < Nat.log2 (stickyBits m k) := (Nat.le_log2 (k := 1) (by unfold stickyBits; omega)).2 (by unfold stickyBits; omega)
  have h2 := Nat.log_div_base 2 (stickyBits m k)
  rw [stickyBits_div_two, Nat.log_div_base_pow, ← Nat.log2_eq_log_two, ← Nat.log2_eq_log_two] at h2
  omega

/-- A rounding to nearest is that of the leading bits, where they reach two places below the significand. -/
theorem FFmt.roundMag_stickyBits (f : FFmt) {m k : Nat} (draw : Word) (e : Int) (h : f.mb + k + 2 ≤ Nat.log2 m) :
    f.roundMag .nearest draw (stickyBits m k) (e + k) = f.roundMag .nearest draw m e := by
  have hlog := log2_stickyBits (m := m) (k := k) (by omega)
  have hm : m ≠ 0 := by rintro rfl; simp at h
  have hs : stickyBits m k ≠ 0 := fun hs => by simp [hs] at hlog; omega
  have htop : e + k + (Nat.log2 (stickyBits m k) : Int) = e + Nat.log2 m := by omega
  unfold FFmt.roundMag
  simp only [hm, hs, htop, if_false, roundUnits_stickyBits draw (show e + k + 2 ≤ max (e + Nat.log2 m - f.mb : Int) f.qmin by omega)]

/-- The significand of a code lies below 2 ^ (mb + 1). -/
theorem FFmt.value_fin {f : FFmt} {x : Nat} {s : Bool} {m : Nat} {e : Int} (h : f.value x = .fin s m e) : m < 2 ^ (f.mb + 1) := by
  have hfr := Nat.mod_lt (f.magOf x) (Nat.two_pow_pos f.mb)
  simp only [FFmt.value] at h
  split at h
  · split at h <;> cases h <;> rw [pow_succ] <;> omega
  · split at h <;> cases h

/-- The quotient `a / n` to a place, with a last bit that stands for a remainder. -/
def stickyQuot (a n : Nat) : Nat := 2 * (a / n) + if a % n = 0 then 0 else 1

/-- A quotient holds the leading bits of the one to `k` places more. -/
theorem stickyBits_stickyQuot (a k n : Nat) : stickyBits (stickyQuot (a * 2 ^ k) n) k = stickyQuot a n := by
  have hk : 0 < 2 ^ k := Nat.two_pow_pos k
  have hhalf : stickyQuot (a * 2 ^ k) n / 2 = a * 2 ^ k / n := by unfold stickyQuot; split <;> omega
  have hodd : stickyQuot (a * 2 ^ k) n % 2 = 0 ↔ n ∣ a * 2 ^ k := by
    rw [Nat.dvd_iff_mod_eq_zero]; unfold stickyQuot; split <;> omega
  have hdiv : stickyQuot (a * 2 ^ k) n / 2 ^ (k + 1) = a / n := by
    rw [pow_succ', ← Nat.div_div_eq_div_mul, hhalf, Nat.div_div_eq_div_mul, Nat.mul_div_mul_right _ _ hk]
  have hmod : stickyQuot (a * 2 ^ k) n % 2 ^ (k + 1) = 0 ↔ a % n = 0 := by
    rw [pow_succ', Nat.mod_mul, hhalf, Nat.add_eq_zero_iff, hodd, Nat.mul_eq_zero, or_iff_right two_ne_zero, ← Nat.dvd_iff_mod_eq_zero,
      ← Nat.dvd_iff_mod_eq_zero]
    constructor
    · rintro ⟨h, hd⟩
      exact (Nat.mul_dvd_mul_iff_right hk).1 ((Nat.dvd_div_iff_mul_dvd h).1 hd)
    · intro h
      have hd : n * 2 ^ k ∣ a * 2 ^ k := Nat.mul_dvd_mul_right h _
      exact ⟨(Nat.dvd_mul_right ..).trans hd, (Nat.dvd_div_iff_mul_dvd ((Nat.dvd_mul_right ..).trans hd)).2 hd⟩
  rw [stickyBits, hdiv]
  simp only [hmod]
  rfl

theorem FVal.div_fin {s t : Bool} {m n : Nat} {e k : Int} (hm : m ≠ 0) (hn : n ≠ 0) :
    (FVal.fin s m e).div (.fin t n k) = .fin (s != t) (stickyQuot (m * 2 ^ 64) n) (e - k - 64 - 1) := by
  simp only [FVal.div, hm, hn, if_false, sticky, stickyQuot, beq_iff_eq]

theorem FFmt.rne_fin_congr (f : FFmt) {m m' : Nat} {e e' : Int} (s : Bool) (h : f.roundMag .nearest 0 m e = f.roundMag .nearest 0 m' e') :
    f.rne (.fin s m e) = f.rne (.fin s m' e') := by
  simp only [FFmt.rne, h]

theorem le_log2_stickyQuot {a n l : Nat} (hn : 0 < n) (h : 2 ^ l * n ≤ a) : l + 1 ≤ Nat.log2 (stickyQuot a n) := by
  have hq : 2 ^ l ≤ a / n := (Nat.le_div_iff_mul_le hn).2 h
  have hp := Nat.two_pow_pos l
  refine (Nat.le_log2 (by unfold stickyQuot; omega)).2 ?_
  rw [pow_succ]
  unfold stickyQuot
  omega

theorem val32_one : val32 0x3F800000 = .fin false (2 ^ 23) (-23) := by decide

/-- The quotient of 1, written with any significand, rounds to the same number. -/
theorem rne32_one_div (x : Word) : rne32 ((FVal.fin false 1 0).div (val32 x)) = rne32 ((val32 0x3F800000).div (val32 x)) := by
  rw [val32_one]
  rcases hx : val32 x with _ | s | ⟨s, n, k⟩
  · rfl
  · rfl
  · rcases Nat.eq_zero_or_pos n with rfl | hn
    · rfl
    · have hlt : n < 2 ^ 24 := FFmt.value_fin hx
      rw [FVal.div_fin one_ne_zero hn.ne', FVal.div_fin (by decide) hn.ne', Nat.mul_comm (2 ^ 23)]
      refine congrArg (BitVec.ofNat 32) (fp32.rne_fin_congr _ ?_)
      have h := FFmt.roundMag_stickyBits fp32 (m := stickyQuot (2 ^ 64 * 2 ^ 23) n) (k := 23) 0 (-23 - k - 64 - 1)
        ((by decide : fp32.mb + 23 + 2 ≤ 62 + 1).trans (le_log2_stickyQuot hn (by omega)))
      rw [stickyBits_stickyQuot] at h
      rw [← h, Nat.one_mul]
      congr 1
      push_cast
      omega
/-- Settles O7: each instruction is a lane operation, and its result is the rounded value of the rule by definition, but for `frcp`. -/
theorem fp32Instructions : Obligations.Fp32 := by
  unfold Obligations.Fp32
  intro s t g b a d
  constructor
  · intro h three
    have key (i : Instr) (f : Word → Word → Word → Word) (hi : exec i s = op3 g 4 a.toNat b.toNat d.toNat f s) : three i f :=
      gives_of_op3 h hi fun _ _ _ => rfl
    exact ⟨key (.fadd g b a d) (fun x y _ => fadd x y) rfl, key (.fsub g b a d) (fun x y _ => fsub x y) rfl,
      key (.fmul g b a d) (fun x y _ => fmul x y) rfl, key (.ffma g b a d) ffma rfl, key (.fmin g b a d) (fun x y _ => fmin x y) rfl,
      key (.fmax g b a d) (fun x y _ => fmax x y) rfl, key (.fdiv g b a d) (fun x y _ => fdiv x y) rfl,
      key (.fscale g b a d) (fun x y _ => fscale x y) rfl⟩
  · intro h one
    have key (i : Instr) (f' : Word → Word) {f : Word → Word} (hi : exec i s = op2 g 4 a.toNat d.toNat (fun x _ => f' x) s)
        (hf : ∀ x, f' x = f x) : one i f := gives_of_op2 h hi hf
    exact ⟨key (.frcp g a d) frcp rfl rne32_one_div, key (.frsq g a d) frsq rfl fun _ => rfl, key (.fsqrt g a d) fsqrt rfl fun _ => rfl,
      key (.fexp2 g a d) fexp2 rfl fun _ => rfl, key (.flog2 g a d) flog2 rfl fun _ => rfl, key (.fclass g a d) fclass rfl fun _ => rfl⟩

end Sys2Proof.Machine

namespace Sys2Proof.Machine

/-! ## Packed halves (R108) -/

theorem halves_toNat (f : Nat → Nat → Nat → Nat) (x y z : Word) :
    nat (halves f x y z) = 2 ^ 16 * (f (nat x / 2 ^ 16) (nat y / 2 ^ 16) (nat z / 2 ^ 16) % 2 ^ 16) +
      f (nat x % 2 ^ 16) (nat y % 2 ^ 16) (nat z % 2 ^ 16) % 2 ^ 16 := by
  rw [nat, halves, BitVec.toNat_append, ← Nat.shiftLeft_add_eq_or_of_lt (BitVec.isLt _), BitVec.toNat_ofNat, BitVec.toNat_ofNat,
    Nat.shiftLeft_eq, Nat.mul_comm]
  rfl

/-- An operation on two codes takes nothing from the third operand. -/
theorem halves_two (f : Nat → Nat → Nat) (x y z : Word) : halves (fun a b _ => f a b) x y 0 = halves (fun a b _ => f a b) x y z := rfl

/-- Settles O8: a packed instruction is one operation on codes, applied to each half. -/
theorem packed16 : Obligations.Packed16 := by
  unfold Obligations.Packed16
  intro s t g b a d h each ops
  have three (i : Instr) (f : Nat → Nat → Nat → Nat) {v : Word → Word → Word → Word}
      (hi : exec i s = op3 g 4 a.toNat b.toNat d.toNat v s) (hv : ∀ x y z, v x y z = halves f x y z) : each i f := by
    refine ⟨v, gives_of_op3 h hi fun _ _ _ => rfl, fun x y z => ?_⟩
    rw [hv, halves_toNat]
    omega
  have two (i : Instr) (f : Nat → Nat → Nat)
      (hi : exec i s = op3 g 4 a.toNat b.toNat d.toNat (fun x y _ => halves (fun p q _ => f p q) x y 0) s) : each i fun p q _ => f p q :=
    three i _ hi (halves_two f)
  clear_value each
  exact ⟨⟨two (.hadd2F16 g b a d) _ rfl, two (.hmul2F16 g b a d) _ rfl, three (.hfma2F16 g b a d) _ rfl fun _ _ _ => rfl,
      two (.hmax2F16 g b a d) _ rfl⟩,
    two (.hadd2Bf16 g b a d) _ rfl, two (.hmul2Bf16 g b a d) _ rfl, three (.hfma2Bf16 g b a d) _ rfl fun _ _ _ => rfl,
    two (.hmax2Bf16 g b a d) _ rfl⟩

end Sys2Proof.Machine

namespace Sys2Proof.Machine

/-! ## Predicate instructions (R94, R95) -/

/-- Settles O10: each instruction is a lane operation on the predicates alone. -/
theorem predicateInstructions : Obligations.PredicateInstructions := by
  unfold Obligations.PredicateInstructions
  intro s t g b a d h
  exact ⟨decides_of_laneOp h rfl, decides_of_laneOp h rfl, decides_of_laneOp h rfl, decides_of_laneOp h rfl, decides_of_laneOp h rfl,
    Fibre.pred_seven⟩

end Sys2Proof.Machine

namespace Sys2Proof.Machine

/-! ## Why teams are saved (R93, R228 to R230, R309) -/

section
variable {s : State} {t : Team}

theorem execRegisterDeadlockEvict_evicts {c : Nat} (hd : 10240 ≤ (s.core c).deadlock) (hg : s.grantBlocked c = true)
    (ht : latest (s.teams.filter fun x => x.savable c) = some t) :
    exec (.registerDeadlockEvict c) s = .next ((s.modCore c fun k => { k with deadlock := 0 }).modTeam t.id fun x =>
      x.stand (.saving .evict false 0)) := by
  show execRegisterDeadlockEvict c s = _
  unfold execRegisterDeadlockEvict
  rw [if_neg (by simp [hg, Nat.not_lt.2 hd])]
  simp only [ht]

theorem execPreempt_takes {b : State} {q : Nat} {l : Launch} {k : Kernel} (ht : s.team? t.id = some t) (hq : s.headOf q = some (l, k))
    (hb : s.lacksRoom l k = some b) (hh : s.heldBack l = false) (hp : ∀ x, (s.core t.core).promised = some x → x = l.id)
    (hv : latest (s.teams.filter fun x => x.core == t.core && s.preemptible x (s.queue q).prio.toNat && (b.without x).fitsTeam t.core k) =
      some t) :
    exec (.preempt q t.id) s = .next ((s.modTeam t.id fun x => x.runOn s.stamp).modCore t.core fun k =>
      { k with promised := some l.id }) := by
  have hp : (s.core t.core).promised.any (fun x => x != l.id) = false := by
    cases h : (s.core t.core).promised with
    | none => rfl
    | some x => simp [hp x h]
  show execPreempt q t.id s = _
  unfold execPreempt
  simp only [hq, ht, hb, hh, hp, hv, bne_self_eq_false, Bool.false_eq_true, or_self, if_false]

/-- Bundles alone change where fibres are bundled anew, group by group. -/
theorem Team.foldl_rebundle {α : Type} (gs : List α) (is : α → List Nat) (t : Team) (stamp : Nat) :
    ∃ bs, gs.foldl (fun t g => t.rebundle (is g) stamp) t = { t with bundles := bs } := by
  induction gs generalizing t with
  | nil => exact ⟨t.bundles, rfl⟩
  | cons g gs ih =>
    obtain ⟨bs, h⟩ := ih (t.rebundle (is g) stamp)
    obtain ⟨bs', h'⟩ := t.rebundle_bundles (is g) stamp
    exact ⟨bs, by rw [List.foldl_cons, h, h']⟩

/-- A team that is pre-empted runs on, with its pools closed (R59, R230). -/
theorem Team.runOn_bundles (t : Team) (stamp : Nat) :
    ∃ bs, t.runOn stamp = { t with cond := .saving .preempt true 0, pools := [], bundles := bs } :=
  Team.foldl_rebundle _ _ _ _

theorem execPreemptStopTimeout_stops {why : SaveWhy} {age : Nat} (ht : s.team? t.id = some t) (hc : t.cond = .saving why true age)
    (ha : 40960 ≤ age) : exec (.preemptStopTimeout t.id) s = .next (s.modTeam t.id fun x => x.stand (.saving why false age)) := by
  show execPreemptStopTimeout t.id s = _
  unfold execPreemptStopTimeout
  simp only [ht, hc, if_neg (Nat.not_lt.2 ha)]

/-- A save request takes every team of the core that can be saved (R229). -/
theorem State.requestSave_team? {c : Nat} (hc : s.coreExists c = true) (id : Nat) :
    (s.requestSave c true).team? id = (s.team? id).map fun x => if x.savable c then x.stand (.saving .request false 0) else x := by
  unfold State.requestSave
  rw [if_pos (by simp [hc])]
  exact State.mapTeams_team? (s := s) (fun x => by split <;> rfl) id

theorem execErrorQueueOverflowTrap_traps {a : BitVec 64} (ht : s.team? t.id = some t) (hc : t.cond = .resident) (ho : t.overflow = some a) :
    exec (.errorQueueOverflowTrap t.id) s =
      .next ((if t.handlerFor = none then s.modCore t.core fun k => k.trap t else s).modTeam t.id fun x => x.overflowed a) := by
  show execErrorQueueOverflowTrap t.id s = _
  unfold execErrorQueueOverflowTrap
  have hh : t.goesToHandler 0x42 = true ↔ t.handlerFor = none := by simp [Team.goesToHandler]
  simp only [ht, ho, hc, hh, if_true]

/-! ## The end of a save (R229 to R235) -/

section
variable {why : SaveWhy} {points : Bool}

/-- A frame that is written: the save fails with its frame, or is over once no write of it is under way. -/
theorem execTeamSaveComplete_written (ht : s.team? t.id = some t) (hc : t.cond = .written why points) :
    exec (.teamSaveComplete t.id) s =
      if t.lost then .next (s.fail t.launch 6) else if s.ownBusy t.id then .next s else .next (s.finishSave s t why points) := by
  show execTeamSaveComplete t.id s = _
  unfold execTeamSaveComplete
  simp only [ht, hc]

/-- A save under way: that of a handler ends the trapping launch (R234), and any other waits for the fibres and the accesses of its team. -/
theorem execTeamSaveComplete_saving {age : Nat} (ht : s.team? t.id = some t) (hc : t.cond = .saving why points age) :
    exec (.teamSaveComplete t.id) s =
      if t.handlerFor.isSome then .next (s.fail t.launch 4)
      else if (points && !t.stopped) || s.saveBusy t then .next s else .next (s.endSave t why points) := by
  show execTeamSaveComplete t.id s = _
  unfold execTeamSaveComplete
  simp only [ht, hc]

end

/-! ## The trap handler (R234) -/

theorem any_modify {α : Type} {p : α → Bool} {f : α → α} (h : ∀ a, p (f a) = p a) (l : List α) (n : Nat) :
    (l.modify n f).any p = l.any p := by
  induction l generalizing n with
  | nil => simp
  | cons a l ih => cases n <;> simp [List.modify_succ_cons, h, ih]

/-- The accesses of a team's frame are those of the cores and of the fabric. -/
theorem State.ownBusy_modCore {c : Nat} {f : Core → Core} (hr : ∀ k, (f k).reqs = k.reqs) (hs : ∀ k, (f k).storeQ = k.storeQ) (who : Nat) :
    (s.modCore c f).ownBusy who = s.ownBusy who := by
  unfold State.ownBusy
  refine congrArg₂ _ ((any_modify (fun k => ?_) s.cores c)) rfl
  rw [hr, hs]

/-- A change of cores that keeps a field keeps it in each core. -/
theorem State.modCore_field {β : Type} {φ : Core → β} {d : Nat} {f : Core → Core} (h : ∀ k, φ (f k) = φ k) (c : Nat) :
    φ ((s.modCore d f).core c) = φ (s.core c) := by
  simp only [State.core, State.modCore, List.getD_eq_getElem?_getD, List.getElem?_modify]
  cases s.cores[c]? with
  | none => rfl
  | some k => by_cases hc : d = c <;> simp [hc, h]

/-- An acquire at package scope drops views and leases of cores, and nothing else of them. -/
theorem State.acquireViews_pkg_core {β : Type} {φ : Core → β}
    (h : ∀ k : Core, φ { k with view := k.view.filter (·.dirty), leases := [] } = φ k) (d c : Nat) :
    φ ((s.acquireViews d .pkg).core c) = φ (s.core c) := State.modCore_field (s := s) h c

/-- The state in which a core has a handler's team, which has not started. -/
def State.reserveHandler (s : State) (c : Nat) (h : Team) : State :=
  ({ s with teams := s.teams ++ [h] }.fresh).modCore c fun k => { k with handler := some h.id }

theorem State.reserveHandler_team? {c n : Nat} {h : Team} (ht : s.team? n = some t) : (s.reserveHandler c h).team? n = some t := by
  show (s.teams ++ [h]).find? _ = _
  rw [List.find?_append, show s.teams.find? (fun x => x.id == n) = some t from ht]
  rfl

theorem State.reserveHandler_core {c : Nat} {h : Team} (hc : c < s.cores.length) :
    (s.reserveHandler c h).core c = { s.core c with handler := some h.id } :=
  State.modCore_core hc

theorem State.reserveHandler_ownBusy (c who : Nat) (h : Team) : (s.reserveHandler c h).ownBusy who = s.ownBusy who := by
  refine (State.ownBusy_modCore ?_ ?_ who).trans rfl <;> intro _ <;> rfl

/-- A handler starts when every write of its team's frame is performed, and waits in its place until then (R231). -/
theorem State.startHandler_eq {h x : Team} (hx : h.handlerFor.bind s.team? = some x) (hr : h.cond = .reserved) (hl : x.lost = false) :
    s.startHandler h = if s.ownBusy x.id then s else (s.modTeam h.id Team.begin).acquireViews h.core .pkg := by
  simp only [State.startHandler, hx, hr, hl, ne_eq, not_true, Bool.false_eq_true, if_false]

/-- The trapped team at the head of a core's queue gives the core a handler, once its local bytes are in its frame. -/
theorem execTrapHandlerEntry_enters {c : Nat} {rest : List Nat} {x : Team} {k : Kernel} {data : BitVec 256} {b : State}
    (hn : (s.core c).handler = none) (hq : (s.core c).trapQueue = x.id :: rest) (hx : s.team? x.id = some x) (hc : x.cond = .trapped)
    (hg : s.gatherOwn c x.id x.asid (imageRanges (s.reader c x.id x.asid) (ctxHandler (s.contextBits x.asid.toNat))) = none)
    (hi : (s.modCore c fun k => { k with trapQueue := rest }).handlerImage x = some (k, data))
    (hw : (((s.modCore c fun k => { k with trapQueue := rest }).dropOwn c x.id).setMoving x true).writeFrameLocal x = .ok b) :
    exec (.trapHandlerEntry c) s =
      .next ((b.reserveHandler c (b.handlerTeam x k data b.stamp)).startHandler (b.handlerTeam x k data b.stamp)) := by
  show execTrapHandlerEntry c s = _
  unfold execTrapHandlerEntry
  simp only [hn, hq, State.modCore_team?, hx, hc, ne_eq, not_true, if_false, hg, hi, hw]
  rfl

/-- What a started handler's core and team are. -/
theorem State.startHandler_starts {c : Nat} {h x : Team} (hx : s.team? x.id = some x) (hh : h.handlerFor = some x.id) (hr : h.cond = .reserved)
    (hl : x.lost = false) (hc : c < s.cores.length) :
    let u := (s.reserveHandler c h).startHandler h
    (u.core c).handler = some h.id ∧ (u.core c).trapQueue = (s.core c).trapQueue ∧
      (if s.ownBusy x.id then h else h.begin) ∈ u.teams := by
  intro u
  have hu : u = if s.ownBusy x.id then s.reserveHandler c h else ((s.reserveHandler c h).modTeam h.id Team.begin).acquireViews h.core .pkg := by
    rw [← State.reserveHandler_ownBusy c]
    exact State.startHandler_eq (by rw [hh]; exact State.reserveHandler_team? hx) hr hl
  have hcore := State.reserveHandler_core (h := h) hc
  have hmem : h ∈ (s.reserveHandler c h).teams := List.mem_append_right _ (List.mem_singleton_self h)
  rw [hu]
  split
  · exact ⟨by rw [hcore], by rw [hcore], hmem⟩
  · refine ⟨?_, ?_, ?_⟩
    · rw [State.acquireViews_pkg_core (φ := Core.handler) (fun _ => rfl), State.modTeam_core, hcore]
    · rw [State.acquireViews_pkg_core (φ := Core.trapQueue) (fun _ => rfl), State.modTeam_core, hcore]
    · exact List.mem_map.2 ⟨h, hmem, by simp⟩

/-! ## The paging queue (R345) -/

/-- A ticket that is given is one that no team holds. -/
theorem State.newTicket_free (h : s.tickets.length < 2 ^ 16) : s.newTicket ∉ s.tickets := by
  unfold State.newTicket
  dsimp only
  set start := Config.freeTicket s.draws
  cases hf : (List.range (s.tickets.length + 1)).find? fun k => !s.tickets.contains (start + BitVec.ofNat 16 k) with
  | some k => simpa using List.find?_some hf
  | none =>
    -- As many tickets as there are in use, and one more, are all different: not all of them are in use.
    exfalso
    have hall : (List.range (s.tickets.length + 1)).map (fun k => start + BitVec.ofNat 16 k) ⊆ s.tickets := by
      intro v hv
      obtain ⟨k, hk, rfl⟩ := List.mem_map.1 hv
      simpa using List.find?_eq_none.1 hf k hk
    have hnd : ((List.range (s.tickets.length + 1)).map fun k => start + BitVec.ofNat 16 k).Nodup := by
      refine List.Nodup.map_on (fun i hi j hj he => ?_) List.nodup_range
      have := congrArg BitVec.toNat (add_left_cancel he)
      simp only [List.mem_range, BitVec.toNat_ofNat] at hi hj this
      omega
    have := (hnd.subperm hall).length_le
    simp at this

section
variable (s)

/-! ### A write of memory raises no interrupt -/

theorem State.setMemBlock_msix0 (blk : Nat) (d : BlockData) : (s.setMemBlock blk d).host.msix0 = s.host.msix0 := by
  unfold State.setMemBlock
  dsimp only
  split
  · rfl
  · split <;> rfl

theorem State.changeBlock_msix0 (blk : Nat) (f : BlockData → BlockData) : (s.changeBlock blk f).host.msix0 = s.host.msix0 := by
  unfold State.changeBlock
  split
  · rfl
  · exact s.setMemBlock_msix0 blk (f (s.memBlock blk))

theorem State.clearPoison_msix0 (blk off n : Nat) : (s.clearPoison blk off n).host.msix0 = s.host.msix0 := by
  unfold State.clearPoison State.setPoison
  split
  · split <;> rfl
  · rfl

theorem State.writeBlock_msix0 (blk off : Nat) (bs : List Byte) : (s.writeBlock blk off bs).host.msix0 = s.host.msix0 := by
  unfold State.writeBlock
  have h := ((s.clearPoison blk off bs.length).changeBlock_msix0 blk fun d => patchBlock d off bs).trans (s.clearPoison_msix0 _ _ _)
  dsimp only
  split <;> exact h

theorem State.writeBlocks_msix0 (n pa : Nat) (bs : List Byte) : (State.writeBlocks n s pa bs).host.msix0 = s.host.msix0 := by
  induction n generalizing s pa bs with
  | zero => rfl
  | succ n ih =>
    rw [State.writeBlocks]
    exact ite_keeps (fun u => u.host.msix0) (s.writeBlock_msix0 _ _ _) ((ih _ _ _).trans (s.writeBlock_msix0 _ _ _))

theorem State.writePa_msix0 (pa : Nat) (bs : List Byte) : (s.writePa pa bs).host.msix0 = s.host.msix0 :=
  ite_keeps (fun u => u.host.msix0) rfl (s.writeBlocks_msix0 _ _ _)

/-- The end of a want changes tokens and messages alone. -/
theorem State.finishWant_keeps {β : Type} {φ : State → β} (h : ∀ (u : State) c m n, φ { u with coh := c, msgs := m, nextId := n } = φ u)
    (p : Place) (blk : Nat) : φ (s.finishWant p blk) = φ s := by
  unfold State.finishWant
  split
  · rfl
  · next w _ =>
    refine ite_keeps φ rfl ?_
    unfold State.endWant
    split
    · exact h s _ _ _
    · exact h s _ _ _
    · exact h s _ _ _

theorem State.homeDone_keeps {β : Type} {φ : State → β} (h : ∀ (u : State) c m n, φ { u with coh := c, msgs := m, nextId := n } = φ u)
    (blks : List Nat) : φ (s.homeDone blks) = φ s :=
  foldl_keeps (fun u b => u.finishWant_keeps h .home b) blks s

end

/-- The entry of a page fault is written, and counted, and the team holds a ticket that none held before. -/
theorem execPagingQueueWrite_writes {kind : BitVec 2} (ht : s.team? t.id = some t) (hc : t.cond = .saved (.page kind) none false)
    (hr : (s.sys.pagingWr - s.sys.pagingRd).toNat < 256)
    (hg : ∀ pa, pa = s.sys.pagingBase + s.sys.pagingWr.toNat % 256 * 32 → isDram pa = true → s.gatherBlock (blkOf s.dev pa) true = none) :
    ∃ u, exec (.pagingQueueWrite t.id) s = .next u ∧ u.sys.pagingWr = s.sys.pagingWr + 1 ∧ u.host.msix0 = s.host.msix0 + 1 ∧
      u.team? t.id = some (t.stand (.saved (.page kind) (some s.newTicket) false)) := by
  generalize hpa : s.sys.pagingBase + s.sys.pagingWr.toNat % 256 * 32 = pa at hg
  let b := (s.drawn.writePa pa (natBytes 32 (s.pagingEntry t kind s.newTicket))).homeDone [blkOf s.dev pa]
  have hb : b.teams = s.teams :=
    (State.homeDone_keeps (φ := State.teams) _ (fun _ _ _ _ => rfl) _).trans (congrArg Prod.fst (State.writePa_issuing s.drawn pa _))
  have hm : b.host.msix0 = s.host.msix0 :=
    (State.homeDone_keeps (φ := fun u => u.host.msix0) _ (fun _ _ _ _ => rfl) _).trans (State.writePa_msix0 s.drawn pa _)
  have hbt : b.team? t.id = some t := by rw [State.team?, hb]; exact ht
  have hgo : (if isDram pa then s.gatherBlock (blkOf s.dev pa) true else none) = none := by
    split
    · next h => exact hg pa rfl h
    · rfl
  refine ⟨{ b with
    sys := { b.sys with pagingWr := s.sys.pagingWr + 1 }
    host := { b.host with msix0 := b.host.msix0 + 1 } }.modTeam t.id fun t => t.stand (.saved (.page kind) (some s.newTicket) false),
    ?_, rfl, congrArg (· + 1) hm, ?_⟩
  · show execPagingQueueWrite t.id s = _
    unfold execPagingQueueWrite
    simp only [ht, hc, hpa, if_neg (Nat.not_le.2 hr), hgo]
    rfl
  · refine (State.modTeam_same ?_).trans (congrArg (Option.map _) hbt)
    exact fun _ => rfl

/-- A team as a ticket that is written leaves it: the one that holds the ticket is ready. -/
def Team.wake (v : BitVec 16) (x : Team) : Team :=
  match x.cond with
  | .saved why (some k) _ => if k = v then x.stand (.saved why none true) else x
  | _ => x

theorem Team.wake_holder {v : BitVec 16} {x : Team} {why : SaveWhy} {b : Bool} (h : x.cond = .saved why (some v) b) :
    x.wake v = x.stand (.saved why none true) := by
  simp only [Team.wake, h, if_true]

theorem Team.wake_other {v : BitVec 16} {x : Team} (h : ∀ why b, x.cond ≠ .saved why (some v) b) : x.wake v = x := by
  unfold Team.wake
  split
  · next why k b hc =>
    refine if_neg ?_
    rintro rfl
    exact h why b hc
  · rfl

theorem State.resumeTicket_team? (s : State) (v : BitVec 16) {id : Nat} {x : Team} (hx : s.team? id = some x) :
    (s.resumeTicket v).team? id = some (x.wake v) := by
  have hid (x : Team) : (x.wake v).id = x.id := by
    unfold Team.wake
    split
    · split <;> rfl
    · rfl
  exact (State.mapTeams_team? hid id).trans (congrArg _ hx)

/-! ## Re-admission (R216) -/

section
variable {c : Nat}

/-- A saved team that a core can take, and whose frame is at hand, is tried there. -/
theorem execTeamReadmit_fits (ht : s.team? t.id = some t) (hc : s.canReadmit t c = true) (hk : ∀ k, s.collector t = some k → k = c)
    (hl : t.lost = false) (hg : s.gatherFrame t = none) (hf : s.wouldFit t c = true) :
    (∀ y, t.cls = 0 → s.reload t = some y → exec (.teamReadmit t.id c) s = .next (s.runAgain y)) ∧
      (t.cls ≠ 0 → (c = t.core ∨ s.windowsOf t = []) → t.reopen = [] → exec (.teamReadmit t.id c) s = .next (s.readmit t c)) := by
  have hk : ((s.collector t).any fun k => k != c) = false := by
    cases h : s.collector t with
    | none => rfl
    | some k => simp [hk k h]
  show (∀ y, _ → _ → execTeamReadmit t.id c s = _) ∧ (_ → _ → _ → execTeamReadmit t.id c s = _)
  unfold execTeamReadmit
  simp only [ht, hc, hk, hl, hg, hf, Bool.not_true, Bool.or_self, Bool.false_eq_true, if_false]
  refine ⟨fun y h0 hy => by rw [if_pos h0, hy], fun h0 hw hr => ?_⟩
  have hw : ¬ (c ≠ t.core ∧ (!(s.windowsOf t).isEmpty) = true) := by
    rintro ⟨hne, hs⟩
    rcases hw with h | h
    · exact hne h
    · simp [h] at hs
  rw [if_neg h0, if_neg hw, hr]
  simp [State.reopenLack, hr]

end

end

/-- Settles O46: clause by clause, each event in a state in which it is enabled. -/
theorem savingEvents : Obligations.SavingEvents := by
  unfold Obligations.SavingEvents
  refine ⟨fun s t c hd hg ht => execRegisterDeadlockEvict_evicts hd hg ht,
    fun s b t q l k ht hq hb hh hp hv => execPreempt_takes ht hq hb hh hp hv,
    fun t stamp => ?_, fun s t why points ht hc => ⟨fun hl => ?_, fun hl ho => ?_⟩,
    fun s t why points age ht hc => ⟨fun hp ha => ?_, fun hh => ?_, fun hh hs hb => ?_⟩, fun s c hc => ⟨_, rfl, fun id x hx => ?_⟩,
    fun s t a ht hc ho => execErrorQueueOverflowTrap_traps ht hc ho, ?_,
    fun s t kind ht hc hr hn hg => ?_, fun s v => ⟨rfl, _, rfl, rfl, fun id x hx => ?_⟩,
    fun s t c ht hc hk hl hg hf => execTeamReadmit_fits ht hc hk hl hg hf⟩
  · obtain ⟨bs, h⟩ := t.runOn_bundles stamp
    rw [h]
    exact ⟨rfl, rfl, rfl⟩
  · rw [execTeamSaveComplete_written ht hc, if_pos hl]
  · rw [execTeamSaveComplete_written ht hc, if_neg (ne_true_of_eq_false hl), if_neg (ne_true_of_eq_false ho)]
  · subst hp
    exact execPreemptStopTimeout_stops ht hc ha
  · rw [execTeamSaveComplete_saving ht hc, if_pos (Option.isSome_iff_ne_none.2 hh)]
  · have hgo : ((points && !t.stopped) || s.saveBusy t) = false := by
      rw [hb, Bool.or_false]
      cases points with
      | false => rfl
      | true => rw [hs rfl]; rfl
    rw [execTeamSaveComplete_saving ht hc, hh, hgo]
    rfl
  · exact (State.requestSave_team? hc id).trans (congrArg _ hx)
  · intro s b x c rest k data hn hq hx hc hg a hi hw hbx hl hcl hbq
    obtain ⟨h1, h2, h3⟩ := State.startHandler_starts (h := b.handlerTeam x k data b.stamp) hbx rfl rfl hl hcl
    refine ⟨_, _, execTrapHandlerEntry_enters hn hq hx hc hg hi hw, h3, ?_⟩
    rw [h1, h2, hbq]
    split <;> exact ⟨rfl, rfl, rfl, rfl, rfl, rfl, rfl, rfl⟩
  · obtain ⟨u, hu, hwr, hm, hx⟩ := execPagingQueueWrite_writes ht hc hr hg
    exact ⟨u, _, _, hu, hwr, hm, hx, rfl, State.newTicket_free hn⟩
  · rw [State.resumeTicket_team? s v hx]
    exact ⟨fun why b h => congrArg some (Team.wake_holder h), fun h => congrArg some (Team.wake_other h)⟩

end Sys2Proof.Machine

namespace Sys2Proof.Machine

/-! ## Conversions without a slot (R118) -/

theorem i2f_nat (x : Word) : i2f x.toNat = rne32 (.fin false (nat x) 0) := by
  have h : ¬ (x.toNat : Int) < 0 := by omega
  rw [i2f, decide_eq_false h]
  rfl

/-- Settles O9: each conversion is a lane operation of one operand. -/
theorem plainConversions : Obligations.PlainConversions := by
  unfold Obligations.PlainConversions
  intro s t g a d h one
  have key (i : Instr) (f' : Word → Word) {f : Word → Word} (hi : exec i s = op2 g 4 a.toNat d.toNat (fun x _ => f' x) s)
      (hf : ∀ x, f' x = f x) : one i f := gives_of_op2 h hi hf
  exact ⟨key (.cvtI2fS32 g a d) (fun x => i2f x.toInt) rfl fun _ => rfl,
    key (.cvtI2fN32 g a d) (fun x => i2f x.toNat) rfl i2f_nat,
    key (.cvtF2iS32 g a d) f2iS32 rfl fun _ => rfl,
    key (.cvtF2iN32 g a d) f2iN32 rfl fun _ => rfl,
    key (.cvtF2hF16 g a d) (f2h fp16) rfl fun _ => rfl,
    key (.cvtF2hBf16 g a d) (f2h bf16) rfl fun _ => rfl,
    key (.cvtH2fF16 g a d) (h2f fp16) rfl fun _ => rfl,
    key (.cvtH2fBf16 g a d) (h2f bf16) rfl fun _ => rfl⟩

end Sys2Proof.Machine

namespace Sys2Proof.Machine

/-! ## Consecutive registers (R120) -/

@[simp] theorem Fibre.setRegs_length (f : Fibre) (n : Nat) (ws : List Word) : (f.setRegs n ws).regs.length = f.regs.length := by
  induction ws generalizing f n with
  | nil => rfl
  | cons w ws ih => rw [Fibre.setRegs, ih, Fibre.setReg_regs, List.length_set]

/-- Consecutive writes touch nothing but registers. -/
theorem Fibre.setRegs_eq (f : Fibre) (n : Nat) (ws : List Word) : f.setRegs n ws = { f with regs := (f.setRegs n ws).regs } := by
  induction ws generalizing f n with
  | nil => rfl
  | cons w ws ih => exact ih (f.setReg n w) (n + 1)

/-- A register outside the run reads as before. -/
theorem Fibre.setRegs_other {f : Fibre} {n m : Nat} {ws : List Word} (h : m < n ∨ n + ws.length ≤ m) :
    (f.setRegs n ws).reg m = f.reg m := by
  induction ws generalizing f n with
  | nil => rfl
  | cons w ws ih =>
    rw [List.length_cons] at h
    rw [Fibre.setRegs, ih (by omega), Fibre.setReg_other (by omega)]

/-- A register of the run reads its word. -/
theorem Fibre.setRegs_same {f : Fibre} {n k : Nat} {ws : List Word} (hk : k < ws.length) (hw : n + k < f.regs.length) :
    (f.setRegs n ws).reg (n + k) = ws[k] := by
  induction ws generalizing f n k with
  | nil => exact absurd hk (Nat.not_lt_zero k)
  | cons w ws ih =>
    cases k with
    | zero => exact (Fibre.setRegs_other (.inl (Nat.lt_succ_self n))).trans (Fibre.setReg_same hw)
    | succ k =>
      have hw' : n + 1 + k < (f.setReg n w).regs.length := by rw [Fibre.setReg_regs, List.length_set]; omega
      have hn : n + (k + 1) = n + 1 + k := by omega
      rw [Fibre.setRegs, hn, ih (Nat.lt_of_succ_lt_succ hk) hw']
      rfl

theorem Fibre.setRegs_keeps (x : Fibre) (n : Nat) (ws : List Word) :
    x.keeps (x.setRegs n ws) ((List.range ws.length).map fun e => n + e) [] := by
  have hx := x.setRegs_eq n ws
  refine ⟨hx.trans ?_, x.setRegs_length n ws, fun m hm => Fibre.setRegs_other ?_, fun p _ => ?_⟩
  · rw [hx]
  · by_contra hc
    exact hm (List.mem_map.2 ⟨m - n, List.mem_range.2 (by omega), by omega⟩)
  · rw [hx]
    rfl

/-- `k` consecutive registers written in each fibre. -/
theorem State.setRegs_lands {s : State} {t : Team} (ht : s.curTeam = some t) {act : List Nat} (ha : ∀ i ∈ act, i ∈ s.cur.fibs) (len d k : Nat)
    {v : Nat → Fibre → Nat → Word} (hw : ∀ i ∈ act, ∀ e < k, d + e < (t.fibre i).regs.length) :
    Lands s (s.writeFibres act len fun i x => x.setRegs d ((List.range k).map (v i x))) t act len
      (fun i x => (List.range k).map fun e => (d + e, v i x e)) fun _ _ => [] := by
  refine State.writeFibres_lands ht ha len (fun i _ => ?_) (fun i _ => ?_) (fun i hi p hp => ?_) fun _ _ => nofun
  · have h := (t.fibre i).setRegs_keeps d ((List.range k).map (v i (t.fibre i)))
    rw [List.length_map, List.length_range] at h
    rw [List.map_map]
    exact h
  · rw [Fibre.setRegs_eq]
  · obtain ⟨e, he, rfl⟩ := List.mem_map.1 hp
    have he := List.mem_range.1 he
    rw [Fibre.setRegs_same (by simpa using he) (hw i hi e he)]
    simp

end Sys2Proof.Machine

namespace Sys2Proof.Machine

/-! ## Conversions through a format slot (R112, R115 to R120, R122) -/

/-- Two changes of a core that agree on it as it stands are one change. -/
theorem State.modCore_congr {s : State} {c : Nat} {f f' : Core → Core} (h : f (s.core c) = f' (s.core c)) :
    s.modCore c f = s.modCore c f' := by
  have hl : s.cores.modify c f = s.cores.modify c f' := by
    refine List.ext_getElem? fun d => ?_
    rw [List.getElem?_modify, List.getElem?_modify]
    by_cases hc : c = d
    · subst hc
      rw [State.core, List.getD_eq_getElem?_getD] at h
      cases hk : s.cores[c]? with
      | none => rfl
      | some k =>
        rw [hk] at h
        exact congrArg some (by simpa using h)
    · simp [hc]
  rw [State.modCore, hl]
  rfl

/-- The instruction completes with those registers written, and where the slot is stochastic and some fibre executes, the core's generator has
made `k` steps (R116, R117). -/
def Draws (i : Instr) (s : State) (t : Team) (g : Guard) (sl : SlotVal) (k : Nat) (ws : Nat → Fibre → List (Nat × Word)) : Prop :=
  ∃ u, Lands s u t (s.active t g) 4 ws (fun _ _ => []) ∧
    ((sl.rnd = .stochastic ∧ s.active t g ≠ []) →
      exec i s = .next (u.modCore t.core fun c => { c with gen := lfsrSteps k (s.core t.core).gen })) ∧
    (¬ (sl.rnd = .stochastic ∧ s.active t g ≠ []) → exec i s = .next u)

section
variable {s : State} {t : Team} {g : Guard} {n : Slot} {sl : SlotVal} {uses : Fibre → List Nat} {ok : SlotVal → Bool}
  {draws : SlotVal → Nat} {f : SlotVal → Word → Nat → Fibre → Fibre}

/-- The effect of an instruction through a valid slot of a format that it can use. -/
theorem slotOp_runs (h : CanIssue s t g uses) (hs : s.slot t n = some sl) (hok : ok sl = true) :
    slotOp g n uses ok draws f s = .next
      (let u := s.writeFibres (s.active t g) 4 (f sl (s.core t.core).gen)
      if (s.active t g).isEmpty || sl.rnd != .stochastic then u
      else u.modCore t.core fun c => { c with gen := lfsrSteps (draws sl) c.gen }) := by
  have hc : checkSlot s t n ok = checkAll none := by
    rw [checkSlot, hs]
    exact congrArg checkAll (if_pos hok)
  unfold slotOp
  rw [h.runs (.cons (fun _ _ => by rw [hc]; rfl) .nil), hs]

/-- An instruction through a slot draws, where what it writes lands. -/
theorem draws_of_slotOp {i : Instr} {k : Nat} {ws : Nat → Fibre → List (Nat × Word)} (h : CanIssue s t g uses) (hs : s.slot t n = some sl)
    (hok : ok sl = true) (hk : draws sl = k) (hi : exec i s = slotOp g n uses ok draws f s)
    (hl : Lands s (s.writeFibres (s.active t g) 4 (f sl (s.core t.core).gen)) t (s.active t g) 4 ws fun _ _ => []) :
    Draws i s t g sl k ws := by
  subst hk
  rw [slotOp_runs h hs hok] at hi
  refine ⟨_, hl, fun ⟨hr, ha⟩ => hi.trans (congrArg _ ((if_neg ?_).trans (State.modCore_congr rfl))),
    fun hn => hi.trans (congrArg _ (if_pos ?_))⟩
  · simp [hr, ha]
  · rw [Bool.or_eq_true, List.isEmpty_iff, bne_iff_ne]
    by_cases ha : s.active t g = []
    · exact .inl ha
    · exact .inr fun hr => hn ⟨hr, ha⟩

/-- An instruction through a slot that writes one register, which it names. -/
theorem draws_of_setReg {i : Instr} {k d : Nat} {v : SlotVal → Word → Nat → Fibre → Word} (h : CanIssue s t g uses)
    (hs : s.slot t n = some sl) (hok : ok sl = true) (hd : ∀ x, d ∈ uses x) (hk : draws sl = k)
    (hi : exec i s = slotOp g n uses ok draws (fun sl gen j x => x.setReg d (v sl gen j x)) s) :
    Draws i s t g sl k fun j x => [(d, v sl (s.core t.core).gen j x)] :=
  draws_of_slotOp h hs hok hk hi (State.setReg_lands h.team (fun _ => State.active_sub) 4 d fun j hj => h.window j hj d (hd _))

end

/-- Byte `e` of a register, as a register. -/
theorem byte_eq (x : Word) (e : Nat) : (x.extractLsb' (8 * e) 8).setWidth 32 = BitVec.ofNat 32 (nat x / 2 ^ (8 * e) % 2 ^ 8) := by
  apply BitVec.eq_of_toNat_eq
  rw [BitVec.toNat_setWidth, BitVec.extractLsb'_toNat, BitVec.toNat_ofNat, Nat.shiftRight_eq_div_pow]

/-- Four bytes packLow into a register, the first low. -/
theorem pack_toNat (p q r u : BitVec 8) : (u ++ r ++ q ++ p).toNat = p.toNat + 2 ^ 8 * (q.toNat + 2 ^ 8 * (r.toNat + 2 ^ 8 * u.toNat)) := by
  simp only [BitVec.toNat_append, ← Nat.shiftLeft_add_eq_or_of_lt (BitVec.isLt _)]
  simp only [Nat.shiftLeft_eq]
  omega

/-- The low bytes of four registers in one, the first low (R120). -/
def packLow (w : Nat → Word) : Word := (w 3).setWidth 8 ++ (w 2).setWidth 8 ++ (w 1).setWidth 8 ++ (w 0).setWidth 8

theorem packLow_byte (w : Nat → Word) {e : Nat} (he : e < 4) : nat (packLow w) / 2 ^ (8 * e) % 2 ^ 8 = nat (w e) % 2 ^ 8 := by
  have h : nat (packLow w) = _ := pack_toNat ((w 0).setWidth 8) ((w 1).setWidth 8) ((w 2).setWidth 8) ((w 3).setWidth 8)
  simp only [BitVec.toNat_setWidth] at h
  rw [h]
  interval_cases e <;> simp only [nat] <;> omega

theorem execPk4_eq (g : Guard) (n : Slot) (a d : Reg) (s : State) :
    exec (.pk4 g n a d) s = slotOp g n (fun _ => [a.toNat, a.toNat + 1, a.toNat + 2, a.toNat + 3, d.toNat]) eightBit (fun _ => 1)
      (fun sl gen i x => x.setReg d.toNat (packLow fun k => narrow sl (drawValue gen (laneOf i) k) (x.reg (a.toNat + k)))) s := rfl

theorem execUpk4_eq (g : Guard) (n : Slot) (a d : Reg) (s : State) :
    exec (.upk4 g n a d) s = slotOp g n (fun _ => [a.toNat, d.toNat, d.toNat + 1, d.toNat + 2, d.toNat + 3]) eightBit (fun _ => 0)
      (fun sl gen i x => x.setRegs d.toNat ((List.range 4).map fun e =>
        widen sl (drawValue gen (laneOf i) e) (BitVec.ofNat 32 (nat (x.reg a.toNat) / 2 ^ (8 * e) % 2 ^ 8)))) s := by
  simp only [← byte_eq]
  rfl

/-- Settles O12: each conversion writes what its slot makes of the operand and of the generator as the instruction finds it. -/
theorem slotConversions : Obligations.SlotConversions := by
  unfold Obligations.SlotConversions
  intro s t g n sl a d hs gen draws
  refine ⟨fun h => ⟨?nar, ?wid⟩, fun hw h => ?pack, fun hw h => ?unpack, fun h => ?gen⟩
  case nar =>
    exact draws_of_setReg (v := fun sl gen k x => narrow sl (drawValue gen (laneOf k) 0) (x.reg a.toNat)) h hs rfl (fun _ => by simp) rfl rfl
  case wid =>
    exact draws_of_setReg (v := fun sl gen k x => widen sl (drawValue gen (laneOf k) 0) (x.reg a.toNat))
      (draws := fun sl => if sl.elem == .int32 then 1 else 0) h hs rfl (fun _ => by simp) (by simp only [beq_iff_eq]) rfl
  case pack =>
    have hok : eightBit sl = true := beq_iff_eq.2 hw
    exact ⟨_, draws_of_setReg (v := fun sl gen k x => packLow fun e => narrow sl (drawValue gen (laneOf k) e) (x.reg (a.toNat + e)))
      (draws := fun _ => 1) h hs hok (fun _ => by simp) rfl (execPk4_eq g n a d s), fun k x e he => packLow_byte _ he⟩
  case unpack =>
    have hok : eightBit sl = true := beq_iff_eq.2 hw
    refine draws_of_slotOp (draws := fun _ => 0) h hs hok rfl (execUpk4_eq g n a d s)
      (State.setRegs_lands h.team (fun _ => State.active_sub) 4 d.toNat 4 fun i hi e he => h.window i hi _ ?_)
    interval_cases e <;> simp
  case gen =>
    exact gives_of_issue (v := fun s t k _ => (s.core t.core).gen.rotateRight (3 * laneOf k % 32)) h (fun _ => by simp) rfl

end Sys2Proof.Machine

namespace Sys2Proof.Machine

/-! ## Row operations and near-bank steps (R323, R331, R335, R338) -/

section
variable {s : State}

/-- A row operation whose channels are open is made where its blocks are ready, and else collects what they lack. -/
theorem execRowOperation_open {c id : Nat} {r : RowCmd} {x : RowStep} (hn : s.rowNext c id = some (r, x)) (ho : s.stepShut x = false) :
    exec (.rowOperation c id) s = .next
      (if s.engineReady (engineOf x.d) (s.stepSources x) (s.rowBlocks x.d) then s.rowStep r x
      else s.engineAsk (engineOf x.d) (((s.team? r.team).map (·.asid)).getD 0) (s.stepSources x) (s.rowBlocks x.d)) := by
  show execRowOperation c id s = _
  unfold execRowOperation
  simp only [hn, ho, Bool.false_eq_true, if_false]
  split <;> rfl

theorem execRowSlotAcquire_takes {c : Nat} {r : RowCmd} (hw : s.rowWaiting c = some r) (hf : s.slotsHeld c < 64) :
    exec (.rowSlotAcquire c) s = .next { s with
      rows := s.rows.map fun (q : RowCmd) => if q.id == r.id then { q with slot := some c } else q } := by
  show execRowSlotAcquire c s = _
  unfold execRowSlotAcquire
  simp only [hw]
  exact if_pos hf

variable {st ch : Nat} {n : NearBank}

/-- An entry that reads and writes no row is executed at once. -/
theorem execNearBankStep_computes (hr : s.nbRunning st ch = some n)
    (ho : entOp (n.table.getD n.upc 0) < 2 ∨ 4 < entOp (n.table.getD n.upc 0)) :
    exec (.nearBankStep st ch) s = .next (s.nbNext (n.compute (n.table.getD n.upc 0) 0) (n.table.getD n.upc 0)) := by
  show execNearBankStep st ch s = _
  unfold execNearBankStep
  simp only [hr]
  exact if_neg (by omega)

/-- An entry with a row is executed once the blocks of the row are ready. -/
theorem execNearBankStep_row {e : BitVec 64} {row : Nat × Nat} (hr : s.nbRunning st ch = some n) (he : n.table.getD n.upc 0 = e)
    (h2 : 2 ≤ entOp e) (h4 : entOp e ≤ 4) (hrow : n.row (entStrm e) = some row)
    (hb : s.engineReady (engineOf row.1) (if entOp e = 4 then [] else s.rowBlocks row.1) (if entOp e = 4 then s.rowBlocks row.1 else []) = true) :
    exec (.nearBankStep st ch) s = .next (s.nbRow n e row) := by
  subst he
  show execNearBankStep st ch s = _
  unfold execNearBankStep
  simp only [hr, hrow, hb, if_true]
  exact if_pos ⟨h2, h4⟩

theorem execArbitrationWindow_opens (hu : s.unit? st ch = some n) (hr : n.cond = .running) (hm : s.sys.mtime.toNat % 32 = 0)
    (hw : n.window = 0) : exec (.arbitrationWindow st ch) s = .next (s.putUnit { n with window := 4 }) := by
  show execArbitrationWindow st ch s = _
  unfold execArbitrationWindow
  simp only [hu]
  exact if_pos ⟨hr, hm, hw⟩

end

/-! ## The device registers (R343, R354) -/

@[simp] theorem natBytes_length (k w : Nat) : (natBytes k w).length = k := by
  induction k generalizing w with
  | zero => rfl
  | succ k ih => rw [natBytes, List.length_cons, ih]

/-- The bytes of a number make up the number again, as far as they reach. -/
theorem bytesNat_natBytes (k w : Nat) : bytesNat (natBytes k w) = w % 256 ^ k := by
  induction k generalizing w with
  | zero => exact (Nat.mod_one w).symm
  | succ k ih =>
    have hb : (BitVec.ofNat 8 w).toNat = w % 256 := BitVec.toNat_ofNat ..
    rw [natBytes, bytesNat, ih, hb, pow_succ', Nat.mod_mul]

/-- A write of all bytes of a structure leaves nothing of its old value. -/
theorem patch_whole (n d v : Nat) : patch n d 0 (natBytes n v) = v % 256 ^ n := by
  have hd : (natBytes n d).drop n = [] := List.drop_eq_nil_of_le (natBytes_length n d).le
  simp [patch, hd, bytesNat_natBytes]

section
variable {s : State}

theorem State.regRuns_nil (fuel off : Nat) : State.regRuns fuel s off [] = s := by
  cases fuel <;> rfl

/-- A write that fills one structure is one write of it. -/
theorem State.regWrite_whole {off m w : Nat} (hs : s.regStruct off = some (off, m + 1, w)) (v : Nat) :
    s.regWrite off (natBytes (m + 1) v) = s.regPut off 0 (m + 1) (v % 256 ^ (m + 1)) := by
  have hl := natBytes_length (m + 1) v
  have hk : min (m + 1) (off + (m + 1) - off) = m + 1 := by omega
  rw [State.regWrite, hl, State.regRuns, hs]
  simp only [hl, hk, List.take_of_length_le hl.le, List.drop_eq_nil_of_le hl.le, State.regRuns_nil, Nat.sub_self, patch_whole]
  exact if_neg (by simp [natBytes])

theorem execRegisterWrite_eq (off n v : Nat) : exec (.registerWrite off n v) s = .next (s.regWrite off (natBytes n v)) := rfl

/-- The context-table base register (R343) takes bits 51:16. -/
theorem State.regWrite_astBase (v : Nat) :
    s.regWrite 0x40 (natBytes 8 v) = { s with sys := { s.sys with astBase := v / 2 ^ 16 % 2 ^ 36 * 2 ^ 16 } } := by
  have hs : s.regStruct 0x40 = some (0x40, 8, s.sys.astBase) := rfl
  have hv : bitsOf (v % 256 ^ 8) 51 16 = v / 2 ^ 16 % 2 ^ 36 := by
    unfold bitsOf
    omega
  rw [State.regWrite_whole hs, ← hv]
  rfl

theorem State.clearUmiss_zero {c : Nat} (h : s.coreExists c = true) : s.clearUmiss c 0 = s.modCore c fun k => { k with umiss := 0 } :=
  if_pos ⟨rfl, h⟩

theorem State.setSeed_exists {c : Nat} (h : s.coreExists c = true) (v : Word) :
    s.setSeed c v = s.modCore c fun k => { k with seed := if v = 0 then 1 else v } :=
  if_pos h

theorem State.coreExists_of_present {c : Nat} (hc : c < s.cores.length) (hp : (s.core c).present = true) : s.coreExists c = true := by
  simp [State.coreExists, hc, hp]

theorem State.setAccept_open (hl : s.sys.locked = false) (v : BitVec 256) :
    s.setAccept v =
      let b : State := { s with sys := { s.sys with accept := v &&& s.sys.offer } }
      if b.featureOn 0 then b else { b with fab := { b.fab with portEn := 0 } } := by
  unfold State.setAccept
  exact if_neg (by simp [hl])

theorem State.setAccept_locked (hl : s.sys.locked = true) (v : BitVec 256) : s.setAccept v = s := if_pos hl

/-- Training that was requested on a link that is not retired ends on both sides of it (R300). -/
theorem execLinkRetrainDone_trains {d e : Nat} (hne : d ≠ e) (hr : (s.die d).retrain.getLsbD e = true)
    (hn : (s.die d).retired.getLsbD e = false) (ok : Bool) :
    exec (.linkRetrainDone d e ok) s = .next ((s.modDie d (Die.trained e ok)).modDie e (Die.trained d ok)) :=
  if_neg (by simp [hr, hn, hne.symm])

end

/-! ## Start-up (R344) -/

/-- A stage that fails has a number of 8 bits other than 0. -/
theorem stage_ne_zero {n : Nat} (h1 : 1 ≤ n) (h5 : n ≤ 5) : BitVec.ofNat 8 n ≠ 0 := fun h => by
  have h := congrArg BitVec.toNat h
  rw [BitVec.toNat_ofNat] at h
  simp at h
  omega

/-! ## Health (R348, R350) -/

section
variable {s : State}

/-- A corrected error that is not the third of its location within 24 hours, or is one of a location already retired, is noted; another retires
the location. -/
theorem execCorrectedError_eq (loc : Location) :
    let ms := s.millis :: (errorsOf s.health.corrected loc).filter fun m => s.millis < m + 86400000
    let b : State := { s with health := { s.health with corrected := (s.health.corrected.filter fun p => p.1 != loc) ++ [(loc, ms)] } }
    exec (.correctedError loc) s =
      if ms.length < 3 ∨ loc ∈ s.health.lasting then .next b else .next ((b.logRetirement loc ms.length).retireLocation loc) := by
  intro ms b
  refine if_congr (or_congr_right ?_) rfl rfl
  exact List.contains_iff_mem

/-- A signature starts a new lower tree: there is none, the flash cannot be read, or the one in use is used up (R348). -/
def State.needsTree (s : State) (use : SignUse) (ok : Bool) : Bool :=
  burned (s.health.lmsTop.getD (useIndex use) 0) == 0 || !ok || s.health.lmsLeaf.getD (useIndex use) 0 == 1024

variable {use : SignUse} {ok : Bool}

theorem State.needsTree_iff : s.needsTree use ok = true ↔
    burned (s.health.lmsTop.getD (useIndex use) 0) = 0 ∨ ok = false ∨ s.health.lmsLeaf.getD (useIndex use) 0 = 1024 := by
  simp [State.needsTree, or_assoc]

/-- A signature of the tree in use takes its next leaf. -/
theorem execSignRequest_leaf (hf : s.needsTree use ok = false) :
    ∃ u, exec (.signRequest use ok) s = .next u ∧
      u.health.lmsTop = s.health.lmsTop.set (useIndex use) (s.health.lmsTop.getD (useIndex use) 0) ∧
      u.health.lmsLeaf = s.health.lmsLeaf.set (useIndex use) (s.health.lmsLeaf.getD (useIndex use) 0 + 1) := by
  show ∃ u, execSignRequest use ok s = .next u ∧ _
  unfold execSignRequest
  unfold State.needsTree at hf
  simp only [hf, Bool.false_eq_true, false_and, if_false]
  exact ⟨_, rfl, rfl, rfl⟩

/-- A new tree burns the next bit of the top level, and the signature takes its first leaf. -/
theorem execSignRequest_tree (hf : s.needsTree use ok = true) (hn : burned (s.health.lmsTop.getD (useIndex use) 0) ≠ 1024) :
    ∃ u, exec (.signRequest use ok) s = .next u ∧
      u.health.lmsTop = s.health.lmsTop.set (useIndex use) (s.health.lmsTop.getD (useIndex use) 0 |||
        (1#1024 <<< burned (s.health.lmsTop.getD (useIndex use) 0))) ∧
      u.health.lmsLeaf = s.health.lmsLeaf.set (useIndex use) 1 := by
  show ∃ u, execSignRequest use ok s = .next u ∧ _
  unfold execSignRequest
  unfold State.needsTree at hf
  simp only [hf, hn, and_false, if_true, if_false]
  exact ⟨_, rfl, rfl, rfl⟩

/-- With every bit of the top level burned there is no signature. -/
theorem execSignRequest_refused (hf : s.needsTree use ok = true) (hn : burned (s.health.lmsTop.getD (useIndex use) 0) = 1024) :
    exec (.signRequest use ok) s = .next { s with health := { s.health with released := (use, none) :: s.health.released } } := by
  show execSignRequest use ok s = _
  unfold execSignRequest
  exact if_pos ⟨hf, hn⟩

end

/-- Settles O53: clause by clause; each event has the effect of its one branch that is enabled. -/
theorem deviceEvents : Obligations.DeviceEvents := by
  unfold Obligations.DeviceEvents
  intro s
  refine ⟨fun c id r x hn => ?row, fun c r hw hf => execRowSlotAcquire_takes hw hf, fun st ch n hr => ?bank,
    fun st ch n hu hr hm hw => execArbitrationWindow_opens hu hr hm hw, fun part => ?reset, fun _ => rfl, fun _ => rfl, fun v => ?accept,
    fun _ _ => rfl, fun d e hne hr hn => ?train, fun c hc hp => ?core, fun _ => ⟨rfl, rfl, rfl⟩, execRegisterWrite_eq,
    fun v => ?base, fun loc => ?error, fun _ _ => rfl, fun _ => ⟨rfl, rfl, rfl⟩, fun use ok => ?sign⟩
  case row =>
    intro src dst ho
    have h := execRowOperation_open hn ho
    refine ⟨fun hr => h.trans (congrArg _ (if_pos hr)), fun t ht hr => h.trans (congrArg _ ?_)⟩
    rw [if_neg (ne_true_of_eq_false hr), ht]
    rfl
  case bank =>
    exact ⟨execNearBankStep_computes hr, fun row h2 h4 hrow hb => execNearBankStep_row hr rfl h2 h4 hrow hb⟩
  case reset =>
    show ∃ u, execReset part s = .next u ∧ _
    unfold execReset
    dsimp only
    split
    · next hf =>
      exact ⟨_, rfl, rfl, rfl, rfl, rfl, rfl, rfl, rfl, rfl, rfl, rfl, rfl, rfl, rfl, rfl, rfl,
        fun h => absurd h (stage_ne_zero hf.1 hf.2), fun _ => ⟨rfl, rfl⟩⟩
    · exact ⟨_, rfl, rfl, rfl, rfl, rfl, rfl, rfl, rfl, rfl, rfl, rfl, rfl, rfl, rfl, rfl, rfl, fun _ => ⟨rfl, rfl⟩, fun h => absurd rfl h⟩
  case accept =>
    exact ⟨fun hl => congrArg _ (State.setAccept_open hl v), fun hl => congrArg _ (State.setAccept_locked hl v)⟩
  case train =>
    exact ⟨execLinkRetrainDone_trains hne hr hn true, execLinkRetrainDone_trains hne hr hn false⟩
  case core =>
    have he := State.coreExists_of_present hc hp
    exact ⟨congrArg _ (State.clearUmiss_zero he), fun v => congrArg _ (State.setSeed_exists he v)⟩
  case base =>
    exact (execRegisterWrite_eq 0x40 8 v).trans (congrArg _ (State.regWrite_astBase v))
  case error =>
    have h := execCorrectedError_eq (s := s) loc
    refine ⟨fun hk => h.trans (if_pos hk), fun h3 hl => h.trans (if_neg ?_)⟩
    rintro (hk | hk)
    · exact absurd hk (Nat.not_lt.2 h3)
    · exact hl hk
  case sign =>
    refine ⟨fun hn hok hl => execSignRequest_leaf ?_, fun hf hn => execSignRequest_tree (State.needsTree_iff.2 hf) hn,
      fun hf hn => execSignRequest_refused (State.needsTree_iff.2 hf) hn⟩
    rw [← Bool.not_eq_true, State.needsTree_iff]
    rintro (h | h | h)
    · exact hn h
    · exact absurd (hok.symm.trans h) (by decide)
    · exact hl h

end Sys2Proof.Machine

namespace Sys2Proof.Machine

/-! ## Local memory: addresses, checks and bytes (R126, R129) -/

/-- A byte address is the register and the signed immediate, modulo 2^19 (R129). -/
theorem localAddr_eq (x : Fibre) (a : Nat) (imm : BitVec 9) :
    localAddr x a imm = (((nat (x.reg a) : Int) + imm.toInt) % 2 ^ 19).toNat := by
  have hs : imm.signExtend 32 = BitVec.ofInt 32 imm.toInt := rfl
  rw [localAddr, hs, BitVec.toNat_add, BitVec.toNat_ofInt]
  simp only [nat]
  omega

/-- Little-endian: the word at an address (R7). -/
theorem Mem.word_eq {m : Mem} (h : m.wf = true) (a : Nat) :
    m.word a = m.get (a + 3) ++ m.get (a + 2) ++ m.get (a + 1) ++ m.get (a + 0) := by
  apply BitVec.eq_of_toNat_eq
  rw [pack_toNat, Mem.word, Mem.read_eq h]
  have h0 := (m.get (a + 0)).isLt
  have h1 := (m.get (a + 1)).isLt
  have h2 := (m.get (a + 2)).isLt
  have h3 := (m.get (a + 3)).isLt
  simp only [List.range_succ, List.range_zero, List.nil_append, List.cons_append, List.map_cons, List.map_nil, bytesNat, BitVec.toNat_ofNat]
  omega

@[simp] theorem wordBytes_length (w : Word) : (wordBytes w).length = 4 := natBytes_length 4 w.toNat

/-- Byte `k` of a number's bytes. -/
theorem natBytes_getD {n k : Nat} (hk : k < n) (w : Nat) : (natBytes n w).getD k 0 = BitVec.ofNat 8 (w / 256 ^ k) := by
  induction n generalizing k w with
  | zero => omega
  | succ n ih =>
    cases k with
    | zero => simp [natBytes]
    | succ k => rw [natBytes, List.getD_cons_succ, ih (by omega), Nat.div_div_eq_div_mul, pow_succ']

theorem wordBytes_getD {k : Nat} (hk : k < 4) (w : Word) : (wordBytes w).getD k 0 = w.extractLsb' (8 * k) 8 := by
  apply BitVec.eq_of_toNat_eq
  rw [wordBytes, natBytes_getD hk, BitVec.extractLsb'_toNat, BitVec.toNat_ofNat, Nat.shiftRight_eq_div_pow, show 256 = 2 ^ 8 from rfl, ← pow_mul]

section
variable {s : State} {t : Team} {g : Guard}

theorem Team.localError_none {a : Nat} (hb : t.lbase ≠ none) (h4 : a % 4 = 0) (hs : a + 4 ≤ t.lsize) : t.localError a = none := by
  rw [Team.localError, if_neg (not_not_intro h4), if_neg]
  rintro (h | h)
  · exact hb (Option.isNone_iff_eq_none.1 h)
  · omega

/-- Aligned accesses inside the allotment pass their checks. -/
theorem NoCause.localChecks {addr : Fibre → Nat} (hb : t.lbase ≠ none)
    (h : ∀ i ∈ s.active t g, addr (t.fibre i) % 4 = 0 ∧ addr (t.fibre i) + 4 ≤ t.lsize) : NoCause s t g (t.localChecks addr) := by
  intro i hi c hc
  obtain ⟨code, _, rfl⟩ := List.mem_map.1 hc
  simp only [Team.localError_none hb (h i hi).1 (h i hi).2, Option.filter_none]

/-- Where nothing blocks any lane, the instruction does not stall. -/
theorem not_any_of_forall {p : Nat → Bool} {act : List Nat} (h : ∀ i ∈ act, p i = false) : ¬ act.any p = true := by
  simpa using h

end

section
variable {s : State} {t : Team} {g : Guard} {imm : BitVec 9} {a d : Reg}

/-- One register written in each fibre, with a value that is given in terms of the fibre as it stands. -/
theorem State.setReg_lands_of (ht : s.curTeam = some t) {act : List Nat} (ha : ∀ i ∈ act, i ∈ s.cur.fibs) {len n : Nat}
    {v v' : Nat → Fibre → Word} (hw : ∀ i ∈ act, n < (t.fibre i).regs.length) (hv : ∀ i ∈ act, v i (t.fibre i) = v' i (t.fibre i)) :
    Lands s (s.writeFibres act len fun i x => x.setReg n (v i x)) t act len (fun i x => [(n, v' i x)]) fun _ _ => [] := by
  refine State.writeFibres_lands ht ha len (fun i _ => Fibre.setReg_keeps _ _ _) (fun _ _ => rfl) (fun i hi p hp => ?_) fun _ _ _ => nofun
  obtain rfl := List.mem_singleton.1 hp
  exact (Fibre.setReg_same (hw i hi)).trans (hv i hi)

/-- A local load whose lanes are aligned, inside the allotment and not blocked. -/
theorem execLld_loads (h : CanIssue s t g fun _ => [a.toNat, d.toNat]) (hb : t.lbase ≠ none)
    (hok : ∀ i ∈ s.active t g, localAddr (t.fibre i) a.toNat imm % 4 = 0 ∧ localAddr (t.fibre i) a.toNat imm + 4 ≤ t.lsize ∧
      s.readBlocked t (localAddr (t.fibre i) a.toNat imm) 4 = false) :
    execLld g imm a d s = .next (s.writeFibres (s.active t g) 4 fun i x =>
      x.setReg d.toNat (s.localWord t (localAddr (t.fibre i) a.toNat imm))) := by
  unfold execLld
  rw [h.runs (.localChecks hb fun i hi => ⟨(hok i hi).1, (hok i hi).2.1⟩)]
  exact congrArg _ (if_neg (not_any_of_forall fun i hi => (hok i hi).2.2))

/-- A local store whose lanes are aligned, inside the allotment and not blocked. -/
theorem execLst_stores (h : CanIssue s t g fun _ => [a.toNat, d.toNat]) (hb : t.lbase ≠ none)
    (hok : ∀ i ∈ s.active t g, localAddr (t.fibre i) a.toNat imm % 4 = 0 ∧ localAddr (t.fibre i) a.toNat imm + 4 ≤ t.lsize ∧
      s.writeBlocked t (localAddr (t.fibre i) a.toNat imm) 4 = false) :
    execLst g imm a d s = .next (((s.active t g).foldl (fun s i =>
      s.setLocal t (localAddr (t.fibre i) a.toNat imm) ((t.fibre i).reg d.toNat)) s).advance 4) := by
  unfold execLst
  rw [h.runs (.localChecks hb fun i hi => ⟨(hok i hi).1, (hok i hi).2.1⟩)]
  exact congrArg _ (if_neg (not_any_of_forall fun i hi => (hok i hi).2.2))

end

/-- Settles O25: with its checks passed and no lane blocked, the load writes the word at each lane's address. -/
theorem localLoad : Obligations.LocalLoad := by
  unfold Obligations.LocalLoad
  intro s t g imm a d base h hm hb addr hok
  have haddr (x : Fibre) : addr x = localAddr x a.toNat imm := (localAddr_eq x a.toNat imm).symm
  have hw (i : Nat) : s.localWord t (localAddr (t.fibre i) a.toNat imm) = _ := Mem.word_eq hm _
  simp only [haddr] at hok ⊢
  refine ⟨_, (execLld_loads h (by simp [hb]) hok :), ?_⟩
  refine State.setReg_lands_of h.team (fun _ => State.active_sub) (fun i hi => h.window i hi _ (by simp)) fun i _ => ?_
  rw [hw, hb]
  rfl

/-! ### Stores (R127, R129) -/

/-- The memory in which lanes have stored their words one after the other. -/
def storeLanes (addr : Nat → Nat) (w : Nat → Word) (act : List Nat) (m : Mem) : Mem :=
  act.foldl (fun m i => m.write (addr i) (wordBytes (w i))) m

section
variable {addr : Nat → Nat} {w : Nat → Word} {act : List Nat} {m : Mem}

theorem storeLanes_wf (h : m.wf = true) : (storeLanes addr w act m).wf = true := by
  induction act generalizing m with
  | nil => exact h
  | cons i act ih => exact ih (Mem.wf_write _ _ h)

/-- A byte that no lane writes reads as before. -/
theorem storeLanes_other (h : m.wf = true) {b : Nat} (hb : ∀ i ∈ act, b < addr i ∨ addr i + 4 ≤ b) :
    (storeLanes addr w act m).get b = m.get b := by
  induction act generalizing m with
  | nil => rfl
  | cons i act ih =>
    obtain ⟨hi, ht⟩ := List.forall_mem_cons.1 hb
    refine (ih (Mem.wf_write _ _ h) ht).trans ?_
    rw [Mem.get_write h, if_neg (by simp; omega)]

/-- The last lane that stores to a word leaves it there: the words are aligned alike, so that others do not overlap it. -/
theorem storeLanes_last (h : m.wf = true) {before after : List Nat} {i k r : Nat} (hk : k < 4) (hi : addr i % 4 = r)
    (ha : ∀ j ∈ after, addr j % 4 = r ∧ addr j ≠ addr i) :
    (storeLanes addr w (before ++ i :: after) m).get (addr i + k) = (w i).extractLsb' (8 * k) 8 := by
  have hb : (storeLanes addr w before m).wf = true := storeLanes_wf h
  rw [storeLanes, List.foldl_append, List.foldl_cons]
  refine (storeLanes_other (Mem.wf_write _ _ hb) fun j hj => ?_).trans ?_
  · have := ha j hj
    omega
  · have := Mem.get_write hb (addr i) (wordBytes (w i)) (addr i + k)
    rw [if_pos (by simp [hk]), Nat.add_sub_cancel_left, wordBytes_getD hk] at this
    exact this

end

theorem State.modCore_self {s : State} {c : Nat} {f : Core → Core} (hf : ∀ k, f k = k) : s.modCore c f = s := by
  have h : s.cores.modify c f = s.cores := by
    refine List.ext_getElem? fun d => ?_
    rw [List.getElem?_modify]
    cases s.cores[d]? <;> simp [hf]
  rw [State.modCore, h]

theorem State.modCore_modCore (s : State) (c : Nat) (f f' : Core → Core) :
    (s.modCore c f).modCore c f' = s.modCore c fun k => f' (f k) := by
  simp only [State.modCore, List.modify_modify_eq]
  rfl

/-- Lanes that store one after the other change their core's local memory alone. -/
theorem State.foldl_setLocal (s : State) (t : Team) (addr : Nat → Nat) (w : Nat → Word) (act : List Nat) :
    act.foldl (fun s i => s.setLocal t (addr i) (w i)) s =
      s.modCore t.core fun k => { k with lmem := storeLanes (fun i => t.lbase.getD 0 + addr i) w act k.lmem } := by
  induction act generalizing s with
  | nil => exact (State.modCore_self fun _ => rfl).symm
  | cons i act ih =>
    rw [List.foldl_cons, ih, State.setLocal, State.modCore_modCore]
    rfl

/-- Settles O26: the lanes' words are written one after the other, and nothing else. -/
theorem localStore : Obligations.LocalStore := by
  unfold Obligations.LocalStore
  intro s t g imm a d base h hm hb hc act addr hok
  have haddr (i : Nat) : addr i = localAddr (t.fibre i) a.toNat imm := (localAddr_eq _ a.toNat imm).symm
  refine ⟨storeLanes (fun i => base + addr i) (fun i => (t.fibre i).reg d.toNat) act (s.core t.core).lmem, ?runs, storeLanes_wf hm,
    fun b hb => storeLanes_other hm hb, fun before i after he hl k hk => ?last⟩
  case runs =>
    simp only [haddr] at hok ⊢
    refine (execLst_stores h (by simp [hb]) hok :).trans ?_
    rw [State.foldl_setLocal, hb]
    exact congrArg (fun u => Host.Outcome.next (State.advance u 4)) (State.modCore_congr rfl)
  case last =>
    have h4 (j : Nat) (hj : j ∈ before ++ i :: after) : (base + addr j) % 4 = base % 4 := by
      have := (hok j (he ▸ hj)).1
      omega
    rw [he]
    refine storeLanes_last (addr := fun i => base + addr i) hm hk (h4 i (by simp)) fun j hj => ⟨h4 j (by simp [hj]), ?_⟩
    have := hl j hj
    omega

/-! ### Atomics (R130) -/

/-- The lanes of a local atomic apply it in turn. -/
theorem State.latomAll_swapped (t : Team) (op : AtomOp) (a d : Nat) (act : List Nat) (s : State) :
    Swapped t op (fun i => nat ((t.fibre i).reg a) % 2 ^ 19) (fun i => (t.fibre i).reg d) (fun i => (t.fibre i).reg (d + 1)) act s
      (s.latomAll t op a d act).1 (s.latomAll t op a d act).2 := by
  induction act generalizing s with
  | nil => exact ⟨rfl, rfl⟩
  | cons i act ih => exact ⟨_, rfl, ih _⟩

section
variable {s : State} {t : Team} {g : Guard} {a d : Reg}

/-- A local atomic whose lanes are aligned, inside the allotment and not blocked. -/
theorem latom_swaps {op : AtomOp} (h : CanIssue s t g fun _ => a.toNat :: atomData op d.toNat) (hb : t.lbase ≠ none)
    (hok : ∀ i ∈ s.active t g, nat ((t.fibre i).reg a.toNat) % 2 ^ 19 % 4 = 0 ∧ nat ((t.fibre i).reg a.toNat) % 2 ^ 19 + 4 ≤ t.lsize ∧
      s.writeBlocked t (nat ((t.fibre i).reg a.toNat) % 2 ^ 19) 4 = false) :
    latom g op a d s = .next ((s.latomAll t op a.toNat d.toNat (s.active t g)).1.writeFibres (s.active t g) 4 fun i x =>
      x.setReg d.toNat ((assoc (s.latomAll t op a.toNat d.toNat (s.active t g)).2 i).getD 0)) := by
  have hn : NoCause s t g (t.localChecks fun f => (f.reg a.toNat).toNat % 2 ^ 19) :=
    .localChecks hb fun i hi => ⟨(hok i hi).1, (hok i hi).2.1⟩
  exact (h.runs hn).trans (congrArg _ (if_neg (not_any_of_forall fun i hi => (hok i hi).2.2)))

end

/-- Settles O27: each of the eight applies its lanes in the order of the bundle. -/
theorem localAtomics : Obligations.LocalAtomics := by
  unfold Obligations.LocalAtomics
  intro s t g a d act addr one
  have swaps {e : Instr} {op : AtomOp} (he : exec e s = latom g op a d s) : one e op := fun h hb hok =>
    ⟨_, _, State.latomAll_swapped t op a.toNat d.toNat act s, he.trans (latom_swaps h hb hok)⟩
  exact ⟨swaps rfl, swaps rfl, swaps rfl, swaps rfl, swaps rfl, swaps rfl, swaps rfl, swaps rfl⟩

end Sys2Proof.Machine

namespace Sys2Proof.Machine

/-! ## Fields of a barrier object (R134) -/

section
variable {o : BitVec 128} {lo n v : Nat}

/-- The bits that are replaced are those of the value, and the others stay. -/
theorem putBits_getLsbD (h : lo + n ≤ 128) {i : Nat} :
    (putBits o lo n v).getLsbD i = if lo ≤ i ∧ i < lo + n then v.testBit (i - lo) else o.getLsbD i := by
  have hlow : o.toNat % 2 ^ lo < 2 ^ lo := Nat.mod_lt _ (Nat.two_pow_pos lo)
  have hmid : 2 ^ lo * (v % 2 ^ n) + o.toNat % 2 ^ lo < 2 ^ (lo + n) := by
    have := Nat.mod_lt v (Nat.two_pow_pos n)
    calc 2 ^ lo * (v % 2 ^ n) + o.toNat % 2 ^ lo < 2 ^ lo * (v % 2 ^ n + 1) := by rw [Nat.mul_succ]; omega
      _ ≤ 2 ^ lo * 2 ^ n := Nat.mul_le_mul_left _ this
      _ = 2 ^ (lo + n) := (pow_add 2 lo n).symm
  have hx : o.toNat / 2 ^ (lo + n) * 2 ^ (lo + n) + v % 2 ^ n * 2 ^ lo + o.toNat % 2 ^ lo =
      2 ^ (lo + n) * (o.toNat / 2 ^ (lo + n)) + (2 ^ lo * (v % 2 ^ n) + o.toNat % 2 ^ lo) := by ring
  rw [putBits, BitVec.getLsbD_ofNat, hx, Nat.testBit_two_pow_mul_add _ hmid, Nat.testBit_two_pow_mul_add _ hlow]
  by_cases hi : i < 128
  · by_cases h1 : i < lo
    · simp [hi, h1, Nat.not_le.2 h1, show i < lo + n by omega, BitVec.testBit_toNat]
    · by_cases h2 : i < lo + n
      · simp [hi, h1, h2, Nat.not_lt.1 h1, show i - lo < n by omega]
      · simp [hi, h2, Nat.testBit_div_two_pow, show i - (lo + n) + (lo + n) = i by omega, BitVec.testBit_toNat]
  · simp [hi, show ¬ i < lo + n by omega, BitVec.getLsbD_of_ge o i (by omega)]

theorem putBits_field_same (h : lo + n ≤ 128) : (putBits o lo n v).extractLsb' lo n = BitVec.ofNat n v := by
  apply BitVec.eq_of_getLsbD_eq
  intro i hi
  rw [BitVec.getLsbD_extractLsb', putBits_getLsbD h, BitVec.getLsbD_ofNat, if_pos (by omega), Nat.add_sub_cancel_left]

theorem putBits_field_other (h : lo + n ≤ 128) {a m : Nat} (hd : a + m ≤ lo ∨ lo + n ≤ a) :
    (putBits o lo n v).extractLsb' a m = o.extractLsb' a m := by
  apply BitVec.eq_of_getLsbD_eq
  intro i hi
  have : ¬ (lo ≤ a + i ∧ a + i < lo + n) := by omega
  rw [BitVec.getLsbD_extractLsb', BitVec.getLsbD_extractLsb', putBits_getLsbD h, if_neg this]

end

/-- The object after an arrival of `n` bytes at a scope that leaves its phase incomplete (R136). -/
def countedObject (o : BitVec 128) (n scope : Nat) : BitVec 128 :=
  putBits (putBits o 96 3 (max (objScope o) scope)) 32 32 (objArrived o + n)

/-- A completed phase: the object's phase is flipped, and what its arrivals counted is cleared (R136). -/
def turnedObject (o : BitVec 128) (scope : Nat) : BitVec 128 :=
  putBits (putBits (putBits (putBits o 96 3 (max (objScope o) scope)) 32 32 0) 80 16 0) 64 1 (if objPhase o then 0 else 1)

/-- The object after an arrival of `n` bytes at a scope that completes its phase, with an excess noted (R136). -/
def flippedObject (o : BitVec 128) (n scope : Nat) : BitVec 128 :=
  if objExpected o < objArrived o + n then putBits (turnedObject o scope) 71 1 1 else turnedObject o scope

section
variable (o : BitVec 128) {n scope : Nat}

theorem objScope_lt : objScope o < 8 := (o.extractLsb' 96 3).isLt
theorem objExpected_lt : objExpected o < 2 ^ 32 := (o.extractLsb' 0 32).isLt

theorem objArrived_scope (v : Nat) : objArrived (putBits o 96 3 v) = objArrived o := by
  simp (disch := decide) only [objArrived, putBits_field_other]

theorem objExpected_scope (v : Nat) : objExpected (putBits o 96 3 v) = objExpected o := by
  simp (disch := decide) only [objExpected, putBits_field_other]

theorem countedObject_fields (hs : scope < 8) (hn : objArrived o + n < objExpected o) :
    let o' := countedObject o n scope
    objArrived o' = objArrived o + n ∧ objPhase o' = objPhase o ∧ objExpected o' = objExpected o ∧ objRnext o' = objRnext o ∧
      objScope o' = max (objScope o) scope := by
  have h1 := objScope_lt o
  have h2 := objExpected_lt o
  refine ⟨?_, ?_, ?_, ?_, ?_⟩
  · simp (disch := decide) only [countedObject, objArrived, putBits_field_same, BitVec.toNat_ofNat]
    exact Nat.mod_eq_of_lt (lt_trans hn h2)
  · rw [countedObject, objPhase, putBits_getLsbD (by decide), putBits_getLsbD (by decide)]
    rfl
  · simp (disch := decide) only [countedObject, objExpected, putBits_field_other]
  · simp (disch := decide) only [countedObject, objRnext, putBits_field_other]
  · rw [countedObject, objScope, putBits_field_other (by decide) (by decide), putBits_field_same (by decide), BitVec.toNat_ofNat]
    exact Nat.mod_eq_of_lt (by omega)

theorem turnedObject_fields (hs : scope < 8) :
    let o' := turnedObject o scope
    objArrived o' = 0 ∧ objRnext o' = 0 ∧ objPhase o' = !objPhase o ∧ objExpected o' = objExpected o ∧
      objScope o' = max (objScope o) scope := by
  have h1 := objScope_lt o
  refine ⟨?_, ?_, ?_, ?_, ?_⟩
  · simp (disch := decide) only [turnedObject, objArrived, putBits_field_same, putBits_field_other, BitVec.toNat_ofNat, Nat.zero_mod]
  · rw [turnedObject, objRnext, putBits_field_other (by decide) (by decide), putBits_field_same (by decide)]
    rfl
  · rw [turnedObject, objPhase, putBits_getLsbD (by decide), if_pos (by decide)]
    cases objPhase o <;> rfl
  · simp (disch := decide) only [turnedObject, objExpected, putBits_field_other]
  · simp (disch := decide) only [turnedObject, objScope, putBits_field_same, putBits_field_other, BitVec.toNat_ofNat]
    exact Nat.mod_eq_of_lt (max_lt h1 hs)

/-- The excess bit is none of the fields that an arrival counts in. -/
theorem excess_fields :
    let o' := putBits o 71 1 1
    objArrived o' = objArrived o ∧ objRnext o' = objRnext o ∧ objPhase o' = objPhase o ∧ objExpected o' = objExpected o ∧
      objScope o' = objScope o ∧ o'.getLsbD 71 = true := by
  refine ⟨?_, ?_, ?_, ?_, ?_, ?_⟩
  · simp (disch := decide) only [objArrived, putBits_field_other]
  · simp (disch := decide) only [objRnext, putBits_field_other]
  · rw [objPhase, putBits_getLsbD (by decide)]
    rfl
  · simp (disch := decide) only [objExpected, putBits_field_other]
  · simp (disch := decide) only [objScope, putBits_field_other]
  · rw [putBits_getLsbD (by decide)]
    rfl

theorem flippedObject_fields (hs : scope < 8) :
    let o' := flippedObject o n scope
    objArrived o' = 0 ∧ objRnext o' = 0 ∧ objPhase o' = !objPhase o ∧ objExpected o' = objExpected o ∧
      objScope o' = max (objScope o) scope ∧ (objExpected o < objArrived o + n → o'.getLsbD 71 = true) := by
  obtain ⟨ha, hr, hp, he, hc⟩ := turnedObject_fields o hs
  obtain ⟨ka, kr, kp, ke, kc, kx⟩ := excess_fields (turnedObject o scope)
  unfold flippedObject
  split
  · exact ⟨ka.trans ha, kr.trans hr, kp.trans hp, ke.trans he, kc.trans hc, fun _ => kx⟩
  · next hn => exact ⟨ha, hr, hp, he, hc, fun h => absurd h hn⟩

end

/-! ## What an arrival does (R136) -/

/-- Bytes that are written are read back. -/
theorem Mem.read_write {m : Mem} (h : m.wf = true) (a : Nat) (bs : List Byte) : (m.write a bs).read a bs.length = bs := by
  rw [Mem.read_eq (Mem.wf_write a bs h)]
  refine List.ext_getElem (by simp) fun i hi hb => ?_
  rw [List.getElem_map, List.getElem_range, Mem.get_write h, if_pos ⟨Nat.le_add_right a i, by omega⟩, Nat.add_sub_cancel_left,
    List.getD_eq_getElem _ _ hb]

section
variable {s : State} {t : Team} {n : Nat}

/-- Progress of a team is noted at its core alone. -/
theorem State.progress_eq (s : State) (team : Nat) : ∃ d f, (f = (fun k : Core => k) ∨ f = fun k => { k with deadlock := 0 }) ∧
    s.progress team = s.modCore d f := by
  have none_ : s = s.modCore 0 fun k => k := (State.modCore_self fun _ => rfl).symm
  unfold State.progress
  split
  · split
    · exact ⟨_, _, .inr rfl, rfl⟩
    · exact ⟨0, _, .inl rfl, none_⟩
  · exact ⟨0, _, .inl rfl, none_⟩

theorem State.progress_core {β : Type} {φ : Core → β} (h : ∀ k : Core, φ { k with deadlock := 0 } = φ k) (s : State) (team c : Nat) :
    φ ((s.progress team).core c) = φ (s.core c) := by
  obtain ⟨d, f, rfl | rfl, he⟩ := s.progress_eq team
  · rw [he, State.modCore_self fun _ => rfl]
  · rw [he, State.modCore_field h]

@[simp] theorem State.progress_length (s : State) (team : Nat) : (s.progress team).cores.length = s.cores.length := by
  obtain ⟨d, f, _, he⟩ := s.progress_eq team
  rw [he, State.modCore, List.length_modify]

@[simp] theorem State.progress_team? (s : State) (team m : Nat) : (s.progress team).team? m = s.team? m := by
  obtain ⟨d, f, _, he⟩ := s.progress_eq team
  rw [he, State.modCore_team?]

/-- An object reads as it was written. -/
theorem State.setObject_object (hc : t.core < s.cores.length) (hm : (s.core t.core).lmem.wf = true) (a : Nat) (v : BitVec 128) :
    (s.setObject t a v).object t a = v := by
  have hr := Mem.read_write hm (t.lbase.getD 0 + a) (natBytes 16 v.toNat)
  rw [natBytes_length] at hr
  rw [State.object, State.setObject, State.modCore_core hc, hr, bytesNat_natBytes]
  apply BitVec.eq_of_toNat_eq
  rw [BitVec.toNat_ofNat]
  have := v.isLt
  omega

/-- An object after progress has been noted. -/
theorem State.progress_setObject_object (hc : t.core < s.cores.length) (hm : (s.core t.core).lmem.wf = true) (a : Nat) (v : BitVec 128) :
    ((s.progress t.id).setObject t a v).object t a = v :=
  State.setObject_object (by simpa using hc) (by rw [State.progress_core (φ := Core.lmem) fun _ => rfl]; exact hm) a v

/-- Where no live fibre waits at an object of its team, none leaves. -/
theorem State.wakeObject_none {team obj : Nat}
    (h : ∀ x, s.team? team = some x → ∀ i ∈ x.live, ∀ a p, (x.fibre i).wait ≠ some (.bowait a p)) :
    s.wakeObject team obj = s := by
  unfold State.wakeObject
  split
  · rfl
  · next x hx =>
    have hg : (x.live.filter fun i =>
        match (x.fibre i).wait with
        | some (.bowait a p) => a == obj && p != objPhase (s.object x obj)
        | _ => false) = [] := by
      refine List.filter_eq_nil_iff.2 fun i hi => ?_
      split
      · next a p hw => exact absurd hw (h x hx i hi a p)
      · exact Bool.false_ne_true
    exact if_pos (List.isEmpty_iff.2 hg)

/-- The end of a phase leaves the fibres of its team. -/
theorem State.turnTime_fibres {team obj : Nat} {x : Team} (hx : (s.turnTime team obj).team? team = some x) :
    ∃ y, s.team? team = some y ∧ x.fibres = y.fibres := by
  rw [State.turnTime, State.modTeam_same fun y => by split <;> rfl] at hx
  obtain ⟨y, hy, rfl⟩ := Option.map_eq_some_iff.1 hx
  exact ⟨y, hy, by split <;> rfl⟩

variable {obj scope : Nat} (ht : s.team? t.id = some t) (hn : n ≠ 0)
include ht hn

/-- An arrival that leaves its phase incomplete counts. -/
theorem State.arrive_counts (h : objArrived (s.object t obj) + n < objExpected (s.object t obj)) :
    s.arrive t.id obj n scope = (s.progress t.id).setObject t obj (countedObject (s.object t obj) n scope) := by
  unfold State.arrive
  simp only [if_neg hn, ht, objArrived_scope, objExpected_scope, if_pos h]
  rfl

/-- An arrival that completes the phase of an object on which no record is armed and no fibre waits flips it. -/
theorem State.arrive_flips (h : objExpected (s.object t obj) ≤ objArrived (s.object t obj) + n)
    (harm : (s.object t obj).getLsbD armedBit = false) (hw : ∀ i ∈ t.live, ∀ a p, (t.fibre i).wait ≠ some (.bowait a p)) :
    s.arrive t.id obj n scope = ((s.progress t.id).setObject t obj (flippedObject (s.object t obj) n scope)).turnTime t.id obj := by
  have hp (v : Nat) : objPhase (putBits (s.object t obj) 96 3 v) = objPhase (s.object t obj) := by
    rw [objPhase, putBits_getLsbD (by decide)]
    rfl
  have hb (v : Nat) : (putBits (s.object t obj) 96 3 v).getLsbD armedBit = false := by
    rw [putBits_getLsbD (by decide)]
    exact harm
  unfold State.arrive
  simp only [if_neg hn, ht, objArrived_scope, objExpected_scope, hp, hb, if_neg (Nat.not_lt.2 h), Bool.false_eq_true, if_false]
  refine State.wakeObject_none fun x hx => ?_
  obtain ⟨y, hy, hf⟩ := State.turnTime_fibres hx
  obtain rfl : t = y := Option.some.inj (ht.symm.trans ((State.progress_team? s t.id t.id).symm.trans hy))
  simpa only [Team.live, Team.fibre, hf] using hw

end

/-! ## Barrier instructions (R135 to R139) -/

theorem objAddr_eq (f : Fibre) (a : Nat) : objAddr f a = nat (f.reg a) % 2 ^ 19 := rfl

section
variable {s : State} {t : Team} {g : Guard} {a b d : Reg} {k : Class}

theorem Team.objectError_none {a : Nat} (hb : t.lbase ≠ none) (h16 : a % 16 = 0) (hs : a + 16 ≤ t.lsize) : t.objectError a = none := by
  rw [Team.objectError, if_neg (not_not_intro h16), if_neg]
  rintro (h | h)
  · exact hb (Option.isNone_iff_eq_none.1 h)
  · omega

/-- Every lane names an aligned object inside the allotment, and none of them is blocked (R126, R153). -/
def ObjectsInside (s : State) (t : Team) (g : Guard) (a : Reg) : Prop :=
  ∀ i ∈ s.active t g, nat ((t.fibre i).reg a.toNat) % 2 ^ 19 % 16 = 0 ∧ nat ((t.fibre i).reg a.toNat) % 2 ^ 19 + 16 ≤ t.lsize ∧
    s.writeBlocked t (nat ((t.fibre i).reg a.toNat) % 2 ^ 19) 16 = false

theorem ObjectsInside.noCause (h : ObjectsInside s t g a) (hb : t.lbase ≠ none) :
    NoCause s t g (t.objectChecks fun f => objAddr f a.toNat) := by
  intro i hi c hc
  obtain ⟨code, _, rfl⟩ := List.mem_map.1 hc
  obtain ⟨h16, hs, _⟩ := h i hi
  simp only [objAddr_eq, Team.objectError_none hb h16 hs, Option.filter_none]

theorem ObjectsInside.free (h : ObjectsInside s t g a) :
    ((s.active t g).any fun i => s.writeBlocked t (objAddr (t.fibre i) a.toNat) 16) = false :=
  List.any_eq_false.2 fun i hi => by simp only [objAddr_eq, (h i hi).2.2, Bool.false_eq_true, not_false_eq_true]

theorem NoCause.append {cs cs' : List Check} (h : NoCause s t g cs) (h' : NoCause s t g cs') : NoCause s t g (cs ++ cs') :=
  fun i hi c hc => (List.mem_append.1 hc).elim (h i hi c) (h' i hi c)

theorem execBar_blocks (h : CanIssue s t g fun _ => []) (hk : State.legalOwn t k = true) (hp : s.performedAt t (s.active t g) .team = true) :
    execBar g k s = .next ((s.blockSome (fun _ x => if guardHolds g x then some .bar else none) fun _ x => x).settle t.id) := by
  unfold execBar
  rw [h.runs (.cons (fun _ _ => by rw [checkAll, if_pos hk]) .nil)]
  exact congrArg _ (if_neg (by simp [hp]))

theorem execBoinit_inits (h : CanIssue s t g fun _ => [a.toNat, b.toNat, b.toNat + 1]) (hb : t.lbase ≠ none) (hi : ObjectsInside s t g a)
    (hl : ∀ i ∈ s.active t g, initLegal ((t.fibre i).reg b.toNat) ((t.fibre i).reg (b.toNat + 1)) = true) :
    execBoinit g b a s = .next (((s.active t g).foldl (fun s i =>
      s.boinitLane t (objAddr (t.fibre i) a.toNat) (initObject ((t.fibre i).reg b.toNat) ((t.fibre i).reg (b.toNat + 1)))) s).advance 4) := by
  unfold execBoinit
  rw [h.runs ((hi.noCause hb).append (.cons (fun i hm => if_pos (hl i hm)) .nil))]
  exact congrArg _ (if_neg (ne_true_of_eq_false hi.free))

/-- The words that `boinit` accepts (R135). -/
theorem initLegal_iff {e w : Word} : initLegal e w = true ↔ nat e ≠ 0 ∧ nat w / 2 ^ 24 % 2 ^ 6 = 0 ∧ nat w / 2 ^ 30 ≤ 1 := by
  have hw := w.isLt
  have h30 : bitsOf w.toNat 31 30 = nat w / 2 ^ 30 := by simp only [bitsOf, nat]; omega
  have he : e ≠ 0 ↔ nat e ≠ 0 := not_congr ⟨fun h => by rw [h]; rfl, fun h => BitVec.eq_of_toNat_eq h⟩
  simp only [initLegal, Bool.and_eq_true, bne_iff_ne, beq_iff_eq, decide_eq_true_eq, h30, he, and_assoc]
  rfl

theorem execBoarr_arrives (h : CanIssue s t g fun _ => [a.toNat, b.toNat]) (hb : t.lbase ≠ none) (hi : ObjectsInside s t g a)
    (hp : s.performedAt t (s.active t g) .team = true) :
    execBoarr g b a s = .next (((s.active t g).foldl (fun s i =>
      s.arrive t.id (objAddr (t.fibre i) a.toNat) (nat ((t.fibre i).reg b.toNat)) 2) s).advance 4) := by
  unfold execBoarr
  rw [h.runs (hi.noCause hb)]
  exact congrArg _ (if_neg (by simp only [hi.free, hp, Bool.not_true, Bool.or_self, Bool.false_eq_true, not_false_eq_true]))

theorem execBotest_tests {p : Pred} (h : CanIssue s t g fun _ => [a.toNat]) (hb : t.lbase ≠ none) (hi : ObjectsInside s t g a) :
    execBotest g a p s = .next (((s.active t g).foldl (fun x i => x.acquireObject t (objAddr (t.fibre i) a.toNat)) s).writeFibres (s.active t g) 4
      fun i x => x.setPred p (objPhase (s.object t (objAddr (t.fibre i) a.toNat)))) := by
  unfold execBotest
  rw [h.runs (hi.noCause hb)]
  exact congrArg _ (if_neg (ne_true_of_eq_false hi.free))

/-- The phase that a fibre's `bowait` waits for has come (R137). -/
def State.phaseSeen (s : State) (t : Team) (a d : Reg) (i : Nat) : Bool :=
  objPhase (s.object t (objAddr (t.fibre i) a.toNat)) != ((t.fibre i).reg d.toNat).getLsbD 0

theorem execBowait_waits (h : CanIssue s t g fun _ => [a.toNat, d.toNat]) (hb : t.lbase ≠ none) (hi : ObjectsInside s t g a)
    (he : ∀ i ∈ s.active t g, s.bowaitError k (s.object t (objAddr (t.fibre i) a.toNat)) = none) :
    execBowait g k a d s = .next
      ((((s.active t g).filter (s.phaseSeen t a d)).foldl (fun x i => x.acquireObject t (objAddr (t.fibre i) a.toNat)) s).blockSome
        (fun i x => if (s.active t g).contains i && !s.phaseSeen t a d i then
          some (.bowait (objAddr x a.toNat) ((x.reg d.toNat).getLsbD 0)) else none) fun _ x => x) := by
  unfold execBowait
  rw [h.runs ((hi.noCause hb).append (.cons he .nil))]
  exact congrArg _ (if_neg (ne_true_of_eq_false hi.free))

end

/-- Settles O28: the three instructions pass their checks and stall for nothing; an arrival counts, or it flips the phase. -/
theorem barriersAndArrivals : Obligations.BarriersAndArrivals := by
  unfold Obligations.BarriersAndArrivals
  refine ⟨fun s t g k b a => ?_, fun s t obj n scope ht hc _ hm hn hs _ => ?_⟩
  · intro act obj inside
    refine ⟨fun h hk hp => execBar_blocks h hk hp, fun h hb hi hl => ?_, fun h hb hi hp => execBoarr_arrives h hb hi hp⟩
    exact execBoinit_inits h hb hi fun i hm => initLegal_iff.2 (hl i hm)
  · intro o u
    refine ⟨fun h => ?counts, fun h harm hw => ?flips⟩
    case counts =>
      have hu : u = _ := State.arrive_counts ht hn h
      have ho : u.object t obj = countedObject o n scope := by rw [hu, State.progress_setObject_object hc hm]
      obtain ⟨ha, hp, he, hr, hsc⟩ := countedObject_fields o hs h
      rw [ho]
      refine ⟨ha, hp, he, hr, hsc, fun t' ht' => ?_⟩
      rw [hu] at ht'
      rw [Option.some.inj (ht.symm.trans ((State.progress_team? s t.id t.id).symm.trans ht'))]
    case flips =>
      have ho : u.object t obj = flippedObject o n scope := by
        rw [show u = _ from State.arrive_flips ht hn h harm hw]
        exact State.progress_setObject_object hc hm obj _
      rw [ho]
      exact flippedObject_fields o hs

/-- Settles O29: both pass their checks; a fibre goes on past `bowait` where it sees another phase than it gives. -/
theorem barrierWaits : Obligations.BarrierWaits := by
  unfold Obligations.BarrierWaits
  intro s t g k a d p act obj inside phase
  refine ⟨fun h hb hi => execBotest_tests h hb hi, fun h hb hi he => ?_⟩
  intro seen
  refine (execBowait_waits h hb hi he :).trans ?_
  have hw (i : Nat) (x : Fibre) : (if (s.active t g).contains i && !s.phaseSeen t a d i then
      some (Wait.bowait (objAddr x a.toNat) ((x.reg d.toNat).getLsbD 0)) else none) =
      if i ∈ act ∧ seen i = false then some (.bowait (nat (x.reg a.toNat) % 2 ^ 19) ((x.reg d.toNat).getLsbD 0)) else none := by
    refine if_congr ?_ rfl rfl
    rw [Bool.and_eq_true, List.contains_iff_mem, Bool.not_eq_true']
    rfl
  simp only [hw]
  rfl

end Sys2Proof.Machine

namespace Sys2Proof.Machine

/-! ## Tile handles (R140 to R145, R148) -/

section
variable {s : State} {t : Team} {g : Guard} {h : Nat}

/-- A handle that exists, and on which no fault is recorded, passes its checks. -/
theorem noCause_handleChecks (hl : h < t.handles.length) (hf : (t.handle h).fault = false) : NoCause s t g (handleChecks t h) :=
  .cons (fun _ _ => if_pos hl) (.cons (fun _ _ => if_neg (ne_true_of_eq_false hf)) .nil)

theorem noCause_checkState {ok : HandleState → Bool} (ho : ok (t.handle h) = true) : NoCause s t g [checkState t h ok] :=
  .cons (fun _ _ => if_pos ho) .nil

theorem HandleState.idle_iff {x : HandleState} : x.idle = true ↔ x.allotted = true ∧ (x.st = .free ∨ x.st = .full) := by
  simp [HandleState.idle]

theorem regionLegal_iff {n : Nat} : regionLegal n = true ↔ n % 256 = 0 ∧ 256 ≤ n ∧ n ≤ 524288 := by
  simp only [regionLegal, Bool.and_eq_true, beq_iff_eq, decide_eq_true_eq, and_assoc]

/-- Some fibre executes the instruction. -/
theorem not_isEmpty_of_ne {act : List Nat} (ha : act ≠ []) : ¬ act.isEmpty = true := by
  simpa using ha

end

section
variable {s : State} {t : Team} {g : Guard} {a : Reg} {h : Handle} (hl : h.toNat < t.handles.length)
include hl

theorem execHalloc_allots (hi : CanIssue s t g fun _ => [a.toNat]) (ha : s.active t g ≠ []) (hf : (t.handle h.toNat).fault = false)
    (hu : (t.handle h.toNat).allotted = false) {v : Nat} (hv : v = nat ((t.fibre (actingLane (s.active t g))).reg a.toNat))
    (hr : regionLegal v = true) (ht : v ≤ t.regionTop) :
    execHalloc g a h s = .next ((s.moveHandle t h.toNat fun _ =>
      { HandleState.unallotted with allotted := true, base := t.regionTop - v, size := v }).advance 4) := by
  subst hv
  unfold execHalloc
  have free : (!(t.handle h.toNat).allotted) = true := by rw [hu]; rfl
  rw [hi.runs ((noCause_handleChecks hl hf).append (.cons (fun _ _ => if_pos free) (.cons (fun _ _ => if_pos (by simp [hr, ht])) .nil)))]
  exact congrArg _ (if_neg (not_isEmpty_of_ne ha))

theorem execHfree_frees (hi : CanIssue s t g fun _ => []) (ha : s.active t g ≠ []) (hf : (t.handle h.toNat).fault = false)
    (hd : (t.handle h.toNat).idle = true) (hb : s.regionBusy t h.toNat = false) :
    execHfree g h s = .next ((s.setHandle t h.toNat .unallotted).advance 4) := by
  unfold execHfree
  rw [hi.runs ((noCause_handleChecks hl hf).append (noCause_checkState hd))]
  exact congrArg _ ((if_neg (not_isEmpty_of_ne ha)).trans (if_neg (ne_true_of_eq_false hb)))

theorem execHbind_binds {n : Rec} (hi : CanIssue s t g fun _ => [a.toNat]) (ha : s.active t g ≠ []) (hf : (t.handle h.toNat).fault = false)
    (hd : (t.handle h.toNat).idle = true) (hb : s.regionBusy t h.toNat = false) :
    execHbind g n a h s = .next ((s.moveHandle t h.toNat fun y =>
      { y with st := .free, hwptr := 0, bound := some (n.toNat, nat ((t.fibre (actingLane (s.active t g))).reg a.toNat)) }).advance 4) := by
  unfold execHbind
  rw [hi.runs ((noCause_handleChecks hl hf).append (noCause_checkState hd))]
  exact congrArg _ ((if_neg (not_isEmpty_of_ne ha)).trans (if_neg (ne_true_of_eq_false hb)))

theorem execHstate_reads (hi : CanIssue s t g fun _ => [a.toNat]) :
    execHstate g a h s = .next (s.writeFibres (s.active t g) 4 fun _ f => f.setReg a.toNat (t.handle h.toNat).word) := by
  unfold execHstate
  exact hi.runs (.cons (fun _ _ => if_pos hl) .nil)

theorem execHwptr_reads (hi : CanIssue s t g fun _ => [a.toNat]) (hf : (t.handle h.toNat).fault = false) :
    execHwptr g a h s = .next (s.writeFibres (s.active t g) 4 fun _ f =>
      f.setReg a.toNat (BitVec.ofNat 32 (if (t.handle h.toNat).allotted then (t.handle h.toNat).hwptr else 0))) := by
  unfold execHwptr
  exact hi.runs (noCause_handleChecks hl hf)

theorem execCpcancel_cancels (hi : CanIssue s t g fun _ => []) (ha : s.active t g ≠ []) (hf : (t.handle h.toNat).fault = false)
    (hu : (t.handle h.toNat).allotted = true) : execCpcancel g h s = .next ((s.cancelCmd t h.toNat).advance 4) := by
  unfold execCpcancel
  rw [hi.runs ((noCause_handleChecks hl hf).append (noCause_checkState hu))]
  exact congrArg _ (if_neg (not_isEmpty_of_ne ha))

/-- `hwait` goes on where the handle is in the state that it waits for, and else its fibres block (R145). -/
theorem execHwait_eq {st : HState} {k : Class} (hi : CanIssue s t g fun _ => []) (hf : (t.handle h.toNat).fault = false)
    (hu : (t.handle h.toNat).allotted = true) (hk : State.legalOwn t k = true) :
    execHwait g st k h s = .next (if (t.handle h.toNat).st = st then s.advance 4
      else s.blockSome (fun i _ => if i ∈ s.active t g then some (.hwait h.toNat st) else none) fun _ y => y) := by
  unfold execHwait
  rw [hi.runs ((noCause_handleChecks hl hf).append (.cons (fun _ _ => if_pos hu) (.cons (fun _ _ => if_pos hk) .nil)))]
  exact congrArg _ (congrArg _ (congrArg (s.blockSome · _) (funext fun i => funext fun _ => if_congr List.contains_iff_mem rfl rfl)))

end

/-- Settles O30: each instruction passes its checks, and changes or reads the handle of the acting lane. -/
theorem tileHandles : Obligations.TileHandles := by
  unfold Obligations.TileHandles
  intro s t g n st k a h act x v idle hl ha
  have wr (hi : CanIssue s t g fun _ => [a.toNat]) (w : Word) := State.setReg_lands hi.team (fun _ => State.active_sub) 4 a.toNat
    (v := fun _ _ => w) fun i hm => hi.window i hm _ (List.mem_singleton_self _)
  refine ⟨fun hi hf => ⟨fun hu h256 hlo hhi htop => ?_, fun hd => ?_, ?_⟩, fun hi => ?_,
    fun hi hf => ⟨fun hd => ?_, fun hu => ?_, fun hu hk => ?_⟩⟩
  · exact execHalloc_allots hl hi ha hf hu rfl (regionLegal_iff.2 ⟨h256, hlo, hhi⟩) htop
  · exact execHbind_binds hl hi ha hf (HandleState.idle_iff.2 ⟨hd.1, hd.2.1⟩) hd.2.2
  · exact ⟨_, execHwptr_reads hl hi hf, wr hi _⟩
  · exact ⟨_, execHstate_reads hl hi, wr hi _⟩
  · exact execHfree_frees hl hi ha hf (HandleState.idle_iff.2 ⟨hd.1, hd.2.1⟩) hd.2.2
  · exact execCpcancel_cancels hl hi ha hf hu
  · have he := execHwait_eq (st := st) hl hi hf hu hk
    exact ⟨fun hs => he.trans (congrArg _ (if_pos hs)), fun hs => he.trans (congrArg _ (if_neg hs))⟩

/-! ## Copy instructions (R146, R147, R155) -/

section
variable {s : State} {t : Team} {g : Guard} {h : Nat}

/-- The checks of a copy through a record. -/
theorem noCause_copyRecord {n : Nat} {elem : Fibre → Nat} {out : Bool} (hc : NoCause s t g (handleChecks t h))
    (hd : (t.handle h).idle = true) (hm : malformed (t.record n) = false)
    (hr : rangeError t n h (elem (t.fibre (actingLane (s.active t g)))) = none) (ho : (out && t.refuses n) = false) :
    NoCause s t g (copyChecks t (s.active t g) (some n) h elem out ++ []) :=
  have form : NoCause s t g [checkAll (if malformed (t.record n) then some { code := 0x36 } else none)] :=
    .cons (fun _ _ => if_neg (ne_true_of_eq_false hm)) .nil
  have ro : NoCause s t g [checkAll (if out && t.refuses n then some { code := 0x31 } else none)] :=
    .cons (fun _ _ => if_neg (ne_true_of_eq_false ho)) .nil
  ((((form.append hc).append (noCause_checkState hd)).append (.cons (fun _ _ => hr) .nil)).append ro).append .nil

/-- The checks of a copy without one. -/
theorem noCause_copyPlain {elem : Fibre → Nat} {out : Bool} {more : List Check} (hc : NoCause s t g (handleChecks t h))
    (hd : (t.handle h).idle = true) (hm : NoCause s t g more) : NoCause s t g (copyChecks t (s.active t g) none h elem out ++ more) :=
  ((((NoCause.append .nil hc).append (noCause_checkState hd)).append .nil).append .nil).append hm

/-- A copy instruction whose checks pass puts its command in flight where the scoreboard has room (R146, R154). -/
theorem copyOp_starts {uses : List Nat} {n : Option Nat} {elem : Fibre → Nat} {out : Bool} {more : Team → List Nat → List Check}
    {kind : Team → Fibre → CmdKind} (hi : CanIssue s t g fun _ => uses) (ha : s.active t g ≠ [])
    (hr : (s.core t.core).cmds.length + (s.core t.core).reads.length < 256)
    (hc : NoCause s t g (copyChecks t (s.active t g) n h elem out ++ more t (s.active t g))) :
    copyOp g uses n h elem out more kind s =
      .next ((s.addCmd t (s.active t g) h (kind t (t.fibre (actingLane (s.active t g)))) (s.curPc t) false).advance 4) := by
  have hs : s.scoreboardFull t.core = false := decide_eq_false (Nat.not_lt.2 hr)
  unfold copyOp
  rw [hi.runs hc]
  exact congrArg _ ((if_neg (not_isEmpty_of_ne ha)).trans (if_neg (ne_true_of_eq_false hs)))

/-- A destination that passes its check is where the push goes. -/
theorem pushAddr_eq {f : Fibre} {a align va : Nat} (hp : pointerAligned t (f.pair a) (t.handle h).size align = .ok (some va)) :
    pushAddr t f a h align = va := by
  unfold pushAddr
  rw [hp]

theorem noCause_pushChecks {a align va : Nat}
    (hp : pointerAligned t ((t.fibre (actingLane (s.active t g))).pair a) (t.handle h).size align = .ok (some va)) :
    NoCause s t g (pushChecks a h align t (s.active t g)) :=
  .cons (fun _ _ => by simp only [checkActing, hp]) .nil

end

/-! ### What the start of a command leaves -/

section
variable {s : State} {n : Nat}

/-- Fibres that leave their waits change nothing of the cores but that progress is noted. -/
theorem State.release_core {β : Type} {φ : Core → β} (hφ : ∀ k : Core, φ { k with deadlock := 0 } = φ k) (is : List Nat) (c : Nat) :
    φ ((s.release n is).core c) = φ (s.core c) := State.progress_core hφ s n c

/-- They leave the handles of their team. -/
theorem State.release_handles {t : Team} (ht : s.team? n = some t) (is : List Nat) :
    ∃ t', (s.release n is).team? n = some t' ∧ t'.handles = t.handles := by
  have ht : (s.progress n).team? n = some t := (State.progress_team? s n n).trans ht
  unfold State.release
  rw [State.modTeam_same, ht]
  · refine ⟨_, rfl, ?_⟩
    obtain ⟨bs, he⟩ := Team.foldl_bundle (t.unpark is) (t.leaving is) s.stamp
    exact (congrArg Team.handles he).trans rfl
  · intro x
    obtain ⟨bs, he⟩ := Team.foldl_bundle (x.unpark is) (x.leaving is) s.stamp
    exact (congrArg Team.id he).trans rfl

/-- A handle that moves changes nothing of the cores but that progress is noted. -/
theorem State.moveHandle_core {β : Type} {φ : Core → β} (hφ : ∀ k : Core, φ { k with deadlock := 0 } = φ k) (t : Team) (h : Nat)
    (f : HandleState → HandleState) (c : Nat) : φ ((s.moveHandle t h f).core c) = φ (s.core c) := by
  unfold State.moveHandle State.wakeHandle
  split
  · rfl
  · dsimp only
    split
    · rfl
    · exact State.release_core hφ _ c

/-- The handle of its team is changed, and no other one. -/
theorem State.moveHandle_handles {t : Team} (ht : s.team? t.id = some t) (h : Nat) (f : HandleState → HandleState) :
    ∃ t', (s.moveHandle t h f).team? t.id = some t' ∧ t'.handles = t.handles.modify h f := by
  have hm : (s.modTeam t.id fun x => { x with handles := x.handles.modify h f }).team? t.id =
      some { t with handles := t.handles.modify h f } := by
    rw [State.modTeam_same, ht]
    · rfl
    · exact fun _ => rfl
  unfold State.moveHandle State.wakeHandle
  rw [hm]
  dsimp only
  split
  · exact ⟨_, hm, rfl⟩
  · exact State.release_handles hm _

theorem Team.handle_modify {t t' : Team} {h : Nat} {f : HandleState → HandleState} (ht : t'.handles = t.handles.modify h f)
    (hl : h < t.handles.length) : t'.handle h = f (t.handle h) := by
  simp [Team.handle, ht, List.getD_eq_getElem?_getD, hl]

variable {t : Team} {act : List Nat} {h : Nat} {kind : CmdKind} {epc : Word} {implicit : Bool}

/-- The command is in flight, for the region of its handle (R146). -/
theorem State.addCmd_cmds (hc : t.core < s.cores.length) :
    ∃ m ∈ ((s.addCmd t act h kind epc implicit).core t.core).cmds, m.team = t.id ∧ m.h = h ∧ m.kind = kind ∧
      m.base = (t.handle h).base ∧ m.size = (t.handle h).size ∧ m.done = 0 ∧ m.started = false := by
  unfold State.addCmd
  rw [State.moveHandle_core (φ := Core.cmds) fun _ => rfl, State.fresh_core, State.modCore_core hc]
  exact ⟨_, List.mem_append_right _ (List.mem_singleton_self _), rfl, rfl, rfl, rfl, rfl, rfl, rfl⟩

/-- Its handle fills or drains (R140). -/
theorem State.addCmd_handle (ht : s.team? t.id = some t) (hl : h < t.handles.length) :
    ∃ t', (s.addCmd t act h kind epc implicit).team? t.id = some t' ∧
      t'.handle h = { t.handle h with st := kind.during, hwptr := if kind.fills then 0 else (t.handle h).hwptr } := by
  unfold State.addCmd
  dsimp only
  exact (State.moveHandle_handles (by exact ht) h _).imp fun t' h' => ⟨h'.1, Team.handle_modify h'.2 hl⟩

end

/-- Settles O31: the instructions differ in their checks and in the command; a command in flight has its handle's region, and moves its handle. -/
theorem copyCommands : Obligations.CopyCommands := by
  unfold Obligations.CopyCommands
  refine ⟨fun s t g n a h => ?starts, fun s t act h kind epc ht hl hc => ?flight⟩
  case starts =>
    intro act x f starts elem fits hl ha hf hu hst hr
    have hd : (t.handle h.toNat).idle = true := HandleState.idle_iff.2 ⟨hu, hst⟩
    have hk : NoCause s t g (handleChecks t h.toNat) := noCause_handleChecks hl hf
    refine ⟨fun hi => ⟨fun hfit => ?_, fun hfit ho => ?_, ?_⟩, fun va hi hp => ?_, fun va hi hp => ?_⟩
    · show execCpin g n a h s = _
      exact copyOp_starts hi ha hr (noCause_copyRecord hk hd hfit.1 hfit.2 rfl)
    · show execCpout g n a h s = _
      exact copyOp_starts hi ha hr (noCause_copyRecord hk hd hfit.1 hfit.2 ho)
    · show execCpfill g a h s = _
      exact copyOp_starts hi ha hr (noCause_copyPlain hk hd .nil)
    · show execCppush g a h s = _
      unfold execCppush
      rw [copyOp_starts hi ha hr (noCause_copyPlain hk hd (noCause_pushChecks hp)), pushAddr_eq hp]
    · show execCpred g a h s = _
      unfold execCpred
      rw [copyOp_starts hi ha hr (noCause_copyPlain hk hd (noCause_pushChecks hp)), pushAddr_eq hp]
  case flight =>
    obtain ⟨t', ht', hh⟩ := State.addCmd_handle (act := act) (kind := kind) (epc := epc) (implicit := false) ht hl
    refine ⟨State.addCmd_cmds hc, t', ht', by rw [hh], by rw [hh], ?_⟩
    rw [hh]
    cases kind <;> exact ⟨rfl, rfl⟩

end Sys2Proof.Machine

namespace Sys2Proof.Machine

/-! ## Engine commands (R146, R147, R153, R258, R313) -/

section
variable {s : State} {t : Team} {m : Cmd} {c : Nat}

theorem execCopyCommandStart_starts (h : s.running c m.id = some (m, t)) (hs : m.started = false)
    (hw : ∀ x ∈ (s.core c).cmds, m.waitsFor x = false) (hb : s.fibreBusy t m = false) (hl : s.windowBytesLeft t m = false)
    (hr : m.kind.fills = true → s.imageRead t m.base m.size = false) :
    exec (.copyCommandStart c m.id) s = .next (s.modCmd c m.id fun x => { x with started := true }) := by
  have hn : (s.core c).cmds.any m.waitsFor = false := List.any_eq_false.2 fun x hx => ne_true_of_eq_false (hw x hx)
  have hi : (m.kind.fills && s.imageRead t m.base m.size) = false := by
    cases hk : m.kind.fills
    · rfl
    · exact hr hk
  show execCopyCommandStart c m.id s = _
  unfold execCopyCommandStart
  simp only [h, hs, hn, hb, hl, hi, Bool.or_self, Bool.false_eq_true, if_false]

theorem execCopyLineTransfer_moves (h : s.running c m.id = some (m, t)) (hs : m.started = true) (hd : m.done < m.size)
    (hl : s.windowBytesLeft t m = false) : exec (.copyLineTransfer c m.id) s = .next (s.moveLine t m) := by
  show execCopyLineTransfer c m.id s = _
  unfold execCopyLineTransfer
  simp only [h, hs, hd, hl, decide_true, Bool.not_false, Bool.and_self, if_true]

theorem State.moveLine_fill {w : Word} (hk : m.kind = .fill w) : s.moveLine t m = s.deliverLine t m (wordsOf (List.replicate 64 w)) := by
  unfold State.moveLine
  rw [hk]

theorem execContributionRetry_sends {va index : Nat} (h : s.running c m.id = some (m, t)) (hk : m.kind = .red va index)
    (hr : s.mayRetry m = true) :
    exec (.contributionRetry c m.id) s = .next
      (State.sendContribution { s with msgs := s.msgs.filter fun x => x.body != .wake m.id } t m va index) := by
  show execContributionRetry c m.id s = _
  unfold execContributionRetry
  simp only [h, hk, hr, if_true]

/-! ### The end of a command -/

section
variable (h : s.attended c m.id = some (m, t)) (hs : m.started = true) (hd : m.size ≤ m.done)
include h hs hd

omit h in
theorem Cmd.not_moving : ¬ (m.done < m.size ∨ (!m.started) = true) := by
  rw [hs]
  rintro (h | h)
  · exact absurd h (Nat.not_lt.2 hd)
  · cases h

theorem execCopyCommandComplete_fill (hk : m.kind.fills = true) : exec (.copyCommandComplete c m.id) s = .next (s.endCmd c t m) := by
  show execCopyCommandComplete c m.id s = _
  unfold execCopyCommandComplete
  simp only [h, if_neg (Cmd.not_moving hs hd)]
  cases hm : m.kind with
  | cpin => rfl
  | fill => rfl
  | cpout => rw [hm] at hk; cases hk
  | push => rw [hm] at hk; cases hk
  | red => rw [hm] at hk; cases hk

theorem execCopyCommandComplete_cpout {n e : Nat} (hk : m.kind = .cpout n e) (hn : s.storesOf c m.id = false) :
    exec (.copyCommandComplete c m.id) s = .next (s.endCmd c t m) := by
  show execCopyCommandComplete c m.id s = _
  unfold execCopyCommandComplete
  simp only [h, if_neg (Cmd.not_moving hs hd), hk, hn, Bool.false_eq_true, if_false]

variable {va : Nat} (hc : s.pushCut t m va = false) (hsent : m.sent = true) (ha : s.rtoTicks ≤ m.age)
include hc hsent ha

theorem execCopyCommandComplete_push (hk : m.kind = .push va) :
    exec (.copyCommandComplete c m.id) s = .next (s.failPush t m 0x43 2 (s.pushPeer t m va) va) := by
  show execCopyCommandComplete c m.id s = _
  unfold execCopyCommandComplete
  simp only [h, if_neg (Cmd.not_moving hs hd), hk, hc, hsent, ha, and_self, Bool.false_eq_true, if_false, if_true]

theorem execCopyCommandComplete_red {index : Nat} (hk : m.kind = .red va index) (hr : m.refused = false) :
    exec (.copyCommandComplete c m.id) s = .next (s.failPush t m 0x43 2 (s.pushPeer t m va) va) := by
  show execCopyCommandComplete c m.id s = _
  unfold execCopyCommandComplete
  simp only [h, if_neg (Cmd.not_moving hs hd), hk, hc, hsent, hr, ha, Bool.not_false, and_self, Bool.false_eq_true, if_false, if_true]

end

theorem execPushRetry_resends {id : Nat} (h : s.returned c id ≠ []) :
    exec (.pushRetry c id) s = .next ((s.returned c id).foldl (fun x m => (x.dropMsg m.id).send m.dst m.src m.body)
      (s.modCmd c id fun x => { x with age := 0 })) := by
  show execPushRetry c id s = _
  unfold execPushRetry
  exact if_neg (by simpa using h)

theorem execWindowWriteback_evicts {u : PubLeft} {x : Hold} (hu : ((s.core c).unpub.find? fun x => x.blk == u.blk) = some u)
    (hx : s.hold? (.pubCore c) u.blk = some x) :
    exec (.windowWriteback c u.blk) s = .next
      ((s.modCore c fun k => { k with unpub := k.unpub.filter fun y => y.blk != u.blk }).evictTokens
        { x with data := blockOfBytes ((s.core c).lmem.read u.la 128), dirty := true }) := by
  have hx' : (s.modCore c fun k => { k with unpub := k.unpub.filter fun y => y.blk != u.blk }).hold? (.pubCore c) u.blk = some x := hx
  show execWindowWriteback c u.blk s = _
  unfold execWindowWriteback State.writeLeft
  simp only [hu, hx']

end

/-! ## Pushes and contributions at their window (R155 to R157) -/

section
variable {s : State} {id : Nat} {m : Msg} (hm : s.msg? id = some m) (hd : s.deals m)
include hm hd

/-- A message that an event is done with leaves. -/
theorem State.deal_done {f : Msg → Dealt} {u : State} (h : f m = .done u) : s.deal id f = .next (u.dropMsg id) := by
  rw [State.deal_deals hm hd, h]
  rfl

section
variable {pid pa : Nat} {data : LineData} {last : Option Nat} {lines : List Nat} (hb : m.body = .push pid pa data last lines)
  (hp : m.dst.place = .home)
include hb hp

theorem execPushLineWrite_noWindow (hw : s.windowAtPa pa = none) :
    exec (.pushLineWrite id) s = .next ((if s.windowClosed (pa / 128) then s.send m.dst m.src m.body
      else (s.setPushedIn m.src.dev pid 0).send m.dst m.src (.pushAck pid .noWindow)).dropMsg id) := by
  have ha : atWindow m = true := beq_iff_eq.2 hp
  show execPushLineWrite id s = _
  refine State.deal_done hm hd ?_
  simp only [hb, ha, hw, Bool.not_true, Bool.false_eq_true, if_false]
  split <;> rfl

variable {c off : Nat} {e : PubEntry} (hw : s.windowAtPa pa = some (c, e, off))
include hw

/-- At a window that takes no arrivals, or in which not all its lines lie, a push finds none. -/
theorem execPushLineWrite_misfits (hf : e.arrEn = false ∨ s.linesFit c e lines = false) :
    exec (.pushLineWrite id) s =
      .next (((s.setPushedIn m.src.dev pid 0).send m.dst m.src (.pushAck pid .noWindow)).dropMsg id) := by
  have ha : atWindow m = true := beq_iff_eq.2 hp
  have hf : (!e.arrEn || !s.linesFit c e lines) = true := by rcases hf with h | h <;> simp [h]
  show execPushLineWrite id s = _
  refine State.deal_done hm hd ?_
  simp only [hb, ha, hw, hf, Bool.not_true, Bool.false_eq_true, if_false, if_true]

variable (he : e.arrEn = true) (hf : s.linesFit c e lines = true)
include he hf

theorem execPushLineWrite_moving (hv : e.moving = true) :
    exec (.pushLineWrite id) s = .next ((s.send m.dst m.src m.body).dropMsg id) := by
  have ha : atWindow m = true := beq_iff_eq.2 hp
  show execPushLineWrite id s = _
  refine State.deal_done hm hd ?_
  simp only [hb, ha, hw, he, hf, hv, Bool.not_true, Bool.or_self, Bool.false_eq_true, if_false, if_true]

theorem execPushLineWrite_writes (hv : e.moving = false) (hl : last = none) :
    exec (.pushLineWrite id) s = .next (((s.putWindow c e off (natBytes 256 data.toNat)).setPushedIn m.src.dev pid
      (s.pushedIn m.src.dev pid + if lines = [] then 0 else 256)).dropMsg id) := by
  have ha : atWindow m = true := beq_iff_eq.2 hp
  subst hl
  show execPushLineWrite id s = _
  refine State.deal_done hm hd ?_
  simp only [hb, ha, hw, he, hf, hv, Bool.not_true, Bool.or_self, Bool.false_eq_true, if_false, List.isEmpty_iff]

theorem execPushLineWrite_ends (hv : e.moving = false) (hne : lines ≠ []) {n : Nat} (hl : last = some n)
    (hg : n ≤ s.pushedIn m.src.dev pid + 256) :
    exec (.pushLineWrite id) s = .next (((((s.putWindow c e off (natBytes 256 data.toNat)).setPushedIn m.src.dev pid 0).windowArrive e n).send
      m.dst m.src (.pushAck pid .ok)).dropMsg id) := by
  have ha : atWindow m = true := beq_iff_eq.2 hp
  subst hl
  show execPushLineWrite id s = _
  refine State.deal_done hm hd ?_
  simp only [hb, ha, hw, he, hf, hv, Bool.not_true, Bool.or_self, Bool.false_eq_true, if_false, List.isEmpty_iff, hne, Nat.not_lt.2 hg]
  rfl

end

section
variable {pid pa index : Nat} {words : List Word} {c off : Nat} {e : PubEntry} {t : Team} (hb : m.body = .contrib pid pa index words)
  (hw : s.windowAtPa pa = some (c, e, off)) (he : e.arrEn = true) (ho : off + 4 * words.length ≤ e.size) (hv : e.moving = false)
  (ht : s.team? e.team = some t)
include hb hw he ho hv ht

/-- A contribution at its window is passed, added, noted or refused, by its index and the object's next one (R156). -/
theorem execContributionArrival_eq :
    let obj := e.lbase + e.arr
    let next := objRnext (s.object t obj)
    let answer (x : State) (st : RemStatus) : State := x.send m.dst m.src (.pushAck pid st)
    let a := s.addWords c e off words
    let b := (a.setObject t obj (putBits (a.object t obj) 80 16 (index + 1))).windowArrive e (4 * words.length)
    exec (.contributionArrival id) s = .next (State.dropMsg (if index < next.toNat then answer s .passed
      else if index = next.toNat then
        (answer b .ok).wakeSender m.dst c (b.localBase e.team + obj) (objRnext (b.object t obj))
      else if (s.core c).noted.length < 64 then
        answer (s.modCore c fun k => { k with noted := k.noted ++ [⟨m.src, pid, s.localBase e.team + obj, index⟩] }) .refused
      else answer s .queueFull) id) := by
  intro obj next answer a b
  show execContributionArrival id s = _
  refine State.deal_done hm hd ?_
  simp only [hb, hw, he, hv, ht, decide_eq_false (Nat.not_lt.2 ho), Bool.not_true, Bool.or_self, Bool.false_eq_true, if_false]
  split
  · rfl
  split
  · rfl
  split <;> rfl

end

section
variable {pid c : Nat} {st : RemStatus} {k : Cmd} {t : Team} (hb : m.body = .pushAck pid st) (hk : findCmd pid s.cores 0 = some (c, k))
  (ht : s.team? k.team = some t) (hf : t.framed = false)
include hb hk ht hf

/-- What an answer makes of its command (R147, R156, R157). -/
theorem execPushAck_eq : exec (.pushAck id) s = .next (State.dropMsg (match st with
    | .ok => s.endCmd c t k
    | .noWindow => s.nextWindow t k m.src.dev
    | .passed => s.failPush t k 0x65 0 m.src.dev k.target
    | .refused => s.modCmd c pid fun x => { x with refused := true, noted := true, age := 0 }
    | .queueFull => s.modCmd c pid fun x => { x with refused := true, noted := false, age := 0 }
    | _ => s) id) := by
  show execPushAck id s = _
  refine State.deal_done hm hd ?_
  simp only [hb, hk, ht, hf, Bool.false_eq_true, if_false]
  cases st <;> rfl

end

end

/-- Where every device has been tried, the push has found no window (R147). -/
theorem State.nextWindow_fails {s : State} {t : Team} {k : Cmd} {dev : Nat} {p : Page}
    (hp : s.translate t.core t.asid k.target .store t.privileged = .ok p) (hn : dev ∉ k.tried)
    (hall : ∀ d, d = p.home ∨ d ∈ s.otherDevices → d = dev ∨ d ∈ k.tried) :
    s.nextWindow t k dev = s.failPush t k 0x66 0 p.home k.target := by
  have hno : ((p.home :: s.otherDevices).any fun d => !(k.tried ++ [dev]).contains d) = false := by
    refine List.any_eq_false.2 fun d hd => ?_
    have hd := hall d (List.mem_cons.1 hd)
    simpa [← or_iff_not_imp_left] using hd.symm
  unfold State.nextWindow
  simp only [hp, hno, Bool.false_eq_true, if_false]
  exact if_neg (by simpa using hn)

/-- Settles O43: clause by clause, each event in a state in which it is enabled. -/
theorem engineEvents : Obligations.EngineEvents := by
  unfold Obligations.EngineEvents
  refine ⟨fun s t m c h => ⟨execCopyCommandStart_starts h, fun hs hd hl => ?line, fun va index => execContributionRetry_sends h⟩,
    fun s t m c h hs hd => ⟨execCopyCommandComplete_fill h hs hd, fun n e => execCopyCommandComplete_cpout h hs hd,
      fun va hk hc hsent ha => execCopyCommandComplete_push h hs hd hc hsent ha hk,
      fun va index hk hc hsent hr ha => execCopyCommandComplete_red h hs hd hc hsent ha hk hr⟩,
    fun s c id => execPushRetry_resends, fun s id m hm hd => ?_, fun s c u hu => ?_⟩
  case line =>
    have hl := execCopyLineTransfer_moves h hs hd hl
    exact ⟨hl, fun w hk => hl.trans (congrArg _ (State.moveLine_fill hk))⟩
  · intro done
    refine ⟨fun pid pa data last lines hb hp => ?push, fun pid st c k t hb hk ht hf => ?ack,
      fun pid pa index words c e off t hb hw he ho hv ht => ?contrib⟩
    case push =>
      intro got none_
      refine ⟨execPushLineWrite_noWindow hm hd hb hp, fun c e off hw => ⟨execPushLineWrite_misfits hm hd hb hp hw, fun he hf =>
        ⟨execPushLineWrite_moving hm hd hb hp hw he hf, execPushLineWrite_writes hm hd hb hp hw he hf, fun hv hne n hl hg => ?_⟩⟩⟩
      refine execPushLineWrite_ends hm hd hb hp hw he hf hv hne hl ?_
      simpa only [got, if_neg hne] using hg
    case ack =>
      have h := execPushAck_eq hm hd hb hk ht hf
      refine ⟨?_, ?_, fun p hst hp hn hall => ?_, ?_, ?_, ?_⟩
      case refine_3 =>
        subst hst
        exact h.trans (congrArg (fun x => Host.Outcome.next (State.dropMsg x id)) (State.nextWindow_fails hp hn hall))
      all_goals rintro rfl; exact h
    case contrib =>
      intro obj next base answer
      have h {x : State} (hx : _ = x) : done (.contributionArrival id) x :=
        (execContributionArrival_eq hm hd hb hw he ho hv ht).trans (congrArg (fun z => Host.Outcome.next (State.dropMsg z id)) hx)
      refine ⟨fun hi => h (if_pos hi), fun hi => ?_, fun hi hn => ?_, fun hi hn => ?_⟩
      · exact h ((if_neg (not_lt_of_ge hi.ge)).trans (if_pos hi))
      · exact h ((if_neg (not_lt_of_gt hi)).trans ((if_neg hi.ne').trans (if_pos hn)))
      · exact h ((if_neg (not_lt_of_gt hi)).trans ((if_neg hi.ne').trans (if_neg (not_lt_of_ge hn))))
  · intro b x hx
    exact execWindowWriteback_evicts hu hx

end Sys2Proof.Machine

namespace Sys2Proof.Machine

/-! ## Messages of other devices (R132, R306 to R308, R312) -/

section
variable {s : State} {id : Nat} {m : Msg} (hm : s.msg? id = some m) (hd : s.deals m)

/-- A message that an event must wait with is taken up. -/
theorem State.deal_wait {f : Msg → Dealt} {u : State} (hm : s.msg? id = some m) (hd : s.deals m) (h : f m = .wait u) :
    s.deal id f = .next (u.takeUp id) := by
  rw [State.deal_deals hm hd, h]
  rfl

/-! ### Answers to loads (R306, R307) -/

section
variable {c : Nat} {r : Req}

/-- A line that comes for a read is there. -/
theorem State.lineCame_read (h : ∀ op, r.kind ≠ .atom op) (data : LineData) :
    s.lineCame c r data = (s.modReq c r.id fun q => { q with data := some data, sent := true }).freeTag c r.id := by
  unfold State.lineCame
  cases hk : r.kind with
  | atom op => exact absurd hk (h op)
  | _ => rfl

/-- A line that comes for an atomic is known, and is sent anew. -/
theorem State.lineCame_atom {op : AtomOp} (h : r.kind = .atom op) (data : LineData) :
    s.lineCame c r data = (s.modReq c r.id fun q => { q with data := some data, sent := false }).freeTag c r.id := by
  unfold State.lineCame
  rw [h]
  rfl

variable {tag : Nat} {ep : BitVec 4} {st : RemStatus} {data : LineData} (hb : m.body = .loadResp tag ep st data)
  (ha : s.asker tag ep = some (c, r))
include hm hd hb ha

theorem execRemoteResponse_ok (hs : st = .ok) : exec (.remoteResponse id) s = .next ((s.lineCame c r data).dropMsg id) := by
  subst hs
  show execRemoteResponse id s = _
  refine State.deal_done hm hd ?_
  simp only [hb, ha]

theorem execRemoteResponse_notBacked (hs : st = .notBacked) : exec (.remoteResponse id) s = .next ((s.failReq c r.id 0x40).dropMsg id) := by
  subst hs
  show execRemoteResponse id s = _
  refine State.deal_done hm hd ?_
  simp only [hb, ha]

theorem execRemoteResponse_dataErrorQuiet (hs : st = .dataError) (hq : r.quiet = true) :
    exec (.remoteResponse id) s =
      .next (((s.lineCame c r data).settleLoad c r r.openLanes ((r.hit m.poison).map fun l => (l, 0x70))).dropMsg id) := by
  subst hs
  show execRemoteResponse id s = _
  refine State.deal_done hm hd ?_
  simp only [hb, ha, hq, if_true]

theorem execRemoteResponse_dataError (hs : st = .dataError) (hq : r.quiet = false) :
    exec (.remoteResponse id) s = .next (((s.lineCame c r data).modReq c r.id fun q =>
      { q with bad := q.bad ++ (r.hit m.poison).map fun l => (l, 0x70) }).dropMsg id) := by
  subst hs
  show execRemoteResponse id s = _
  refine State.deal_done hm hd ?_
  simp only [hb, ha, hq, Bool.false_eq_true, if_false]

end

/-! ### Writes at their home (R308) -/

section
variable {pid pa : Nat} {mask : BitVec 256} {d : LineData} (hb : m.body = .posted pid pa mask d)
include hm hd hb

theorem execPostedWrite_applies (hg : s.gatherAll (s.lineBlocks pa mask) true = none) :
    exec (.postedWrite id) s = .next (((s.applyPosted m pid pa mask d).homeDone (s.lineBlocks pa mask)).dropMsg id) := by
  show execPostedWrite id s = _
  refine State.deal_done hm hd ?_
  simp only [hb, hg]

theorem execPostedWrite_waits {u : State} (hg : s.gatherAll (s.lineBlocks pa mask) true = some u) :
    exec (.postedWrite id) s = .next (u.takeUp id) := by
  show execPostedWrite id s = _
  refine State.deal_wait hm hd ?_
  simp only [hb, hg]

end

section
variable {pid pa : Nat} {op : AtomOp} {x : Word} (hb : m.body = .postedRed pid pa op x) (hp : m.dst.place = .home)

section
include hm hd hb hp

theorem execPostedWrite_reduces (hg : s.gatherAll (s.lineBlocks pa (BitVec.ofNat 256 (2 ^ (pa % 256)))) true = none) :
    exec (.postedWrite id) s =
      .next (((s.applyRed m pid pa op x).homeDone (s.lineBlocks pa (BitVec.ofNat 256 (2 ^ (pa % 256))))).dropMsg id) := by
  show execPostedWrite id s = _
  refine State.deal_done hm hd ?_
  simp only [hb, hp, hg, ne_eq, not_true_eq_false, if_false]

theorem execPostedWrite_redWaits {u : State} (hg : s.gatherAll (s.lineBlocks pa (BitVec.ofNat 256 (2 ^ (pa % 256)))) true = some u) :
    exec (.postedWrite id) s = .next (u.takeUp id) := by
  show execPostedWrite id s = _
  refine State.deal_wait hm hd ?_
  simp only [hb, hp, hg, ne_eq, not_true_eq_false, if_false]

end

/-- A reduction of a word that lies here, in no queue's window. -/
theorem State.applyRed_backed (hu : s.unbacked pa = false) (hw : (isDram pa && (s.windowOf pa).isSome) = false) :
    s.applyRed m pid pa op x =
      (s.uncachedWrite pa (wordBytes (atomNew op (BitVec.ofNat 32 (bytesNat (s.uncachedRead pa 4))) x 0))).replyTo m
        (.postedAck pid (if isDram pa && s.poisoned (blkOf s.dev pa) then .dataError else .ok)) := by
  unfold State.applyRed
  simp only [hu, hw, Bool.false_eq_true, if_false]

end

theorem execPostedWriteAck_answers (hm : s.msg? id = some m) (hd : s.deals m) {pid : Nat} {st : RemStatus} {p : Post}
    (hb : m.body = .postedAck pid st) (hp : s.post? pid = some p) :
    exec (.postedWriteAck id) s = .next ((s.postAnswer p st).dropMsg id) := by
  show execPostedWriteAck id s = _
  refine State.deal_done hm hd ?_
  simp only [hb, hp]

/-! ### Flagged stores at their home (R312) -/

section
variable {pid pa : Nat} {w : Word} {flag : Option FlagWord}

theorem execFlaggedData_eq (hm : s.msg? id = some m) (hd : s.deals m) (hb : m.body = .flagData pid pa w flag) (hp : m.dst.place = .home) :
    exec (.flaggedData id) s = .next (dealt id (s.applyFlagged m pid pa w flag)) := by
  show execFlaggedData id s = _
  refine (State.deal_deals hm hd _).trans ?_
  simp only [hb, hp, if_true]

theorem execFlagUpdate_eq (hm : s.msg? id = some m) (hd : s.deals m) (hb : m.body = .flagUpd pid pa) (hp : m.dst.place = .home) :
    exec (.flagUpdate id) s = .next (dealt id (s.applyFlag m pid pa)) := by
  show execFlagUpdate id s = _
  refine (State.deal_deals hm hd _).trans ?_
  simp only [hb, hp, if_true]

variable (hu : s.unbacked pa = false) (hw : (isDram pa && (s.windowOf pa).isSome) = false)
include hu hw

theorem State.applyFlagged_writes (hn : s.homeNeeds (blkOf s.dev pa) = none) (hg : s.poisoned (blkOf s.dev pa) = false) :
    s.applyFlagged m pid pa w none = .done ((s.homePut pa (wordBytes w)).replyTo m (.flagAck pid false .ok)) := by
  unfold State.applyFlagged
  simp only [hu, hw, hn, hg, Bool.false_eq_true, if_false]

variable (ha : s.absentAt pa = false) (hn : s.homeNeeds (blkOf s.dev pa) = none)
include ha hn

theorem State.applyFlag_arrives {e : PubEntry} (ho : s.objectAtPa (s.dev * 2 ^ 52 + pa) = some e) :
    s.applyFlag m pid pa = .done ((s.windowArrive e 4).replyTo m (.flagAck pid true .ok)) := by
  unfold State.applyFlag
  simp only [hu, hw, ha, hn, ho, Bool.false_eq_true, if_false]

theorem State.applyFlag_increments (ho : s.objectAtPa (s.dev * 2 ^ 52 + pa) = none) (hg : s.poisoned (blkOf s.dev pa) = false) :
    s.applyFlag m pid pa = .done
      ((s.homePut pa (wordBytes (BitVec.ofNat 32 (s.readPaNat pa 4) + 1))).replyTo m (.flagAck pid true .ok)) := by
  unfold State.applyFlag
  simp only [hu, hw, ha, hn, ho, hg, Bool.false_eq_true, if_false]

end

/-! ### Accesses to published windows (R132) -/

section
variable {pa tag : Nat} {ep : BitVec 4}

theorem execPublishedAccess_load (hm : s.msg? id = some m) (hd : s.deals m) (hb : m.body = .pubLoad pa tag ep) :
    exec (.publishedAccess id) s = .next ((s.answerWindowLoad m pa tag ep).dropMsg id) := by
  show execPublishedAccess id s = _
  refine State.deal_done hm hd ?_
  simp only [hb]

/-- A line that is here without a poisoned block is answered with its bytes. -/
theorem State.answerWindowLoad_here (hv : s.valueHere (blkOf 0 pa) = true)
    (hg : ∀ k ∈ [blkOf 0 (pa / 256 * 256), blkOf 0 (pa / 256 * 256) + 1], s.valueHere k = true → s.poisoned k = false) :
    s.answerWindowLoad m pa tag ep = s.replyTo m (.loadResp tag ep .ok (BitVec.ofNat 2048 (bytesNat
      (blockBytesOf (s.current (blkOf 0 (pa / 256 * 256))) ++ blockBytesOf (s.current (blkOf 0 (pa / 256 * 256) + 1)))))) := by
  have hbad : ([blkOf 0 (pa / 256 * 256), blkOf 0 (pa / 256 * 256) + 1].filter fun k => s.valueHere k && s.poisoned k) = [] := by
    refine List.filter_eq_nil_iff.2 fun k hk => ?_
    cases hx : s.valueHere k
    · exact Bool.false_ne_true
    · simp [hg k hk hx]
  unfold State.answerWindowLoad
  simp only [hv, hbad, List.isEmpty_nil, if_true]

theorem State.answerWindowLoad_refused (hv : s.valueHere (blkOf 0 pa) = false) (hh : m.src.dev = pa / 2 ^ 52) :
    s.answerWindowLoad m pa tag ep = s.replyTo m (.loadResp tag ep .refused 0) := by
  unfold State.answerWindowLoad
  exact (if_neg (ne_true_of_eq_false hv)).trans (if_pos hh)

theorem State.answerWindowLoad_sentBack (hv : s.valueHere (blkOf 0 pa) = false) (hh : m.src.dev ≠ pa / 2 ^ 52) :
    s.answerWindowLoad m pa tag ep = s.send m.src (homeParty (blkOf 0 (pa / 256 * 256))) (.loadReq (pa % 2 ^ 52) 15 tag ep) := by
  unfold State.answerWindowLoad
  exact (if_neg (ne_true_of_eq_false hv)).trans (if_neg hh)

theorem execPublishedAccess_atomic {op : AtomOp} {x y : Word} (hm : s.msg? id = some m) (hd : s.deals m)
    (hb : m.body = .pubAtom pa op x y tag ep) (hv : s.windowMoving (blkOf 0 pa) = false) (hc : (s.localCopy (blkOf 0 pa)).isSome = true) :
    exec (.publishedAccess id) s = .next ((s.doAtomic m (blkOf 0 pa) pa op x y tag ep).dropMsg id) := by
  show execPublishedAccess id s = _
  refine State.deal_done hm hd ?_
  simp only [hb, hv, hc, Bool.false_eq_true, if_false, if_true]

end

end

/-! ## Accesses that are not answered (R305, R306, R308, R316) -/

section
variable {s : State} {c : Nat} {r : Req} (hr : s.req? c r.id = some r) (ho : r.isOpen = true) (hl : r.openLanes ≠ [])
  (hh : r.page.home ≠ s.dev) (hw : r.sent = true ∨ (r.kind.isRead = true ∧ r.tried ≠ none)) (hd : s.route r.page = .remote → r.data = none)

section
include hr ho hl hh hw hd

/-- A remote access that waits for its answer, by whether its home is cut off and by its age. -/
theorem execRemoteLoadTimeout_eq :
    exec (.remoteLoadTimeout c r.id) s = .next (if s.cutOff c r then s.abandonLine c r 0x40
      else if r.age < s.rtoTicks then s else s.abandonLine c r 0x41) := by
  have hl : r.openLanes.isEmpty = false := by simpa using hl
  have hw : (r.sent || (r.kind.isRead && r.tried.isSome)) = true := by
    rcases hw with h | ⟨h, h'⟩
    · simp [h]
    · simp [h, Option.isSome_iff_ne_none.2 h']
  have hd : (s.route r.page == .remote && r.data.isSome) = false := by
    cases hx : s.route r.page == .remote
    · rfl
    · simp [hd (beq_iff_eq.1 hx)]
  show execRemoteLoadTimeout c r.id s = _
  unfold execRemoteLoadTimeout
  simp only [hr, ho, hl, beq_eq_false_iff_ne.2 hh, hw, hd, Bool.true_or, Bool.not_true, Bool.or_self, Bool.false_eq_true, if_false]
  split
  · rfl
  split <;> rfl

end

/-- A line of a remote page is given up with its request and its tag. -/
theorem State.abandonLine_remote (hp : s.route r.page = .remote) (code : Nat) :
    s.abandonLine c r code =
      ((State.retireTag { s with msgs := s.msgs.filter fun m => !s.asksFor c r m } c r.id).modReq c r.id (Req.failAll code)).dropPrefetch
        c r.id := by
  have hn : ¬ (s.route r.page = .token ∧ r.kind.isRead = true) := fun h => by
    have := hp.symm.trans h.1
    cases this
  unfold State.abandonLine
  rw [if_neg hn]

end

section
variable {s : State} {p : Post} (hp : s.post? p.id = some p)
include hp

section
variable (hk : p.kind ≠ .storeLine)
include hk

theorem execPostedWriteTimeout_expires (hh : p.home ≠ s.dev) (hr : s.reachable p.home = true) (ha : s.rtoTicks ≤ p.age) :
    exec (.postedWriteTimeout p.id) s = .next (s.failPost p 0x43 2) := by
  show execPostedWriteTimeout p.id s = _
  unfold execPostedWriteTimeout
  simp only [hp, hk, hh, hr, ha, Bool.not_true, Bool.false_and, Bool.false_eq_true, if_false, if_true]

theorem execPostedWriteTimeout_cutOff (hh : p.home ≠ s.dev) (hr : s.reachable p.home = false)
    (hx : ∃ m ∈ s.msgs, m.dst.dev ≠ s.dev ∧ carries m p.id = true) :
    exec (.postedWriteTimeout p.id) s = .next
      (State.failPost { s with msgs := s.msgs.filter fun m => !(m.dst.dev != s.dev && carries m p.id) } p 0x43 1) := by
  have hany : (s.msgs.any fun m => m.dst.dev != s.dev && carries m p.id) = true := by simpa using hx
  show execPostedWriteTimeout p.id s = _
  unfold execPostedWriteTimeout
  simp only [hp, hk, hh, hr, hany, Bool.not_false, Bool.and_self, if_false, if_true]

theorem execPostedWriteTimeout_here (hh : p.home = s.dev) (ha : s.rtoTicks ≤ p.age)
    (hx : ∀ m ∈ s.msgs, m.dst.dev = s.dev → carries m p.id = false ∧ answers m p.id = false) :
    exec (.postedWriteTimeout p.id) s = .next (s.failPost p 0x43 2) := by
  have hall : (s.msgs.all fun m => !(m.dst.dev == s.dev && (carries m p.id || answers m p.id))) = true := by
    refine List.all_eq_true.2 fun m hm => ?_
    cases hb : m.dst.dev == s.dev
    · rfl
    · obtain ⟨h1, h2⟩ := hx m hm (beq_iff_eq.1 hb)
      simp [h1, h2]
  show execPostedWriteTimeout p.id s = _
  unfold execPostedWriteTimeout
  simp only [hp, hk, hh, ha, hall, and_self, if_false, if_true]

end

/-! ### Store lines (R316) -/

section
variable (hk : p.kind = .storeLine)
include hk

/-- `x` is what `lineNum` answers: the number that the line gets, and the state after. -/
theorem execStoreLinePost_posts {hs : List Hold} (hn : p.sent = false) (hf : ∀ sc, relScope p.ord = some sc → s.flushShut p.core sc = false)
    (hc : s.collected p = some hs) {num : Option Nat} {a : State} (hx : (hs.foldl (fun s h => s.giveStored p h) s).lineNum p = (num, a)) :
    let b := (a.modPost p.id fun x => { x with sent := true, age := 0, num := num.getD x.num }).reAsk p.core p.blocks
    exec (.storeLinePost p.id) s = .next (b.send (b.here (.die (b.core p.core).die)) ⟨p.home, .home⟩
      (.storeLine p.id (hs.map fun h => (h.blk, h.serial, p.applyTo h)) num)) := by
  have hf : (relScope p.ord).any (s.flushShut p.core) = false := by
    cases h : relScope p.ord with
    | none => rfl
    | some sc => exact hf sc h
  show execStoreLinePost p.id s = _
  unfold execStoreLinePost
  simp only [hp, hk, hn, hf, hc, hx, ne_eq, not_true_eq_false, Bool.false_eq_true, or_self, if_false]

/-- A store line whose tokens are not collected fails with the reason that is there, and gives up what was collected. -/
theorem execStoreLineTimeout_eq (hn : p.sent = false) (hh : p.home ≠ s.dev) :
    exec (.storeLineTimeout p.id) s = .next (if s.reachable p.home = false then (s.failPost p 0x43 1).giveUp p.core p.blocks
      else if p.age < s.rtoTicks then s else (s.failPost p 0x43 2).giveUp p.core p.blocks) := by
  show execStoreLineTimeout p.id s = _
  unfold execStoreLineTimeout
  simp only [hp, hk, hn, hh, ne_eq, not_true_eq_false, Bool.false_eq_true, or_self, if_false, Bool.not_eq_true']
  split
  · rfl
  split <;> rfl

variable (hn : p.sent = true)
include hn

theorem execStoreAckTimeout_cutOff (hr : s.reachable p.home = false) (hx : ∃ m ∈ s.msgs, m.dst.dev ≠ s.dev ∧ carries m p.id = true) :
    exec (.storeAckTimeout p.id) s = .next
      ((State.dropShadows { s with msgs := s.msgs.filter fun m => !(m.dst.dev != s.dev && carries m p.id) } p).failPost p 0x43 1) := by
  have hany : (s.msgs.any fun m => m.dst.dev != s.dev && carries m p.id) = true := by simpa using hx
  show execStoreAckTimeout p.id s = _
  unfold execStoreAckTimeout
  simp only [hp, hk, hn, hr, hany, ne_eq, not_true_eq_false, Bool.not_true, Bool.not_false, Bool.and_self, Bool.false_eq_true, or_self,
    if_false, if_true]

variable (ha : s.rtoTicks ≤ p.age)
include ha

theorem execStoreAckTimeout_unreachable (hr : s.reachable p.home = false)
    (hx : ∀ m ∈ s.msgs, m.dst.dev ≠ s.dev → carries m p.id = false) :
    exec (.storeAckTimeout p.id) s = .next ((s.dropShadows p).failPost p 0x43 1) := by
  have hany : (s.msgs.any fun m => m.dst.dev != s.dev && carries m p.id) = false := by simpa using hx
  show execStoreAckTimeout p.id s = _
  unfold execStoreAckTimeout
  simp only [hp, hk, hn, hr, hany, Nat.not_lt.2 ha, ne_eq, not_true_eq_false, Bool.not_true, Bool.not_false, Bool.and_false, Bool.false_eq_true,
    or_self, if_false, if_true]

theorem execStoreAckTimeout_asks (hr : s.reachable p.home = true) (hc : s.collected p = none) :
    exec (.storeAckTimeout p.id) s = .next
      ((p.blocks.filter fun b => (s.hold? (.die (s.core p.core).die) b).all fun h => !h.writable).foldl (fun s b => s.askAgain p b) s) := by
  show execStoreAckTimeout p.id s = _
  unfold execStoreAckTimeout
  simp only [hp, hk, hn, hr, hc, Nat.not_lt.2 ha, ne_eq, not_true_eq_false, Bool.not_true, Bool.false_and, Bool.false_eq_true, or_self, if_false]

end

end

/-- Settles O52: clause by clause, each event in a state in which it is enabled. -/
theorem remoteEvents : Obligations.RemoteEvents := by
  unfold Obligations.RemoteEvents
  refine ⟨fun s id m hm hd => ?messages, fun s c r hr ho hl hh hw hd => ?loads, fun s p hp => ?posts⟩
  case messages =>
    intro done
    refine ⟨fun tag ep st data c r hb ha => ?answer,
      fun pid pa mask d hb => ⟨execPostedWrite_applies hm hd hb, fun u => execPostedWrite_waits hm hd hb⟩,
      fun pid pa op x hb hp => ⟨execPostedWrite_reduces hm hd hb hp, fun u => execPostedWrite_redWaits hm hd hb hp⟩,
      fun pid pa op x hu hw => State.applyRed_backed hu hw, fun pid st p hb hp => ?ack, fun pid pa w flag hb hp => ?data, fun pid pa hb hp => ?flag,
      fun pa tag ep hb => ?load, fun pa op x y tag ep hb => execPublishedAccess_atomic hm hd hb⟩
    case answer =>
      intro gets bad
      have came (hk : ∀ op, r.kind ≠ .atom op) : s.lineCame c r data = gets true := State.lineCame_read hk data
      have known {op} (hk : r.kind = .atom op) : s.lineCame c r data = gets false := State.lineCame_atom hk data
      refine ⟨fun hk => ⟨fun hs => ?_, fun hs hq => ?_, fun hs hq => ?_⟩, fun op hk => ⟨fun hs => ?_, fun hs hq => ?_⟩,
        execRemoteResponse_notBacked hm hd hb ha⟩
      · rw [← came hk]
        exact execRemoteResponse_ok hm hd hb ha hs
      · rw [← came hk]
        exact execRemoteResponse_dataErrorQuiet hm hd hb ha hs hq
      · rw [← came hk]
        exact execRemoteResponse_dataError hm hd hb ha hs hq
      · rw [← known hk]
        exact execRemoteResponse_ok hm hd hb ha hs
      · have hq : r.quiet = false := by simp [Req.quiet, hq, hk]
        rw [← known hk]
        exact execRemoteResponse_dataError hm hd hb ha hs hq
    case ack =>
      have h := execPostedWriteAck_answers hm hd hb hp
      refine ⟨?_, ?_, ?_, ?_, ?_, ?_⟩ <;> rintro rfl <;> exact h
    case data =>
      have h := execFlaggedData_eq hm hd hb hp
      refine ⟨h, fun hu hw hn hg hf => h.trans ?_⟩
      rw [hf, State.applyFlagged_writes hu hw hn hg]
      rfl
    case flag =>
      have h := execFlagUpdate_eq hm hd hb hp
      refine ⟨h, fun hu hw ha hn => ⟨fun e ho => h.trans ?_, fun ho hg => h.trans ?_⟩⟩
      · rw [State.applyFlag_arrives hu hw ha hn ho]
        rfl
      · rw [State.applyFlag_increments hu hw ha hn ho hg]
        rfl
    case load =>
      intro b
      have h {u : State} (hu : s.answerWindowLoad m pa tag ep = u) : done (.publishedAccess id) u :=
        hu ▸ execPublishedAccess_load hm hd hb
      exact ⟨fun hv hg => h (State.answerWindowLoad_here hv hg), fun hv hs => h (State.answerWindowLoad_refused hv hs),
        fun hv hs => h (State.answerWindowLoad_sentBack hv hs)⟩
  case loads =>
    have h := execRemoteLoadTimeout_eq hr ho hl hh hw hd
    refine ⟨fun hc => h.trans (congrArg _ (if_pos hc)), fun hc ha => h.trans (congrArg _ ?_), fun hp code => State.abandonLine_remote hp code⟩
    exact (if_neg (ne_true_of_eq_false hc)).trans (if_neg (Nat.not_lt.2 ha))
  case posts =>
    refine ⟨fun hk hh => ⟨fun hr ha => execPostedWriteTimeout_expires hp hk hh hr ha,
        fun hr hx => execPostedWriteTimeout_cutOff hp hk hh hr hx⟩,
      fun hk hh ha hx => execPostedWriteTimeout_here hp hk hh ha hx, fun hk => ⟨fun hs hn hf hc => execStoreLinePost_posts hp hk hn hf hc rfl,
        fun hn hh hr => ?_, fun hn hh hr ha => ?_, fun hn ha hr hx => execStoreAckTimeout_unreachable hp hk hn ha hr hx,
        fun hn hr hx => execStoreAckTimeout_cutOff hp hk hn hr hx, fun hn ha hr hc => execStoreAckTimeout_asks hp hk hn ha hr hc⟩⟩
    · exact (execStoreLineTimeout_eq hp hk hn hh).trans (congrArg _ (if_pos hr))
    · exact (execStoreLineTimeout_eq hp hk hn hh).trans (congrArg _ ((if_neg (by simp [hr])).trans (if_neg (Nat.not_lt.2 ha))))

end Sys2Proof.Machine

namespace Sys2Proof.Machine

/-! ## Instructions through a slot, with and without a draw (R116, R117) -/

section
variable {s : State} {t : Team} {g : Guard} {n : Slot} {sl : SlotVal} {uses : Fibre → List Nat} {ok : SlotVal → Bool}
  {draws : SlotVal → Nat} {f : SlotVal → Word → Nat → Fibre → Fibre} (h : CanIssue s t g uses) (hs : s.slot t n = some sl) (hok : ok sl = true)
include h hs hok

/-- Where the slot is stochastic and some fibre executes, the generator steps on from where the instruction finds it. -/
theorem slotOp_draws (hd : sl.rnd = .stochastic ∧ s.active t g ≠ []) :
    slotOp g n uses ok draws f s = .next ((s.writeFibres (s.active t g) 4 (f sl (s.core t.core).gen)).modCore t.core fun c =>
      { c with gen := lfsrSteps (draws sl) (s.core t.core).gen }) := by
  rw [slotOp_runs h hs hok]
  exact congrArg _ ((if_neg (by simp [hd.1, hd.2])).trans (State.modCore_congr rfl))

/-- In every other case the generator stays. -/
theorem slotOp_keepsGen (hd : ¬ (sl.rnd = .stochastic ∧ s.active t g ≠ [])) :
    slotOp g n uses ok draws f s = .next (s.writeFibres (s.active t g) 4 (f sl (s.core t.core).gen)) := by
  rw [slotOp_runs h hs hok]
  refine congrArg _ (if_pos ?_)
  rw [Bool.or_eq_true, List.isEmpty_iff, bne_iff_ne]
  exact (Classical.not_and_iff_not_or_not.1 hd).symm.imp_left not_not.1

end

/-! ## Promotion, clearing, the online softmax and the side registers (R169 to R173) -/

/-- A promotion, where no fibre's open partial belongs to another accumulator (R169). -/
theorem execQpro_promotes {s : State} {t : Team} {g : Guard} {b a : Reg} {db : BitVec 4}
    (h : CanIssue s t g fun _ => a.toNat :: b.toNat :: group db 16)
    (ht : ∀ i ∈ s.active t g, (t.fibre i).mat.isOpen = true → (t.fibre i).mat.tag = db) :
    execQpro g b a db s =
      .next (s.writeFibres (s.active t g) 4 fun _ f => promote a.toNat b.toNat (4 * db.toNat) f) := by
  unfold execQpro
  refine h.runs (.cons (fun i hi => if_neg ?_) .nil)
  rw [Bool.and_eq_true, bne_iff_ne]
  exact fun ⟨ho, hn⟩ => hn (ht i hi ho)

/-- Settles O33: `qpro` passes its one check, `smx.cvt` goes through its slot, and the others are lane operations. -/
theorem matrixSideInstructions : Obligations.MatrixSideInstructions := by
  unfold Obligations.MatrixSideInstructions
  intro s t g l n v b a d sb db act gen
  refine ⟨fun h ht => ?promotes, fun h => ?clears, fun h => ⟨?softens, fun hs hv => ⟨fun hd => ?draws, fun hd => ?keepsGen⟩⟩,
    fun h => ?reads, fun h => ?writes⟩
  case promotes => exact execQpro_promotes h ht
  case clears => exact laneOp_runs h
  case softens => exact laneOp_runs h
  case draws =>
    show execSmxCvt g n sb db s = _
    unfold execSmxCvt
    exact slotOp_draws h hs hv hd
  case keepsGen =>
    show execSmxCvt g n sb db s = _
    unfold execSmxCvt
    exact slotOp_keepsGen h hs hv hd
  case reads => exact gives_of_laneOp h (fun _ => List.mem_singleton_self _) rfl
  case writes => exact laneOp_runs h

end Sys2Proof.Machine

namespace Sys2Proof.Machine

/-! ## The issue of a qmma (R163, R165) -/

/-- Check 5 is made only where the implicit fetch is due (R149, R163). -/
theorem fetchChecks_eq_nil {t : Team} {h : Nat} (hs : (t.handle h).fetchDue = false) : fetchChecks t h = [] := by
  unfold fetchChecks
  cases (t.handle h).bound with
  | none => rfl
  | some b => exact if_neg (ne_true_of_eq_false hs)

section
variable {s : State} {t : Team} {g : Guard} {sl : Slot} {half : Bool} {ab bb db : BitVec 4}

/-- A `qmma` whose handle holds an image reads it where the scoreboard has room for the reads of its quarters (R152, R165). -/
theorem qmmaHandle_multiplies {h : Handle} (hi : CanIssue s t g fun _ => group ab 16 ++ group db 16)
    (hc : NoCause s t g (matrixChecks s t (s.active t g) sl half db (imageChecks t h.toNat half))) (ha : s.active t g ≠ [])
    (hst : (t.handle h.toNat).st = .full ∨ (t.handle h.toNat).st = .draining)
    (hr : (s.core t.core).cmds.length + (s.core t.core).reads.length + (distinct ((s.active t g).map quarterOf)).length ≤ 256)
    (reuse : Bool) :
    exec (.qmmaHandle g reuse half sl h ab db) s =
      .next (s.multiply t (s.active t g) sl reuse half ab db fun _ => s.handleImage t h.toNat half) := by
  have fill : (t.handle h.toNat).st ≠ .filling := by rcases hst with hst | hst <;> simp [hst]
  have fetch : (t.handle h.toNat).fetchDue = false := by rcases hst with hst | hst <;> simp [HandleState.fetchDue, hst]
  have room : s.scoreboardLacks t.core (distinct ((s.active t g).map quarterOf)).length = false := decide_eq_false (Nat.not_lt.2 hr)
  show execQmmaHandle g reuse half sl h ab db s = _
  unfold execQmmaHandle
  rw [hi.runs (hc.append (by rw [fetchChecks_eq_nil fetch]; exact .nil))]
  exact congrArg _ ((if_neg (not_isEmpty_of_ne ha)).trans ((if_neg fill).trans
    ((if_neg (ne_true_of_eq_false fetch)).trans (if_neg (ne_true_of_eq_false room)))))

/-- A `qmma` with B in registers reads the image of each quarter from its lanes (R160). -/
theorem qmmaReg_multiplies (hi : CanIssue s t g fun _ => group ab 16 ++ group db 16 ++ group bb 32)
    (hc : NoCause s t g (matrixChecks s t (s.active t g) sl half db [])) (reuse : Bool) :
    exec (.qmmaReg g reuse half sl bb ab db) s = .next (s.multiply t (s.active t g) sl reuse half ab db fun q =>
      regImage t (sortLanes (inQuarter (s.active t g) q)) (4 * bb.toNat)) := by
  show execQmmaReg g reuse half sl bb ab db s = _
  unfold execQmmaReg
  exact hi.runs hc

end

/-! ## Exact sums of integer products (R164) -/

/-- The integer of a sign and a magnitude. -/
def signed (neg : Bool) (m : Nat) : Int := if neg then -m else m

@[simp] theorem signed_zero (neg : Bool) : signed neg 0 = 0 := by cases neg <;> rfl

theorem signed_natAbs (i : Int) : signed (decide (i < 0)) i.natAbs = i := by
  unfold signed
  split <;> rename_i h <;> rw [decide_eq_true_iff] at h <;> omega

theorem signed_mul (s u : Bool) (m n : Nat) : signed (s != u) (m * n) = signed s m * signed u n := by
  cases s <;> cases u <;> simp [signed]

/-- The value is the integer `i`, counted in ones; a zero may have either sign. -/
def FVal.IsInt (v : FVal) (i : Int) : Prop := ∃ neg m, v = .fin neg m 0 ∧ signed neg m = i

theorem FVal.isInt_zero : (FVal.fin false 0 0).IsInt 0 := ⟨false, 0, rfl, rfl⟩

theorem FVal.isInt_natAbs (i : Int) : (FVal.fin (i < 0) i.natAbs 0).IsInt i := ⟨_, _, rfl, signed_natAbs i⟩

theorem FVal.IsInt.mul {x y : FVal} {i j : Int} (hx : x.IsInt i) (hy : y.IsInt j) : (x.mul y).IsInt (i * j) := by
  obtain ⟨s, m, rfl, rfl⟩ := hx
  obtain ⟨u, n, rfl, rfl⟩ := hy
  exact ⟨s != u, m * n, rfl, signed_mul s u m n⟩

/-- Values counted in ones add as integers do. -/
theorem FVal.add_ones (s u : Bool) (m n : Nat) : (FVal.fin s m 0).add (.fin u n 0) =
    if m = 0 ∧ n = 0 then .fin (s && u) 0 0
    else if m = 0 then .fin u n 0
    else if n = 0 then .fin s m 0
    else if signed s m + signed u n = 0 then .fin false 0 0
    else .fin (signed s m + signed u n < 0) (signed s m + signed u n).natAbs 0 := by
  have h (k : Nat) : k * 2 ^ ((0 : Int) - min 0 0).toNat = k := Nat.mul_one k
  simp only [FVal.add, h]
  rfl

theorem FVal.IsInt.add {x y : FVal} {i j : Int} (hx : x.IsInt i) (hy : y.IsInt j) : (x.add y).IsInt (i + j) := by
  obtain ⟨s, m, rfl, rfl⟩ := hx
  obtain ⟨u, n, rfl, rfl⟩ := hy
  rw [FVal.add_ones]
  split_ifs with hz hm hn hs
  · exact ⟨s && u, 0, rfl, by simp [hz]⟩
  · exact ⟨u, n, rfl, by simp [hm]⟩
  · exact ⟨s, m, rfl, by simp [hn]⟩
  · exact ⟨false, 0, rfl, hs.symm⟩
  · exact FVal.isInt_natAbs _

/-- The sum of products, element by element. -/
theorem isInt_dot {a b : Nat → FVal} {i j : Nat → Int} (ks : List Nat) (ha : ∀ k ∈ ks, (a k).IsInt (i k)) (hb : ∀ k ∈ ks, (b k).IsInt (j k)) :
    (dot (ks.map a) (ks.map b)).IsInt (ks.map fun k => i k * j k).sum := by
  induction ks with
  | nil => exact FVal.isInt_zero
  | cons k ks ih =>
    rw [List.forall_mem_cons] at ha hb
    exact (ha.1.mul hb.1).add (ih ha.2 hb.2)

theorem directD_int8 {sl : SlotVal} {v : FVal} {i : Int} (he : sl.elem = .int8) (hv : v.IsInt i) (d : Word) :
    directD sl d v = d + BitVec.ofInt 32 i := by
  obtain ⟨s, m, rfl, rfl⟩ := hv
  simp [directD, he, signed]

/-- An INT8 element, from the byte it is read from. -/
theorem isInt_int8 (flush : Bool) {x y : Nat} (h : x = y % 2 ^ 8) : (Elem.int8.val flush x).IsInt (BitVec.ofNat 8 y).toInt := by
  have hb : BitVec.ofNat 8 x = BitVec.ofNat 8 y := by
    subst h
    exact BitVec.eq_of_toNat_eq (by simp)
  rw [← hb]
  exact FVal.isInt_natAbs _

/-! ## The elements of A (R160) -/

theorem wordsNat_word (ws : List Word) (n : Nat) : wordsNat ws / 2 ^ (32 * n) % 2 ^ 32 = nat (ws.getD n 0) := by
  induction ws generalizing n with
  | nil => simp [wordsNat]
  | cons w ws ih =>
    have hw := w.isLt
    have hc : wordsNat (w :: ws) = w.toNat + 2 ^ 32 * wordsNat ws := rfl
    cases n with
    | zero =>
      rw [hc, List.getD_cons_zero, Nat.mul_zero, pow_zero, Nat.div_one, Nat.add_mul_mod_self_left, Nat.mod_eq_of_lt hw]
    | succ n =>
      rw [hc, List.getD_cons_succ, ← ih, Nat.mul_succ, Nat.add_comm (32 * n), pow_add, ← Nat.div_div_eq_div_mul,
        Nat.add_mul_div_left _ _ (by decide), Nat.div_eq_of_lt hw, Nat.zero_add]

/-- Byte `r` of a word that stands at the low end of a number. -/
theorem byte_mod_word (x : Nat) {r : Nat} (hr : r < 4) : x % 2 ^ 32 / 2 ^ (8 * r) % 2 ^ 8 = x / 2 ^ (8 * r) % 2 ^ 8 := by
  interval_cases r <;> omega

/-- An 8-bit element of A is byte k mod 4 of register k div 4. -/
theorem rowElem_byte {el : Elem} (hw : el.width = 8) (ws : List Word) (k : Nat) :
    rowElem el (wordsNat ws) k = nat (ws.getD (k / 4) 0) / 2 ^ (8 * (k % 4)) % 2 ^ 8 := by
  have hk : 8 * k = 32 * (k / 4) + 8 * (k % 4) := by omega
  rw [rowElem, hw, ← wordsNat_word, byte_mod_word _ (Nat.mod_lt k (by decide)), Nat.div_div_eq_div_mul, ← pow_add, ← hk]

/-! ## INT8 accumulation (R164) -/

@[simp] theorem Fibre.regsFrom_length (f : Fibre) (a n : Nat) : (f.regsFrom a n).length = n := by simp [Fibre.regsFrom]

theorem Fibre.regsFrom_getD (f : Fibre) (a : Nat) {k n : Nat} (hk : k < n) : (f.regsFrom a n).getD k 0 = f.reg (a + k) := by
  simp [Fibre.regsFrom, hk]

/-- The value of an element of row A in registers, as the two's complement byte that it is. -/
theorem isInt_rowElem (flush : Bool) (f : Fibre) (a : Nat) {k : Nat} (hk : k < 64) :
    (Elem.int8.val flush (rowElem .int8 (wordsNat (f.regsFrom a 16)) k)).IsInt
      (BitVec.ofNat 8 (nat (f.reg (a + k / 4)) / 2 ^ (8 * (k % 4)))).toInt :=
  isInt_int8 flush ((rowElem_byte rfl _ k).trans (by rw [Fibre.regsFrom_getD f a (by omega)]))

/-- Column j of the exact product of row A and the image. -/
theorem isInt_dot_column {sl : SlotVal} (he : sl.elem = .int8) (image : Nat) (f : Fibre) (a j : Nat) :
    (dot (rowValues sl (f.regsFrom a 16)) (column sl image j)).IsInt ((List.range 64).map fun k =>
      (BitVec.ofNat 8 (nat (f.reg (a + k / 4)) / 2 ^ (8 * (k % 4)))).toInt * (BitVec.ofNat 8 (image / 2 ^ (8 * (16 * k + j)))).toInt).sum := by
  unfold rowValues column
  rw [he]
  exact isInt_dot _ (fun k hk => isInt_rowElem _ f a (List.mem_range.1 hk)) fun k _ => isInt_int8 _ rfl

/-- A direct or integer accumulation changes each element of D by its column of the product. -/
theorem accumulate_reg {sl : SlotVal} (hm : sl.scaleMode = 0) (half : Bool) (image a : Nat) {db : Nat} {f : Fibre} {j : Nat} (hj : j < 16)
    (hd : db + 16 ≤ f.regs.length) : (accumulate sl half image a db f).reg (db + j) =
      directD sl (f.reg (db + j)) (dot (rowValues sl (f.regsFrom a 16)) (column sl image j)) := by
  have hs : scaled sl = false := by simp [scaled, hm]
  simp only [accumulate, accumulateRow, hs, Bool.false_eq_true, if_false]
  rw [Fibre.setRegs_same (by simpa using hj) (by omega)]
  simp [Fibre.regsFrom]

/-- Settles O32: a `qmma` that passes its checks has the effect of `State.multiply`, whatever the latch holds, and sums of products of whole
numbers stay whole. -/
theorem matrixMultiply : Obligations.MatrixMultiply := by
  unfold Obligations.MatrixMultiply
  refine ⟨fun s t g reuse half sl h ab bb db v => ?multiplies, fun sl half image a db f j he hm hj hd => ?sums⟩
  case multiplies =>
    intro act x does hs
    refine ⟨fun hi hc ha hst hr => ?handle, fun hi hc => ?register⟩
    case handle => exact (qmmaHandle_multiplies hi hc ha hst hr reuse).trans (congrArg _ (State.multiply_slot hs ..))
    case register => exact (qmmaReg_multiplies hi hc reuse).trans (congrArg _ (State.multiply_slot hs ..))
  case sums =>
    intro elem
    exact (accumulate_reg hm half image a hj hd).trans (directD_int8 he (isInt_dot_column he image f a j) _)

end Sys2Proof.Machine

namespace Sys2Proof.Machine

/-! ## Instructions of the trap handler (R201, R234) -/

section
variable {s : State} {t : Team} {g : Guard} {n : Nat}

/-- In the handler a privileged instruction that can issue has its effect. -/
theorem CanIssue.runsPrivileged {eff : State → Team → List Nat → State} {uses : Fibre → List Nat} (h : CanIssue s t g uses)
    (hp : t.handlerFor = some n) :
    issue { guard := g, uses := uses, early := [fun i f => s.curTeam.bind fun t => checkPriv t i f] } (fun _ _ _ => []) eff s =
      .next (eff s t (s.active t g)) := by
  refine issue_runs (fm := ⟨g, uses, [], false, _⟩) h rfl (.cons (fun _ _ => ?_) .nil) .nil
  simp [h.team, checkPriv, Team.privileged, hp]

/-- The address space whose generation is advanced, or whose lines are flushed: the acting lane's operand. -/
def Team.operandSpace (t : Team) (act : List Nat) (d : Reg) : BitVec 10 := ((t.fibre (actingLane act)).reg d.toNat).setWidth 10

theorem execSflush_flushes {d : Reg} (h : CanIssue s t g fun _ => [d.toNat]) (hp : t.handlerFor = some n) (ha : s.active t g ≠ [])
    (hv : s.viewsShut = false) : execSflush g d s = .next ((s.flushSpace (t.operandSpace (s.active t g) d)).advance 4) := by
  refine (h.runsPrivileged hp).trans ?_
  simp only [List.isEmpty_eq_false_iff.2 ha, hv, Bool.false_eq_true, if_false]
  rfl

/-- The generation of an address space advances, and its old one waits for the sweep (R206). -/
def State.bumped (s : State) (a : BitVec 10) : State :=
  let new := s.genOf a + 1
  { s with sys := { s.sys with
    gens := if new = 0 then assocDel s.sys.gens a.toNat else assocSet s.sys.gens a.toNat new
    retiredGens := s.sys.retiredGens ++ [(a.toNat, s.genOf a)] } }.fresh

theorem assoc_assocSet {β : Type} (l : List (Nat × β)) (k : Nat) (v : β) : assoc (assocSet l k v) k = some v := by
  unfold assoc assocSet
  split
  · next h =>
    rw [List.find?_map, Option.map_map]
    obtain ⟨p, hp, hk⟩ := List.any_eq_true.1 h
    have hf : l.find? ((fun p : Nat × β => p.1 == k) ∘ fun p => if p.1 == k then (k, v) else p) = l.find? fun p => p.1 == k :=
      congrArg (l.find? ·) (funext fun p => by by_cases h : p.1 = k <;> simp [h])
    obtain ⟨q, hq⟩ := Option.isSome_iff_exists.1 (List.find?_isSome (p := fun p => p.1 == k).2 ⟨p, hp, hk⟩)
    have hqk : q.1 = k := by simpa using List.find?_some hq
    rw [hf, hq]
    simp [hqk]
  · next h =>
    have hn : l.find? (fun p => p.1 == k) = none := List.find?_eq_none.2 fun p hp hk => h (List.any_eq_true.2 ⟨p, hp, hk⟩)
    simp [List.find?_append, hn]

theorem assoc_assocDel {β : Type} (l : List (Nat × β)) (k : Nat) : assoc (assocDel l k) k = none := by
  simp [assoc, assocDel, List.find?_eq_none]

/-- Generations are counted modulo 4,096 (R206). -/
theorem State.genOf_bumped (a : BitVec 10) : (s.bumped a).genOf a = s.genOf a + 1 := by
  show (assoc (if s.genOf a + 1 = 0 then _ else _) a.toNat).getD 0 = _
  split
  · next h => rw [assoc_assocDel, h]; rfl
  · rw [assoc_assocSet]; rfl

/-- With no access of the space outstanding, `asgen` advances its generation and writes its sectors back at once. -/
theorem execAsgen_bumps {d : Reg} (h : CanIssue s t g fun _ => [d.toNat]) (hp : t.handlerFor = some n) (ha : s.active t g ≠ [])
    (hb : s.sys.bumps = []) (hr : ((t.operandSpace (s.active t g) d).toNat, s.genOf (t.operandSpace (s.active t g) d) + 1) ∉ s.sys.retiredGens)
    (ho : s.oldAccesses (t.operandSpace (s.active t g) d) s.nextId = false) :
    execAsgen g d s = .next ((s.bumped (t.operandSpace (s.active t g) d)).writeBackAll.advance 4) := by
  refine (h.runsPrivileged hp).trans (congrArg _ ?_)
  have ho : (s.bumped (t.operandSpace (s.active t g) d)).oldAccesses (t.operandSpace (s.active t g) d) s.nextId = false := ho
  simp only [List.isEmpty_eq_false_iff.2 ha, Bool.false_eq_true, if_false]
  split
  · next b hf => rw [hb] at hf; cases hf
  · exact (if_neg fun hc => hr (List.contains_iff_mem.1 hc)).trans (if_neg (ne_true_of_eq_false ho))

/-- The handler's team leaves its core once the release of `tret` has been made (R235). -/
def State.handlerLeft (s : State) (t : Team) : State :=
  let b := s.releaseViews t.core .pkg
  { b with
    issues := b.cur.core :: b.issues
    teams := b.teams.filter fun x => x.id != t.id }.modCore t.core fun c => { c with handler := none }

theorem execTret_leaves (h : CanIssue s t g fun _ => []) (hp : t.handlerFor = some n) (ha : s.active t g ≠ [])
    (hd : s.performedAt t (s.active t g) .sys = true) (hf : ∀ x, s.team? n = some x → s.gatherFrame x = none)
    {o : Option Team} (ho : (s.handlerLeft t).team? n = o) :
    execTret g s = .next (o.elim (s.handlerLeft t) (s.handlerLeft t).resumeTrapped) := by
  subst ho
  refine (h.runsPrivileged hp).trans (congrArg _ ?_)
  have hg : (s.team? n).bind s.gatherFrame = none := Option.bind_eq_none_iff.2 hf
  simp only [List.isEmpty_eq_false_iff.2 ha, hd, hp, Option.bind_some, hg, Bool.not_true, Bool.false_eq_true, if_false]
  show (match (s.handlerLeft t).team? n with | some x => (s.handlerLeft t).resumeTrapped x | none => s.handlerLeft t) = _
  cases (s.handlerLeft t).team? n <;> rfl

theorem execHalt_ends (h : CanIssue s t g fun _ => []) (hp : t.handlerFor = some n) (ha : s.active t g ≠ []) :
    execHalt g s = .next ((s.issued.fail t.launch 3).reseed s t.core) := by
  refine (h.runsPrivileged hp).trans (congrArg _ ?_)
  simp only [List.isEmpty_eq_false_iff.2 ha, Bool.false_eq_true, if_false]

end

/-- Settles O37: in the handler each instruction passes check 5 and has its effect. -/
theorem privilegedInstructions : Obligations.PrivilegedInstructions := by
  unfold Obligations.PrivilegedInstructions
  intro s t g d n hp ha act a
  refine ⟨fun h => ⟨execSflush_flushes h hp ha, fun hb hr ho => ?asgen⟩, fun h => ⟨fun hd hf => ?tret, execHalt_ends h hp ha⟩⟩
  case asgen => exact ⟨s.bumped a, execAsgen_bumps h hp ha hb hr ho, rfl, s.genOf_bumped a⟩
  case tret => exact ⟨execTret_leaves h hp ha hd hf, fun _ => execTret_leaves h hp ha hd hf⟩

/-! ## Publication (R131 to R133, R209) -/

theorem blocksOfPages_length (ps : List Nat) : (blocksOfPages ps).length = 64 * ps.length := by
  simp [blocksOfPages, List.length_flatMap, Nat.mul_comm]

section
variable {s : State} {t : Team} {g : Guard}

theorem State.pubBlocks_length (va n : Nat) : (s.pubBlocks t va n).length ≤ n :=
  (List.length_filterMap_le _ _).trans_eq (by simp [pubPages])

/-- The acting lane's descriptor names no pages: the window at its local address is unpublished. -/
theorem execLpub_unpublishes {a d : Reg} {k : Nat} (h : CanIssue s t g fun _ => [a.toNat, a.toNat + 1, d.toNat, d.toNat + 1])
    (ha : s.active t g ≠ []) (hc : NoCause s t g (s.lpubChecks t (s.active t g) d.toNat a.toNat))
    (hz : pubSize ((t.fibre (actingLane (s.active t g))).reg d.toNat) = 0)
    (hw : s.windowAt t (pubLbase ((t.fibre (actingLane (s.active t g))).reg d.toNat)) = some k) :
    execLpub g a d s = .next ((s.unpublish t.core k).advance 4) := by
  have he := List.isEmpty_eq_false_iff.2 ha
  refine (h.runs (by simpa only [he, Bool.false_eq_true, if_false] using hc)).trans (congrArg _ ?_)
  simp only [he, hz, hw, Bool.false_eq_true, if_false, if_true]

/-- A block that a publication waits for no longer: the core holds it whole, and it stands in no window of the core, open or left. -/
structure State.Gathered (s : State) (c b : Nat) : Prop where
  held : ∃ h, s.hold? (.pubCore c) b = some h ∧ h.writable = true
  granted : ∀ q, s.want? (.pubCore c) b = some q → q.denied = false
  free : s.windowHere c b = false
  written : ∀ u ∈ (s.core c).unpub, u.blk ≠ b

/-- Nothing of an unpublished window stands in the way of a window of `n` pages at `la`. -/
theorem State.leftOn_nil {c n la : Nat} {pages : List Nat} (hn : pages.length ≤ n) (hb : ∀ b ∈ blocksOfPages pages, s.Gathered c b)
    (hu : ∀ u ∈ (s.core c).unpub, u.la + 128 ≤ la ∨ la + n * 8192 ≤ u.la) : s.leftOn c (blocksOfPages pages) la = [] := by
  refine List.filter_eq_nil_iff.2 fun u hm => ?_
  have hlen := blocksOfPages_length pages
  have hapart := hu u hm
  have hother : u.blk ∉ blocksOfPages pages := fun hin => (hb _ hin).written u hm rfl
  simp only [List.contains_iff_mem.not.2 hother, overlaps, Bool.or_eq_true, Bool.and_eq_true, decide_eq_true_eq,
    Bool.false_eq_true, false_or]
  omega

/-- All blocks of the window are held: it opens. -/
theorem execLpub_publishes {a d : Reg} {x : Fibre} {w : Word} {va : Nat} {pages : List Nat}
    (h : CanIssue s t g fun _ => [a.toNat, a.toNat + 1, d.toNat, d.toNat + 1]) (ha : s.active t g ≠ [])
    (hc : NoCause s t g (s.lpubChecks t (s.active t g) d.toNat a.toNat)) (hx : t.fibre (actingLane (s.active t g)) = x)
    (hw : x.reg d.toNat = w) (hz : pubSize w ≠ 0) (hp : pubPlace t (x.pair a.toNat) (pubSize w * 8192) = .ok (some va))
    (hs : s.pubBlocks t va (pubSize w) = pages) (hb : ∀ b ∈ blocksOfPages pages, s.Gathered t.core b)
    (hm : s.pubAbsent t va (pubSize w) = []) (hl : s.leftOn t.core (blocksOfPages pages) (t.lbase.getD 0 + pubLbase w) = []) :
    execLpub g a d s = .next ((s.openWindow t w (x.reg (d.toNat + 1)) va pages).advance 4) := by
  have he := List.isEmpty_eq_false_iff.2 ha
  refine (h.runs (by simpa only [he, Bool.false_eq_true, if_false] using hc)).trans (congrArg _ ?_)
  have hrefused : (blocksOfPages pages).any (fun b =>
      s.windowHere t.core b || (s.want? (.pubCore t.core) b).any fun w => w.denied) = false := by
    refine List.any_eq_false.2 fun b hin => ?_
    obtain ⟨-, hgranted, hfree, -⟩ := hb b hin
    simpa only [hfree, Bool.false_or, Option.any_eq_true, not_exists, not_and, Bool.not_eq_true] using hgranted
  have hlack : (blocksOfPages pages).filter (fun b => !(s.hold? (.pubCore t.core) b).any Hold.writable) = [] := by
    refine List.filter_eq_nil_iff.2 fun b hin => ?_
    obtain ⟨h, hh, hwritable⟩ := (hb b hin).held
    simp [hh, hwritable]
  simp only [he, hx, hw, hz, hp, hs, hrefused, hm, hl, hlack, Bool.false_eq_true, if_false, List.isEmpty_nil, Bool.not_true, if_true]

end

/-- Settles O22: a window that is named closes; one whose blocks are all held, and in whose way no unwritten block stands, opens. -/
theorem publication : Obligations.Publication := by
  unfold Obligations.Publication
  intro s t g a d h act x w ha hc
  refine ⟨fun k hz hw => execLpub_unpublishes h ha hc hz hw, fun va hz hp => ?_⟩
  intro pages hb hm hu
  have hb : ∀ b ∈ blocksOfPages pages, s.Gathered t.core b := fun b hin => by
    obtain ⟨hheld, hgranted, hfree, hwritten⟩ := hb b hin
    exact ⟨hheld, hgranted, hfree, hwritten⟩
  exact execLpub_publishes h ha hc rfl rfl hz hp rfl hb hm (State.leftOn_nil (State.pubBlocks_length va _) hb hu)

end Sys2Proof.Machine

namespace Sys2Proof.Machine

/-! ## Lines of an instruction (R188) -/

theorem mem_insertNat {x y : Nat} {l : List Nat} : y ∈ insertNat x l ↔ y = x ∨ y ∈ l := by
  induction l with
  | nil => simp [insertNat]
  | cons z zs ih =>
    simp only [insertNat]
    split
    · simp
    · split
      · next h => subst h; simp
      · simp only [List.mem_cons, ih]
        tauto

theorem mem_sortNats {y : Nat} {xs : List Nat} : y ∈ sortNats xs ↔ y ∈ xs := by
  suffices h : ∀ l, y ∈ xs.foldl (fun l x => insertNat x l) l ↔ y ∈ l ∨ y ∈ xs by
    exact (h []).trans (or_iff_right List.not_mem_nil)
  induction xs with
  | nil => simp
  | cons x xs ih =>
    intro l
    simp only [List.foldl_cons, ih, mem_insertNat, List.mem_cons]
    tauto

/-- Every item stands in the group of its line. -/
theorem mem_lineGroups {items : List Item} {i : Item} (h : i ∈ items) : ∃ g ∈ lineGroups items, g.1 = i.va / 256 ∧ i ∈ g.2 :=
  ⟨_, List.mem_map.2 ⟨i.va / 256, mem_sortNats.2 (List.mem_map.2 ⟨i, h, rfl⟩), rfl⟩, rfl, List.mem_filter.2 ⟨h, beq_self_eq_true _⟩⟩

/-! ## Requests that wait in their core's queue (R188, R244) -/

/-- Requests at the end of a core's issue queue. -/
def Core.withReqs (k : Core) (rs : List Req) : Core := { k with reqs := k.reqs ++ rs }

/-- The requests `rs` have joined the issue queue of a core, and `n` is the next number. -/
def State.withReqs (s : State) (c : Nat) (rs : List Req) (n : Nat) : State := { s.modCore c fun k => k.withReqs rs with nextId := n }

theorem State.withReqs_nil (s : State) (c : Nat) : s.withReqs c [] s.nextId = s := by
  have h : (fun k : Core => k.withReqs []) = id := funext fun k => by simp [Core.withReqs]
  simp only [State.withReqs, State.modCore, h, List.modify_id]

theorem State.withReqs_withReqs (s : State) (c : Nat) (rs qs : List Req) (n m : Nat) :
    (s.withReqs c rs n).withReqs c qs m = s.withReqs c (rs ++ qs) m := by
  have h : (fun k : Core => (k.withReqs rs).withReqs qs) = fun k => k.withReqs (rs ++ qs) := funext fun k => by simp [Core.withReqs]
  have hm := s.modCore_modCore c (fun k => k.withReqs rs) fun k => k.withReqs qs
  rw [h] at hm
  exact congrArg (fun u : State => { u with nextId := m }) hm

/-- A request that no instruction waits for joins the queue, and stays there. -/
theorem State.enqueue_waits (s : State) (c : Nat) {r : Req} (h : r.kind.isRead = false) : s.enqueue c r = s.withReqs c [r] (s.nextId + 1) := by
  simp only [State.enqueue, h, Bool.false_and, Bool.false_eq_true, if_false]
  rfl

/-- A request for a group of items of one instruction of a team (R188). -/
structure Req.Carries (r : Req) (team inst : Nat) (kind : ReqKind) (g : Nat × List Item) : Prop where
  team : r.team = team
  inst : r.inst = inst
  kind : r.kind = kind
  va : r.va = g.1 * 256
  lanes : r.lanes = g.2.map fun i => i.lane

/-- The line requests of an instruction that no fibre waits for join its core's queue, one for each group. -/
theorem State.addReqs_waits (s : State) (t : Team) (bundle : List Nat) (epc : Word) (inst : Nat) {kind : ReqKind} (ord : OrdScope)
    (groups : List (Nat × List Item)) (hk : kind.isRead = false) :
    ∃ rs n, s.addReqs t bundle epc inst kind ord groups = s.withReqs t.core rs n ∧
      ∀ g ∈ groups, g.2 ≠ [] → ∃ r ∈ rs, r.Carries t.id inst kind g := by
  induction groups generalizing s with
  | nil => exact ⟨[], s.nextId, (s.withReqs_nil t.core).symm, nofun⟩
  | cons g gs ih =>
    obtain ⟨l, items⟩ := g
    cases items with
    | nil =>
      obtain ⟨rs, n, he, hr⟩ := ih s
      exact ⟨rs, n, he, List.forall_mem_cons.2 ⟨fun h => absurd rfl h, hr⟩⟩
    | cons i is =>
      obtain ⟨rs, n, he, hr⟩ := ih (s.withReqs t.core [_] (s.nextId + 1))
      refine ⟨_ :: rs, n, (congrArg (State.addReqs · t bundle epc inst kind ord gs) (s.enqueue_waits t.core ?_)).trans
        (he.trans (s.withReqs_withReqs ..)), List.forall_mem_cons.2 ⟨fun _ => ⟨_, List.mem_cons_self, ?_⟩, fun g hg hn => ?_⟩⟩
      · exact hk
      · exact ⟨rfl, rfl, rfl, rfl, rfl⟩
      · obtain ⟨r, hm, hc⟩ := hr g hg hn
        exact ⟨r, List.mem_cons_of_mem _ hm, hc⟩

section
variable {s : State} {c : Nat} (rs : List Req) (n : Nat)

theorem State.withReqs_other {d : Nat} (h : d ≠ c) : (s.withReqs c rs n).core d = s.core d := State.modCore_other h

theorem State.withReqs_core (h : c < s.cores.length) : (s.withReqs c rs n).core c = (s.core c).withReqs rs := State.modCore_core h

theorem State.core_absent (h : ¬ c < s.cores.length) : s.core c = Core.reset 0 := List.getD_eq_default _ _ (Nat.le_of_not_lt h)

/-- Of the core nothing but its requests changes. -/
theorem State.withReqs_rest :
    (s.withReqs c rs n).core c = { s.core c with reqs := ((s.withReqs c rs n).core c).reqs, tags := ((s.withReqs c rs n).core c).tags } := by
  by_cases h : c < s.cores.length
  · rw [State.withReqs_core rs n h]
    rfl
  · have h' : ¬ c < (s.withReqs c rs n).cores.length := by simpa [State.withReqs, State.modCore] using h
    rw [State.core_absent h, State.core_absent h']

theorem State.mem_withReqs {r : Req} (h : r ∈ (s.core c).reqs) : r ∈ ((s.withReqs c rs n).core c).reqs := by
  by_cases hc : c < s.cores.length
  · rw [State.withReqs_core rs n hc]
    exact List.mem_append_left _ h
  · rw [State.core_absent hc] at h
    cases h

theorem sameBytes_withReqs : sameBytes s (s.withReqs c rs n) :=
  (sameBytes_modCore (c := c) (f := fun k => k.withReqs rs) (fun _ => rfl) (fun _ => rfl) fun _ => rfl).trans
    ⟨fun pa => State.readPa_congr rfl rfl rfl rfl rfl rfl rfl rfl (fun _ => rfl) pa 1, fun _ _ => rfl, fun _ => rfl⟩

end

/-! ## What a change of fibres leaves -/

section
variable {s : State} {t : Team} (act : List Nat) (len : Nat) (f : Nat → Fibre → Fibre)

theorem sameBytes_writeFibres : sameBytes s (s.writeFibres act len f) := by
  rw [State.writeFibres, State.advance]
  refine (sameBytes_modTeam ?_ ?_).trans ((sameBytes_modTeam ?_ ?_).trans (sameBytes_issued _)) <;> intro _ <;> rfl

theorem State.writeFibres_others (ht : s.curTeam = some t) {id : Nat} (h : id ≠ t.id) : (s.writeFibres act len f).team? id = s.team? id := by
  rw [State.team?_id ht] at h
  rw [State.writeFibres, State.advance, State.issued_team?]
  refine (State.modTeam_other ?_ h).trans (State.modTeam_other ?_ h) <;> intro _ <;> rfl

theorem State.writeFibres_own (ht : s.curTeam = some t) :
    ∃ t', (s.writeFibres act len f).team? t.id = some t' ∧ t' = { t with fibres := t'.fibres, bundles := t'.bundles } ∧
      t'.fibres.length = t.fibres.length ∧ t'.bundles.map (fun b => b.fibs) = t.bundles.map (fun b => b.fibs) := by
  refine ⟨_, State.writeFibres_team ht act len f, rfl, by simp, ?_⟩
  rw [List.map_map]
  refine List.map_congr_left fun b _ => ?_
  simp only [Function.comp]
  split <;> rfl

end

/-! ## Accesses that become requests (R184 to R188) -/

/-- What a lane's request says of an access at an address: the fibre, the bytes, and the operands (R188). -/
structure LaneReq.Serves (l : LaneReq) (x : GAccess) (t : Team) (k va : Nat) : Prop where
  fib : l.fib = k
  lane : l.lane = laneOf k
  off : l.off = va % 256
  size : l.size = x.size
  dst : l.dst = x.dst
  first : l.x = (t.fibre k).reg (x.data.getD 0 0)
  second : 1 < x.data.length → l.y = (t.fibre k).reg (x.data.getD 1 0)

section
variable {s : State} {t : Team} {act : List Nat} {x : GAccess}

/-- An access that no fibre waits for at issue, once its items are known: it has become requests, and the bundle has moved on. -/
theorem requests_of_items {items : List Item} {f : Nat → Fibre → Fibre} (ht : s.curTeam = some t) (ha : ∀ k ∈ act, k ∈ s.cur.fibs)
    (hk : x.kind.isRead = false)
    (hi : ∀ k ∈ act, ∀ va, x.place t k (t.fibre k) = .ok (some va) → ∃ i ∈ items, i.va = va ∧ i.lane.Serves x t k va)
    (hf : ∀ k ∈ act, f k (t.fibre k) = { t.fibre k with pend := (t.fibre k).pend ++ marksOf x t k s.nextId }) (ord : OrdScope) :
    Requests s ((s.fresh.addReqs t s.cur.fibs (s.curPc t) s.nextId x.kind ord (lineGroups items)).writeFibres act 4 f) t act x := by
  obtain ⟨rs, n, he, hr⟩ := s.fresh.addReqs_waits t s.cur.fibs (s.curPc t) s.nextId ord (lineGroups items) hk
  rw [he]
  have hv : (s.withReqs t.core rs n).curTeam = some t := ht
  change Requests s ((s.withReqs t.core rs n).writeFibres act 4 f) t act x
  exact {
    rest := rfl
    bytes := (sameBytes_withReqs rs n).trans (sameBytes_writeFibres ..)
    cores := fun c hc => State.withReqs_other rs n hc
    core := State.withReqs_rest (s := s) rs n
    others := fun id hid => State.writeFibres_others act 4 f hv hid
    own := State.writeFibres_own act 4 f hv
    fibres := fun k => by
      refine (State.writeFibres_fibre hv act 4 f k).trans ?_
      have hcur : (s.withReqs t.core rs n).cur = s.cur := rfl
      rw [hcur]
      by_cases hm : k ∈ act
      · simp only [hm, ha k hm, hf k hm, true_and, if_true]
        rfl
      · by_cases hc : k ∈ s.cur.fibs <;> simp [hm, hc]
    older := fun r hr _ => State.mem_withReqs rs n hr
    asked := fun hc k hm va hp => by
      obtain ⟨i, hin, rfl, hl⟩ := hi k hm va hp
      obtain ⟨g, hg, hline, hig⟩ := mem_lineGroups hin
      obtain ⟨r, hrs, hq⟩ := hr g hg (List.ne_nil_of_mem hig)
      refine ⟨r, ?_, hq.inst, hq.team, hq.kind, hline ▸ hq.va, i.lane, ?_, hl.fib, hl.lane, hl.off, hl.size, hl.dst, hl.first, hl.second⟩
      · change r ∈ ((s.withReqs t.core rs n).core t.core).reqs
        rw [State.withReqs_core rs n hc]
        exact List.mem_append_right _ hrs
      · rw [hq.lanes]
        exact List.mem_map.2 ⟨i, hig, rfl⟩ }

/-! ### From placed lanes to items -/

theorem State.translate_of_accessError {a : Access} {ro : Bool} {va : Nat} (h : s.accessError t a ro (.ok (some va)) = none) :
    ∃ p, s.translate t.core t.asid va a t.privileged = .ok p := by
  unfold State.accessError at h
  dsimp only at h
  split at h
  · cases h
  · next p hp => exact ⟨p, hp⟩

theorem State.accessError_of_placedError {a : Access} {ro : Bool} {p : Place?} (h : s.placedError t a ro p = none) :
    s.accessError t a ro p = none := by
  unfold State.placedError at h
  split at h
  · cases h
  · assumption

theorem State.placedError_of_redError {ro : Bool} {p : Place?} (h : s.redError t ro p = none) : s.placedError t .store ro p = none := by
  unfold State.redError at h
  split at h
  · cases h
  · assumption

theorem State.accessError_of_normalError {a : Access} {ro : Bool} {p : Place?} (h : s.normalError t a ro p = none) :
    s.accessError t a ro p = none := by
  unfold State.normalError at h
  split at h
  · cases h
  · assumption

/-- A lane whose address translates has an item, which serves its access. -/
theorem State.item_serves {k va : Nat} (hp : x.place t k (t.fibre k) = .ok (some va))
    (ht : ∃ p, s.translate t.core t.asid va x.access t.privileged = .ok p) (reads : List Nat) {y : Word}
    (hy : 1 < x.data.length → y = (t.fibre k).reg (x.data.getD 1 0)) :
    ∃ i, s.item t x.access k (x.place t k (t.fibre k)) x.size x.dst reads ((t.fibre k).reg (x.data.getD 0 0)) y = some i ∧
      i.va = va ∧ i.lane.Serves x t k va := by
  obtain ⟨p, ht⟩ := ht
  rw [hp]
  simp only [State.item, ht]
  exact ⟨_, rfl, rfl, rfl, rfl, rfl, rfl, rfl, rfl, hy⟩

/-- A lane whose access is dropped marks its registers, the dropped ones too, as known to be 0. -/
theorem marksOf_dropped {k inst : Nat} (h : x.place t k (t.fibre k) = .ok none) :
    marksOf x t k inst = (x.dst ++ x.dropped).map fun r => ⟨r, inst, some 0⟩ := by
  unfold marksOf
  rw [h]

/-- A lane whose access is not dropped marks its registers as awaited. -/
theorem marksOf_kept {k inst : Nat} (h : x.place t k (t.fibre k) ≠ .ok none) :
    marksOf x t k inst = x.dst.map fun r => ⟨r, inst, none⟩ := by
  unfold marksOf
  split
  · next hd => exact absurd hd h
  · rfl

/-- The effect of an access that waits for nothing and whose lanes all translate. -/
theorem State.globalEffect_requests (ht : s.curTeam = some t) (ha : ∀ k ∈ act, k ∈ s.cur.fibs) (hk : x.kind.isRead = false)
    (hp : ∀ k ∈ act, s.accessError t x.access (x.ro t k (t.fibre k)) (x.place t k (t.fibre k)) = none)
    (hs : s.accessStalls t act (!x.dst.isEmpty) (lineGroups (s.itemsOf t act x)) = false)
    (hr : ∀ sc, relScope x.ord = some sc → s.performedAt t act sc = true) : Requests s (s.globalEffect t act x) t act x := by
  have hrel : ((if (s.itemsOf t act x).any fun i => i.page.ty == .normal then relScope x.ord else none).any fun sc =>
      !s.performedAt t act sc) = false := by
    split
    · rw [Option.any_eq_false]
      exact fun sc hsc => by simp [hr sc hsc]
    · rfl
  simp only [State.globalEffect, hs, hrel, Bool.false_eq_true, if_false]
  refine requests_of_items ht ha hk (fun k hm va hpl => ?items) (fun k _ => ?marks) x.ord
  case items =>
    obtain ⟨i, hi, hs⟩ := State.item_serves hpl (State.translate_of_accessError (hpl ▸ hp k hm)) x.addr fun _ => rfl
    exact ⟨i, List.mem_filterMap.2 ⟨k, hm, hi⟩, hs⟩
  case marks =>
    split
    · next hd =>
      split at hd
      · next hpl => rw [marksOf_dropped hpl, Fibre.markPend]
      · cases hd
    · next hd =>
      split at hd
      · exact absurd rfl hd
      · next hpl => rw [marksOf_kept hpl, Fibre.markPend]

end

section
variable {s : State} {t : Team} {g : Guard}

/-- No cause of an access, and none of its checks fails (R189). -/
theorem NoCause.accessOrder {err : Nat → Fibre → Option Cause} (h : ∀ k ∈ s.active t g, err k (t.fibre k) = none) :
    NoCause s t g (accessOrder err) := by
  intro k hk c hc
  obtain ⟨code, -, rfl⟩ := List.mem_map.1 hc
  simp only [h k hk]

/-- A store or an atomic that passes its checks becomes requests; `early` are its checks before check 6. -/
theorem globalOp_requests {x : GAccess} (h : CanIssue s t x.guard fun _ => x.addr ++ x.data ++ x.dst) {early : List Check}
    (he : NoCause s t x.guard early) (hk : x.kind.isRead = false) (hp : Placed s t x.guard x (s.placedError t))
    (hr : ∀ sc, relScope x.ord = some sc → s.performedAt t (s.active t x.guard) sc = true) :
    ∃ u, globalOp { x with early := early } false s = .next u ∧ Requests s u t (s.active t x.guard) x := by
  obtain ⟨hplaced, hstalls⟩ := hp
  exact ⟨_, issue_runs (fm := ⟨x.guard, fun _ => x.addr ++ x.data ++ x.dst, x.dst, false, early⟩) h rfl he (.accessOrder hplaced),
    State.globalEffect_requests h.team (fun _ => State.active_sub) hk (fun k hm => State.accessError_of_placedError (hplaced k hm)) hstalls hr⟩

/-! ### Stores (R183 to R185) -/

theorem NoCause.checkPair {rs : List Nat} (h : rs.length = 2 → rs.headD 0 % 2 = 0) : NoCause s t g [checkPair rs] := by
  refine .cons (fun _ _ => if_pos ?_) .nil
  by_cases hl : rs.length = 2
  · rw [h hl, beq_self_eq_true, Bool.or_true]
  · rw [bne_iff_ne.2 hl, Bool.true_or]

theorem storeOp_requests {size m : Nat} {ord : OrdScope} {r : Rec} {i : Reg} {src : List Nat}
    (h : CanIssue s t g fun _ => [i.toNat] ++ src ++ [])
    (hp : Placed s t g (storeAccess g size ord r i m src) (s.placedError t)) (he : src.length = 2 → src.headD 0 % 2 = 0)
    (hr : ∀ sc, relScope ord = some sc → s.performedAt t (s.active t g) sc = true) :
    ∃ u, storeOp g size ord r.toNat i.toNat m src s = .next u ∧ Requests s u t (s.active t g) (storeAccess g size ord r i m src) :=
  globalOp_requests (x := storeAccess g size ord r i m src) h (.checkPair he) rfl hp hr

/-- An odd data register of an 8-byte access is illegal: check 4 fails in every fibre that executes it (R30, R183). -/
theorem recorded_oddPair {act : List Nat} {d : Nat} (cs : List Check) (ha : act ≠ []) (hd : d % 2 = 1) :
    recorded t act (checkPair [d, d + 1] :: cs) = some ({ code := 0x01 }, act) := by
  refine recorded_same (k := 0) (fun k _ => ?_) ha
  have hc : checkPair [d, d + 1] k (t.fibre k) = some { code := 0x01 } := if_neg (by simp [hd])
  simp only [firstFail, hc]

theorem storeOp_oddPair {size m : Nat} {ord : OrdScope} {r i d : Nat} (h : Quiet s t) (hg : g ≠ .neg 7) (ha : s.active t g ≠ [])
    (hd : d % 2 = 1) :
    storeOp g size ord r i m [d, d + 1] s = .next (s.raise t { code := 0x01 } (s.active t g) s.cur.fibs (s.curPc t)) := by
  unfold storeOp globalOp
  exact h.raises hg (recorded_oddPair _ ha hd)

end

theorem widthRegs_pair {w : Width} {d : Reg} (h : w = .w64 → d.toNat % 2 = 0) (hl : (widthRegs w d.toNat).length = 2) :
    (widthRegs w d.toNat).headD 0 % 2 = 0 := by
  cases w with
  | w64 => exact h rfl
  | _ => cases hl

/-- Settles O18: each store passes its checks and becomes requests; an odd pair fails check 4. -/
theorem stores : Obligations.Stores := by
  unfold Obligations.Stores
  intro s t g m w sc r i d one
  refine ⟨fun h hp => ?plain, fun hw h hp => ?width, fun hd h hg ha => storeOp_oddPair h hg ha hd, fun hperf h hp => ?release⟩
  case plain => exact storeOp_requests h hp nofun nofun
  case width => exact storeOp_requests h hp (widthRegs_pair hw) nofun
  case release =>
    refine storeOp_requests h hp nofun fun sc' hsc => ?_
    cases hsc
    exact hperf

/-! ### Atomics (R186, R187) -/

/-- Settles O19: each atomic becomes requests, those with an order after what their release waits for; the new words are those of the rules by
definition, but for the orders that minima and maxima compare in. -/
theorem atomics : Obligations.Atomics := by
  unfold Obligations.Atomics
  refine ⟨fun s t g r i a d os => ?requests, fun old x y => ?words⟩
  case requests =>
    intro one ord
    have plain {op : AtomOp} {e : Instr} (he : exec e s = atomOp g op r i d s) : one e op := fun h hp => by
      rw [he]
      exact globalOp_requests (x := atomAccess g op r i d) (early := []) h .nil rfl hp nofun
    have ordered {op : AtomOp} {e : Instr} (he : exec e s = atomOrdOp g op os a d s) : ord e op := fun h hp hr => by
      rw [he]
      exact globalOp_requests (x := atomOrdAccess g op os a d) (early := []) h .nil rfl hp hr
    exact ⟨plain rfl, plain rfl, plain rfl, plain rfl, plain rfl, plain rfl, plain rfl, plain rfl, plain rfl, plain rfl, plain rfl,
      ordered rfl, ordered rfl, ordered rfl, ordered rfl, ordered rfl, ordered rfl, ordered rfl, ordered rfl⟩
  case words => exact ⟨rfl, rfl, minS32_eq old x, maxS32_eq old x, minN32_eq old x, maxN32_eq old x, rfl, rfl, rfl, rfl, rfl⟩

/-! ### Reductions, prefetches and flagged stores (R184, R186, R312) -/

section
variable {s : State} {t : Team} {g : Guard}

/-- What refuses an access has no part in its effect. -/
theorem State.globalEffect_ro (act : List Nat) (x : GAccess) (ro : Team → Nat → Fibre → Bool) :
    s.globalEffect t act { x with ro := ro } = s.globalEffect t act x := rfl

theorem redOp_requests {op : AtomOp} {r : Rec} {i d : Reg} (h : CanIssue s t g fun _ => [i.toNat, d.toNat])
    (hp : Placed s t g (redAccess g op r i d) fun _ => s.redError t) :
    ∃ u, redOp g op r i d s = .next u ∧ Requests s u t (s.active t g) (redAccess g op r i d) := by
  obtain ⟨hplaced, hstalls⟩ := hp
  unfold redOp
  refine ⟨_, (h.runs (.accessOrder hplaced)).trans (congrArg _ (State.globalEffect_ro _ (redAccess g op r i d) fun _ _ _ => false)),
    State.globalEffect_requests h.team (fun _ => State.active_sub) rfl (fun k hm => ?_) hstalls nofun⟩
  exact State.accessError_of_placedError (State.placedError_of_redError (hplaced k hm))

theorem State.startPrefetch_issuing (s : State) (t : Team) (p : Nat × List Item) : (s.startPrefetch t p).issuing = s.issuing := by
  unfold State.startPrefetch
  split
  · rfl
  · exact s.enqueue_issuing t.core _

/-- A prefetch that does not wait changes of its fibres nothing but the program counter. -/
theorem execPf_moves {r : Rec} {i : Reg} (h : CanIssue s t g fun _ => [i.toNat])
    (hs : s.accessStalls t (s.active t g) true (lineGroups (s.pfItems t (s.active t g) r.toNat i.toNat)) = false) :
    ∃ u, execPf g r i s = .next u ∧ ∀ k, u.fibreNow t k =
      if k ∈ s.cur.fibs ∧ k < t.fibres.length then { t.fibre k with pc := (t.fibre k).pc + 4 } else t.fibre k := by
  unfold execPf
  refine ⟨_, h.runs .nil, fun k => ?_⟩
  simp only [hs, Bool.false_eq_true, if_false]
  have hi := foldl_keeps (fun u p => u.startPrefetch_issuing t p) (lineGroups (s.pfItems t (s.active t g) r.toNat i.toNat)) s
  refine (State.writeFibres_fibre ((State.curTeam_of_issuing hi).trans h.team) (s.active t g) 4 (fun _ f => f) k).trans ?_
  rw [State.cur_of_issuing hi]
  by_cases hc : k ∈ s.cur.fibs <;> simp [hc]

/-- A lane of a flagged store that meets no cause of any code meets none. -/
theorem State.normalError_of_stfError {a b : Nat} {f : Fibre} (h : ∀ code, s.stfError t a b code f = none) :
    s.normalError t .store (t.refuses (pointerRec (f.pair a))) (pointerAddr t (f.pair a) 4) = none := by
  unfold State.stfError at h
  generalize pointerAddr t (f.pair a) 4 = data at h ⊢
  cases hc : s.normalError t .store (t.refuses (pointerRec (f.pair a))) data with
  | none => rfl
  | some c =>
    have hn := h c.code
    simp only [hc, Option.bind_some, if_true] at hn
    cases hn

/-- The item of a lane of a flagged store, as yet without its flag (R312). -/
def State.flaggedItem (s : State) (t : Team) (a d k : Nat) : Option Item :=
  s.item t .store k (pointerAddr t ((t.fibre k).pair a) 4) 4 [] [] ((t.fibre k).reg d) 0

/-- The lanes of a flagged store that are not dropped. -/
def State.flaggedLanes (s : State) (t : Team) (act : List Nat) (a d : Nat) : List Nat := act.filter fun k => (s.flaggedItem t a d k).isSome

/-- The items of a flagged store, each with its flag. -/
def State.flaggedItems (s : State) (t : Team) (act : List Nat) (a b d : Nat) : List Item :=
  (s.flaggedLanes t act a d).filterMap fun k => (s.flaggedItem t a d k).map fun i =>
    { i with lane := { i.lane with flag := s.flagRef t (s.flaggedLanes t act a d) b (t.fibre k) } }

/-- A flagged store that passes its checks becomes requests, each lane with its flag. -/
theorem execStf_requests {a b d : Reg} (h : CanIssue s t g fun _ => [a.toNat, a.toNat + 1, b.toNat, b.toNat + 1, d.toNat])
    (he : ∀ k ∈ s.active t g, ∀ code, s.stfError t a.toNat b.toNat code (t.fibre k) = none)
    (hs : s.accessStalls t (s.active t g) false (lineGroups (s.flaggedItems t (s.active t g) a.toNat b.toNat d.toNat)) = false) :
    ∃ u, execStf g b a d s = .next u ∧ Requests s u t (s.active t g) (flaggedAccess g a d) := by
  have hc : NoCause s t g ([0x36, 0x33, 0x32, 0x38, 0x31, 0x30, 0x70].map fun code => fun _ f => s.stfError t a.toNat b.toNat code f) := by
    intro k hk c hc
    obtain ⟨code, -, rfl⟩ := List.mem_map.1 hc
    exact he k hk code
  have hst := hs
  simp only [State.flaggedItems, State.flaggedLanes, State.flaggedItem] at hst
  unfold execStf
  refine ⟨_, h.runs hc, ?_⟩
  simp only [hst, Bool.false_eq_true, if_false]
  refine requests_of_items (items := s.flaggedItems t (s.active t g) a.toNat b.toNat d.toNat) (x := flaggedAccess g a d) h.team
    (fun _ => State.active_sub) rfl (fun k hm va hp => ?items) (fun k _ => ?marks) .rlx
  case items =>
    have ht := State.accessError_of_normalError (State.normalError_of_stfError (he k hm))
    have hpl : pointerAddr t ((t.fibre k).pair a.toNat) 4 = .ok (some va) := hp
    obtain ⟨i, hi, hva, hl⟩ := State.item_serves (s := s) hp (State.translate_of_accessError (hpl ▸ ht)) [] (y := 0) (by simp [flaggedAccess])
    have hi : s.flaggedItem t a.toNat d.toNat k = some i := hi
    obtain ⟨hfib, hlane, hoff, hsize, hdst, hx, hy⟩ := hl
    have hk : k ∈ s.flaggedLanes t (s.active t g) a.toNat d.toNat := List.mem_filter.2 ⟨hm, by rw [hi]; rfl⟩
    exact ⟨_, List.mem_filterMap.2 ⟨k, hk, congrArg _ hi⟩, hva, hfib, hlane, hoff, hsize, hdst, hx, hy⟩
  case marks =>
    have hn : marksOf (flaggedAccess g a d) t k s.nextId = [] := by
      unfold marksOf
      split <;> rfl
    rw [hn, List.append_nil]

end

/-- Settles O20: reductions and flagged stores become requests; a prefetch only moves its fibres on. -/
theorem reductionsAndPrefetch : Obligations.ReductionsAndPrefetch := by
  unfold Obligations.ReductionsAndPrefetch
  intro s t g r i a b d one
  have red {op : AtomOp} {e : Instr} (he : exec e s = redOp g op r i d s) : one e op := fun h hp => by
    rw [he]
    exact redOp_requests h hp
  refine ⟨red rfl, red rfl, red rfl, red rfl, red rfl, red rfl, red rfl, red rfl, red rfl, execPf_moves, fun h => ?_⟩
  intro item kept items he hs
  exact execStf_requests h he hs

end Sys2Proof.Machine

namespace Sys2Proof.Machine

/-! ## Accesses to uncached pages of another device (R188, R202)

A machine that meets a second device, of whose host memory one page is mapped at virtual address 0. A strongly ordered load of it makes the
write-backs of a release as it issues; a store of two lanes to one word of it, as a device page, sends them one after the other. -/

/-- The leaf of a readable and writable 8 KiB page of device 1's host memory, of memory type code `ty` (R199). -/
def farLeaf (ty : Nat) : BitVec 64 :=
  BitVec.ofNat 64 (1 + 2 ^ 3 + 2 ^ 4 + 2 ^ 6 + ty * 2 ^ 10 + 2 ^ 51 / 8192 * 2 ^ 14 + 2 ^ 54)

/-- A buffer record of 16 elements of 4 bytes at virtual address 4096 (R177). -/
def farRecord : BitVec 256 := BitVec.ofNat 256 (2 * 2 ^ 120 + 4 * 2 ^ 96 + 16 * 2 ^ 64 + 4096)

/-- A team of one fibre with eight registers, on core 0. -/
def farTeam : Team :=
  { setupTeam 7 0 with
    fibres := [{ setupFibre with regs := List.replicate 8 0, blocks := [0] }]
    records := [farRecord], bundles := [⟨[0], 0, false, false⟩] }

/-- One die with one core, whose bundle issues; a port of the device meets device 1 in slot 0 (R302). -/
def farState (k : Core) : State :=
  { State.reset with
    cores := [k], dies := [{ Die.reset 1 0 with present := true }], teams := [farTeam]
    fab := { Fabric.reset with sched := [(0, BitVec.ofNat 32 (2 ^ 31 + 2 ^ 10))], portEn := 1 }
    nextId := 100, cur := ⟨7, [0], 0⟩ }

/-- The core has the page in its translation cache as a strongly ordered one, and a dirty sector in its view. -/
def strongCore : Core :=
  { Core.reset 0 with tlb := [⟨0, 0, 0, 13, farLeaf 3⟩], view := [⟨0x80000000 / 64, 1, true, 0⟩] }

/-- Which sectors of core 0's view an outcome leaves dirty. -/
def dirtyOf : Result → List Bool
  | .next u => (u.core 0).view.map fun x => x.dirty
  | _ => []

/-- Refutes O17: a strongly ordered load of another device's memory leaves for its home in the step in which it issues, and makes the
write-backs of a release first (R202); a dirty sector of its core's view is clean after it, where the statement leaves everything of the core but
its requests and tags as it was. -/
theorem not_loads : ¬ Obligations.Loads := by
  intro h
  let x := loadAccess (.pos 7) 4 false .rlx 0 0 0 [0]
  obtain ⟨hld, -⟩ := h (farState strongCore) farTeam (.pos 7) 0 .s8 .team 0 0 0
  have can : CanLoad (farState strongCore) farTeam (.pos 7) (fun _ => x.addr ++ x.data ++ x.dst) x.dst :=
    { team := rfl, ready := by decide, settled := by decide, readable := by decide, guard := by decide, window := by unfold InWindow; decide }
  have placed : Placed (farState strongCore) farTeam (.pos 7) x ((farState strongCore).placedError farTeam) := by
    unfold Placed; decide +kernel
  obtain ⟨u, hu, hr⟩ := hld can placed
  have clean : dirtyOf (exec (.ld (.pos 7) 0 0 0 0) (farState strongCore)) = [false] := by decide +kernel
  have kept : (u.core 0).view = strongCore.view := (congrArg Core.view hr.core).trans rfl
  rw [hu, dirtyOf, kept] at clean
  exact absurd clean (by decide)

/-- A lane that stores one word at the start of the line. -/
def farLane (k : Nat) : LaneReq := { lane := k, fib := k, off := 0, size := 4, dst := [], reads := [], x := 0, y := 0, flag := none }

/-- A store of lanes 0 and 1 to one word of the page, a device one. -/
def farStore : Req :=
  { id := 3, inst := 2, team := 7, bundle := [0, 1], epc := 0, kind := .store, ord := .rlx, va := 0
    page := { pa := 2 ^ 51, home := 1, ty := .device, cls := .priv, migrating := false, asid := 0 }
    lanes := [farLane 0, farLane 1], data := none, sent := false, age := 0, bad := [], all := [(0, 0), (1, 1)], told := false, cmd := none
    miss := .hit, good := false, acted := false, tried := none, rts := none }

/-- How many entries an outcome leaves in core 0's store queue. -/
def queuedOf : Result → Nat
  | .next u => (u.core 0).storeQ.length
  | _ => 0

/-- Refutes O44, in its clause on ENQUEUE_STORE: two lanes of a store to a device page of another device that write the same bytes go one after the
other (R188, R202), and their line stays in the store queue until the last of them is acknowledged, where the statement has it leave both queues. -/
theorem not_accessEvents : ¬ Obligations.AccessEvents := by
  intro h
  obtain ⟨-, -, -, hstore, -⟩ := h
  let s := farState { Core.reset 0 with reqs := [farStore] }
  obtain ⟨hkind, -⟩ := hstore s 0 farStore rfl rfl (by decide) (by decide) (by decide) (by decide)
  obtain ⟨-, -, hfar, -⟩ := hkind rfl
  have posted := hfar (by decide) (by decide)
  have kept : queuedOf (exec (.enqueueStore 0 3) s) = 1 := by decide
  have left : queuedOf (.next ((s.dropReq 0 3).postLine 0 farStore)) = 0 := by decide
  rw [show exec (.enqueueStore 0 3) s = _ from posted] at kept
  exact absurd (kept.symm.trans left) (by decide)

end Sys2Proof.Machine

namespace Sys2Proof.Machine

/-! ## Special registers (R237, R325, R347) -/

section
variable {s : State} {t : Team} {g : Guard} {r : SpecialReg} {d : Reg}

/-- `srd` gives each fibre the value that the register has in it. -/
theorem gives_of_srd {v : Nat → Word} (h : CanIssue s t g fun _ => [d.toNat]) (hv : ∀ i, s.special t i r = v i) :
    Gives (.srd g r d) s t g 4 d.toNat fun i _ => v i := by
  obtain rfl : (fun i => s.special t i r) = v := funext hv
  have hrun : execSrd g r d s = .next (s.writeFibres (s.active t g) 4 fun i x => x.setReg d.toNat (s.special t i r)) := h.runs .nil
  exact ⟨_, hrun, State.setReg_lands h.team (fun _ => State.active_sub) 4 d.toNat fun i hi => h.window i hi d.toNat (by simp)⟩

/-- In the handler's registers a field of the fault record reads as a number, and 0 where there is no record. -/
theorem faultField_eq (q : Option FaultRec) {p : FaultRec → Word} {f : FaultRec → Nat} (h : ∀ x, p x = BitVec.ofNat 32 (f x)) :
    (q.map p).getD 0 = BitVec.ofNat 32 (match q with
      | some x => f x
      | none => 0) := by
  cases q with
  | none => rfl
  | some x => exact h x

/-- The checks of `swr` before check 6: the register is one that is written, and a fault-record register asks for the handler. -/
def State.swrChecks (s : State) (r : SpecialReg) : List Check :=
  [checkLegal r.writable, fun _ _ => if faultReg r then (s.curTeam.bind fun t => checkPriv t 0 (.empty .live)) else none]

/-- A `swr` in which every fibre fails the same check raises its cause in all of them. -/
theorem execSwr_raises {k : Nat} {e : Cause} (h : CanIssue s t g fun _ => [d.toNat]) (ha : s.active t g ≠ [])
    (he : ∀ i x cs, firstFail i x (s.swrChecks r ++ cs) 0 = some (k, e)) :
    execSwr g r d s = .next (s.raise t e (s.active t g) s.cur.fibs (s.curPc t)) := by
  refine (issue_checked (fm := ⟨g, _, [], false, s.swrChecks r⟩) h.team h.ready (by simp [h.settled]) h.guard).trans ?_
  rw [List.append_assoc, recorded_same (fun i _ => he i _ _) ha]

/-- A `swr` that passes its checks writes the register for its fibres one after the other. -/
theorem execSwr_writes (h : CanIssue s t g fun _ => [d.toNat]) (hw : r.writable = true) (hp : faultReg r = true → t.handlerFor ≠ none) :
    execSwr g r d s = .next (((s.active t g).foldl (fun s i => s.setSpecial t r ((t.fibre i).reg d.toNat)) s).advance 4) := by
  refine issue_runs (fm := ⟨g, _, [], false, s.swrChecks r⟩) h rfl (.cons (fun _ _ => ?_) (.cons (fun _ _ => ?_) .nil)) .nil
  · simp [checkLegal, hw]
  · split
    · next hf => simp [h.team, checkPriv, Team.privileged, Option.isSome_iff_ne_none.2 (hp hf)]
    · rfl

/-- The fault-record registers and the path register are those that are written (R237). -/
theorem SpecialReg.writable_iff : r.writable = true ↔ faultReg r = true ∨ r = .rpath := by
  cases r <;> simp [SpecialReg.writable, faultReg]

theorem faultReg_eq : faultReg r = (r == .cause || r == .faddr || r == .fmask || r == .epc) := by
  cases r <;> rfl

/-- Of several words written to a core's path register the last stays. -/
theorem foldl_setRpath (is : List Nat) (w : Nat → Word) :
    is.foldl (fun s i => s.setSpecial t .rpath (w i)) s =
      s.modCore t.core fun k => { k with rpath := ((is.getLast?).map w).getD k.rpath } := by
  induction is using List.reverseRecOn with
  | nil => exact (congrArg (fun l => { s with cores := l }) (List.modify_id t.core s.cores)).symm
  | append_singleton is i ih =>
    rw [List.foldl_append, ih, List.foldl_cons, List.foldl_nil]
    simp [State.setSpecial, State.modCore, List.modify_modify_eq, Function.comp_def]

end

/-- Settles O24: a `swr` fails check 4 or check 5 in every fibre, or writes the register fibre by fibre. -/
theorem specialRegisterWrites : Obligations.SpecialRegisterWrites := by
  unfold Obligations.SpecialRegisterWrites
  intro s t g r d h act fault
  have hfault : faultReg r = fault := faultReg_eq
  refine ⟨fun hf hr ha => ?read, fun hf hh ha => ?outside, fun hf hh => ?inside, fun hr => ?path⟩
  case read =>
    have hw : r.writable = false := by
      rw [Bool.eq_false_iff, Ne, SpecialReg.writable_iff]
      simp [hfault, hf, hr]
    refine execSwr_raises (k := 0) h ha fun _ _ _ => ?_
    simp [State.swrChecks, firstFail, checkLegal, hw]
  case outside =>
    have hw : r.writable = true := SpecialReg.writable_iff.2 (.inl (hfault.trans hf))
    refine execSwr_raises (k := 1) h ha fun _ _ _ => ?_
    simp [State.swrChecks, firstFail, checkLegal, hw, hfault, hf, h.team, checkPriv, Team.privileged, hh]
  case inside => exact execSwr_writes h (SpecialReg.writable_iff.2 (.inl (hfault.trans hf))) fun _ => hh
  case path =>
    subst hr
    refine ⟨_, execSwr_writes h rfl nofun, _, rfl, ?_⟩
    rw [foldl_setRpath]
    refine ⟨rfl, fun c hc => State.modCore_other hc, fun hc => (State.modCore_core hc).trans ?_⟩
    simp only [act]
    cases (s.active t g).getLast? <;> rfl

/-- Settles O23: each register has the value that is read as a number. -/
theorem specialRegisterReads : Obligations.SpecialRegisterReads := by
  unfold Obligations.SpecialRegisterReads
  intro s t g d h reads core fault
  have key (r : SpecialReg) (v : Nat → Nat) (hv : ∀ i, s.special t i r = BitVec.ofNat 32 (v i)) : reads r v := gives_of_srd h hv
  have record (r : SpecialReg) {p : FaultRec → Word} (f : FaultRec → Nat)
      (hr : ∀ i, s.special t i r = ((s.handlerRecord t).map p).getD 0) (hf : ∀ x, p x = BitVec.ofNat 32 (f x)) : reads r fun _ => fault f :=
    key r _ fun i => (hr i).trans (faultField_eq _ hf)
  exact ⟨key .fid _ fun _ => rfl, key .lane _ fun _ => rfl, key .hgrp _ fun _ => rfl, key .team _ fun _ => rfl,
    key .nteam _ fun _ => by simp [State.special], key .core _ fun _ => rfl, key .die _ fun _ => rfl, key .dev _ fun _ => rfl,
    key .depth _ fun _ => rfl, key .cls _ fun _ => rfl, key .ltime _ fun _ => (BitVec.ofNat_toNat 32 core.lt).symm,
    key .mtime _ fun _ => (BitVec.ofNat_toNat 32 s.sys.mtime).symm, gives_of_srd h fun _ => rfl,
    record .cause (fun q => q.cause.toNat) (fun _ => rfl) fun x => by simp,
    record .faddr (fun q => q.addr.toNat % 2 ^ 32) (fun _ => rfl) fun x => BitVec.eq_of_toNat_eq (by simp),
    record .fmask (fun q => q.fmask.toNat) (fun _ => rfl) fun x => by simp,
    record .epc (fun q => q.epc.toNat) (fun _ => rfl) fun x => by simp,
    key .rpath _ fun _ => by simp [State.special, core]⟩

/-! ## Taking an exception (R69, R232 to R234) -/

/-- The fields of `sr.cause` do not overlap (R237). -/
theorem Cause.word_fields (c : Cause) (hc : c.code < 0x80) (hi : c.inner < 256) (ht : c.trap < 1024) :
    nat c.word % 2 ^ 7 = c.code ∧ nat c.word / 2 ^ 8 % 2 ^ 8 = c.inner ∧ nat c.word / 2 ^ 16 = c.trap := by
  have hw : nat c.word = c.code + c.inner * 2 ^ 8 + c.trap * 2 ^ 16 := Nat.mod_eq_of_lt (by omega)
  rw [hw]
  omega

theorem Team.goesToHandler_iff (t : Team) (code : Nat) : t.goesToHandler code = true ↔ ¬ (code = 0x30 ∨ t.handlerFor ≠ none) := by
  simp [Team.goesToHandler]

theorem Team.preempted_iff (t : Team) : t.preempted = true ↔ ∃ points age, t.cond = .saving .preempt points age := by
  unfold Team.preempted
  split
  · next h => simp [h]
  · next h => simpa using h

/-- What an exception leaves of its team's core. -/
theorem State.raise_core {s : State} {t : Team} (h : t.core < s.cores.length) (c : Cause) (fibs bundle : List Nat) (epc : Word) :
    (s.raise t c fibs bundle epc).core t.core =
      if c.code = 0x30 ∨ t.handlerFor ≠ none then s.core t.core else (s.core t.core).trap t := by
  unfold State.raise
  rw [State.modTeam_core]
  split
  · next hg => rw [State.modCore_core h, if_neg ((t.goesToHandler_iff _).1 hg)]
  · next hg => rw [if_pos (not_not.1 fun hn => hg ((t.goesToHandler_iff _).2 hn))]

/-- Nothing changes but teams and cores. -/
theorem State.raise_rest (s : State) (t : Team) (c : Cause) (fibs bundle : List Nat) (epc : Word) :
    s.raise t c fibs bundle epc =
      { s with teams := (s.raise t c fibs bundle epc).teams, cores := (s.raise t c fibs bundle epc).cores } := by
  unfold State.raise
  cases t.goesToHandler c.code <;> rfl

/-- No other team changes. -/
theorem State.raise_others (s : State) {t : Team} {id : Nat} (h : id ≠ t.id) (c : Cause) (fibs bundle : List Nat) (epc : Word) :
    (s.raise t c fibs bundle epc).team? id = s.team? id := by
  unfold State.raise
  refine (State.modTeam_other ?_ h).trans ?_
  · exact fun _ => rfl
  · cases t.goesToHandler c.code <;> rfl

/-- No other core changes. -/
theorem State.raise_otherCores (s : State) {t : Team} {n : Nat} (h : n ≠ t.core) (c : Cause) (fibs bundle : List Nat) (epc : Word) :
    (s.raise t c fibs bundle epc).core n = s.core n := by
  unfold State.raise
  rw [State.modTeam_core]
  cases t.goesToHandler c.code
  · rfl
  · exact State.modCore_other h

/-- Settles O41: the core queues the team, and the team begins its save with its fault record. -/
theorem takingAnException : Obligations.TakingAnException := by
  unfold Obligations.TakingAnException
  intro s t c fibs bundle epc ht hc hi htr u
  refine ⟨s.raise_rest t c fibs bundle epc, fun id hid => s.raise_others hid c fibs bundle epc,
    fun n hn => s.raise_otherCores hn c fibs bundle epc, fun hl => ?core, _, _, State.raise_team ht, rfl, rfl, rfl, ?record⟩
  case core =>
    refine (State.raise_core hl c fibs bundle epc).trans (ite_congr rfl (fun _ => rfl) fun _ => ?_)
    simp only [Core.trap, List.contains_iff_mem]
    congr 1
    split
    · next hp =>
      obtain ⟨_, _, hs⟩ := t.preempted_iff.1 hp
      rw [hs]
    · next hp =>
      split
      · next hs => exact absurd (t.preempted_iff.2 ⟨_, _, hs⟩) hp
      · rfl
  case record =>
    obtain ⟨hcode, hinner, htrap⟩ := c.word_fields hc hi htr
    refine ⟨hcode, hinner, htrap, rfl, BitVec.toNat_ofNat _ _, fun l hl => ?_⟩
    show (if c.present then laneMask bundle else laneMask fibs).getLsbD l = _
    split <;> exact laneMask_getLsbD _ hl

end Sys2Proof.Machine

namespace Sys2Proof.Machine

/-! ## What a write of memory leaves -/

/-- A part of the state beside its memory, its tokens and its messages. -/
def BesideMemory {β : Type} (φ : State → β) : Prop :=
  ∀ (u : State) d h c m k, φ { u with dram := d, host := h, coh := c, msgs := m, cores := k } = φ u

section
variable {β : Type} {φ : State → β} (hφ : BesideMemory φ) (s : State)
include hφ

theorem BesideMemory.setMemBlock (blk : Nat) (d : BlockData) : φ (s.setMemBlock blk d) = φ s := by
  unfold State.setMemBlock
  exact ite_keeps φ (hφ s _ _ _ _ _) (ite_keeps φ rfl (hφ s _ _ _ _ _))

theorem BesideMemory.changeBlock (blk : Nat) (f : BlockData → BlockData) : φ (s.changeBlock blk f) = φ s := by
  unfold State.changeBlock
  split
  · exact hφ s _ _ _ _ _
  · exact (hφ (s.setMemBlock blk (f (s.memBlock blk))) _ _ _ _ _).trans (hφ.setMemBlock s blk _)

theorem BesideMemory.clearPoison (blk off n : Nat) : φ (s.clearPoison blk off n) = φ s := by
  unfold State.clearPoison State.setPoison
  exact ite_keeps φ (ite_keeps φ (hφ s _ _ _ _ _) (hφ s _ _ _ _ _)) rfl

theorem BesideMemory.writeBlock (blk off : Nat) (bs : List Byte) : φ (s.writeBlock blk off bs) = φ s := by
  have h := (hφ.changeBlock (s.clearPoison blk off bs.length) blk fun d => patchBlock d off bs).trans (hφ.clearPoison s _ _ _)
  exact ite_keeps φ h ((hφ _ _ _ _ _ _).trans h)

theorem BesideMemory.writeBlocks (n pa : Nat) (bs : List Byte) : φ (State.writeBlocks n s pa bs) = φ s := by
  induction n generalizing s pa bs with
  | zero => rfl
  | succ n ih => exact ite_keeps φ (hφ.writeBlock s _ _ _) ((ih _ _ _).trans (hφ.writeBlock s _ _ _))

theorem BesideMemory.writePa (pa : Nat) (bs : List Byte) : φ (s.writePa pa bs) = φ s :=
  ite_keeps φ rfl (hφ.writeBlocks s _ _ _)

end

section
variable (s : State)

@[simp] theorem State.writePa_launches (pa : Nat) (bs : List Byte) : (s.writePa pa bs).launches = s.launches :=
  BesideMemory.writePa (fun _ _ _ _ _ _ => rfl) s pa bs

@[simp] theorem State.writePa_sys (pa : Nat) (bs : List Byte) : (s.writePa pa bs).sys = s.sys :=
  BesideMemory.writePa (fun _ _ _ _ _ _ => rfl) s pa bs

@[simp] theorem State.writePa_teams (pa : Nat) (bs : List Byte) : (s.writePa pa bs).teams = s.teams :=
  BesideMemory.writePa (fun _ _ _ _ _ _ => rfl) s pa bs

@[simp] theorem State.writeStatus_launches (l : Launch) (state result : Nat) (dfail : Bool) :
    (s.writeStatus l state result dfail).launches = s.launches := s.writePa_launches _ _

@[simp] theorem State.writeStatus_sys (l : Launch) (state result : Nat) (dfail : Bool) :
    (s.writeStatus l state result dfail).sys = s.sys := s.writePa_sys _ _

@[simp] theorem State.writeStatus_teams (l : Launch) (state result : Nat) (dfail : Bool) :
    (s.writeStatus l state result dfail).teams = s.teams := s.writePa_teams _ _

end

/-! ## A queue accepts a record (R215) -/

/-- A queue that exists holds its change. -/
theorem State.modQueue_queue {s : State} {q : Nat} {f : QueueDesc → QueueDesc} (h : q < s.sys.queues.length) :
    (s.modQueue q f).queue q = f (s.queue q) := by
  simp [State.queue, State.modQueue, List.getD_eq_getElem?_getD, h]

section
variable (s : State) (who q : Nat) (r : LineData) (depth : Nat) (parent : Option Nat) (acq : Scope)

/-- The launch that a record becomes. -/
def State.entrant : Launch :=
  { id := s.nextId, q := q, slot := (s.queue q).widx, taken := false, record := r, cls := s.imageClass who r, status := .queued
    depth := depth, parent := parent, acq := acq, kernel := none, next := 0, done := 0, waited := 0, starving := false, frames := []
    lost := false }

/-- It stands in the slot that the queue fills next, and in no other launch's way. -/
theorem State.accept_launches : (s.accept who q r depth parent acq).launches =
    (s.launches.filter fun x => !(x.q == q && x.slot == (s.queue q).widx)) ++ [s.entrant who q r depth parent acq] := by
  refine (State.writeStatus_launches _ _ _ _ _).trans ((State.writePa_launches _ _ _).trans ?_)
  rfl

theorem State.entrant_mem_accept : s.entrant who q r depth parent acq ∈ (s.accept who q r depth parent acq).launches := by
  rw [State.accept_launches]
  exact List.mem_append_right _ (List.mem_singleton_self _)

theorem State.accept_queue (h : q < s.sys.queues.length) : (s.accept who q r depth parent acq).queue q =
    { s.queue q with widx := ((s.queue q).widx + 1) % 2 ^ (s.queue q).lsize } := by
  unfold State.accept
  rw [State.modQueue_queue] <;> simp only [State.queue, State.writeStatus_sys, State.writePa_sys]
  · rfl
  · exact h

end

/-! ## launch, wchild and errq (R219, R224, R311) -/

section
variable {s : State} {t : Team} {g : Guard}

theorem ctlQueue_eq (c : Word) : ctlQueue c = nat c % 2 ^ 4 := by
  simp [ctlQueue, BitVec.extractLsb'_toNat]

section
variable {c : Word} (r : LineData) (ha : ctlArm c = false)
include ha

/-- A queue that takes no records answers so (R219). -/
theorem State.launchOutcome_off (ho : s.queueOn (ctlQueue c) = false) : s.launchOutcome t c r = ⟨0x80000002, s⟩ := by
  simp [State.launchOutcome, ha, ho]

theorem State.launchOutcome_full (ho : s.queueOn (ctlQueue c) = true) (hf : s.queueFull (ctlQueue c) = true) :
    s.launchOutcome t c r = ⟨0x80000001, s⟩ := by
  simp [State.launchOutcome, ha, ho, hf]

/-- One that has room takes the record, as a child's where the control word says so (R219). -/
theorem State.launchOutcome_accepts (ho : s.queueOn (ctlQueue c) = true) (hf : s.queueFull (ctlQueue c) = false) :
    s.launchOutcome t c r = ⟨BitVec.ofNat 32 (ctlQueue c * 65536 + (s.queue (ctlQueue c)).widx),
      s.accept t.id (ctlQueue c) r (if ctlChild c then t.depth + 1 else 0) (if ctlChild c then some t.id else none) .pkg⟩ := by
  simp [State.launchOutcome, ha, ho, hf]

end

/-- A `launch` whose record has been read, and whose earlier accesses are performed, gives its outcome to the leader. -/
theorem execLaunch_gives {d : Reg} {va : Nat} {q : Req}
    (h : CanIssue s t g fun _ => [d.toNat, d.toNat + 1, d.toNat + 2, d.toNat + 3]) (hc : NoCause s t g (s.launchChecks t d.toNat))
    (ha : s.active t g ≠ []) (hp : launchPlace t ((t.fibre 0).pair d.toNat) = .ok (some va)) (hf : s.fetched t 0 va = some q)
    (hq : q.lanes = []) (hr : s.performedAt t [0] .pkg = true)
    (hg : ctlArm ((t.fibre 0).reg (d.toNat + 2)) = false → s.gatherClass t.id (q.data.getD 0) = none) :
    let o := ((s.useFetch t.core q).releaseOf t .pkg).launchOutcome t ((t.fibre 0).reg (d.toNat + 2)) (q.data.getD 0)
    execLaunch g d s = .next (o.s.writeFibres (s.active t g) 4 fun _ x => x.setReg (d.toNat + 3) o.value) := by
  have hgo : (if ctlArm ((t.fibre 0).reg (d.toNat + 2)) then none else s.gatherClass t.id (q.data.getD 0)) = none := by
    cases hb : ctlArm ((t.fibre 0).reg (d.toNat + 2)) with
    | true => rfl
    | false => exact hg hb
  have hs : q.settled = true := List.isEmpty_iff.2 hq
  intro o
  unfold execLaunch
  rw [h.runs (own := fun s t _ => s.launchChecks t d.toNat) hc]
  simp only [List.isEmpty_eq_false_iff.2 ha, hp, hf, hs, hr, hgo, Bool.not_true, Bool.or_self, Bool.false_eq_true, if_false]
  rfl

/-- The leader's `wchild` on children that its class may wait on goes on where there are none, and else blocks. -/
theorem execWchild_waits {k : Sys2Proof.Class} (h : CanIssue s t g fun _ => []) (ha : s.active t g = [0])
    (hl : ∀ l ∈ s.outstanding t.id, legalWait k (some l) = true) :
    execWchild g k s = .next (if (s.outstanding t.id).isEmpty then (s.acquireViews t.core .sys).advance 4
      else s.blockSome (fun _ x => if guardHolds g x then some .wchild else none) fun _ x => x) := by
  refine (h.runs (.cons (fun i hi => ?_) (.cons (fun _ _ => ?_) .nil))).trans (congrArg _ ?_)
  · rw [ha, List.mem_singleton] at hi
    exact if_pos hi
  · exact if_pos (List.all_eq_true.2 hl)
  · rw [ha]
    rfl

/-- `errq` gives the entry that it pops, after an acquire. -/
theorem execErrq_pops {d : Reg} (h : CanIssue s t g fun _ => (List.range 8).map fun n => d.toNat + n) (ha : s.active t g ≠ []) :
    execErrq g d s = .next (((s.popError t.asid.toNat).2.acquireViews t.core .sys).writeFibres (s.active t g) 4 fun _ x =>
      x.setRegs d.toNat ((List.range 8).map fun w => (s.popError t.asid.toNat).1.extractLsb' (32 * w) 32)) := by
  refine (h.runs .nil).trans (congrArg _ ?_)
  exact if_neg (ne_true_of_eq_false (List.isEmpty_eq_false_iff.2 ha))

end

/-- Settles O36: each instruction passes its checks and has its effect; a launch's outcome is that of its queue's state. -/
theorem systemInstructions : Obligations.SystemInstructions := by
  unfold Obligations.SystemInstructions
  refine ⟨fun s t g k d => ⟨fun va q => execLaunch_gives, fun h ha => ⟨fun hn => ?none, fun hn hl => ?some⟩, execErrq_pops⟩,
    fun s t c r hc => ?outcome⟩
  case none =>
    refine (execWchild_waits h ha fun l hm => ?_).trans (congrArg _ (if_pos (List.isEmpty_iff.2 hn)))
    rw [hn] at hm
    cases hm
  case some =>
    exact (execWchild_waits h ha hl).trans (congrArg _ (if_neg (ne_true_of_eq_false (List.isEmpty_eq_false_iff.2 hn))))
  case outcome =>
    intro q o
    have hq : q = ctlQueue c := (ctlQueue_eq c).symm
    clear_value q
    subst hq
    refine ⟨fun ho => ?_, fun ho hf => ?_, fun ho hf => ?_⟩
    · rw [show o = _ from State.launchOutcome_off r hc ho]
      exact ⟨rfl, rfl⟩
    · rw [show o = _ from State.launchOutcome_full r hc ho hf]
      exact ⟨rfl, rfl⟩
    · rw [show o = _ from State.launchOutcome_accepts r hc ho hf]
      exact ⟨rfl, _, State.entrant_mem_accept .., rfl, rfl, rfl, rfl, rfl, rfl⟩

end Sys2Proof.Machine

namespace Sys2Proof.Machine

/-! ## Records arrive (R214, R215, R220) -/

section
variable {s : State}

/-- The queue discards and counts a record that nobody is to be told of (R214). -/
theorem State.enter_discards {o : Offer} (ha : o.answer = none) (h : s.queueOn o.q = false ∨ s.queueFull o.q = true) :
    s.enter o = s.countOvf o.q := by
  cases hon : s.queueOn o.q with
  | false => simp [State.enter, State.tellOffer, ha, hon]
  | true =>
    obtain h | h := h
    · rw [hon] at h
      cases h
    · simp [State.enter, State.tellOffer, ha, hon, h]

theorem State.enter_accepts {o : Offer} (ha : o.answer = none) (hon : s.queueOn o.q = true) (hf : s.queueFull o.q = false) :
    s.enter o = s.accept o.id o.q o.record 0 none .sys := by
  simp [State.enter, State.tellOffer, ha, hon, hf]

/-- A record goes to its queue at once where the queue discards it, or where none waits before it and its class is at hand. -/
theorem State.offer_enters {q : Nat} {r : LineData} {answer : Option (Party × Party × Nat)}
    (h : s.queueOn q = false ∨ s.queueFull q = true ∨ (∀ x ∈ s.offers, x.q ≠ q) ∧ s.fresh.gatherClass s.nextId r = none) :
    s.offer q r answer = s.fresh.enter { id := s.nextId, q := q, record := r, answer := answer } := by
  refine if_pos ?_
  rw [Bool.or_eq_true, Bool.or_eq_true, Bool.not_eq_true', or_assoc]
  refine h.imp id (Or.imp id fun h => ?_)
  have hall : (s.fresh.offers.all fun x => x.q != q) = true := List.all_eq_true.2 fun x hx => bne_iff_ne.2 (h.1 x hx)
  rw [hall, h.2]
  rfl

/-- The write of a record to a queue's window offers it (R214, R314). -/
theorem execHostLaunchWrite_offers {q : Nat} (r : LineData) (hw : (s.sys.windows.getD q (0, false)).2 = true) :
    exec (.hostLaunchWrite q r) s = .next (s.offer q r none) :=
  if_pos hw

theorem execHostLaunchWrite_accepts {q : Nat} {r : LineData} (hw : (s.sys.windows.getD q (0, false)).2 = true) (hon : s.queueOn q = true)
    (hf : s.queueFull q = false) (hn : ∀ x ∈ s.offers, x.q ≠ q) (hg : s.fresh.gatherClass s.nextId r = none) :
    exec (.hostLaunchWrite q r) s = .next (s.fresh.accept s.nextId q r 0 none .sys) := by
  rw [execHostLaunchWrite_offers r hw, State.offer_enters (.inr (.inr ⟨hn, hg⟩)), State.enter_accepts rfl hon hf]

theorem execHostLaunchWrite_discards {q : Nat} {r : LineData} (hw : (s.sys.windows.getD q (0, false)).2 = true)
    (h : s.queueOn q = false ∨ s.queueFull q = true) : exec (.hostLaunchWrite q r) s = .next (s.fresh.countOvf q) := by
  rw [execHostLaunchWrite_offers r hw, State.offer_enters (h.imp id .inl), State.enter_discards rfl h]

/-- A fired record whose queue has room is accepted, and its object is armed no more (R220). -/
theorem execArmedLaunchEnqueue_accepts {core slot : Nat} {a : Arm} (ha : assoc (s.core core).arms slot = some a) (hf : a.fired = true)
    (hon : s.queueOn a.q = true) (hr : s.queueFull a.q = false) (hg : s.gatherClass a.team a.record = none)
    (hl : ∀ t, s.team? a.team = some t → t.lbase ≠ none) :
    let b := (s.accept a.team a.q a.record 0 none .sys).modCore core fun k => { k with arms := assocDel k.arms slot }
    exec (.armedLaunchEnqueue core slot) s = .next ((b.team? a.team).elim b fun t => b.disarm t a.obj) := by
  intro b
  show execArmedLaunchEnqueue core slot s = _
  unfold execArmedLaunchEnqueue
  have hframe {f : Team → Option State} (h : ∀ t : Team, t.lbase ≠ none → f t = none) : (s.team? a.team).bind f = none :=
    Option.bind_eq_none_iff.2 fun t ht => h t (hl t ht)
  simp only [ha, hf, hon, hr, hg, Bool.not_true, Bool.or_self, Bool.false_eq_true, if_false]
  rw [hframe]
  · show (match b.team? a.team with | some t => _ | none => _) = _
    cases b.team? a.team <;> rfl
  · exact fun t ht => if_pos (Option.isSome_iff_ne_none.2 ht)

/-- In local memory the armed bit is cleared in the object (R134, R220). -/
theorem State.disarm_local {t : Team} (hl : t.lbase ≠ none) (obj : Nat) :
    s.disarm t obj = s.setObject t obj (putBits (s.object t obj) 70 1 0) := by
  unfold State.disarm
  split
  · rfl
  · next h => exact absurd h hl

/-! ## Launch lines (R315) -/

section
variable {id pid line num q : Nat} {r : LineData} {m : Msg}

/-- A launch line that reaches a queue's window is taken by its number. -/
theorem execLaunchLine_takes (hm : s.msg? id = some m) (hd : s.deals m) (hb : m.body = .launchLine pid line num r)
    (hw : s.windowOf (line * 256) = some q) : exec (.launchLine id) s = .next ((s.takeLine q m pid num r).dropMsg id) := by
  show execLaunchLine id s = _
  unfold execLaunchLine
  rw [State.deal_deals hm hd]
  simp only [hb, hw]
  rfl

/-- A number below the one due has been taken before. -/
theorem State.takeLine_taken (h : num < (s.flow m.src.dev q).due) : s.takeLine q m pid num r = s := if_pos h

theorem State.takeLine_due (h : num = (s.flow m.src.dev q).due) : s.takeLine q m pid num r =
    ((s.putFlow { s.flow m.src.dev q with due := (s.flow m.src.dev q).due + 1 }).offerLine q m pid r).drainFlow 64 m.src.dev q :=
  (if_neg h.not_lt).trans (if_pos h)

/-- One above the number due is held early while there is room. -/
theorem State.takeLine_early (h : (s.flow m.src.dev q).due < num) (hr : (s.flow m.src.dev q).early.length < 64) : s.takeLine q m pid num r =
    s.putFlow { s.flow m.src.dev q with early := (s.flow m.src.dev q).early ++ [(num, m, 0)] } :=
  (if_neg h.not_gt).trans ((if_neg h.ne').trans (if_pos hr))

theorem State.takeLine_refused (h : (s.flow m.src.dev q).due < num) (hr : 64 ≤ (s.flow m.src.dev q).early.length) :
    s.takeLine q m pid num r = s.replyTo m (.postedAck pid .refused) :=
  (if_neg h.not_gt).trans ((if_neg h.ne').trans (if_neg hr.not_gt))

end

/-- A number that is due is passed over once a later one has waited 1 ms. -/
theorem execLaunchLinePassOver_passes {src q : Nat} (h : ∃ x ∈ (s.flow src q).early, usTicks 1000 ≤ x.2.2) :
    exec (.launchLinePassOver src q) s = .next
      ((s.putFlow { s.flow src q with
        due := (s.flow src q).due + 1
        passed := (s.flow src q).passed ++ [(s.flow src q).due] }).drainFlow 64 src q) := by
  refine if_neg fun hall => ?_
  obtain ⟨x, hx, ht⟩ := h
  exact absurd (of_decide_eq_true (List.all_eq_true.1 hall x hx)) ht.not_gt

/-- A refused line leaves again under its number. -/
theorem execLaunchLineResend_sends {p : Post} (hp : s.post? p.id = some p) (hk : p.kind = .launchLine) (hr : p.refused = true) :
    exec (.launchLineResend p.id) s = .next ((s.modPost p.id fun x => { x with refused := false }).send
      (s.here (.die (s.core p.core).die)) ⟨p.home, .home⟩ (.launchLine p.id (p.pa / 256) p.num p.data)) := by
  show execLaunchLineResend p.id s = _
  unfold execLaunchLineResend
  simp only [hp]
  exact if_pos ⟨hk, hr⟩

/-! ## Launches are taken (R213, R216) -/

/-- A change of every launch. -/
theorem State.mapLaunches_launch? {F : Launch → Launch} (hF : ∀ x, (F x).id = x.id) (n : Nat) :
    ({ s with launches := s.launches.map F } : State).launch? n = (s.launch? n).map F := by
  simp only [State.launch?, List.find?_map]
  congr 2
  funext x
  rw [Function.comp, hF]

/-- One launch changes, and no other. -/
theorem State.modLaunch_launch? {f : Launch → Launch} (hf : ∀ x, (f x).id = x.id) (n m : Nat) :
    (s.modLaunch n f).launch? m = (s.launch? m).map fun x => if x.id == n then f x else x :=
  State.mapLaunches_launch? (fun x => by split <;> simp [hf]) m

theorem State.launch?_id {n : Nat} {l : Launch} (h : s.launch? n = some l) : l.id = n := by
  simpa using List.find?_some h

theorem State.modLaunch_same {f : Launch → Launch} (hf : ∀ x, (f x).id = x.id) {n : Nat} {l : Launch} (h : s.launch? n = some l) :
    (s.modLaunch n f).launch? n = some (f l) := by
  rw [State.modLaunch_launch? hf, h, Option.map_some, if_pos (beq_iff_eq.2 (State.launch?_id h))]

theorem State.modLaunch_other {f : Launch → Launch} (hf : ∀ x, (f x).id = x.id) {n m : Nat} (h : m ≠ n) :
    (s.modLaunch n f).launch? m = s.launch? m := by
  rw [State.modLaunch_launch? hf]
  cases hm : s.launch? m with
  | none => rfl
  | some l => rw [Option.map_some, if_neg fun e => h ((State.launch?_id hm).symm.trans (beq_iff_eq.1 e))]

/-- A launch as the mark of a failure leaves it. -/
def Launch.marked (result : Nat) (x : Launch) : Launch :=
  match x.status with
  | .queued => { x with status := .retiring result }
  | .started => { x with status := .retiring result }
  | _ => x

theorem State.markRetiring_eq (n result : Nat) : s.markRetiring n result = s.modLaunch n (Launch.marked result) := rfl

theorem Launch.marked_id (result : Nat) (x : Launch) : (x.marked result).id = x.id := by
  unfold Launch.marked
  split <;> rfl

/-- The state in which the queue has passed the slot of a launch. -/
def State.passed (s : State) (l : Launch) : State :=
  (s.modQueue l.q fun d => { d with ridx := (d.ridx + 1) % 2 ^ d.lsize }).modLaunch l.id fun x => { x with taken := true }

/-- The launch whose turn it is is taken: one that has ended is passed by, and one that is queued is checked (R213). -/
theorem execLaunchTake_takes {l : Launch} (hl : s.launch? l.id = some l) (ht : l.taken = false) (hg : s.sys.go = true)
    (hs : l.slot = (s.queue l.q).ridx) (hb : ∀ x ∈ s.takenBefore l, x.allIn = true) (hr : l.status = .queued → recLegal l.record = true →
      s.gatherLaunch l = none) :
    exec (.launchTake l.id) s = .next (if l.status ≠ .queued then s.passed l else
      (s.acceptable l).elim (((s.passed l).dropOwn 0 l.id).markRetiring l.id 1) fun k =>
        if s.unfit l k then ((s.passed l).dropOwn 0 l.id).markRetiring l.id 2
        else ((s.passed l).dropOwn 0 l.id).modLaunch l.id fun x => { x with kernel := some k }) := by
  have hturn : ¬ (l.taken = true ∨ (!s.sys.go) = true ∨ l.slot ≠ (s.queue l.q).ridx ∨ (!(s.takenBefore l).all Launch.allIn) = true) := by
    simp [ht, hg, hs, List.all_eq_true.2 hb]
  show execLaunchTake l.id s = _
  unfold execLaunchTake
  simp only [hl]
  rw [if_neg hturn]
  by_cases hq : l.status = .queued
  · have hrd : (if recLegal l.record then s.gatherLaunch l else none) = none := by
      split
      · next h => exact hr hq h
      · rfl
    simp only [hq, ne_eq, not_true, if_false, hrd]
    cases s.acceptable l with
    | none => rfl
    | some k =>
      simp only [Option.elim_some]
      split <;> rfl
  · simp only [ne_eq, hq, not_false_eq_true, if_true]
    rfl

/-- A launch that a check fails retires with the check's result, and no other launch changes. -/
theorem State.passed_markRetiring {l : Launch} (hl : s.launch? l.id = some l) (hq : l.status = .queued) (result : Nat) :
    let u := ((s.passed l).dropOwn 0 l.id).markRetiring l.id result
    u.launch? l.id = some { l with
      taken := true
      status := .retiring result } ∧ ∀ id, id ≠ l.id → u.launch? id = s.launch? id := by
  intro u
  have htaken : (s.passed l).launch? l.id = some { l with taken := true } :=
    State.modLaunch_same (f := fun x => { x with taken := true }) (fun _ => rfl) hl
  have hu : u = ((s.passed l).dropOwn 0 l.id).modLaunch l.id (Launch.marked result) := State.markRetiring_eq _ _
  rw [hu]
  refine ⟨(State.modLaunch_same (Launch.marked_id result) htaken).trans ?_, fun id hn => ?_⟩
  · simp only [Launch.marked, hq]
  · exact (State.modLaunch_other (Launch.marked_id result) hn).trans
      (State.modLaunch_other (f := fun x => { x with taken := true }) (fun _ => rfl) hn)

/-! ## Teams start (R178, R212, R216 to R218) -/

/-- A team of a launch as it starts on a core (R50, R217). -/
structure Team.Starts (t : Team) (l : Launch) (k : Kernel) (c num : Nat) (cond : TeamCond) : Prop where
  launch : t.launch = l.id
  num : t.num = num
  core : t.core = c
  cond : t.cond = cond
  asid : t.asid = recAsid l.record
  depth : t.depth = l.depth
  teams : nat t.nteam = recTeams l.record
  consts : t.consts = (List.range 16).map (recConst l.record)
  fmts : t.fmts = (List.range 8).map (recFmt l.record)
  fibres : ∃ blocks, t.fibres = startFibres k blocks

/-- The fibres of a home group as they resume: in bundles, and the blocked ones parked (R55). -/
def Team.resumeGroup (stamp : Nat) (t : Team) (g : Nat) : Team :=
  let t := t.rebundle ((t.members g).filter fun i => (t.fibre i).wait.isNone) stamp
  { t with parked := t.parked ++ t.byPc ((t.members g).filter fun i => (t.fibre i).wait.isSome) }

/-- Grouping its fibres into bundles leaves the rest of a team. -/
theorem Team.resumeGroups_eq (gs : List Nat) (t : Team) (stamp : Nat) :
    ∃ bs ps, gs.foldl (Team.resumeGroup stamp) t = { t with bundles := bs, parked := ps } := by
  induction gs generalizing t with
  | nil => exact ⟨t.bundles, t.parked, rfl⟩
  | cons g gs ih =>
    obtain ⟨bs, h⟩ := t.rebundle_bundles ((t.members g).filter fun i => (t.fibre i).wait.isNone) stamp
    obtain ⟨bs', ps', h'⟩ := ih (t.resumeGroup stamp g)
    refine ⟨bs', ps', h'.trans ?_⟩
    simp only [Team.resumeGroup, h]

theorem Team.resumeBundles_eq (t : Team) (stamp : Nat) :
    ∃ bs ps, t.resumeBundles stamp = { t with bundles := bs, parked := ps, pools := [] } :=
  Team.resumeGroups_eq _ { t with bundles := [], parked := [], pools := [] } stamp

theorem Team.Starts.resumeBundles {t : Team} {l : Launch} {k : Kernel} {c num : Nat} {cond : TeamCond} (h : t.Starts l k c num cond) (stamp : Nat) :
    (t.resumeBundles stamp).Starts l k c num cond := by
  obtain ⟨bs, ps, hb⟩ := t.resumeBundles_eq stamp
  rw [hb]
  exact ⟨h.launch, h.num, h.core, h.cond, h.asid, h.depth, h.teams, h.consts, h.fmts, h.fibres⟩

/-- The members of a team start live at offset 0 with predicates and registers 0, and its other slots are dormant (R50, R217). -/
theorem startFibres_fibre {k : Kernel} {blocks : List (List Nat)} {i : Nat} (h : i < k.fibres) :
    (startFibres k blocks).getD i (.empty .ended) = if i < k.team then
      { Fibre.empty .live with
        regs := List.replicate (8 * k.winInit) 0
        blocks := blocks.getD i [] } else Fibre.empty .dormant := by
  simp [startFibres, List.getD_eq_getElem?_getD, h]

theorem State.acquireViews_teams (c : Nat) (sc : Scope) : (s.acquireViews c sc).teams = s.teams := by
  cases sc <;> rfl

theorem State.putBack_launches (c : Nat) (byFibre byLane : List (List Nat)) : (s.putBack c byFibre byLane).launches = s.launches := by
  have h (u : State) (lane : Nat) (bs : List Nat) : (u.addFree c lane bs).launches = u.launches := ite_keeps State.launches rfl rfl
  exact (foldl_keeps (fun u l => h u l _) _ _).trans (foldl_keeps (fun u i => h u (laneOf i) _) _ _)

/-- A core that gives a launch's team its resources has that team, unless a claim for them has failed the launch. -/
theorem State.place_starts {b : State} {l : Launch} {k : Kernel} {c num : Nat} {cond : TeamCond} (h : s.place l k c num cond = some b)
    (hb : ∀ x, b.launch? l.id = some x → x.status.failing = false) : ∃ t ∈ b.teams, t.Starts l k c num cond := by
  unfold State.place at h
  dsimp only at h
  split at h
  case h_2 => cases h
  case h_1 records slot _ _ =>
    generalize s.startBlocks c k = p at h
    obtain ⟨s1, blocks, reserve⟩ := p
    generalize s1.takeRange c k.localSize = p at h
    obtain ⟨lbase, s2⟩ := p
    dsimp only at h
    split at h
    · next hfail =>
      obtain rfl := Option.some.inj h
      have hl : (s2.putBack c blocks reserve).launch? l.id = s2.launch? l.id := congrArg (List.find? _) (s2.putBack_launches c blocks reserve)
      cases hx : s2.launch? l.id with
      | none => simp [hx] at hfail
      | some x => simp [hx, hb x (hl.trans hx)] at hfail
    · obtain rfl := Option.some.inj h
      rw [State.acquireViews_teams]
      refine ⟨_, List.mem_append_right _ (List.mem_singleton_self _), Team.Starts.resumeBundles ?_ _⟩
      exact ⟨rfl, rfl, rfl, rfl, rfl, rfl, Nat.mod_eq_of_lt (BitVec.isLt _), rfl, rfl, blocks, rfl⟩

theorem State.startLaunch_teams (l : Launch) : (s.startLaunch l).teams = s.teams := by
  unfold State.startLaunch
  split
  · exact State.writeStatus_teams _ _ _ _ _
  · rfl

/-- A launch has got its next team, or its whole grid: it has started, and its queue has been served (R214, R216). -/
def State.admitted (s : State) (l : Launch) : State := { ((s.dropOwn 0 l.id).startLaunch l).keepPromise l.id with lastQueue := l.q }

theorem State.admitted_teams (l : Launch) : (s.admitted l).teams = s.teams :=
  State.startLaunch_teams (s := s.dropOwn 0 l.id) l

theorem execTeamAdmit_admits {b : State} {l : Launch} {k : Kernel} {core : Nat} (hc : s.choose core = some (l, k)) (hp : k.progress ≠ 0)
    (hg : s.gatherRecords l k = none) (hb : s.place l k core l.next .resident = some b) :
    exec (.teamAdmit l.id core) s = .next (b.admitted l) := by
  show execTeamAdmit l.id core s = _
  unfold execTeamAdmit
  simp only [hc, hp, hg, hb, ne_eq, not_true, or_self, if_false]
  rfl

/-- A grid whose turn it is, and that finds room, starts as a whole (R218). -/
theorem execGridWholeAdmit_admits {b : State} {l h : Launch} {k : Kernel} (hl : s.launch? l.id = some l) (hh : s.headOf l.q = some (h, k))
    (hi : h.id = l.id) (hp : k.progress = 0) (hq : l.status = .queued) (hn : s.heldBack l = false) (ht : s.gridTurn l = true)
    (hg : s.gatherRecords l k = none) (hb : s.placeGrid l k (recTeams l.record) 0 = some b) :
    exec (.gridWholeAdmit l.id) s = .next
      (State.admitted { b with teams := b.teams.map fun t => if t.launch = l.id then t.begin else t } l) := by
  have hfits : s.headFits l k = true := by simp [State.headFits, hp, hb]
  show execGridWholeAdmit l.id s = _
  unfold execGridWholeAdmit
  simp only [hl, hh, hi, hp, hq, hn, ht, hg, hb, hfits, ne_eq, not_true, Bool.not_true, Bool.false_and, Bool.false_eq_true, or_self, if_true,
    if_false]
  rfl

theorem execQueueHeadStarve_starves {q : Nat} {l : Launch} {k : Kernel} (hh : s.headOf q = some (l, k)) (hp : k.progress = 0)
    (hq : l.status = .queued) (hs : l.starving = false) (hw : 10485760 ≤ l.waited) :
    exec (.queueHeadStarve q) s = .next (s.modLaunch l.id fun x => { x with starving := true }) := by
  show execQueueHeadStarve q s = _
  unfold execQueueHeadStarve
  simp only [hh]
  exact if_pos ⟨hp, hq, by rw [hs]; rfl, hw⟩

/-! ## Teams and launches end (R222 to R224) -/

/-- A team whose fibres have ended and whose work is complete gives up its registers (R222). -/
theorem execTeamEndFree_frees {t : Team} (ht : s.team? t.id = some t) (hc : t.cond = .resident) (hh : t.handlerFor = none) (hl : t.live = [])
    (hw : s.workDone t = true) : exec (.teamEndFree t.id) s = .next ((s.freeRegisters t).modTeam t.id fun x => { x with
      cond := .ended
      reserve := []
      linger := []
      fibres := x.fibres.map fun f => { f with blocks := [] }
      lbase := if s.keepsLocal t then x.lbase else none }) := by
  show execTeamEndFree t.id s = _
  unfold execTeamEndFree
  simp only [ht, hc, hh, hl, hw, ne_eq, not_true, Option.isSome_none, List.isEmpty_nil, Bool.not_true, Bool.false_eq_true, or_self, if_false]
  rfl

theorem execTeamRetire_retires {t : Team} (ht : s.team? t.id = some t) (hc : t.cond = .ended) (ho : s.outstanding t.id = [])
    (ha : s.accessesLeft t = false) : exec (.teamRetire t.id) s = .next (s.retireTeam t) := by
  show execTeamRetire t.id s = _
  unfold execTeamRetire
  simp only [ht, hc, ho, ha, ne_eq, not_true, List.isEmpty_nil, Bool.not_true, Bool.false_eq_true, or_self, if_false]

/-- The state in which a launch that retires has its status word and its completion record (R214, R223). -/
def State.retiredWith (s : State) (l : Launch) (result : Nat) : State :=
  let b := (((s.settleGone l.id).modLaunch l.id fun x => { x with status := .retired result }).keepPromise l.id).writeStatus l 3 result false
  let c := b.complete 0 l.record result (some (l.q * 65536 + l.slot)) l.id
  if c.2 then c.1.modLaunch l.id fun x => { x with lost := true } else c.1

theorem execLaunchRetire_retires {l : Launch} {result : Nat} (hl : s.launch? l.id = some l) (hr : s.retiresWith l = some result) :
    exec (.launchRetire l.id) s = .next (l.parent.elim (s.retiredWith l result) (s.retiredWith l result).wakeParent) := by
  show execLaunchRetire l.id s = _
  unfold execLaunchRetire
  simp only [hl, hr]
  cases l.parent <;> rfl

/-- The status word of a launch whose completion record is lost says so (R223). -/
theorem execCompletionWriteFail_says {l : Launch} {result : Nat} (hl : s.launch? l.id = some l) (hr : l.status = .retired result)
    (hf : l.lost = true) : exec (.completionWriteFail l.id) s = .next
      ((s.modLaunch l.id fun x => { x with lost := false }).writeStatus l 3 result true) := by
  show execCompletionWriteFail l.id s = _
  unfold execCompletionWriteFail
  simp only [hl, hr, hf, if_true]

end

/-- Settles O45: clause by clause, each event in a state in which it is enabled. -/
theorem launchEvents : Obligations.LaunchEvents := by
  unfold Obligations.LaunchEvents
  refine ⟨fun s q r hw => ⟨fun hon hf hn hg => ?host, execHostLaunchWrite_discards hw⟩, fun s core slot a ha hf hon hr hg hl => ?armed,
    fun s id pid line num q r m hm hd hb hw => ?line, fun s src q h => execLaunchLinePassOver_passes h,
    fun s p hp hk hr => execLaunchLineResend_sends hp hk hr, fun s l hl ht hg hs hb => ?take, fun s b l k core hc hp hg hb hf => ?team,
    fun s b l h k hl hh hi hp hq hn ht hg hb => execGridWholeAdmit_admits hl hh hi hp hq hn ht hg hb,
    fun s q l k hh hp hq hs hw => execQueueHeadStarve_starves hh hp hq hs hw,
    fun s t ht => ⟨execTeamEndFree_frees ht, execTeamRetire_retires ht⟩,
    fun s l r hl => ⟨fun hr => ?retire, execCompletionWriteFail_says hl⟩⟩
  case host =>
    refine ⟨_, execHostLaunchWrite_accepts hw hon hf hn hg, ⟨_, State.entrant_mem_accept .., rfl, rfl, rfl, rfl, rfl, rfl⟩, fun hq => ?_⟩
    rw [State.accept_queue s.fresh _ q r 0 none .sys hq]
    rfl
  case armed =>
    have h := execArmedLaunchEnqueue_accepts ha hf hon hr hg hl
    refine ⟨fun hn => h.trans ?_, fun t ht hlb => h.trans ?_⟩
    · rw [hn]
      rfl
    · rw [ht, Option.elim_some, State.disarm_local hlb]
  case line =>
    have h := execLaunchLine_takes hm hd hb hw
    have done {u : State} (hu : s.takeLine q m pid num r = u) : exec (.launchLine id) s = .next (u.dropMsg id) := hu ▸ h
    exact ⟨fun hn => done (State.takeLine_taken hn), fun hn => done (State.takeLine_due hn), fun hn hr => done (State.takeLine_early hn hr),
      fun hn hr => done (State.takeLine_refused hn hr)⟩
  case take =>
    have h (hr) := execLaunchTake_takes hl ht hg hs hb hr
    refine ⟨fun hn => (h fun hq => absurd hq hn).trans (congrArg _ (if_pos hn)), fun hq hr => ?_⟩
    have h := (h fun _ => hr).trans (congrArg _ (if_neg (not_not.2 hq)))
    intro c ends
    have fails {n : Nat} (hu : exec (.launchTake l.id) s = .next (c.markRetiring l.id n)) : ends n :=
      ⟨_, hu, rfl, State.passed_markRetiring hl hq n⟩
    clear_value ends
    refine ⟨fun ha => fails (h.trans ?_), fun k ha => ⟨fun hu => fails (h.trans ?_), fun hu => h.trans ?_⟩⟩
    · rw [ha]
      rfl
    · rw [ha, Option.elim_some, if_pos hu]
      rfl
    · rw [ha, Option.elim_some, if_neg (ne_true_of_eq_false hu)]
      rfl
  case team =>
    obtain ⟨t, hm, ht⟩ := State.place_starts hb hf
    obtain ⟨blocks, hfib⟩ := ht.fibres
    refine ⟨_, t, execTeamAdmit_admits hc hp hg hb, rfl, (State.admitted_teams l).symm ▸ hm, ht.launch, ht.num, ht.core, ht.cond, ht.asid,
      ht.depth, ht.teams, ht.consts, ht.fmts, ?_, fun i hi => ?_⟩
    · simp [hfib, startFibres]
    · rw [Team.fibre, hfib, startFibres_fibre hi]
      split
      · exact ⟨rfl, fun _ => ⟨rfl, rfl, rfl⟩⟩
      · next h => exact ⟨rfl, fun hn => absurd hn h⟩
  case retire =>
    refine (execLaunchRetire_retires hl hr).trans ?_
    cases l.parent <;> rfl

end Sys2Proof.Machine

namespace Sys2Proof.Machine

/-! ## A wait whose fibres load one after the other (R202, R227)

The machine of the strongly ordered load above, with two fibres and page tables of its own. `wait` starts the loads of its fibres one after the
other, and each translates its address as it starts. Fibre 0 reads the strongly ordered page of device 1, which its core finds in its translation
cache; fibre 1 reads a page of this device, which takes a walk through the tables in DRAM. A dirty sector of the core's view, all zeros, lies over
the table that the walk ends in, and its write-back takes the second page away. -/

/-- A buffer record of 16 elements of 4 bytes at virtual address 2 ^ 31 (R177). -/
def walkedRecord : BitVec 256 := BitVec.ofNat 256 (2 * 2 ^ 120 + 4 * 2 ^ 96 + 16 * 2 ^ 64 + 2 ^ 31)

/-- A fibre of four registers: registers 0 and 1 hold the generic pointer to the start of record `n` (R182); registers 2 and 3, the value and the
party, are 0, and the party is thus its own team (R227). -/
def waitFibre (n : Nat) : Fibre := { setupFibre with regs := [0, BitVec.ofNat 32 (n * 2 ^ 27), 0, 0], blocks := [0] }

/-- Fibre 0 waits on a word of the other device, fibre 1 on one of this device. -/
def waitTeam : Team :=
  { farTeam with
    fibres := [waitFibre 0, waitFibre 1], records := [farRecord, walkedRecord], bundles := [⟨[0, 1], 0, false, false⟩] }

/-- Page tables that map one 2 GiB page of this device at virtual address 2 ^ 31, by entry 1 of the level-3 table (R196, R197). -/
def waitTables : Mem :=
  dramPut (dramPut (dramPut [] setupAst (natBytes 16 (setupRoot + 1))) setupRoot (natBytes 8 (setupNext setupL3)))
    (setupL3 + 8) (natBytes 8 (setupLeaf 0))

/-- The core's dirty sector holds zeros for the first eight entries of the level-3 table. -/
def clearingCore : Core := { strongCore with view := [⟨setupL3 / 64, 0, true, 0⟩] }

def waitState : State :=
  { farState clearingCore with
    dram := waitTables, sys := { DeviceRegs.reset .tly8P with astBase := setupAst }, teams := [waitTeam], cur := ⟨7, [0, 1], 0⟩ }

/-- What fibre `i` of the team waits for in an outcome. -/
def waitAfter (i : Nat) : Result → Option Wait
  | .next u => (u.fibreNow waitTeam i).wait
  | _ => none

theorem waitState_canIssue : CanIssue waitState waitTeam (.pos 7) fun _ => [0, 1, 2, 3] :=
  { team := rfl, ready := by decide, settled := by decide, guard := by decide, window := by unfold InWindow; decide }

/-- As the instruction issues, the party and the word of each fibre pass their checks, fibre 1's through the tables. -/
theorem waitState_passes : ∀ i ∈ waitState.active waitTeam (.pos 7),
    partyLegal ((waitTeam.fibre i).reg 3) = true ∧ waitState.asksOther ((waitTeam.fibre i).reg 3) = false ∧
      waitState.partyError waitTeam .own ((waitTeam.fibre i).reg 3) = none ∧
      waitState.placedError waitTeam .load false (pointerAddr waitTeam ((waitTeam.fibre i).pair 0) 4) = none ∧
      pointerAddr waitTeam ((waitTeam.fibre i).pair 0) 4 ≠ .ok none := by
  decide +kernel

theorem waitState_issues : waitState.accessStalls waitTeam (waitState.active waitTeam (.pos 7)) true
    (lineGroups (waitState.waitItems waitTeam (waitState.active waitTeam (.pos 7)) 0 2)) = false := by
  decide +kernel

/-- Fibre 1 no longer waits: the walk of its load has met the cleared table. -/
theorem waitState_unblocks : waitAfter 1 (exec (.wait (.pos 7) .eq .own 0 2) waitState) = none := by
  decide +kernel

/-- Refutes O21, in its clause on `wait`: the load of fibre 0, of a strongly ordered page of another device, makes the write-backs of a release as it
starts (R202); they overwrite the table entry through which fibre 1's address passed its checks, and fibre 1, which the statement has blocked at
its word, raises cause 0x30 instead. -/
theorem not_fenceTimeAndWait : ¬ Obligations.FenceTimeAndWait := by
  intro h
  obtain ⟨-, hwait⟩ := h
  obtain ⟨u, hu, blocked⟩ := hwait waitState waitTeam (.pos 7) .eq .own 0 2 waitState_canIssue waitState_passes waitState_issues
  obtain ⟨-, -, w, hw, -⟩ := blocked 1 (by decide) (by decide)
  have gone := waitState_unblocks
  rw [hu] at gone
  exact absurd (hw.symm.trans gone) nofun

end Sys2Proof.Machine

namespace Sys2Proof.Machine

/-- Settles O58: DRAM and host memory are empty after reset, and so is the local memory of every core (R344). -/
theorem canonicalReset : Obligations.CanonicalReset :=
  ⟨Mem.wf_nil, Mem.wf_nil, fun _ hk => coresFrom_lmem hk ▸ Mem.wf_nil⟩

end Sys2Proof.Machine

namespace Sys2Proof.Machine

/-! ## Every instruction and every event goes on

An instruction of a bundle issues, which always goes on (`issue_next`); an event that deals with a message goes on in either outcome; and each branch
of the other events ends in a next state. -/

/-- A result goes on to a next state. -/
def Advances (r : Result) : Prop := ∃ u, r = .next u

theorem Advances.next {u : State} : Advances (.next u) := ⟨u, rfl⟩

section
variable {s : State}

/-! ### The shapes of the instructions -/

theorem advances_issue {fm own eff} : Advances (issue fm own eff s) := issue_next fm own eff s
theorem advances_laneOp {g len uses f} : Advances (laneOp g len uses f s) := advances_issue
theorem advances_op1 {g len d f} : Advances (op1 g len d f s) := advances_laneOp
theorem advances_op2 {g len a d f} : Advances (op2 g len a d f s) := advances_laneOp
theorem advances_op3 {g len a b d f} : Advances (op3 g len a b d f s) := advances_laneOp
theorem advances_cmp1 {g a p f} : Advances (cmp1 g a p f s) := advances_laneOp
theorem advances_cmp2 {g a b p f} : Advances (cmp2 g a b p f s) := advances_laneOp
theorem advances_pred2 {g a b d f} : Advances (pred2 g a b d f s) := advances_laneOp
theorem advances_slotOp {g n uses ok draws f} : Advances (slotOp g n uses ok draws f s) := advances_issue
theorem advances_collective {g uses f} : Advances (collective g uses f s) := advances_issue
theorem advances_shuffle {g b a d src} : Advances (shuffle g b a d src s) := advances_collective
theorem advances_gred {g a d f} : Advances (gred g a d f s) := advances_collective
theorem advances_globalOp {x isLoad} : Advances (globalOp x isLoad s) := advances_issue
theorem advances_loadOp {g size signed ord r i m dst} : Advances (loadOp g size signed ord r i m dst s) := advances_globalOp
theorem advances_storeOp {g size ord r i m src} : Advances (storeOp g size ord r i m src s) := advances_globalOp
theorem advances_atomOp {g op r i d} : Advances (atomOp g op r i d s) := advances_globalOp
theorem advances_atomOrdOp {g op os a d} : Advances (atomOrdOp g op os a d s) := advances_globalOp
theorem advances_redOp {g op r i d} : Advances (redOp g op r i d s) := by
  unfold redOp
  exact advances_issue
theorem advances_latom {g op a d} : Advances (latom g op a d s) := advances_issue
theorem advances_copyOp {g uses n h elem out more kind} : Advances (copyOp g uses n h elem out more kind s) := advances_issue
theorem advances_rowOp {g fn d} : Advances (rowOp g fn d s) := advances_issue

theorem advances_stf {g b a d} : Advances (execStf g b a d s) := by
  unfold execStf
  exact advances_issue

theorem advances_nbload {g d} : Advances (execNbload g d s) := by
  unfold execNbload
  exact advances_issue

theorem advances_nbrun {g d} : Advances (execNbrun g d s) := by
  unfold execNbrun
  exact advances_issue

theorem advances_nbstat {g d} : Advances (execNbstat g d s) := by
  unfold execNbstat
  exact advances_issue

theorem advances_nbcancel {g d} : Advances (execNbcancel g d s) := by
  unfold execNbcancel
  exact advances_issue

theorem advances_launch {g d} : Advances (execLaunch g d s) := by
  unfold execLaunch
  exact advances_issue

/-! ### The shapes of the events -/

/-- The message is dealt with, taken up, or dropped; without one nothing happens. -/
theorem advances_deal {id f} : Advances (s.deal id f) := by
  unfold State.deal
  split
  · split
    · exact .next
    · split
      · exact .next
      · split <;> exact .next
  · exact .next

theorem advances_onMsg {id f} : Advances (s.onMsg id f) := by
  unfold State.onMsg
  split
  · split <;> exact .next
  · exact .next

theorem advances_deactivation {id} : Advances (execDeactivation id s) := by
  unfold execDeactivation
  split
  · exact advances_deal
  · exact .next

theorem advances_hostUncachedRead {pa} : Advances (execHostUncachedRead pa s) := by
  simp only [execHostUncachedRead]
  repeat' split
  all_goals exact .next

theorem advances_hostUncachedWrite {pa bytes} : Advances (execHostUncachedWrite pa bytes s) := by
  simp only [execHostUncachedWrite]
  repeat' split
  all_goals exact .next

/-- A request of the host for a line is an access of its own while back-invalidation is off (R346). -/
theorem advances_hostCachedMemRequest {line req data} : Advances (execHostCachedMemRequest line req data s) := by
  unfold execHostCachedMemRequest
  dsimp only
  split
  · exact .next
  · split
    · split
      · exact advances_hostUncachedWrite
      · exact advances_hostUncachedRead
    · repeat' split
      all_goals exact .next

end

/-- Every instruction and every event goes on: the instructions issue, by their shapes; the events deal with a message, or every branch of theirs ends
in a next state. -/
theorem exec_advances (i : Instr) (s : State) : Advances (exec i s) := by
  unfold exec
  cases i
  case movC16 | popc | clz | brev | abs | mov | addi | andi | ori | xori | shli | shri | sari | frcp | frsq | fsqrt | fexp2 | flog2 | fclass |
      cvtI2fS32 | cvtI2fN32 | cvtF2iS32 | cvtF2iN32 | cvtF2hF16 | cvtF2hBf16 | cvtH2fF16 | cvtH2fBf16 | movx =>
    exact advances_op2
  case moviC16 | addiC16 | movi | imhi =>
    exact advances_op1
  case addC16 | subC16 | mulLoC16 | andC16 | orC16 | xorC16 | shlC16 | shrC16 | minS32C16 | maxS32C16 | faddC16 | fmulC16 | fmaxC16 | add |
      addc | sub | subb | mulLo | mulHiS32 | mulHiN32 | mad | and | or | xor | andn | minS32 | maxS32 | minN32 | maxN32 | shl | shr | sar | rot |
      bfxS32 | bfxN32 | bfi | fadd | fsub | fmul | ffma | fmin | fmax | fdiv | hadd2F16 | hmul2F16 | hfma2F16 | hmax2F16 | hadd2Bf16 |
      hmul2Bf16 | hfma2Bf16 | hmax2Bf16 | fscale =>
    exact advances_op3
  case movIndirectSrc | movIndirectDst | sel | qzero | smx | qsr | qsw =>
    exact advances_laneOp
  case cmpS32 | cmpN32 | fcmpF32 =>
    exact advances_cmp2
  case cmpiS32 | cmpiN32 =>
    exact advances_cmp1
  case cvtfNar | cvtfWid | pk4 | upk4 | smxCvt =>
    exact advances_slotOp
  case pand | por | pxor | pnot | pmov =>
    exact advances_pred2
  case voteAll | voteAny | voteBallot | matchLanes =>
    exact advances_collective
  case shflIdx | shflUp | shflDown | shflXor =>
    exact advances_shuffle
  case gredAddS32 | gredAddF32 | gredMinS32 | gredMaxS32 | gredMinF32 | gredMaxF32 | gredAnd | gredOr =>
    exact advances_gred
  case ld | ldNarrowWide | ldAcq =>
    exact advances_loadOp
  case st | stNarrowWide | stRel =>
    exact advances_storeOp
  case atomAddS32 | atomAddF32 | atomMinS32 | atomMaxS32 | atomMinN32 | atomMaxN32 | atomAnd | atomOr | atomXor | atomExch | atomCas =>
    exact advances_atomOp
  case atomOrdAddS32 | atomOrdAddF32 | atomOrdMinS32 | atomOrdMaxS32 | atomOrdAnd | atomOrdOr | atomOrdExch | atomOrdCas =>
    exact advances_atomOrdOp
  case redAddS32 | redAddF32 | redMinS32 | redMaxS32 | redMinN32 | redMaxN32 | redAnd | redOr | redXor =>
    exact advances_redOp
  case latomAddS32 | latomAddF32 | latomMinS32 | latomMaxS32 | latomAnd | latomOr | latomExch | latomCas =>
    exact advances_latom
  case cpin | cpout | cppush | cpred | cpfill =>
    exact advances_copyOp
  case rcopy | rfill | rand | ror | rxor | rnot =>
    exact advances_rowOp
  case pushLineWrite | pushAck | contributionArrival | publishedAccess | publishRequest | launchLine | tryArrive | persistentRequest |
      activation | tokenMessage | poleAck | audit | auditReport | recreationAck | unfreeze | homeAtomic | atomicReply | remoteResponse |
      postedWrite | postedWriteAck | flaggedData | flagUpdate =>
    exact advances_deal
  case partyQuery | partyQueryAnswer =>
    exact advances_onMsg
  case deactivation => exact advances_deactivation
  case hostUncachedRead => exact advances_hostUncachedRead
  case hostUncachedWrite => exact advances_hostUncachedWrite
  case hostCachedMemRequest => exact advances_hostCachedMemRequest
  case groupingStagePass | generationSweep | migrationPull | pagingReadIndexWrite | resumeTicketWrite | saveRequestWrite |
      formConversion | leaseWrite | leaseWriteHeld | meridianTick | frameReplay | scheduleDigest | digestDiscard | messageAgeDrop |
      hostLinkTrain | goWrite | featureAcceptWrite | linkRetrainWrite | umissClear | staleCounterClear | seedWrite |
      mismatchCounterClear | queueOvfClear | registerWrite | wearRefresh | thermalStep | thermalStop =>
    exact .next
  case grantRequestGranted | waitReload | partyQueryTimeout | rowOperation | rowSlotAcquire | nearBankStep | arbitrationWindow |
      performLoad | lineFill | pendingWriteComplete | openAccessFault | enqueueStore | drain | writeBack | sectorDrop | pageWalk |
      leaseRead | homeLeaseSweep | cacheLeaseSweep | tryTimeout | persistentRequestIssue | persistentRetry | eviction | peerProbe |
      tokenRecall | auditStart | auditRepeat | auditHoldoffExpire | windowWriteback | copyCommandStart | copyLineTransfer |
      copyCommandComplete | pushRetry | contributionRetry | launchTake | teamAdmit | gridWholeAdmit | queueHeadStarve | hostLaunchWrite |
      armedLaunchEnqueue | launchLinePassOver | launchLineResend | teamSaveComplete | registerDeadlockEvict | starvationTimeout |
      preempt | preemptStopTimeout | errorQueueOverflowTrap | trapHandlerEntry | pagingQueueWrite | teamReadmit | gatheringPoolClose |
      teamEndFree | teamRetire | launchRetire | completionWriteFail | linkDead | portFailure | rotorSlotStart | orbitStart |
      relayForward | deliver | remoteLoadTimeout | postedWriteTimeout | storeLinePost | storeLineTimeout | storeAckTimeout | hostSnpInv |
      hostSnpData | hostSnpCur | hostLineGrant | backInvalidate | biConflict | reset | linkRetrainDone | correctedError | signRequest =>
    simp only [execGrantRequestGranted, execWaitReload, execPartyQueryTimeout, execRowOperation, execRowSlotAcquire, execNearBankStep,
      execArbitrationWindow, execPerformLoad, execLineFill, execPendingWriteComplete, execOpenAccessFault, execEnqueueStore, execDrain,
      execWriteBack, execSectorDrop, execPageWalk, execLeaseRead, execHomeLeaseSweep, execCacheLeaseSweep, execTryTimeout,
      execPersistentRequestIssue, execPersistentRetry, execEviction, execPeerProbe, execTokenRecall, execAuditStart, execAuditRepeat,
      execAuditHoldoffExpire, execWindowWriteback, execCopyCommandStart, execCopyLineTransfer, execCopyCommandComplete, execPushRetry,
      execContributionRetry, execLaunchTake, execTeamAdmit, execGridWholeAdmit, execQueueHeadStarve, execHostLaunchWrite, execArmedLaunchEnqueue,
      execLaunchLinePassOver, execLaunchLineResend, execTeamSaveComplete, execRegisterDeadlockEvict, execStarvationTimeout, execPreempt,
      execPreemptStopTimeout, execErrorQueueOverflowTrap, execTrapHandlerEntry, execPagingQueueWrite, execTeamReadmit, execGatheringPoolClose,
      execTeamEndFree, execTeamRetire, execLaunchRetire, execCompletionWriteFail, execLinkDead, execPortFailure, execRotorSlotStart, execOrbitStart,
      execRelayForward, execDeliver, execRemoteLoadTimeout, execPostedWriteTimeout, execStoreLinePost, execStoreLineTimeout, execStoreAckTimeout,
      execHostSnpInv, execHostSnpData, execHostSnpCur, execHostLineGrant, execBackInvalidate, execBiConflict, execReset, execLinkRetrainDone,
      execCorrectedError, execSignRequest]
    repeat' split
    all_goals exact .next
  case stf => exact advances_stf
  case nbload => exact advances_nbload
  case nbrun => exact advances_nbrun
  case nbstat => exact advances_nbstat
  case nbcancel => exact advances_nbcancel
  case launch => exact advances_launch
  all_goals exact advances_issue

/-! ### Steps -/

section
variable {s : State}

theorem advances_afterEvent {r : Result} (h : Advances r) : Advances (afterEvent r) := by
  obtain ⟨u, rfl⟩ := h
  exact .next

/-- An instruction stalls on the scoreboard, or executes. -/
theorem advances_runInstr {t i} : Advances (s.runInstr t i) := by
  unfold State.runInstr
  split
  · exact .next
  · obtain ⟨u, hu⟩ := exec_advances i s
    rw [hu]
    exact .next

theorem advances_runBundle {r} : Advances (runBundle r s) := by
  unfold runBundle
  dsimp only
  split
  · exact .next
  · split
    · exact advances_runInstr
    · exact .next

/-- Time passes: a tick, after which its own events may follow. -/
theorem advances_execTick : Advances (execTick s) := by
  unfold execTick
  split <;> exact .next

/-- A device whose start-up has not failed takes an event, or an instruction, or lets time pass (R344). -/
theorem advances_step (h : s.sys.failing = 0) : Advances (step s) := by
  unfold step
  rw [if_neg (not_not.2 h)]
  split
  · exact advances_afterEvent (exec_advances _ _)
  · split
    · exact advances_afterEvent .next
    · split
      · exact advances_runBundle
      · split
        · exact .next
        · exact advances_afterEvent advances_execTick

/-- One whose start-up has failed has stopped (R344). -/
theorem step_stopped (h : s.sys.failing ≠ 0) : step s = s.stopped := if_pos h

theorem State.stopped_fault (hr : ∀ p rest, s.schedule ≠ .reset p :: rest)
    (hu : ∀ pa rest, isRegs pa = true → s.schedule ≠ .hostUncachedRead pa :: rest) :
    s.stopped = .fault (.startupFailed s.sys.failing.toNat) := by
  unfold State.stopped
  split
  · next p rest hs => exact absurd hs (hr p rest)
  · next pa rest hs => exact if_neg fun h => hu pa rest h hs
  · rfl

end

/-- Settles O60: every instruction and event goes on, so every step of a device that has started does; one that has stopped takes a reset, or a read
of its registers. -/
theorem stepGoesOn : Obligations.StepGoesOn := by
  unfold Obligations.StepGoesOn
  refine ⟨exec_advances, fun s => ⟨advances_step, fun hf hr hu => ?faults, fun p rest hf hs => ?resets, fun pa rest hf hp hs => ?reads⟩⟩
  case faults => exact (step_stopped hf).trans (State.stopped_fault hr hu)
  case resets =>
    show Advances (step s)
    rw [step_stopped hf]
    unfold State.stopped
    rw [hs]
    exact exec_advances _ _
  case reads =>
    show Advances (step s)
    rw [step_stopped hf]
    unfold State.stopped
    rw [hs]
    dsimp only
    rw [if_pos hp]
    exact exec_advances _ _

end Sys2Proof.Machine

namespace Sys2Proof.Machine

/-! ## Tries and publish requests at a holder (R132, R270, R277) -/

/-- A holding stands at its place for its block. -/
theorem State.hold?_place {s : State} {p : Place} {blk : Nat} {h : Hold} (hh : s.hold? p blk = some h) : h.who = p ∧ h.blk = blk := by
  have := List.find?_some hh
  simpa using this

theorem State.putHold_core (s : State) (h : Hold) (c : Nat) : (s.putHold h).core c = s.core c := by
  unfold State.putHold
  dsimp only
  split <;> rfl

section
variable {s : State} {p : Place} {blk tag : Nat} {req : Party} {h : Hold} {kind : WantKind} {halves : BitVec 2}

/-- A place that no freeze, window or activation keeps answers from its holding. -/
theorem State.answer_held (hp : p ≠ .home) (hf : s.isFrozen p blk = false) (hw : s.windowAtCore p blk = false) (ha : s.actOf p blk = none)
    (hh : s.hold? p blk = some h) : s.answer p blk kind false req tag halves = s.answerHold h kind req tag := by
  unfold State.answer
  cases p with
  | home => exact absurd rfl hp
  | _ => simp only [hf, hw, ha, hh, Bool.false_eq_true, if_false, Option.isSome_none]

/-- The holder of a published window answers a publish request with a notice (R209). -/
theorem State.answer_publishNotice (hp : p ≠ .home) (hf : s.isFrozen p blk = false) (hw : s.windowAtCore p blk = true)
    (hpub : s.published blk ≠ none) :
    s.answer p blk .write true req tag halves = .done (s.send (s.here p) req (.publishNotice blk)) := by
  have hs : (s.published blk).isSome = true := Option.isSome_iff_ne_none.2 hpub
  unfold State.answer
  cases p with
  | home => exact absurd rfl hp
  | _ => simp only [hf, hw, State.answerWindow, hs, Bool.false_eq_true, if_false, if_true]

/-- A holder without the pole does not answer a read. -/
theorem State.answerHold_notOwner (hn : h.pole = false) : s.answerHold h .read req tag = .done s := by
  simp [State.answerHold, hn]

variable (hr : s.recall h.who h.blk kind h.n = none)
include hr

/-- The owner answers a read with tokens and the data, and keeps the pole and a token. -/
theorem State.answerHold_shares (hk : kind = .read) (ho : h.pole = true) (hn : 2 ≤ h.n) :
    s.answerHold h kind req tag = .done (s.sendTokens h req (min 72 (h.n - 1)) false true tag) := by
  subst hk
  simp [State.answerHold, ho, hr, hn]

/-- The owner's last token goes with the pole. -/
theorem State.answerHold_givesLast (hk : kind = .read) (ho : h.pole = true) (hn : h.n < 2) :
    s.answerHold h kind req tag = .done (s.sendTokens h req h.n true true tag) := by
  subst hk
  simp [State.answerHold, ho, hr, hn]

/-- A write takes all that is held. -/
theorem State.answerHold_givesAll (hk : kind = .write) : s.answerHold h kind req tag = .done (s.sendTokens h req h.n h.pole false tag) := by
  subst hk
  simp [State.answerHold, hr]

end

section
variable {s : State} {id : Nat} {m : Msg} {blk tag : Nat} {req : Party} (hm : s.msg? id = some m) (hd : s.deals m)
include hm hd

theorem execTryArrive_answers {kind : WantKind} (hb : m.body = .tryTok blk kind req tag) :
    exec (.tryArrive id) s = .next (dealt id (s.answer m.dst.place blk kind false req tag m.halves)) := by
  show execTryArrive id s = _
  refine (State.deal_deals hm hd _).trans ?_
  simp only [hb]

theorem execPublishRequest_answers (hb : m.body = .publishReq blk req tag) :
    exec (.publishRequest id) s = .next (dealt id (s.answer m.dst.place blk .write true req tag m.halves)) := by
  show execPublishRequest id s = _
  refine (State.deal_deals hm hd _).trans ?_
  simp only [hb]

/-! ## The persistent table (R279, R280) -/

section
variable {key : Nat} (hb : m.body = .persist blk req key tag) (hl : s.isLocal blk = true) (hu : s.unbacked (blkPa blk) = false)
  (ha : s.atHome req = false) (hw : s.homeWaits blk .write = none) (ht : ∀ e ∈ s.coh.table, ¬ (e.blk = blk ∧ e.req = req))
include hb hl hu ha hw ht

/-- A full table refuses a request. -/
theorem execPersistentRequest_full (hn : 32 ≤ (s.coh.table.filter fun e => sameTable e.blk blk).length) :
    exec (.persistentRequest id) s = .next ((s.send (s.here .home) req (.persistFull blk tag)).dropMsg id) := by
  have hnone : (s.coh.table.any fun e => e.blk == blk && e.req == req) = false := by simpa using ht
  show execPersistentRequest id s = _
  refine State.deal_done hm hd ?_
  simp only [hb, hl, hu, ha, hw, hnone, hn, Bool.not_true, Bool.or_self, Bool.false_eq_true, if_false, if_true]

/-- A table with room takes it, and starts the next wave where no request of the block is active. -/
theorem execPersistentRequest_enters (hn : (s.coh.table.filter fun e => sameTable e.blk blk).length < 32) :
    exec (.persistentRequest id) s = .next ((State.nextWave { s with coh := { s.coh with
      table := s.coh.table ++ [⟨blk, req, key, tag, false, false, 0, []⟩] } } blk).dropMsg id) := by
  have hnone : (s.coh.table.any fun e => e.blk == blk && e.req == req) = false := by simpa using ht
  show execPersistentRequest id s = _
  refine State.deal_done hm hd ?_
  simp only [hb, hl, hu, ha, hw, hnone, hn.not_ge, Bool.not_true, Bool.or_self, Bool.false_eq_true, if_false]

end

/-- A party that hears of another's activation notes it and gives what it holds (R280). -/
theorem execActivation_gives {key : Nat} (hb : m.body = .activate blk req key tag) (hf : s.isFrozen m.dst.place blk = false)
    (hn : ∀ a ∈ s.coh.acts, a ≠ ⟨m.dst.place, blk, req, tag⟩) (hr : req ≠ s.here m.dst.place) :
    exec (.activation id) s = .next (dealt id (State.giveActive { s with coh := { s.coh with
      acts := s.coh.acts ++ [⟨m.dst.place, blk, req, tag⟩] } } m.dst.place blk req tag)) := by
  have hk : s.coh.acts.contains (⟨m.dst.place, blk, req, tag⟩ : Act) = false := by
    rw [List.contains_eq_mem, decide_eq_false_iff_not]
    exact fun h => hn _ h rfl
  show execActivation id s = _
  refine (State.deal_deals hm hd _).trans ?_
  simp only [hb, hf, hk, Bool.false_eq_true, if_false]
  rw [if_neg]
  exact hr

/-- A deactivation that ends something here leaves with it. -/
theorem execDeactivation_ends {u : State} (hu : s.deactivated m = some u) : exec (.deactivation id) s = .next (u.dropMsg id) := by
  show execDeactivation id s = _
  unfold execDeactivation
  have hf : (s.msg? id).filter (fun m => (s.deactivated m).isSome || Msg.tooOld m) = some m := by
    rw [hm, Option.filter_some, if_pos (by rw [hu]; rfl)]
  rw [hf]
  refine State.deal_done hm hd ?_
  rw [hu]
  rfl

end

section
variable {s : State} {m : Msg} {blk tag key : Nat} {req : Party} (hb : m.body = .deactivate blk req key tag)
include hb

theorem State.deactivated_home {e : PEntry} (hp : m.dst.place = .home) (he : s.entryOf blk req tag = some e) :
    s.deactivated m = some (s.endPersist e) := by
  unfold State.deactivated
  simp only [hb, hp, he, Option.map_some]

theorem State.deactivated_place (hp : m.dst.place ≠ .home) (ha : m.src.dev = s.dev ∨ ⟨m.dst.place, blk, req, tag⟩ ∈ s.coh.acts) :
    s.deactivated m = some (s.endAct ⟨m.dst.place, blk, req, tag⟩) := by
  have hc : (s.coh.acts.contains (⟨m.dst.place, blk, req, tag⟩ : Act) || m.src.dev == s.dev) = true := by
    rw [Bool.or_eq_true, List.contains_iff_mem, beq_iff_eq]
    exact ha.symm
  unfold State.deactivated
  cases hp' : m.dst.place with
  | home => exact absurd hp' hp
  | _ =>
    rw [hp'] at hc
    simp only [hb, hc, if_true]

end

/-! ## Tokens arrive (R271, R282, R283) -/

section
variable {s : State} {id : Nat} {m : Msg}

theorem State.takePoison_isFrozen {blk b : Nat} {dirty : Bool} {p : Place} : (s.takePoison m blk dirty).isFrozen p b = s.isFrozen p b := by
  unfold State.takePoison State.setPoison
  split
  · rfl
  · split <;> rfl

theorem State.takePoison_isLocal {blk b : Nat} {dirty : Bool} : (s.takePoison m blk dirty).isLocal b = s.isLocal b := by
  unfold State.takePoison State.setPoison
  split
  · rfl
  · split <;> rfl

variable (hm : s.msg? id = some m) (hd : s.deals m)
include hm hd

section
variable {blk n tag : Nat} {serial : BitVec 8} {pole dirty : Bool} {data : Option BlockData}
  (hb : m.body = .tokens blk serial n pole dirty data tag) (hf : s.isFrozen m.dst.place blk = false) (hn : n ≠ 0)
include hb hf hn

theorem execTokenMessage_home (hp : m.dst.place = .home) (hl : s.isLocal blk = true) :
    exec (.tokenMessage id) s = .next (((if data.isSome then s.takePoison m blk dirty else s).homeTakes m.dst.place m blk serial n pole dirty
      data).dropMsg id) := by
  have hf' : (if data.isSome then s.takePoison m blk dirty else s).isFrozen .home blk = false := by
    rw [← hp, ← hf]
    split
    · exact State.takePoison_isFrozen
    · rfl
  have hl' : (if data.isSome then s.takePoison m blk dirty else s).isLocal blk = true := by
    rw [← hl]
    split
    · exact State.takePoison_isLocal
    · rfl
  show execTokenMessage id s = _
  refine State.deal_done hm hd ?_
  simp only [hb, hp, hf', hl', hn, Bool.false_eq_true, if_false, if_true]

theorem execTokenMessage_die {d : Nat} (hp : m.dst.place = .die d) :
    exec (.tokenMessage id) s = .next (((if data.isSome then s.takePoison m blk dirty else s).placeTakes m.dst.place m blk serial n pole dirty
      data tag).dropMsg id) := by
  have hf' : (if data.isSome then s.takePoison m blk dirty else s).isFrozen (.die d) blk = false := by
    rw [← hp, ← hf]
    split
    · exact State.takePoison_isFrozen
    · rfl
  show execTokenMessage id s = _
  refine State.deal_done hm hd ?_
  simp only [hb, hp, hf', hn, Bool.false_eq_true, if_false]

end

theorem execPoleAck_frees {blk : Nat} (hb : m.body = .poleAck blk) :
    exec (.poleAck id) s = .next (State.dropMsg { s with coh := { s.coh with
      shadows := dropShadow m.dst.place blk m.src s.coh.shadows } } id) := by
  show execPoleAck id s = _
  refine State.deal_done hm hd ?_
  simp only [hb]

/-! ## Atomics at the home (R281) -/

theorem execHomeAtomic_eq {pa tag : Nat} {op : AtomOp} {x y : Word} {ep : BitVec 4} (hb : m.body = .atomReq pa op x y tag ep) :
    exec (.homeAtomic id) s = .next (dealt id (s.homeAtomic m pa op x y tag ep)) := by
  show execHomeAtomic id s = _
  refine (State.deal_deals hm hd _).trans ?_
  simp only [hb]

theorem execAtomicReply_answers {tag c : Nat} {ep : BitVec 4} {st : RemStatus} {old : Word} {r : Req} (hb : m.body = .atomResp tag ep st old)
    (ht : tag / 64 < 2 ^ 20) (hr : s.tagged tag ep = some (c, r)) :
    exec (.atomicReply id) s = .next ((s.atomAnswer c r (tag % 64) st old).dropMsg id) := by
  show execAtomicReply id s = _
  refine State.deal_done hm hd ?_
  simp only [hb, if_neg ht.not_ge, hr]

end

section
variable {s : State} {m : Msg} {pa tag : Nat} {op : AtomOp} {x y : Word} {ep : BitVec 4}

/-- An atomic of another device belongs to no line of this one. -/
theorem State.atomLine_other (h : m.src.dev ≠ s.dev) : s.atomLine m tag = none := if_neg fun h' => h h'.1

/-- An atomic of another device on a block whose data stand. -/
theorem State.doAtomic_other {blk : Nat} (h : m.src.dev ≠ s.dev) (hp : s.poisoned blk = false) :
    let old := BitVec.ofNat 32 (bytesNat (blockSlice (s.current blk) (pa % 128) 4))
    s.doAtomic m blk pa op x y tag ep =
      ((s.writeBlock blk (pa % 128) (wordBytes (atomNew op old x y))).finishWant .home blk).replyTo m (.atomResp tag ep .ok old) := by
  simp only [State.doAtomic, State.atomLine_other h, hp, Bool.false_and, Bool.false_eq_true, if_false]

/-- A home with all tokens of a block, which nothing holds up, makes the atomic. -/
theorem State.homeAtomic_acts (hlow : s.lowerLane m pa tag = false) (hu : s.unbacked pa = false)
    (hw : (isDram pa && (s.windowOf pa).isSome) = false) (hr : isRegs pa = false) (hmv : s.windowMoving (blkOf s.dev pa) = false)
    (hl : s.localCopy (blkOf s.dev pa) = none) (hf : s.isFrozen .home (blkOf s.dev pa) = false)
    (hwait : s.homeWaits (blkOf s.dev pa) .write = none) (ht : (s.homeTokens (blkOf s.dev pa)).2.1 = 4096)
    (ha : s.activeOf (blkOf s.dev pa) = none) (hsrc : m.src.dev ≠ s.dev) :
    s.homeAtomic m pa op x y tag ep = .done (s.doAtomic m (blkOf s.dev pa) pa op x y tag ep) := by
  have hshut : s.mineShut m tag = false := by rw [State.mineShut, State.atomLine_other hsrc]; rfl
  simp only [State.homeAtomic, hlow, hshut, hu, hw, hr, hmv, hl, hf, hwait, ht, ha, Bool.or_self, Bool.false_eq_true, if_false,
    Option.isSome_none, Option.all_none, and_self, if_true]

end

/-! ## Requests at the requester (R277 to R279) -/

section
variable {s : State} {w : Want} (hw : s.wantId? w.id = some w)
include hw

section
variable (hs : s.satisfied w = false) (hn : w.stage = .no)
include hs hn

theorem execTryTimeout_tries (ht : s.tryLimit w.blk ≤ w.tryAge) (hk : w.tries < 4) : exec (.tryTimeout w.id) s = .next (s.sendTry w) := by
  show execTryTimeout w.id s = _
  unfold execTryTimeout
  simp [hw, State.trying, hs, hn, ht, hk]

/-- After 20 microseconds, or once the fourth try has timed out, the request becomes persistent. -/
theorem execPersistentRequestIssue_sends (ht : usTicks 20 ≤ w.age ∨ 4 ≤ w.tries ∧ s.tryLimit w.blk ≤ w.tryAge) :
    exec (.persistentRequestIssue w.id) s = .next (s.sendPersist w) := by
  have hp : s.persistTime w = true := by simpa [State.persistTime] using ht
  show execPersistentRequestIssue w.id s = _
  unfold execPersistentRequestIssue
  simp [hw, State.trying, hs, hn, hp]

end

theorem execPersistentRetry_sends {age : Nat} (hr : w.stage = .refused age) (ht : usTicks 1 ≤ age) :
    exec (.persistentRetry w.id) s = .next (s.sendPersist w) := by
  show execPersistentRetry w.id s = _
  unfold execPersistentRetry
  simp only [hw, hr, ht, if_true]

end

/-! ## Evictions, peers, recalls (R271, R274, R276) -/

section
variable {s : State} {blk : Nat} {h : Hold}

theorem execEviction_evicts {p : Place} (hh : s.hold? p blk = some h) (he : s.evictable p blk = true) :
    exec (.eviction p blk) s = .next (s.evictTokens h) := by
  show execEviction p blk s = _
  unfold execEviction
  simp only [hh, he, if_true]

/-- What a slice has lent comes back, and the waiters of its die load again. -/
theorem execTokenRecall_recalls {d : Nat} (hh : s.hold? (.die d) blk = some h) (hl : h.lent ≠ []) :
    exec (.tokenRecall d blk) s = .next ((s.putHold { h with lent := [] }).wakeWaits (fun k => (s.core k).die == d) blk) := by
  have he : h.lent.isEmpty = false := by simpa using hl
  show execTokenRecall d blk s = _
  unfold execTokenRecall
  simp only [hh, he, Bool.false_eq_true, if_false, State.loseCopy, State.putHold_core]

/-- A peer with two tokens or more lends one of them. -/
theorem execPeerProbe_lends {c peer n : Nat} {r : Req} (hh : s.hold? (.die (s.core c).die) blk = some h)
    (hp : assoc (s.core c).peers blk = some peer) (hr : h.readable = true) (hl : ∀ x ∈ h.lent, x.1 ≠ c)
    (hw : s.coreWants c blk false = some r) (hc : peer ≠ c) (hn : assoc h.lent peer = some n) (h2 : 2 ≤ n) :
    exec (.peerProbe c blk) s = .next
      ((s.putHold { h with
        lent := (h.lent.map fun x => if x.1 == peer then (x.1, x.2 - 1) else x) ++ [(c, 1)]
        filled := assocSet h.filled c r.page.asid }).notePeer c blk) := by
  have hnone : (h.lent.any fun x => x.1 == c) = false := by simpa using hl
  show execPeerProbe c blk s = _
  unfold execPeerProbe
  simp [hh, hp, hw, hr, hnone, hc, hn, h2, Hold.fill]

end

/-- What a message does may be told in another way. -/
theorem exec_dealt_congr {s : State} {i : Instr} {id : Nat} {d d' : Dealt} (hi : exec i s = .next (dealt id d)) (h : d = d') :
    exec i s = .next (dealt id d') :=
  h ▸ hi

/-- Settles O47: each message is dealt with as its body says, and each of the other events finds what it needs. -/
theorem tokenEvents : Obligations.TokenEvents := by
  unfold Obligations.TokenEvents
  refine ⟨?messages, fun s w hw => ⟨fun hs hn => ⟨?tries, ?late, ?failed⟩, fun age hr ht => ?retries⟩,
    fun s p blk c peer d n h => ⟨?evicts, ?recalls, fun hh hp hr hl r hw hc hn h2 => ?lends⟩⟩
  case messages =>
    intro s id m hm p does hd
    refine ⟨fun blk kind req tag hb => ⟨?answersTry, fun h hp hf hw ha hh hr => ?holds⟩, fun blk req tag hb => ⟨?answersPublish, ?notices⟩,
      fun blk req key tag hb hl hu ha hw ht => ⟨?full, ?enters⟩, fun blk req key tag hb hf hn hr => ?activates,
      fun blk req key tag hb => ⟨fun hp e he => ?endsEntry, fun hp ha => ?endsAct⟩, ?tokens, fun blk hb => ?poleAck, ?atomics,
      fun tag ep st old c r hb ht hr => ?reply⟩
    case answersTry => exact execTryArrive_answers hm hd hb
    case holds =>
      have key {d : Dealt} (he : s.answerHold h kind req tag = d) : does (.tryArrive id) d :=
        exec_dealt_congr (execTryArrive_answers hm hd hb) ((State.answer_held hp hf hw ha hh).trans he)
      obtain ⟨hpl, hbl⟩ := State.hold?_place hh
      rw [← hpl, ← hbl] at hr
      exact ⟨fun hk hn => key (hk ▸ State.answerHold_notOwner hn), fun hk ho hn => key (State.answerHold_shares hr hk ho hn),
        fun hk ho hn => key (State.answerHold_givesLast hr hk ho hn), fun hk => key (State.answerHold_givesAll hr hk)⟩
    case answersPublish => exact execPublishRequest_answers hm hd hb
    case notices =>
      exact fun hp hf hw hpub => exec_dealt_congr (execPublishRequest_answers hm hd hb) (State.answer_publishNotice hp hf hw hpub)
    case full => exact execPersistentRequest_full hm hd hb hl hu ha hw ht
    case enters => exact execPersistentRequest_enters hm hd hb hl hu ha hw ht
    case activates => exact execActivation_gives hm hd hb hf hn hr
    case endsEntry => exact execDeactivation_ends hm hd (State.deactivated_home hb hp he)
    case endsAct => exact execDeactivation_ends hm hd (State.deactivated_place hb hp ha)
    case tokens =>
      intro blk serial n pole dirty data tag hb hf hn b
      exact ⟨fun hp hl => execTokenMessage_home hm hd hb hf hn hp hl, fun d hp => execTokenMessage_die hm hd hb hf hn hp⟩
    case poleAck => exact execPoleAck_frees hm hd hb
    case atomics =>
      intro pa op x y tag ep hb blk
      refine ⟨execHomeAtomic_eq hm hd hb, fun hlow hu hw hr hmv hl hf hwait ht ha hp hsrc => ?_⟩
      refine exec_dealt_congr (execHomeAtomic_eq hm hd hb) ?_
      exact (State.homeAtomic_acts hlow hu hw hr hmv hl hf hwait ht ha hsrc).trans (congrArg Dealt.done (State.doAtomic_other hsrc hp))
    case reply => exact execAtomicReply_answers hm hd hb ht hr
  case tries => exact execTryTimeout_tries hw hs hn
  case late => exact fun ht => execPersistentRequestIssue_sends hw hs hn (.inl ht)
  case failed => exact fun hk ht => execPersistentRequestIssue_sends hw hs hn (.inr ⟨hk, ht⟩)
  case retries => exact execPersistentRetry_sends hw hr ht
  case evicts => exact execEviction_evicts
  case recalls => exact execTokenRecall_recalls
  case lends => exact execPeerProbe_lends hh hp hr hl hw hc hn h2

end Sys2Proof.Machine

namespace Sys2Proof.Machine

section
variable {s : State}

/-! ## The home's own steps of an audit (R284, R285) -/

/-- A request that has been active for its audit time is audited: the home freezes, and asks all that may hold tokens. -/
theorem execAuditStart_asks {blk : Nat} {e : PEntry} (he : s.activeOf blk = some e) (ha : s.audit? blk = none) (ht : s.auditTicks e ≤ e.age) :
    let ps := s.activeParties blk e.req
    exec (.auditStart blk) s = .next (((s.putAudit { blk := blk, stage := .asking, waiting := ps.map fun p => (p, 0), asked := ps, sum := 0
                                                     poleData := none, shadow := none, poleSeen := false }).freeze .home blk).sendAll
      (s.here .home) ps (.audit blk (s.homeTokens blk).1)) := by
  show execAuditStart blk s = _
  unfold execAuditStart
  simp only [he, ha, if_neg ht.not_gt]

/-- A party that has not answered for 10 microseconds is asked again. -/
theorem execAuditRepeat_asks {a : Audit} {p : Party} {n : Nat} (ha : s.audit? a.blk = some a) (hs : a.stage = .asking) (hp : (p, n) ∈ a.waiting)
    (hn : usTicks 10 ≤ n) :
    exec (.auditRepeat a.blk p) s = .next
      ((s.putAudit { a with waiting := a.waiting.map fun w => if w.1 == p then (p, 0) else w }).send (s.here .home) p
        (.audit a.blk (s.homeTokens a.blk).1)) := by
  have hw : (a.waiting.any fun w => w.1 == p && usTicks 10 ≤ w.2) = true := List.any_eq_true.2 ⟨(p, n), hp, by simp [hn]⟩
  show execAuditRepeat a.blk p s = _
  unfold execAuditRepeat
  simp only [ha]
  rw [if_pos ⟨hs, hw⟩]

/-- The hold-off ends once the block's last recreation is 2 ms old. -/
theorem execAuditHoldoffExpire_recreates {a : Audit} (ha : s.audit? a.blk = some a) (hs : a.stage = .holdoff)
    (hr : s.recentlyMade a.blk = false) : exec (.auditHoldoffExpire a.blk) s = .next (s.recreate a) := by
  show execAuditHoldoffExpire a.blk s = _
  unfold execAuditHoldoffExpire
  simp only [ha, hs, hr, Bool.not_false, and_self, if_true]

/-! ## Messages of an audit -/

section
variable {id : Nat} {m : Msg} {blk : Nat} (hm : s.msg? id = some m) (hd : s.deals m)
include hm hd

theorem execAudit_reports {serial : BitVec 8} (hb : m.body = .audit blk serial) :
    exec (.audit id) s = .next ((((s.meant m blk).foldl (fun s p => s.freeze p blk) s).send m.dst m.src
      (s.reportOf (s.meant m blk) blk)).dropMsg id) := by
  show execAudit id s = _
  refine State.deal_done hm hd ?_
  simp only [hb]

/-- Places drop a block; the bridge does once the host holds no line under it (R296). -/
theorem execAudit_invalidates (hb : m.body = .invalidate blk) (hr : .bridge ∈ s.meant m blk → s.recall .bridge blk .write 0 = none) :
    exec (.audit id) s = .next ((((s.meant m blk).foldl (fun s p => s.invalidate p blk) s).send m.dst m.src (.invAck blk)).dropMsg id) := by
  have hnone : (if (s.meant m blk).contains .bridge then s.recall .bridge blk .write 0 else none) = none := by
    split
    · next h => exact hr (List.contains_iff_mem.1 h)
    · rfl
  show execAudit id s = _
  refine State.deal_done hm hd ?_
  simp only [hb, hnone]

theorem execUnfreeze_thaws {serial : BitVec 8} (hb : m.body = .unfreeze blk serial) :
    exec (.unfreeze id) s = .next (((s.meant m blk).foldl (fun s p => (s.thaw p blk).relearn p blk serial) s).dropMsg id) := by
  show execUnfreeze id s = _
  refine State.deal_done hm hd ?_
  simp only [hb]

/-! ## What a report and an acknowledgement lead to -/

/-- An audit after the report of a party. -/
def Audit.reported (a : Audit) (src : Party) (n : Nat) (pole : Bool) (data shadow : Option BlockData) : Audit :=
  { a with
    waiting := a.waiting.filter fun w => w.1 != src
    sum := a.sum + n
    poleSeen := a.poleSeen || pole
    poleData := if pole then data else a.poleData
    shadow := a.shadow.orElse fun _ => shadow }

/-- What an audit goes on to after a report. -/
def State.afterReport (s : State) (a : Audit) (blk : Nat) : State :=
  if !a.waiting.isEmpty then s.putAudit a
  else if a.sum + (s.homeTokens blk).2.1 = 4096 then s.endAudit a
  else if s.recentlyMade blk then s.putAudit { a with stage := .holdoff }
  else s.recreate a

/-- An audit that waits for its source takes a report. -/
theorem execAuditReport_takes {n : Nat} {pole dirty : Bool} {data shadow : Option BlockData} {a : Audit}
    (hb : m.body = .report blk n pole dirty data shadow) (ha : s.audit? blk = some a) (hs : a.stage = .asking)
    (hw : ∃ k, (m.src, k) ∈ a.waiting) :
    exec (.auditReport id) s = .next ((s.afterReport (a.reported m.src n pole data shadow) blk).dropMsg id) := by
  obtain ⟨k, hk⟩ := hw
  have hany : (a.waiting.any fun w => w.1 == m.src) = true := List.any_eq_true.2 ⟨(m.src, k), hk, by simp⟩
  show execAuditReport id s = _
  refine State.deal_done hm hd ?_
  simp only [hb, ha]
  rw [if_neg (by simp only [hs, hany, ne_eq, not_true_eq_false, Bool.not_true, Bool.false_eq_true, or_self, not_false_eq_true])]
  unfold State.afterReport Audit.reported
  dsimp only
  simp only [← apply_ite Dealt.done]

/-- A recreation takes an acknowledgement: the last one ends it. -/
theorem execRecreationAck_takes {a : Audit} (hb : m.body = .invAck blk) (ha : s.audit? blk = some a) (hs : a.stage = .dropping) :
    let a' : Audit := { a with waiting := a.waiting.filter fun w => w.1 != m.src }
    exec (.recreationAck id) s = .next ((if a'.waiting.isEmpty then (s.renew blk).endAudit a' else s.putAudit a').dropMsg id) := by
  intro a'
  show execRecreationAck id s = _
  refine State.deal_done hm hd ?_
  simp only [hb, ha]
  rw [if_neg (not_not.2 hs), ← apply_ite Dealt.done]

end

section
variable {a : Audit} {blk : Nat}

theorem State.afterReport_waits (hw : a.waiting ≠ []) : s.afterReport a blk = s.putAudit a := by
  have he : a.waiting.isEmpty = false := by simpa using hw
  simp [State.afterReport, he]

variable (hw : a.waiting = [])
include hw

/-- All tokens are accounted for. -/
theorem State.afterReport_ends (hn : a.sum + (s.homeTokens blk).2.1 = 4096) : s.afterReport a blk = s.endAudit a := by
  simp [State.afterReport, hw, hn]

variable (hn : a.sum + (s.homeTokens blk).2.1 ≠ 4096)
include hn

theorem State.afterReport_holdsOff (hr : s.recentlyMade blk = true) : s.afterReport a blk = s.putAudit { a with stage := .holdoff } := by
  simp [State.afterReport, hw, hn, hr]

theorem State.afterReport_recreates (hr : s.recentlyMade blk = false) : s.afterReport a blk = s.recreate a := by
  simp [State.afterReport, hw, hn, hr]

end

end

/-- Settles O48: an audit asks, counts and repeats; it ends with the sum of 4,096, or holds off, or recreates the block. -/
theorem auditEvents : Obligations.AuditEvents := by
  unfold Obligations.AuditEvents
  refine ⟨?starts, fun s a ha => ⟨?repeats, ?expires⟩, ?messages⟩
  case starts => exact fun s blk e he ha ht => execAuditStart_asks he ha ht
  case repeats => exact fun p n => execAuditRepeat_asks ha
  case expires => exact execAuditHoldoffExpire_recreates ha
  case messages =>
    intro s id m hm hd done
    refine ⟨fun blk serial hb => ?reports, fun blk hb hr => ?invalidates, fun blk serial hb => ?thaws, ?report, ?acknowledge⟩
    case reports => exact execAudit_reports hm hd hb
    case invalidates => exact execAudit_invalidates hm hd hb hr
    case thaws => exact execUnfreeze_thaws hm hd hb
    case report =>
      intro blk n pole dirty data shadow a hb ha hs hw a'
      have taken {u : State} (h : s.afterReport a' blk = u) : done (.auditReport id) u :=
        (execAuditReport_takes hm hd hb ha hs hw).trans (congrArg (fun u : State => Host.Outcome.next (u.dropMsg id)) h)
      exact ⟨fun hw => taken (State.afterReport_waits hw), fun hw hn => taken (State.afterReport_ends hw hn),
        fun hw hn hr => taken (State.afterReport_holdsOff hw hn hr), fun hw hn hr => taken (State.afterReport_recreates hw hn hr)⟩
    case acknowledge =>
      intro blk a hb ha hs a'
      have taken := execRecreationAck_takes hm hd hb ha hs
      refine ⟨fun hw => ?_, fun hw => ?_⟩
      · have he : ¬ a'.waiting.isEmpty = true := by simpa using hw
        exact taken.trans (congrArg (fun u : State => Host.Outcome.next (u.dropMsg id)) (if_neg he))
      · have he : a'.waiting.isEmpty = true := by rw [hw]; rfl
        exact taken.trans (congrArg (fun u : State => Host.Outcome.next (u.dropMsg id)) (if_pos he))

end Sys2Proof.Machine

namespace Sys2Proof.Machine

section
variable {s : State}

/-! ## Metadata of a block (R272, R273) -/

theorem State.setMeta_metaOf (blk : Nat) (m : Meta) : (s.setMeta blk m).metaOf blk = m := by
  show (assoc (if m = .reset then _ else _) blk).getD .reset = m
  split
  · next h => rw [assoc_assocDel, h]; rfl
  · rw [assoc_assocSet]; rfl

section
variable {blk : Nat} {p : Bool} {se : BitVec 8} {w r : BitVec 24} (hm : s.metaOf blk = .lease p se w r)
include hm

theorem State.leaseTimes_lease : s.leaseTimes blk = some (w, r) := by
  rw [State.leaseTimes, hm]

theorem State.setTimes_metaOf {w' r' : BitVec 24} : (s.setTimes blk w' r').metaOf blk = .lease p se w' r' := by
  unfold State.setTimes
  rw [hm]
  exact State.setMeta_metaOf _ _

/-- A read miss at the home moves the block's rts to that of the reply (R289). -/
theorem State.leaseMiss_metaOf (c : Nat) (q : Req) : (s.leaseMiss c q blk w r).metaOf blk = .lease p se w (s.replyRts c r q.page.asid) :=
  State.setTimes_metaOf hm

theorem State.writeTime_lease {c : Nat} (hs : s.leaseShut blk = false) (hc : s.channelShut (blkPa blk) = false)
    (ht : timeLe (timeMax (r + 1) (s.core c).lt) (s.sys.mtime + 2 ^ 21) = true) :
    s.writeTime c blk = some (timeMax (r + 1) (s.core c).lt) := by
  simp only [State.writeTime, State.leaseTimes_lease hm, hs, hc, ht, Bool.not_false, Bool.and_self, if_true]

/-- A block 2^22 ticks behind gets the present times (R292). -/
theorem execHomeLeaseSweep_renews (hr : timeLe r s.sys.mtime = true) (hf : 2 ^ 22 < (s.sys.mtime - r).toNat) :
    exec (.homeLeaseSweep blk) s = .next (s.setTimes blk s.sys.mtime s.sys.mtime) := by
  have hb : farBehind s.sys.mtime r = true := by rw [farBehind, hr, decide_eq_true hf]; rfl
  show execHomeLeaseSweep blk s = _
  unfold execHomeLeaseSweep
  rw [State.leaseTimes_lease hm]
  exact if_pos hb

end

/-! ## Conversion of form (R273) -/

theorem execFormConversion_converts {blk : Nat} {toLease : Bool} (hl : s.isLocal blk = true) (hh : isHost (blkPa blk) = false)
    (hc : s.localCopy blk = none) (hf : (s.metaOf blk).isLease ≠ toLease) (hv : s.convertible blk toLease = true) :
    exec (.formConversion blk toLease) s = .next (s.convert blk) := by
  show execFormConversion blk toLease s = _
  unfold execFormConversion State.convertForm
  simp [hl, hh, hc, hf, hv]

theorem State.convert_toLease {blk n : Nat} {rm po p : Bool} {se : BitVec 8} (hm : s.metaOf blk = .token rm po p se n) :
    (s.convert blk).metaOf blk = .lease p se s.sys.mtime s.sys.mtime := by
  unfold State.convert
  rw [hm]
  exact State.setMeta_metaOf (s := s.finishWant .home blk) blk (.lease p se s.sys.mtime s.sys.mtime)

theorem State.convert_toToken {blk : Nat} {p : Bool} {se : BitVec 8} {w r : BitVec 24} (hm : s.metaOf blk = .lease p se w r) :
    (s.convert blk).metaOf blk = .token false true p se 4096 := by
  unfold State.convert
  rw [hm]
  exact State.setMeta_metaOf (s := s.finishWant .home blk) _ _

/-! ## Leased accesses at the home (R289, R290) -/

/-- No lane is left where all are done. -/
theorem filter_notDone {ls ds : List LaneReq} (hd : ∀ l ∈ ls, l ∈ ds) : (ls.filter fun l => !ds.contains l) = [] := by
  simpa using hd

section
variable {c : Nat} {r : Req} (hp : s.route r.page = .leased) (hm : s.reqMigrated r = true)
include hp hm

theorem execLeaseRead_reads (hr : s.req? c r.id = some r) (hk : r.reads = true) (hi : r.miss ≠ .ingress) (hl : s.lineHeld c r = false)
    (hh : s.leaseHeld c r = false) :
    let x := (s.leaseMisses c r).foldl (fun (x : State × List LaneReq × List (LaneReq × Nat)) b =>
      let y := x.1.leaseBlock c r b
      (y.1, x.2.1 ++ y.2.1, x.2.2 ++ y.2.2)) (s, [], [])
    exec (.leaseRead c r.id) s = .next (x.1.settleLoad c r (r.openLanes.filter fun l => !x.2.1.contains l) x.2.2) := by
  show execLeaseRead c r.id s = _
  unfold execLeaseRead
  simp [hr, hk, hp, hi, hl, hm, hh]

variable (ho : s.ordShut c r = false) (hd : ∀ l ∈ r.lanes, l ∈ ((s.leaseRelease c r).leaseLanes c r).2)
include ho hd

/-- A line of an atomic whose lanes are all done at the home ends. -/
theorem State.leaseWrite_atomic (hr : s.req? c r.id = some r) (hk : s.leaseReady c r = true) :
    s.leaseWrite c r.id = (((s.leaseRelease c r).leaseLanes c r).1.dropReq c r.id).reqAcquire c r.ord := by
  unfold State.leaseWrite
  simp only [hr, hk, hp, hm, ho, Bool.not_true, bne_self_eq_false, Bool.or_self, Bool.false_eq_true, if_false,
    filter_notDone hd, List.isEmpty_nil, if_true]

/-- A store whose lanes are all done at the home ends. -/
theorem State.leaseWrite_store (hr : s.req? c r.id = none) (hq : ((s.core c).storeQ.find? fun q => q.id == r.id) = some r)
    (hk : r.kind ≠ .flagged) (hold : s.oldest c r = true) :
    s.leaseWrite c r.id = ((s.leaseRelease c r).leaseLanes c r).1.dropStore c r.id := by
  unfold State.leaseWrite
  simp only [hr, hq, hk, hp, hm, ho, hold, Bool.not_true, bne_self_eq_false, Bool.or_self, Bool.false_eq_true, if_false,
    filter_notDone hd, List.isEmpty_nil, if_true]

end

/-! ## The meridian tick (R287, R288) -/

/-- The end of idle requests changes tokens and messages alone. -/
theorem State.endIdle_keeps {β : Type} {φ : State → β} (h : ∀ (u : State) c m n, φ { u with coh := c, msgs := m, nextId := n } = φ u) :
    φ s.endIdle = φ s :=
  (foldl_keeps (fun u (w : Want) => u.finishWant_keeps h w.who w.blk) _ _).trans (h s _ s.msgs s.nextId)

theorem tickCores_length {now : BitVec 24} (ks : List Core) (n : Nat) : (tickCores s now n ks).length = ks.length := by
  induction ks generalizing n with
  | nil => rfl
  | cons k ks ih => rw [tickCores, List.length_cons, ih, List.length_cons]

theorem tickCores_getElem? {now : BitVec 24} (ks : List Core) (n c : Nat) :
    (tickCores s now n ks)[c]? = ks[c]?.map (s.tickCore now (n + c)) := by
  induction ks generalizing n c with
  | nil => rfl
  | cons k ks ih =>
    cases c with
    | zero => rfl
    | succ c => rw [tickCores, List.getElem?_cons_succ, List.getElem?_cons_succ, ih, Nat.add_right_comm, Nat.add_assoc]

theorem tickCores_lt {now : BitVec 24} {c : Nat} (h : c < s.cores.length) :
    ((tickCores s now 0 s.cores).getD c (Core.reset 0)).lt = timeMax (s.core c).lt now := by
  rw [State.core, List.getD_eq_getElem?_getD, List.getD_eq_getElem?_getD, tickCores_getElem?, List.getElem?_eq_getElem h]
  rfl

theorem Team.cool_id (n : Nat) (b : Bool) (t : Team) : (t.cool n b).id = t.id := by
  unfold Team.cool
  split <;> rfl

theorem Team.cool_core (n : Nat) (b : Bool) (t : Team) : (t.cool n b).core = t.core := by
  unfold Team.cool
  split <;> rfl

theorem Team.older_id (n : Nat) (stale : BitVec 24 → Bool) (t : Team) : (t.older n stale).id = t.id := by
  unfold Team.older
  dsimp only
  split <;> rfl

/-- What a tick makes of a team: its marks count down, and its timers go on. -/
def State.tickTeam (s : State) (now : BitVec 24) (t : Team) : Team :=
  (t.cool ((20 - s.slice) * Clock.rate (s.die (s.core t.core).die).clock) !(s.core t.core).reads.isEmpty).older (s.tenths t.core)
    (s.staleAt now t.core)

theorem State.coolTeams_older (now : BitVec 24) :
    ((s.coolTeams (20 - s.slice)).map fun (t : Team) => t.older (s.tenths t.core) (s.staleAt now t.core)) = s.teams.map (s.tickTeam now) := by
  rw [State.coolTeams, List.map_map]
  refine List.map_congr_left fun t _ => ?_
  simp only [Function.comp_apply, Team.cool_core, State.tickTeam]

theorem State.tickTeam_id (now : BitVec 24) (t : Team) : (s.tickTeam now t).id = t.id := by
  rw [State.tickTeam, Team.older_id, Team.cool_id]

/-- A tick of meridian time. -/
theorem execMeridianTick_ticks : ∃ u, exec .meridianTick s = .next u ∧ u.sys.mtime = s.sys.mtime + 1 ∧ u.ticks = s.ticks + 1 ∧ u.issues = [] ∧
    u.cores.length = s.cores.length ∧ (∀ c < s.cores.length, (u.core c).lt = timeMax (s.core c).lt (s.sys.mtime + 1)) ∧
    ∀ id t, s.team? id = some t → u.team? id = some (s.tickTeam (s.sys.mtime + 1) t) := by
  have hcores : s.endIdle.cores = s.cores := State.endIdle_keeps (φ := State.cores) fun _ _ _ _ => rfl
  refine ⟨_, rfl, rfl, ?ticks, rfl, ?length, fun c hc => ?lt, fun id t ht => ?team⟩
  case ticks => exact congrArg (· + 1) (State.endIdle_keeps (φ := State.ticks) fun _ _ _ _ => rfl)
  case length => exact (tickCores_length _ _).trans (congrArg List.length hcores)
  case lt =>
    refine (tickCores_lt (hcores ▸ hc)).trans ?_
    rw [State.core, State.core, hcores]
  case team =>
    have hkept : s.endIdle.tickTeam (s.sys.mtime + 1) = s.tickTeam (s.sys.mtime + 1) :=
      State.endIdle_keeps (φ := fun u => u.tickTeam (s.sys.mtime + 1)) fun _ _ _ _ => rfl
    have hteams : s.endIdle.team? id = some t := (State.endIdle_keeps (φ := fun u => u.team? id) fun _ _ _ _ => rfl).trans ht
    show List.find? _ (List.map _ _) = _
    rw [State.coolTeams_older]
    refine (State.mapTeams_team? (s := s.endIdle) (State.tickTeam_id _) id).trans ?_
    rw [hteams, hkept]
    rfl

end

/-- Settles O49: blocks change their form, leased accesses are made at the home, and ticks and sweeps move the times on. -/
theorem leaseEvents : Obligations.LeaseEvents := by
  unfold Obligations.LeaseEvents
  refine ⟨fun s blk hl hh hc => ⟨fun r p se hm => ?toLease, fun p se w r hm ht => ?toToken⟩,
    fun s c r hr hp hmig => ⟨fun hk hi hlh hh => ?reads, ?atomics⟩, ?stores,
    fun s c blk q p se w r hm => ⟨?misses, fun hs hch ht => ?writeTime, fun hle hf => ?renews⟩, fun s => ⟨?ticks, fun c => ⟨?ofCore, ?ofDie⟩⟩⟩
  case toLease =>
    have hf : (s.metaOf blk).isLease ≠ true := by rw [hm]; exact Bool.false_ne_true
    have hv : s.convertible blk true = true := by rw [State.convertible, hm]; rfl
    exact ⟨_, execFormConversion_converts hl hh hc hf hv, State.convert_toLease hm⟩
  case toToken =>
    have hf : (s.metaOf blk).isLease ≠ false := by rw [hm]; exact Bool.noConfusion
    have hv : s.convertible blk false = true := by simp only [State.convertible, hm, ht, Bool.not_false, Bool.and_self]
    exact ⟨_, execFormConversion_converts hl hh hc hf hv, State.convert_toToken hm⟩
  case reads => exact execLeaseRead_reads hp hmig hr hk hi hlh hh
  case atomics =>
    intro x hk ho hd
    have h := State.leaseWrite_atomic hp hmig ho hd hr hk
    exact ⟨congrArg Host.Outcome.next h, congrArg Host.Outcome.next h⟩
  case stores =>
    intro s c r hr hq hk hp hold hmig ho x hd
    have h := State.leaseWrite_store hp hmig ho hd hr hq hk hold
    exact ⟨congrArg Host.Outcome.next h, congrArg Host.Outcome.next h⟩
  case misses => exact State.leaseMiss_metaOf hm c q
  case writeTime => exact State.writeTime_lease hm hs hch ht
  case renews => exact ⟨_, execHomeLeaseSweep_renews hm hle hf, State.setTimes_metaOf hm⟩
  case ticks => exact execMeridianTick_ticks
  case ofCore => rfl
  case ofDie => rfl

end Sys2Proof.Machine

namespace Sys2Proof.Machine

section
variable {s : State} {line : Nat}

/-! ## Snoops of host memory (R295) -/

theorem execHostSnpInv_answers (h : s.grantOf line = .i ∨ (s.homeTokens (s.hostBlk line)).2.1 = 4096) :
    exec (.hostSnpInv line) s = .next (s.answerSnoop line .i) :=
  show execHostSnpInv line s = _ from if_pos h

/-- Tokens that are elsewhere are asked for persistently at once, as the bridge. -/
theorem execHostSnpInv_collects (hg : s.grantOf line ≠ .i) (hn : (s.homeTokens (s.hostBlk line)).2.1 ≠ 4096) {w : Want}
    (hw : (((s.startSnoop line .snoopInv).ask .home 72 (s.hostBlk line) .write false 0).asBridge (s.hostBlk line)).want? .home (s.hostBlk line) =
      some w) (hs : w.stage = .no) :
    exec (.hostSnpInv line) s = .next ((((s.startSnoop line .snoopInv).ask .home 72 (s.hostBlk line) .write false 0).asBridge
      (s.hostBlk line)).sendPersist w) := by
  show execHostSnpInv line s = _
  unfold execHostSnpInv
  dsimp only
  rw [if_neg (not_or.2 ⟨hg, hn⟩)]
  simp only [hw, hs]

theorem execHostSnpData_notGranted (hg : s.grantOf line = .i) : exec (.hostSnpData line) s = .next (s.answerSnoop line .i) :=
  show execHostSnpData line s = _ from if_pos hg

section
variable (hg : s.grantOf line ≠ .i)
include hg

theorem execHostSnpData_answers (hp : (s.homeTokens (s.hostBlk line)).2.2 = true) :
    exec (.hostSnpData line) s = .next (s.answerSnoop line .s) :=
  show execHostSnpData line s = _ from (if_neg hg).trans (if_pos hp)

/-- The pole is asked for where it is elsewhere. -/
theorem execHostSnpData_asks (hp : (s.homeTokens (s.hostBlk line)).2.2 = false) :
    exec (.hostSnpData line) s = .next ((s.startSnoop line .snoopData).ask .home 72 (s.hostBlk line) .pole false 0) :=
  show execHostSnpData line s = _ from (if_neg hg).trans (if_neg (ne_true_of_eq_false hp))

end

theorem execHostSnpCur_answers (ho : s.ownerHere (s.hostBlk line) = true) :
    exec (.hostSnpCur line) s = .next ((s.hostAnswer line (halfData (s.current (s.hostBlk line)) (line % 2))).endSnoop line) := by
  show execHostSnpCur line s = _
  unfold execHostSnpCur
  simp only [ho, Bool.true_or, if_true]
  rfl

/-- The owner elsewhere is asked for the current data. -/
theorem execHostSnpCur_asks (ho : s.ownerHere (s.hostBlk line) = false) (hd : s.otherDevices ≠ []) (hn : ∀ x ∈ s.host.snoops, x.1 ≠ line) :
    exec (.hostSnpCur line) s = .next (s.askCurrent line) := by
  have he : s.otherDevices.isEmpty = false := by simpa using hd
  show execHostSnpCur line s = _
  unfold execHostSnpCur
  dsimp only
  rw [if_neg (by simp [ho, he]), if_neg]
  intro hw
  obtain ⟨x, hx, hl⟩ := List.any_eq_true.1 hw
  exact hn x hx (beq_iff_eq.1 (Bool.and_elim_left hl))

/-! ## The host's grants (R293, R294) -/

/-- A request of the bridge that the host has answered, with the line in host memory. -/
def State.hostGave (s : State) (line : Nat) (k : Nat × HostWait) (d : SectorData) : State :=
  State.putHostLine { s with host := { s.host with waits := s.host.waits.erase k } } line d

section
variable {g : Grant} {d : SectorData} {k : Nat × HostWait} (hk : (s.host.waits.find? fun w => w.1 == line && !w.2.back) = some k)
include hk

theorem State.grantedWait_line : (line, k.2) = k := by
  have h := List.find?_some hk
  rw [Bool.and_eq_true, beq_iff_eq] at h
  rw [← h.1]

theorem execHostLineGrant_shared (hs : k.2 = .rdShared) (hg : g ≠ .i) :
    exec (.hostLineGrant line g d) s = .next (((s.hostGave line k d).fillHalf line d).setGrant line g) := by
  have hl := State.grantedWait_line hk
  rw [hs] at hl
  subst hl
  show execHostLineGrant line g d s = _
  unfold execHostLineGrant
  simp only [hk, if_neg hg]
  rfl

theorem execHostLineGrant_own (hs : k.2 = .rdOwn) (hg : g = .e ∨ g = .m) :
    exec (.hostLineGrant line g d) s = .next (((s.hostGave line k d).fillHalf line d).setGrant line g) := by
  have hl := State.grantedWait_line hk
  rw [hs] at hl
  subst hl
  have hw : Grant.writable g = true := by rcases hg with rfl | rfl <;> rfl
  show execHostLineGrant line g d s = _
  unfold execHostLineGrant
  simp only [hk, hw, if_true]
  rfl

theorem execHostLineGrant_load {c r : Nat} (hs : k.2 = .rdCurr c r) :
    exec (.hostLineGrant line g d) s = .next ((s.hostGave line k d).halfLoad c r line d) := by
  have hl := State.grantedWait_line hk
  rw [hs] at hl
  subst hl
  show execHostLineGrant line g d s = _
  unfold execHostLineGrant
  simp only [hk]
  rfl

end

/-! ## Back-invalidation (R296) -/

theorem execBackInvalidate_answers {inv : Bool} {d : SectorData}
    (hw : (line, if inv then HostWait.snoopInv else .snoopData) ∈ s.host.waits) :
    exec (.backInvalidate line inv d) s = .next (((if Grant.writable (s.heldOf line) then s.bridgeTakes line d else s).endHostWait line true).setHeld
      line (if inv then .i else .s)) := by
  show execBackInvalidate line inv d s = _
  unfold execBackInvalidate
  simp only [List.contains_iff_mem.2 hw, Bool.not_true, Bool.false_eq_true, if_false]

/-- A snoop of a line yields to the host's own request; every other request stands. -/
def yielded (line : Nat) (w : Nat × HostWait) : Nat × HostWait :=
  if w.1 = line then match w.2 with
    | .snoopInv => (line, .conflict true)
    | .snoopData => (line, .conflict false)
    | _ => w
  else w

theorem yielded_other {w : Nat × HostWait} (hi : w ≠ (line, .snoopInv)) (hd : w ≠ (line, .snoopData)) : yielded line w = w := by
  obtain ⟨l, k⟩ := w
  unfold yielded
  split
  · next h =>
    subst h
    cases k with
    | snoopInv => exact absurd rfl hi
    | snoopData => exact absurd rfl hd
    | _ => rfl
  · rfl

theorem yielded_snoopInv : yielded line (line, .snoopInv) = (line, .conflict true) := if_pos rfl

theorem yielded_snoopData : yielded line (line, .snoopData) = (line, .conflict false) := if_pos rfl

theorem mem_map_yielded {ws : List (Nat × HostWait)} {w : Nat × HostWait} : w ∈ ws.map (yielded line) ↔
    (w ∈ ws ∧ w ≠ (line, .snoopInv) ∧ w ≠ (line, .snoopData)) ∨ (w = (line, .conflict true) ∧ (line, .snoopInv) ∈ ws) ∨
      (w = (line, .conflict false) ∧ (line, .snoopData) ∈ ws) := by
  rw [List.mem_map]
  constructor
  · rintro ⟨x, hx, rfl⟩
    by_cases hi : x = (line, .snoopInv)
    · exact .inr (.inl ⟨hi ▸ yielded_snoopInv, hi ▸ hx⟩)
    · by_cases hd : x = (line, .snoopData)
      · exact .inr (.inr ⟨hd ▸ yielded_snoopData, hd ▸ hx⟩)
      · rw [yielded_other hi hd]
        exact .inl ⟨hx, hi, hd⟩
  · rintro (⟨hw, hi, hd⟩ | ⟨rfl, hw⟩ | ⟨rfl, hw⟩)
    · exact ⟨w, hw, yielded_other hi hd⟩
    · exact ⟨_, hw, yielded_snoopInv⟩
    · exact ⟨_, hw, yielded_snoopData⟩

theorem execBiConflict_yields : exec (.biConflict line) s = .next { s with host := { s.host with waits := s.host.waits.map (yielded line) } } := rfl

/-! ## Uncached accesses of the host (R352) -/

section
variable {bytes : List Byte} (hu : s.unbacked (line * 64) = false)
include hu

section
variable (hd : isDram (line * 64) = false)
include hd

theorem execHostUncachedRead_reads :
    exec (.hostUncachedRead (line * 64)) s = .next (s.hostAnswer line (BitVec.ofNat 512 (bytesNat (s.uncachedRead (line * 64) 64)))) := by
  show execHostUncachedRead (line * 64) s = _
  unfold execHostUncachedRead
  simp only [hu, hd, Nat.mul_div_left line (by decide : 0 < 64), Bool.not_false, Bool.false_eq_true, if_false, if_true]

theorem execHostUncachedWrite_writes (hh : isHost (line * 64) = false) :
    exec (.hostUncachedWrite (line * 64) bytes) s = .next (s.uncachedWrite (line * 64) bytes) := by
  show execHostUncachedWrite (line * 64) bytes s = _
  unfold execHostUncachedWrite
  simp [hu, hd, hh]

end

section
variable (hd : isDram (line * 64) = true) (hw : s.windowOf (line * 64) = none) (hc : s.localCopy (s.devBlk line) = none)
  (hl : (s.metaOf (s.devBlk line)).isLease = false)
include hd hw hc hl

/-- A block of device memory in token form is read from the bridge's holding. -/
theorem execHostUncachedRead_held {h : Hold} (hh : s.hold? .bridge (s.devBlk line) = some h) (hr : h.readable = true) :
    exec (.hostUncachedRead (line * 64)) s = .next (s.answerHeld line h) := by
  show execHostUncachedRead (line * 64) s = _
  unfold execHostUncachedRead
  simp only [hu, hd, hw, hc, hl, hh, hr, Nat.mul_div_left line (by decide : 0 < 64), Bool.not_true, Bool.false_eq_true, if_false,
    Option.isSome_none, or_self, if_true]

/-- Without a holding the bridge asks for tokens. -/
theorem execHostUncachedRead_asks (hh : s.hold? .bridge (s.devBlk line) = none) :
    exec (.hostUncachedRead (line * 64)) s = .next (s.ask .bridge 72 (s.devBlk line) .read false 0) := by
  show execHostUncachedRead (line * 64) s = _
  unfold execHostUncachedRead
  simp only [hu, hd, hw, hc, hl, hh, Nat.mul_div_left line (by decide : 0 < 64), Bool.not_true, Bool.false_eq_true, if_false,
    Option.isSome_none, or_self]

/-- A write of a line's bytes goes to the bridge's holding. -/
theorem execHostUncachedWrite_held (hm : s.windowMoving (s.devBlk line) = false) {h : Hold} (hh : s.hold? .bridge (s.devBlk line) = some h)
    (hr : h.writable = true) (hb : bytes.length ≤ 64) :
    exec (.hostUncachedWrite (line * 64) bytes) s = .next ((s.putHold { h with
      data := patchBlock h.data (line * 64 % 128) bytes
      dirty := true }).finishWant .bridge (s.devBlk line)) := by
  have hhost : isHost (line * 64) = false := by
    simp only [isDram, isHost, bitsOf, beq_iff_eq, beq_eq_false_iff_ne] at hd ⊢
    omega
  have hin : ¬ 128 < line * 64 % 128 + bytes.length := by omega
  have hpart : bytes.length ≠ 128 := by omega
  unfold State.devBlk at *
  show execHostUncachedWrite (line * 64) bytes s = _
  unfold execHostUncachedWrite
  dsimp only
  rw [if_neg (by simp [hu, hhost, hw, hin])]
  simp only [hd, hm, hc, hl, hh, hr, State.clearIfWhole, hpart, Bool.not_true, Bool.false_eq_true, if_false, if_true, Option.isSome_none, false_and]

end

/-! ## Cached accesses of the host to device memory (R296) -/

section
variable {d : SectorData} {h : Hold} (hd : isDram (line * 64) = true) (hf : s.featureOn 2 = true)
include hd hf

theorem execHostCachedMemRequest_writeBack (hg : Grant.writable (s.heldOf line) = true) :
    exec (.hostCachedMemRequest line .writeBack d) s = .next (((s.bridgeTakes line d).setHeld line .i).hostServed line) := by
  show execHostCachedMemRequest line .writeBack d s = _
  unfold execHostCachedMemRequest
  simp [hd, hu, hf, hg]

variable (hh : s.hold? .bridge (s.devBlk line) = some h)
include hh

theorem execHostCachedMemRequest_shared (hr : h.readable = true) :
    exec (.hostCachedMemRequest line .shared d) s =
      .next ((((s.spill (s.devBlk line)).answerOwn line h).setHeld line .s).hostServed line) := by
  show execHostCachedMemRequest line .shared d s = _
  unfold execHostCachedMemRequest
  simp [hd, hu, hf, hh, hr]

theorem execHostCachedMemRequest_exclusive (hr : h.writable = true) :
    exec (.hostCachedMemRequest line .exclusive d) s =
      .next ((((s.spill (s.devBlk line)).answerOwn line h).setHeld line .e).hostServed line) := by
  show execHostCachedMemRequest line .exclusive d s = _
  unfold execHostCachedMemRequest
  simp [hd, hu, hf, hh, hr]

end

end

end

/-- Settles O50: each event of the bridge is made as the state of its line says. -/
theorem hostEvents : Obligations.HostEvents := by
  unfold Obligations.HostEvents
  intro s line blk dblk
  refine ⟨execHostSnpInv_answers, fun hg hn => ?collects, execHostSnpData_notGranted, execHostSnpData_answers, execHostSnpData_asks,
    execHostSnpCur_answers, execHostSnpCur_asks, ?grants, ?backs, ⟨_, execBiConflict_yields, rfl, fun w => mem_map_yielded⟩,
    fun hu => ⟨execHostUncachedRead_reads hu, fun bytes => execHostUncachedWrite_writes hu, fun hd => ⟨?uncached, fun hf => ?cached⟩⟩⟩
  case collects =>
    intro b w hw hs
    exact execHostSnpInv_collects hg hn hw hs
  case grants =>
    intro g d k hk b
    exact ⟨execHostLineGrant_shared hk, execHostLineGrant_own hk, fun c r => execHostLineGrant_load hk⟩
  case backs =>
    intro d b
    exact ⟨execBackInvalidate_answers (inv := true), execBackInvalidate_answers (inv := false)⟩
  case uncached =>
    intro hw hm hc hl
    exact ⟨execHostUncachedRead_asks hu hd hw hc hl, fun h hh => ⟨execHostUncachedRead_held hu hd hw hc hl hh,
      fun bytes hr hb => execHostUncachedWrite_held hu hd hw hc hl hm hh hr hb⟩⟩
  case cached =>
    exact ⟨fun d => execHostCachedMemRequest_writeBack hu hd hf, fun h d hh => ⟨execHostCachedMemRequest_shared hu hd hf hh,
      execHostCachedMemRequest_exclusive hu hd hf hh⟩⟩

end Sys2Proof.Machine

namespace Sys2Proof.Machine

section
variable {s : State}

/-! ## Links and ports (R300, R305) -/

theorem execLinkDead_cuts {d e : Nat} (hn : d ≠ e) (hl : (s.die d).live.getLsbD e = true) : exec (.linkDead d e) s = .next (s.loseLink d e) := by
  have hlive : s.linkLive d e = true := by rw [State.linkLive, hl, Bool.and_true, bne_iff_ne]; exact hn
  show execLinkDead d e s = _
  unfold execLinkDead
  rw [hlive]
  rfl

theorem execPortFailure_loses {p : Nat} (hp : s.fab.portEn.getLsbD p = true) : exec (.portFailure p) s = .next (s.losePort p) := by
  show execPortFailure p s = _
  unfold execPortFailure
  rw [hp]
  rfl

/-! ## Slots (R302, R303) -/

theorem mem_of_mem_dropFirst {p : Msg → Bool} {m : Msg} (n : Nat) (ms : List Msg) (h : m ∈ dropFirst p n ms) : m ∈ ms := by
  induction ms generalizing n with
  | nil => exact absurd h List.not_mem_nil
  | cons x ms ih =>
    cases n with
    | zero => exact h
    | succ n =>
      rw [dropFirst] at h
      split at h
      · exact .tail _ (ih _ h)
      · rcases List.mem_cons.1 h with rfl | h
        · exact .head _
        · exact .tail _ (ih _ h)

/-- What does not go stays. -/
theorem mem_dropFirst_of_not {p : Msg → Bool} {m : Msg} (hm : p m = false) (n : Nat) (ms : List Msg) (h : m ∈ ms) : m ∈ dropFirst p n ms := by
  induction ms generalizing n with
  | nil => exact absurd h List.not_mem_nil
  | cons x ms ih =>
    cases n with
    | zero => exact h
    | succ n =>
      rw [dropFirst]
      rcases List.mem_cons.1 h with rfl | h
      · rw [if_neg (ne_true_of_eq_false hm)]
        exact .head _
      · split
        · exact ih _ h
        · exact .tail _ (ih _ h)

/-- What the ports of a slot keep: all but the fabric and the messages, the place in the orbit, the schedule, and what is for this device. -/
structure SlotKeeps (s u : State) : Prop where
  frame : u = { s with msgs := u.msgs, fab := u.fab }
  dev : u.dev = s.dev
  slot : u.fab.slot = s.fab.slot
  slotAge : u.fab.slotAge = s.fab.slotAge
  sched : u.fab.sched = s.fab.sched
  portEn : u.fab.portEn = s.fab.portEn
  fewer : ∀ m ∈ u.msgs, m ∈ s.msgs
  own : ∀ m ∈ s.msgs, m.dst.dev = s.dev → m ∈ u.msgs

theorem SlotKeeps.refl (s : State) : SlotKeeps s s := ⟨rfl, rfl, rfl, rfl, rfl, rfl, fun _ h => h, fun _ h _ => h⟩

theorem SlotKeeps.trans {u v : State} (h : SlotKeeps s u) (h' : SlotKeeps u v) : SlotKeeps s v where
  frame := h'.frame.trans (congrArg (fun x : State => { x with msgs := v.msgs, fab := v.fab }) h.frame)
  dev := h'.dev.trans h.dev
  slot := h'.slot.trans h.slot
  slotAge := h'.slotAge.trans h.slotAge
  sched := h'.sched.trans h.sched
  portEn := h'.portEn.trans h.portEn
  fewer m hm := h.fewer m (h'.fewer m hm)
  own m hm hd := h'.own m (h.own m hm hd) (hd.trans h.dev.symm)

theorem State.sendTo_slotKeeps (peer : Nat) (full : Bool) (n : Nat) : SlotKeeps s (s.sendTo peer full n) where
  frame := rfl
  dev := rfl
  slot := rfl
  slotAge := rfl
  sched := rfl
  portEn := rfl
  fewer m hm := mem_of_mem_dropFirst _ _ hm
  own m hm hd := mem_dropFirst_of_not (by simp [hd]) _ _ hm

theorem State.portSlot_slotKeeps (xs : List Exchange) (p : Nat) : SlotKeeps s (s.portSlot xs p) := by
  unfold State.portSlot
  dsimp only
  split
  · exact .refl s
  · split
    · exact ⟨rfl, rfl, rfl, rfl, rfl, rfl, fun _ h => h, fun _ h _ => h⟩
    · refine .trans ?_ (State.sendTo_slotKeeps _ _ _)
      exact ⟨rfl, rfl, rfl, rfl, rfl, rfl, fun _ h => h, fun _ h _ => h⟩

theorem State.portSlots_slotKeeps (xs : List Exchange) (ps : List Nat) : SlotKeeps s (ps.foldl (fun s p => s.portSlot xs p) s) := by
  induction ps generalizing s with
  | nil => exact .refl s
  | cons p ps ih => exact (State.portSlot_slotKeeps xs p).trans ih

theorem execRotorSlotStart_starts {xs : List Exchange} (ha : 150 ≤ s.fab.slotAge) (hs : s.fab.slot < 32) :
    ∃ u, SlotKeeps s u ∧ exec (.rotorSlotStart xs) s =
      .next { u with fab := { u.fab with slot := u.fab.slot + 1, slotAge := u.fab.slotAge - 150 } } :=
  ⟨_, State.portSlots_slotKeeps xs (List.range 32), if_neg (not_or.2 ⟨ha.not_gt, hs.not_ge⟩)⟩

/-! ## Orbits, relays and old messages (R302 to R304) -/

theorem execOrbitStart_starts (hs : 32 ≤ s.fab.slot) (ha : 150 ≤ s.fab.slotAge) : exec .orbitStart s = .next { s with fab := { s.fab with
      slot := 0
      met := 0
      sched := s.fab.schedNext.foldl (fun l e => if e.2 = 0 then assocDel l e.1 else assocSet l e.1 e.2) s.fab.sched
      schedNext := [] } } :=
  show execOrbitStart s = _ from if_neg (not_or.2 ⟨hs.not_gt, ha.not_gt⟩)

theorem execRelayForward_takes {m : Msg} (hd : m.dst.dev ≠ s.dev) (ha : m.age < usTicks 1000)
    (hr : s.fab.relay.length < s.relayRoom m.rerouted) : exec (.relayForward m) s = .next { s with
      fab := { s.fab with relay := s.fab.relay ++ [{ m with id := s.nextId }] }
      nextId := s.nextId + 1 } :=
  show execRelayForward m s = _ from if_neg (not_or.2 ⟨hd, not_or.2 ⟨ha.not_ge, hr.not_ge⟩⟩)

end

/-- Settles O51: links, ports, slots and relays. -/
theorem fabricEvents : Obligations.FabricEvents := by
  unfold Obligations.FabricEvents
  intro s
  refine ⟨fun d e => rfl, fun d e => execLinkDead_cuts, fun p hp => ?port, fun xs ha hs => ?slot, execOrbitStart_starts, fun peer es => rfl,
    fun peer => rfl, fun m => execRelayForward_takes, fun id => ⟨_, rfl, rfl, fun m => ?stays, fun m => ?relayed⟩⟩
  case port =>
    intro lost lostRelay mark off
    exact execPortFailure_loses hp
  case slot =>
    obtain ⟨u, hk, hu⟩ := execRotorSlotStart_starts (xs := xs) ha hs
    exact ⟨_, hu, congrArg (fun x : State => { x with
      msgs := u.msgs
      fab := { u.fab with slot := u.fab.slot + 1, slotAge := u.fab.slotAge - 150 } }) hk.frame, congrArg (· + 1) hk.slot,
      congrArg (· - 150) hk.slotAge, hk.sched, hk.portEn, hk.fewer, hk.own⟩
  case stays =>
    show m ∈ s.msgs.filter _ ↔ _
    simp [List.mem_filter, imp_iff_not_or]
  case relayed =>
    show m ∈ s.fab.relay.filter _ ↔ _
    simp [List.mem_filter, imp_iff_not_or]

end Sys2Proof.Machine

namespace Sys2Proof.Machine

section
variable {s : State} {t : Team} {g : Guard}

/-- An instruction that needs a feature which is on, and whose own checks find no cause, has its effect. -/
theorem CanIssue.runsFeature {own : State → Team → List Nat → List Check} {eff : State → Team → List Nat → State} {uses : Fibre → List Nat}
    {k : Nat} (h : CanIssue s t g uses) (hf : s.featureOn k = true) (ho : NoCause s t g (own s t (s.active t g))) :
    issue { guard := g, uses := uses, early := [s.checkFeature k] } own eff s = .next (eff s t (s.active t g)) :=
  issue_runs (fm := { guard := g, uses := uses, early := [s.checkFeature k] }) h rfl (.cons (fun _ _ => if_pos hf) .nil) ho

/-! ## Row instructions (R321, R322) -/

/-- The first operand of every row function is the destination, with the rows that the control word counts. -/
theorem rowOperands_dst (fn : Word → RowFn) (d : Nat) (f : Fibre) :
    ∃ src, rowOperands fn d f = ⟨f.pair d, ctlRows (f.reg (d + 6)), false, true⟩ :: src := by
  unfold rowOperands
  dsimp only
  split <;> exact ⟨_, rfl⟩

/-- One row operation for each row of the destination. -/
theorem State.rowSteps_length (fn : Word → RowFn) (d : Nat) (f : Fibre) :
    (s.rowSteps t (rowOperands fn d f)).length = ctlRows (f.reg (d + 6)) := by
  obtain ⟨src, hs⟩ := rowOperands_dst fn d f
  rw [hs, State.rowSteps, List.length_map, List.length_range]

/-- The command that a row instruction hands to its channels. -/
def State.rowCmd (s : State) (t : Team) (act : List Nat) (fn : Word → RowFn) (d : Nat) : RowCmd :=
  let f := t.fibre (actingLane act)
  { id := s.nextId, team := t.id, issuer := t.core, slot := some t.core, fn := fn (f.reg (d + 6))
    rows := s.rowSteps t (rowOperands fn d f), obj := rowObj (f.reg (d + 7)), fib := actingLane act, epc := s.curPc t, inst := s.nextId }

theorem rowOp_queues {fn : Word → RowFn} {d : Nat} (h : CanIssue s t g fun _ => (List.range 8).map fun k => d + k) (ha : s.active t g ≠ [])
    (hf : s.featureOn 4 = true) (hs : s.slotsHeld t.core < 64)
    (hc : NoCause s t g (checkActing t (s.active t g) (fun x => t.objectError (rowObj (x.reg (d + 7)))) ::
      s.rowChecks t (s.active t g) (rowOperands fn d))) :
    rowOp g fn d s = .next (State.advance { s with
      rows := s.rows ++ [s.rowCmd t (s.active t g) fn d]
      nextId := s.nextId + 1 } 4) := by
  unfold rowOp
  refine (h.runsFeature hf hc).trans ?_
  rw [if_neg (ne_true_of_eq_false (List.isEmpty_eq_false_iff.2 ha)), if_neg (show ¬ Config.rowSlots ≤ _ from hs.not_ge)]
  rfl

/-! ## Row functions (R323) -/

section
variable {a b : BlockData} {k : Nat}

theorem rowBlock_zeros_bit : (rowBlock .zeros a b).getLsbD k = false := BitVec.getLsbD_zero

theorem rowBlock_and_bit : (rowBlock .and a b).getLsbD k = (a.getLsbD k && b.getLsbD k) := BitVec.getLsbD_and

theorem rowBlock_or_bit : (rowBlock .or a b).getLsbD k = (a.getLsbD k || b.getLsbD k) := BitVec.getLsbD_or

theorem rowBlock_xor_bit : (rowBlock .xor a b).getLsbD k = (a.getLsbD k != b.getLsbD k) := BitVec.getLsbD_xor

variable (hk : k < 1024)
include hk

theorem rowBlock_ones_bit : (rowBlock .ones a b).getLsbD k = true := by
  rw [rowBlock, allOnes, BitVec.getLsbD_allOnes, decide_eq_true hk]

theorem rowBlock_not_bit : (rowBlock .not a b).getLsbD k = !a.getLsbD k := by
  rw [rowBlock, BitVec.getLsbD_not, decide_eq_true hk, Bool.true_and]

end

end

/-- Settles O34: every row instruction is `rowOp` with its function, and its function acts on each bit. -/
theorem rowInstructions : Obligations.RowInstructions := by
  unfold Obligations.RowInstructions
  refine ⟨?queues, fun a b k hk => ⟨rfl, rfl, rowBlock_zeros_bit, rowBlock_ones_bit hk, rowBlock_and_bit, rowBlock_or_bit, rowBlock_xor_bit,
    rowBlock_not_bit hk⟩⟩
  intro s t g d h act f n does ha hf hs
  have queued {i : Instr} {fn : Word → RowFn} (hi : exec i s = rowOp g fn d.toNat s) : does i fn := fun hc =>
    ⟨s.rowCmd t act fn d.toNat, hi.trans (rowOp_queues h ha hf hs hc), rfl, rfl, rfl,
      (State.rowSteps_length fn d.toNat f).trans (by simp [ctlRows, bitsOf, n]), by simp [State.rowCmd, rowObj, bitsOf, f], rfl⟩
  exact ⟨queued rfl, queued rfl, queued rfl, queued rfl, queued rfl, queued rfl⟩

end Sys2Proof.Machine

namespace Sys2Proof.Machine

section
variable {s : State} {t : Team} {g : Guard} {d : Reg}

/-- The place of the unit that the acting lane's pointer names. -/
def State.unitPlace (s : State) (t : Team) (g : Guard) (d : Reg) : Nat × Nat := s.unitNamed t d.toNat (t.fibre (actingLane (s.active t g)))

/-- The unit that the acting lane's pointer names, when a team holds it. -/
def State.namedUnit (s : State) (t : Team) (g : Guard) (d : Reg) : Option NearBank :=
  s.unit? (s.unitPlace t g d).1 (s.unitPlace t g d).2

/-! ## When a unit may be loaded (R336) -/

section
variable {p : Nat × Nat} {u : NearBank}

theorem State.nbBusy_owner (hu : s.unit? p.1 p.2 = some u) (ho : u.owner ≠ t.id) : s.nbBusy t p = some 0x80000001 := by
  simp only [State.nbBusy, hu, ne_eq, ho, not_false_eq_true, if_true]

theorem State.nbBusy_running (hu : s.unit? p.1 p.2 = some u) (ho : u.owner = t.id) (hc : u.cond ≠ .held) : s.nbBusy t p = some 0x80000002 := by
  simp only [State.nbBusy, hu, ho, hc, ne_eq, not_true_eq_false, not_false_eq_true, if_false, if_true]

theorem State.nbBusy_free (h : ∀ u, s.unit? p.1 p.2 = some u → u.owner = t.id ∧ u.cond = .held) : s.nbBusy t p = none := by
  unfold State.nbBusy
  cases hu : s.unit? p.1 p.2 with
  | none => rfl
  | some u =>
    obtain ⟨ho, hc⟩ := h u hu
    simp only [ho, hc, ne_eq, not_true_eq_false, if_false]

end

/-- The checks of `nbrun` find that the team holds the unit (R336). -/
theorem State.nbrunChecks_held (ha : s.active t g ≠ [])
    (hc : NoCause s t g (s.nbrunChecks t (s.active t g) d.toNat)) : ∃ u, s.namedUnit t g d = some u := by
  obtain ⟨i, hi⟩ := List.exists_mem_of_ne_nil _ ha
  have hheld := hc i hi _ (List.mem_append_left _ (.head _))
  unfold State.namedUnit State.unitPlace
  cases hu : s.unit? _ _ with
  | some u => exact ⟨u, rfl⟩
  | none => simp [checkAll, hu] at hheld

/-! ## The four instructions -/

section
variable (ha : s.active t g ≠ []) (hf : s.featureOn 5 = true)
  (hn : NoCause s t g (s.rowChecks t (s.active t g) fun x => [unitOperand d.toNat x]))
include ha hf hn

/-- The state after a word is written to the result register of `nbload`. -/
def State.nbResult (s : State) (act : List Nat) (d : Reg) (w : Word) : State :=
  s.writeFibres [actingLane act] 4 fun _ x => x.setReg (d.toNat + 3) w

/-- What `nbload` makes of the unit at a place, which a team may hold. -/
def State.nbLoaded (s : State) (t : Team) (act : List Nat) (d : Reg) (p : Nat × Nat) : State :=
  let f := t.fibre (actingLane act)
  let k := imageCount f d.toNat
  let a := imageAddr f d.toNat
  if k = 0 then s.freeUnit p.1 p.2
  else s.putUnit { (s.unit? p.1 p.2).getD (newUnit p.1 p.2 t.id) with
    scales := (List.range 8).map fun j => (s.core t.core).lmem.word (t.lbase.getD 0 + a + 8 * k + 4 * j)
    table := s.imageTable t a k
    upc := 0 }

section
variable (h : CanIssue s t g fun _ => [d.toNat, d.toNat + 1, d.toNat + 2, d.toNat + 3])
  (hc : NoCause s t g ((s.nbloadChecks t d.toNat).map fun c => checkActing t (s.active t g) c))
  (hr : s.readBlocked t (imageAddr (t.fibre (actingLane (s.active t g))) d.toNat)
    (8 * imageCount (t.fibre (actingLane (s.active t g))) d.toNat + 32) = false)
include h hc hr

/-- A unit that is not free to load gives its code. -/
theorem execNbload_busy {w : Word} (hb : s.nbBusy t (s.unitPlace t g d) = some w) :
    exec (.nbload g d) s = .next (s.nbResult (s.active t g) d w) := by
  unfold State.unitPlace at hb
  show execNbload g d s = _
  unfold execNbload
  refine (h.runsFeature hf (hn.append hc)).trans (congrArg _ ?_)
  simp only [List.isEmpty_eq_false_iff.2 ha, hr, hb, Bool.false_eq_true, if_false]
  rfl

/-- A free unit is loaded, or let go where the count is 0. -/
theorem execNbload_loads (hb : s.nbBusy t (s.unitPlace t g d) = none) :
    exec (.nbload g d) s = .next ((s.nbLoaded t (s.active t g) d (s.unitPlace t g d)).nbResult (s.active t g) d 0) := by
  unfold State.unitPlace at hb
  show execNbload g d s = _
  unfold execNbload
  refine (h.runsFeature hf (hn.append hc)).trans (congrArg _ ?_)
  simp only [List.isEmpty_eq_false_iff.2 ha, hr, hb, Bool.false_eq_true, if_false]
  unfold State.nbLoaded
  dsimp only
  split <;> rfl

end

theorem execNbstat_puts (h : CanIssue s t g fun _ => [d.toNat, d.toNat + 1, d.toNat + 2]) :
    exec (.nbstat g d) s = .next (s.writeFibres [actingLane (s.active t g)] 4 fun _ x => x.setReg (d.toNat + 2) (nbWord t (s.namedUnit t g d))) := by
  show execNbstat g d s = _
  unfold execNbstat
  refine (h.runsFeature hf hn).trans ?_
  simp only [List.isEmpty_eq_false_iff.2 ha, Bool.false_eq_true, if_false]
  rfl

section
variable (h : CanIssue s t g fun _ => [d.toNat, d.toNat + 1])
include h

theorem execNbcancel_none (hu : s.namedUnit t g d = none) : exec (.nbcancel g d) s = .next (s.advance 4) := by
  unfold State.namedUnit State.unitPlace at hu
  show execNbcancel g d s = _
  unfold execNbcancel
  refine (h.runsFeature hf hn).trans ?_
  simp only [List.isEmpty_eq_false_iff.2 ha, hu, Bool.false_eq_true, if_false]

/-- A unit that a team holds is cancelled by its owner alone. -/
theorem execNbcancel_some {u : NearBank} (hu : s.namedUnit t g d = some u) :
    exec (.nbcancel g d) s = .next (if u.owner ≠ t.id then s.advance 4
      else ((if u.cond = .held then s else s.endRun u 2).freeUnit (s.unitPlace t g d).1 (s.unitPlace t g d).2).idleEngines.advance 4) := by
  unfold State.namedUnit State.unitPlace at hu
  show execNbcancel g d s = _
  unfold execNbcancel
  refine (h.runsFeature hf hn).trans ?_
  simp only [List.isEmpty_eq_false_iff.2 ha, hu, Bool.false_eq_true, if_false]
  rfl

end

/-- A unit as `nbrun` starts it. -/
def State.nbStarted (s : State) (t : Team) (act : List Nat) (d : Reg) (u : NearBank) : NearBank :=
  let f := t.fibre (actingLane act)
  let r := d.toNat
  { u with
    cond := .running
    ctr := [(f.reg (r + 9)).extractLsb' 0 16, (f.reg (r + 9)).extractLsb' 16 16, (f.reg (r + 10)).extractLsb' 0 16,
      (f.reg (r + 10)).extractLsb' 16 16]
    upc := 0
    steps := 0
    streams := (List.range 4).map fun i =>
      if streamOn f r i then some ((List.range (streamOperand u f r i).n).map fun k => s.rowAt t (streamOperand u f r i) k) else none
    obj := rowObj (f.reg (r + 11))
    fib := actingLane act
    epc := s.curPc t
    inst := s.nextId
    wts := none }

theorem execNbrun_starts {u : NearBank} (h : CanIssue s t g fun _ => (List.range 12).map fun k => d.toNat + k)
    (hc : NoCause s t g (s.nbrunChecks t (s.active t g) d.toNat)) (hu : s.namedUnit t g d = some u) :
    exec (.nbrun g d) s = .next (State.advance { s.putUnit (s.nbStarted t (s.active t g) d u) with nextId := s.nextId + 1 } 4) := by
  have he : (s.active t g).isEmpty = false := List.isEmpty_eq_false_iff.2 ha
  unfold State.namedUnit State.unitPlace at hu
  show execNbrun g d s = _
  unfold execNbrun
  refine (h.runsFeature hf (hn.append ?_)).trans ?_
  · rw [if_neg (ne_true_of_eq_false he)]
    exact hc
  · simp only [he, hu, Bool.false_eq_true, if_false]
    rfl

end

end

/-- Settles O35: the four instructions pass their checks and act on the unit that the pointer names. -/
theorem nearBankInstructions : Obligations.NearBankInstructions := by
  unfold Obligations.NearBankInstructions
  intro s t g d r act i f at_ unit? named ha hf hn
  refine ⟨?loads, fun h hc => ?runs, execNbstat_puts ha hf hn, fun h => ⟨execNbcancel_none ha hf hn h, fun u hu => ?cancels⟩⟩
  case loads =>
    intro h hc a k hr put
    have busy {w : Word} (hb : s.nbBusy t (s.unitPlace t g d) = some w) : put s w := execNbload_busy ha hf hn h hc hr hb
    refine ⟨fun u hu ho => busy (State.nbBusy_owner hu ho), fun u hu ho hu' => busy (State.nbBusy_running hu ho hu'), fun hfree => ?_⟩
    have loaded := execNbload_loads ha hf hn h hc hr (State.nbBusy_free hfree)
    exact ⟨fun hk => loaded.trans (congrArg (fun u : State => Host.Outcome.next (u.nbResult act d 0)) (if_pos hk)),
      fun hk => loaded.trans (congrArg (fun u : State => Host.Outcome.next (u.nbResult act d 0)) (if_neg hk))⟩
  case runs =>
    obtain ⟨u, hu⟩ := State.nbrunChecks_held ha hc
    exact ⟨u, s.nbStarted t act d u, hu, execNbrun_starts ha hf hn h hc hu, rfl, rfl, rfl, rfl, rfl, rfl, rfl⟩
  case cancels =>
    have cancelled := execNbcancel_some ha hf hn h hu
    exact ⟨fun ho => cancelled.trans (congrArg _ (if_pos ho)),
      fun ho hc => cancelled.trans (congrArg _ ((if_neg (not_not.2 ho)).trans (by rw [if_pos hc]; rfl))),
      fun ho hc => cancelled.trans (congrArg _ ((if_neg (not_not.2 ho)).trans (by rw [if_neg hc]; rfl)))⟩

end Sys2Proof.Machine
